-- ==== Sys2Proof/Word.lean ====
section
/-!
DEFINITION. Word types and their plainest arithmetic (00 R5: bit 0 is the least significant bit; the
Ghelith is little-endian throughout).
-/
namespace Sys2Proof

/-- One byte. -/
abbrev Byte := BitVec 8
/-- A 32-bit lane value. -/
abbrev Word := BitVec 32
/-- A 64-bit value: an s-register, an address, a 64-bit lane value. -/
abbrev DWord := BitVec 64
/-- A set of lanes of a sheet: bit `l` is lane `l`. -/
abbrev Mask := BitVec 32
/-- A 9-bit operand value (06 R132). -/
abbrev Opd := BitVec 9

/-- The slice x<h:l> of a natural number (00 R5). -/
def slice (x h l : Nat) : Nat := (x / 2 ^ l) % 2 ^ (h + 1 - l)

/-- Bit `i` of a natural number. -/
def bitN (x i : Nat) : Bool := (x / 2 ^ i) % 2 == 1

/-- 1 for true, 0 for false. -/
def b2n (b : Bool) : Nat := if b then 1 else 0

/-- The signed reading of the low `w` bits of `x`. -/
def sgnN (w x : Nat) : Int :=
  let y := x % 2 ^ w
  if 2 * y ≥ 2 ^ w then (y : Int) - (2 ^ w : Nat) else y

/-- The low `w` bits of an integer, as a natural number (two's-complement wrap). -/
def wrapZ (w : Nat) (x : Int) : Nat := (x % ((2 ^ w : Nat) : Int)).toNat

/-- The least multiple of `a` that is at least `x`. -/
def roundUp (x a : Nat) : Nat := (x + a - 1) / a * a

/-- The 32 lane numbers in increasing order. -/
def lanes : List Nat := List.range 32

/-- Whether lane `l` is in the mask. -/
def Mask.has (m : Mask) (l : Nat) : Bool := m.getLsbD l

/-- The lanes of a mask in increasing order. -/
def laneList (m : Mask) : List Nat := lanes.filter (fun l => m.getLsbD l)

/-- The mask of the lanes for which `f` holds. -/
def maskOf (f : Nat → Bool) : Mask :=
  BitVec.ofNat 32 (lanes.foldl (fun a l => a + (if f l then 2 ^ l else 0)) 0)

/-- The lowest lane of a mask, if it has one. -/
def lowLane (m : Mask) : Option Nat := (laneList m).head?

/-- The lanes of quarter `q` (06 R142). -/
def quarterMask (q : Nat) : Mask := BitVec.ofNat 32 (0xFF * 2 ^ (8 * q))

/-- Replaces bits h..l of `x` by the low bits of `v`. -/
def putSlice (x h l v : Nat) : Nat :=
  let w := h + 1 - l
  (x / 2 ^ (h + 1)) * 2 ^ (h + 1) + (v % 2 ^ w) * 2 ^ l + x % 2 ^ l

end Sys2Proof
end

