-- ==== Sys2Proof/Syntax.lean ====
section
/-!
DEFINITION. The syntax: one constructor of `Instr` for each row of spec/opcode_table.json. The 145
instructions carry the fields of their format (10 R234, R242 to R248); the 124 events carry what
names the event and, where it comes from outside the package, its data.
-/
namespace Sys2Proof

/-- The common header of every instruction, without the major opcode (10 R234). -/
structure Hdr where
  e : Bool
  stall : BitVec 4
  ga : BitVec 4
  gb : BitVec 4
  gc : Bool
  cls : BitVec 3
  deriving DecidableEq, Repr

/-- Format R (10 R242). -/
structure FmtR where
  h : Hdr
  dst : Opd
  opa : Opd
  opb : Opd
  opc : Opd
  dst2 : Opd
  sub : BitVec 8
  rnd : BitVec 2
  sat : Bool
  sr : Bool
  asc : Bool
  mod : BitVec 4
  tw : BitVec 2
  sty : BitVec 5
  deriving DecidableEq, Repr

/-- Format I (10 R243). -/
structure FmtI where
  h : Hdr
  dst : Opd
  opa : Opd
  imm : BitVec 32
  sub : BitVec 8
  sat : Bool
  rnd : BitVec 2
  tw : BitVec 2
  mod : BitVec 4
  deriving DecidableEq, Repr

/-- Format M (10 R244). -/
structure FmtM where
  h : Hdr
  data : Opd
  base : Opd
  index : Opd
  off : BitVec 24
  ord : BitVec 2
  scope : BitVec 3
  evp : BitVec 3
  asp : BitVec 3
  wid : BitVec 3
  subop : BitVec 7
  deriving DecidableEq, Repr

/-- Format B (10 R245). -/
structure FmtB where
  h : Hdr
  loff : BitVec 24
  slot : BitVec 3
  fp : Bool
  opa : Opd
  opb : Opd
  sub : BitVec 8
  deriving DecidableEq, Repr

/-- Format A (10 R246). -/
structure FmtA where
  h : Hdr
  dst : Opd
  opa : Opd
  opb : Opd
  opc : Opd
  opd : Opd
  sub : BitVec 8
  scope : BitVec 3
  evp : BitVec 3
  mod : BitVec 13
  deriving DecidableEq, Repr

/-- Format X (10 R247). -/
structure FmtX where
  h : Hdr
  dst : Opd
  opa : Opd
  opb : Opd
  opc : Opd
  opd : Opd
  sub : BitVec 8
  rnd : BitVec 2
  sat : Bool
  sr : Bool
  asc : Bool
  mod : BitVec 4
  deriving DecidableEq, Repr

/-- Format G (10 R248). -/
structure FmtG where
  h : Hdr
  dst : Opd
  opa : Opd
  opb : Opd
  opc : Opd
  imm : BitVec 16
  sub : BitVec 8
  scope : BitVec 3
  mod : BitVec 9
  deriving DecidableEq, Repr

/-- Which part of a 64-bit control register a write reaches (02 R471). -/
inductive Part where
  | full | low | high
  deriving DecidableEq, Repr

/-- A write to a register of the device control range: its offset in the range, the part, the value
(in the low 32 bits for a half), and the PCIe function it comes from, or none for a lane or function 0. -/
structure RegWr where
  off : Nat
  part : Part
  val : DWord
  deriving DecidableEq, Repr

/-- A PCIe request that reaches the device (09 R226, 19 R444): function, BAR, offset, length, data of
a write or AtomicOp operands, the Relaxed Ordering attribute, and the AtomicOp (0 none, 1 FetchAdd,
2 Swap, 3 CAS). -/
structure HostReq where
  fn : Nat
  bar : Nat
  off : Nat
  len : Nat
  data : List Byte
  relaxed : Bool
  enabled : Bool
  atomic : Nat
  tag : Nat
  deriving DecidableEq, Repr

/-- The exact partial value that a shadow's arrival carries (15 R392): for an FP32 sum a fixed-point
number in units of 2^-149 with the flags for NaN and the infinities, else a 32-bit value; `dep` says that a member was killed at the
shadow (15 R386; log entry 95). -/
structure Partial where
  kind : Nat
  op : Nat
  count : Nat
  value : Word
  sum : Int
  nan : Bool
  pinf : Bool
  ninf : Bool
  dep : Bool := false
  deriving DecidableEq, Repr

/-- A request that arrives on an Emsen port from another device (19 R458). -/
inductive FabMsg where
  /-- a tile granule of this device's HBM asked for by a peer, for a read or a write (03 R79) -/
  | tile (port dev tile : Nat) (write : Bool) (deadline : Nat)
  /-- a tile granule of this device's HBM that a peer gives back, with its bytes where it held it in E or M (log entry 88) -/
  | tileBack (port dev tile deadline : Nat) (data : List Byte)
  /-- a copy's or lane's plain read of bytes (19 R458) -/
  | read (port dev pa len deadline : Nat)
  /-- a copy's or lane's plain write of bytes -/
  | write (port dev pa deadline : Nat) (data : List Byte)
  /-- a join of a commutative line homed here (25 R468) -/
  | join (port dev pa : Nat) (cfmt cop : BitVec 2) (deadline : Nat)
  /-- a fold delivery from the requesting tree (25 R468); absent elements are none -/
  | fold (port dev pa : Nat) (elems : List (Option Word)) (deadline : Nat)
  /-- a plain load of a commutative line (25 R468) -/
  | commLoad (port dev pa deadline : Nat)
  /-- the home of a peer's commutative line collects what this device's tree holds of it (25 R468) -/
  | collect (port dev pa deadline : Nat)
  /-- a `.fab` lookup of GNEW, registering the sender as shadow (15 R392) -/
  | gnew (port dev job : Nat) (name : Word) (dl : Nat) (strict register : Bool) (deadline : Nat)
  /-- GSTAT through an Emsen request (25 R469) -/
  | gstat (port dev : Nat) (handle : Word) (deadline : Nat)
  /-- GABORT or a departure under `.strict`, and GFREE, from a shadow's device (14 R364, R365) -/
  | gabort (port dev : Nat) (handle : Word) (deadline : Nat)
  | gfree (port dev : Nat) (handle : Word) (deadline : Nat)
  deriving DecidableEq, Repr

/-- The outcome of each method of the start steps (20 R460): a set bit is a failure. `stall` names a
step at which a warm reset arrives while it is in progress, with the unit (20 R462). -/
structure BootPlan where
  prim : BitVec 8
  alt : BitVec 8
  stkPrim : BitVec 12
  stkAlt : BitVec 12
  cluPrim : BitVec 128
  cluAlt : BitVec 128
  portPrim : BitVec 18
  portAlt : BitVec 18
  stall : Option (Nat × Nat)
  deriving DecidableEq, Repr

/-- Why a launch is killed (17 R430, R432, 19 R450). -/
inductive KillWhy where
  | poisonedRegister | passPoison | flaggedRegion | klaunch
  | trapTable | nested | leafList | reset
  deriving DecidableEq, Repr

/-- One constructor for each row of spec/opcode_table.json; the rows that only something outside the package causes stand
last. -/
inductive Instr where
  /-- BRA (R289). -/
  | bra (f : FmtB)
  /-- BRX (R290). -/
  | brx (f : FmtB)
  /-- CALL (R291). -/
  | call (f : FmtB)
  /-- CALL.ind (R291). -/
  | callInd (f : FmtB)
  /-- RET (R290). -/
  | ret (f : FmtB)
  /-- SPLIT (R292). -/
  | split (f : FmtR)
  /-- JOIN (R293). -/
  | join (f : FmtB)
  /-- EXIT (R294). -/
  | exitL (f : FmtR)
  /-- YIELD (R295). -/
  | yield (f : FmtR)
  /-- NOP (R296). -/
  | nop (f : FmtR)
  /-- TRAP (R371). -/
  | trap (f : FmtG)
  /-- SYSCALL (R371). -/
  | syscall (f : FmtG)
  /-- RTT (R423). -/
  | rtt (f : FmtG)
  /-- BKPT (R296). -/
  | bkpt (f : FmtG)
  /-- IADD (R260). -/
  | iadd (f : FmtR)
  /-- IADD3 (R260). -/
  | iadd3 (f : FmtR)
  /-- ISUB (R260). -/
  | isub (f : FmtR)
  /-- IMUL (R260). -/
  | imul (f : FmtR)
  /-- IMULH (R260). -/
  | imulh (f : FmtR)
  /-- IMAD (R260). -/
  | imad (f : FmtR)
  /-- IMIN (R260). -/
  | imin (f : FmtR)
  /-- IMAX (R260). -/
  | imax (f : FmtR)
  /-- IABS (R260). -/
  | iabs (f : FmtR)
  /-- AND (R261). -/
  | andB (f : FmtR)
  /-- OR (R261). -/
  | orB (f : FmtR)
  /-- XOR (R261). -/
  | xorB (f : FmtR)
  /-- NOT (R261). -/
  | notB (f : FmtR)
  /-- SHL (R261). -/
  | shl (f : FmtR)
  /-- SHR (R261). -/
  | shr (f : FmtR)
  /-- SAR (R261). -/
  | sar (f : FmtR)
  /-- ROT (R261). -/
  | rot (f : FmtR)
  /-- BFE (R262). -/
  | bfe (f : FmtR)
  /-- BFI (R262). -/
  | bfi (f : FmtR)
  /-- POPC (R262). -/
  | popc (f : FmtR)
  /-- CLZ (R262). -/
  | clz (f : FmtR)
  /-- BREV (R262). -/
  | brev (f : FmtR)
  /-- SEL (R263). -/
  | sel (f : FmtR)
  /-- MOV (R263). -/
  | mov (f : FmtR)
  /-- MOVI (R264). -/
  | movi (f : FmtI)
  /-- LEA (R265). -/
  | lea (f : FmtR)
  /-- ICMP (R266). -/
  | icmp (f : FmtR)
  /-- PSET (R267). -/
  | pset (f : FmtR)
  /-- PLOP (R267). -/
  | plop (f : FmtR)
  /-- PMOV (R268). -/
  | pmov (f : FmtR)
  /-- IADD (R251). -/
  | iaddImm (f : FmtI)
  /-- ISUB (R251). -/
  | isubImm (f : FmtI)
  /-- IMUL (R251). -/
  | imulImm (f : FmtI)
  /-- IMULH (R251). -/
  | imulhImm (f : FmtI)
  /-- IMIN (R251). -/
  | iminImm (f : FmtI)
  /-- IMAX (R251). -/
  | imaxImm (f : FmtI)
  /-- AND (R251). -/
  | andImm (f : FmtI)
  /-- OR (R251). -/
  | orImm (f : FmtI)
  /-- XOR (R251). -/
  | xorImm (f : FmtI)
  /-- SHL (R251). -/
  | shlImm (f : FmtI)
  /-- SHR (R251). -/
  | shrImm (f : FmtI)
  /-- SAR (R251). -/
  | sarImm (f : FmtI)
  /-- ROT (R251). -/
  | rotImm (f : FmtI)
  /-- LEA (R251). -/
  | leaImm (f : FmtI)
  /-- ICMP (R251). -/
  | icmpImm (f : FmtI)
  /-- FADD (R269). -/
  | fadd (f : FmtR)
  /-- FSUB (R269). -/
  | fsub (f : FmtR)
  /-- FMUL (R269). -/
  | fmul (f : FmtR)
  /-- FFMA (R269). -/
  | ffma (f : FmtR)
  /-- FMIN (R271). -/
  | fmin (f : FmtR)
  /-- FMAX (R271). -/
  | fmax (f : FmtR)
  /-- FCMP (R272). -/
  | fcmp (f : FmtR)
  /-- FCLASS (R273). -/
  | fclass (f : FmtR)
  /-- FRND (R274). -/
  | frnd (f : FmtR)
  /-- FADD (R251). -/
  | faddImm (f : FmtI)
  /-- FSUB (R251). -/
  | fsubImm (f : FmtI)
  /-- FMUL (R251). -/
  | fmulImm (f : FmtI)
  /-- FMIN (R251). -/
  | fminImm (f : FmtI)
  /-- FMAX (R251). -/
  | fmaxImm (f : FmtI)
  /-- FCMP (R251). -/
  | fcmpImm (f : FmtI)
  /-- CVT (R277). -/
  | cvt (f : FmtR)
  /-- RCP (R279). -/
  | rcp (f : FmtR)
  /-- RSQ (R279). -/
  | rsq (f : FmtR)
  /-- SQRT (R279). -/
  | sqrt (f : FmtR)
  /-- EXP2 (R279). -/
  | exp2 (f : FmtR)
  /-- LOG2 (R279). -/
  | log2 (f : FmtR)
  /-- SIN (R279). -/
  | sin (f : FmtR)
  /-- COS (R279). -/
  | cos (f : FmtR)
  /-- SHFL (R282). -/
  | shfl (f : FmtR)
  /-- VOTE (R283). -/
  | vote (f : FmtR)
  /-- REDUX (R284). -/
  | redux (f : FmtR)
  /-- SCAN (R285). -/
  | scan (f : FmtR)
  /-- MATCH (R286). -/
  | matchV (f : FmtR)
  /-- FLAGCLR (R287). -/
  | flagclr (f : FmtR)
  /-- LD (R300). -/
  | ld (f : FmtM)
  /-- ST (R301). -/
  | st (f : FmtM)
  /-- STT (R318). -/
  | stt (f : FmtA)
  /-- ATOM (R305). -/
  | atom (f : FmtM)
  /-- RED (R305). -/
  | red (f : FmtM)
  /-- PREF (R308). -/
  | pref (f : FmtM)
  /-- CFLUSH (R309). -/
  | cflush (f : FmtM)
  /-- CINV (R309). -/
  | cinv (f : FmtM)
  /-- FENCE (R312). -/
  | fence (f : FmtM)
  /-- XLATE (R316). -/
  | xlate (f : FmtA)
  /-- TDSET (R321). -/
  | tdset (f : FmtA)
  /-- TDGET (R322). -/
  | tdget (f : FmtA)
  /-- CPY (R323). -/
  | cpy (f : FmtA)
  /-- CPYR (R325). -/
  | cpyr (f : FmtA)
  /-- RINIT (R326). -/
  | rinit (f : FmtA)
  /-- RWAIT (R327). -/
  | rwait (f : FmtA)
  /-- RREL (R328). -/
  | rrel (f : FmtA)
  /-- WAIT (R330). -/
  | wait (f : FmtA)
  /-- WAITANY (R330). -/
  | waitany (f : FmtA)
  /-- WAITALL (R330). -/
  | waitall (f : FmtA)
  /-- TFIRST (R330). -/
  | tfirst (f : FmtA)
  /-- TTEST (R330). -/
  | ttest (f : FmtA)
  /-- TCANCEL (R331). -/
  | tcancel (f : FmtA)
  /-- MXRDY (R340). -/
  | mxrdy (f : FmtX)
  /-- MXA (R337). -/
  | mxa (f : FmtX)
  /-- MXSP (R337). -/
  | mxsp (f : FmtX)
  /-- MXLD (R341). -/
  | mxld (f : FmtX)
  /-- MXST (R343). -/
  | mxst (f : FmtX)
  /-- MXZERO (R342). -/
  | mxzero (f : FmtX)
  /-- MXSAVE (R200). -/
  | mxsave (f : FmtX)
  /-- MXREST (R202). -/
  | mxrest (f : FmtX)
  /-- CBSET (R346). -/
  | cbset (f : FmtX)
  /-- CBSWAP (R347). -/
  | cbswap (f : FmtX)
  /-- TMASK (R349). -/
  | tmask (f : FmtX)
  /-- CRED (R350). -/
  | cred (f : FmtX)
  /-- MCAST (R348). -/
  | mcast (f : FmtX)
  /-- GNEW (R356). -/
  | gnew (f : FmtG)
  /-- GJOIN (R357). -/
  | gjoin (f : FmtG)
  /-- GLEAVE (R357). -/
  | gleave (f : FmtG)
  /-- GARRIVE (R358). -/
  | garrive (f : FmtG)
  /-- GVOTE (R358). -/
  | gvote (f : FmtG)
  /-- GRED (R358). -/
  | gred (f : FmtG)
  /-- GWAIT (R361). -/
  | gwait (f : FmtG)
  /-- GSTAT (R363). -/
  | gstat (f : FmtG)
  /-- GABORT (R364). -/
  | gabort (f : FmtG)
  /-- GFREE (R365). -/
  | gfree (f : FmtG)
  /-- LAUNCH (R367). -/
  | launch (f : FmtG)
  /-- CTRADD (R368). -/
  | ctradd (f : FmtG)
  /-- CTRWAIT (R369). -/
  | ctrwait (f : FmtG)
  /-- CANCEL (R370). -/
  | cancel (f : FmtG)
  /-- SYSRD (R373). -/
  | sysrd (f : FmtG)
  /-- SYSWR (R373). -/
  | syswr (f : FmtG)
  /-- TLBINV (R374). -/
  | tlbinv (f : FmtG)
  /-- RFCLR (R375). -/
  | rfclr (f : FmtG)
  /-- MBOX (R376). -/
  | mbox (f : FmtG)
  /-- IRQ (R377). -/
  | irq (f : FmtG)
  /-- HALT (R378). -/
  | halt (f : FmtG)
  /-- ISSUE_GRANT (R155). -/
  | issueGrant (core : Nat)
  /-- FETCH_LINE (R232). -/
  | fetchLine (core entry : Nat)
  /-- LOAD_DATA_RETURN (R300). -/
  | loadDataReturn (acc : Nat)
  /-- PARKED_LEAF_VECTOR (R421). -/
  | parkedLeafVector (core entry : Nat)
  /-- SPLIT_STALL_RETRY (R149). -/
  | splitStallRetry (core entry : Nat)
  /-- LEAF_EXHAUSTED_STALL (R149). -/
  | leafExhaustedStall (core entry : Nat)
  /-- JOIN_RELEASE (R152). -/
  | joinRelease (core entry : Nat)
  /-- SHEET_COMPLETE (R294). -/
  | sheetComplete (core slot : Nat)
  /-- TAG_COMPLETE (R127). -/
  | tagComplete (op : Nat)
  /-- COPY_START (R122). -/
  | copyStart (op : Nat)
  /-- COPY_COMPLETE (R124). -/
  | copyComplete (op : Nat)
  /-- DESCRIPTOR_WRITE_COMPLETE (R110). -/
  | descriptorWriteComplete (op : Nat)
  /-- FENCE_COMPLETE (R217). -/
  | fenceComplete (op : Nat)
  /-- MXRDY_COMPLETE (R196). -/
  | mxrdyComplete (op : Nat)
  /-- PASS_START (R192). -/
  | passStart (core : Nat)
  /-- FUSION_WAIT_EXPIRY (R192). -/
  | fusionWaitExpiry (core : Nat)
  /-- PASS_COMPLETE (R177). -/
  | passComplete (core : Nat)
  /-- ARRAY_FREEZE (R199). -/
  | arrayFreeze (core : Nat)
  /-- MXSAVE_COMPLETE (R345). -/
  | mxsaveComplete (op : Nat)
  /-- MXREST_COMPLETE (R345). -/
  | mxrestComplete (op : Nat)
  /-- WRITE_BACK_COMPLETE (R344). -/
  | writeBackComplete (op : Nat)
  /-- CBSET_COMPLETE (R346). -/
  | cbsetComplete (op : Nat)
  /-- CRED_ROUND_COMPLETE (R351). -/
  | credRoundComplete (cluster round : Nat)
  /-- RANGE_OP_COMPLETE (R310). -/
  | rangeOpComplete (op : Nat)
  /-- TLBINV_COMPLETE (R35). -/
  | tlbinvComplete (op : Nat)
  /-- RFCLR_COMPLETE (R375). -/
  | rfclrComplete (op : Nat)
  /-- MBOX_COMPLETE (R376). -/
  | mboxComplete (op : Nat)
  /-- XLATE_READ_RETURN (R317). -/
  | xlateReadReturn (op : Nat)
  /-- TLB_MISS_WALK (R34). -/
  | tlbMissWalk (die : Nat)
  /-- WALK_READ_RETURN (R34). -/
  | walkReadReturn (die walk : Nat)
  /-- ATOMICOP_COMPLETION (R42). -/
  | atomicopCompletion (acc : Nat) (refused : Bool) (old : BitVec 128)
  /-- READ_REQUEST (R55). -/
  | readRequest (msg : Nat)
  /-- READ_RESPONSE (R56). -/
  | readResponse (msg : Nat)
  /-- WRITE_REQUEST (R59). -/
  | writeRequest (msg : Nat)
  /-- INVALIDATION (R59). -/
  | invalidation (msg : Nat)
  /-- INVALIDATION_ACK (R59). -/
  | invalidationAck (msg : Nat)
  /-- WRITE_GRANT (R59). -/
  | writeGrant (msg : Nat)
  /-- PRUNE (R54). -/
  | prune (msg : Nat)
  /-- DROP_NOTICE (R62). -/
  | dropNotice (msg : Nat)
  /-- ANCHOR_RELEASE (R62). -/
  | anchorRelease (msg : Nat)
  /-- FOLD_DELIVERY (R76). -/
  | foldDelivery (msg : Nat)
  /-- JOIN_REQUEST (R73). -/
  | joinRequest (msg : Nat)
  /-- COMMUTATIVE_GATHER (R75). -/
  | commutativeGather (msg : Nat)
  /-- GATHER_START (R75). -/
  | gatherStart (msg : Nat)
  /-- COLLECT (R64). -/
  | collect (msg : Nat)
  /-- UNPICK_REQUEST (R64). -/
  | unpickRequest (msg : Nat)
  /-- UNCACHED_ACCESS (R91). -/
  | uncachedAccess (acc : Nat)
  /-- RENEWAL_SEND (R67). -/
  | renewalSend (cluster : Nat)
  /-- RENEWAL (R67). -/
  | renewal (msg : Nat)
  /-- LEASE_WINDOW_END (R68). -/
  | leaseWindowEnd (router line : Nat)
  /-- BRANCH_LOSS_REPORT (R69). -/
  | branchLossReport (msg : Nat)
  /-- LEASE_LOST (R71). -/
  | leaseLost (msg : Nat)
  /-- TASK_DISTRIBUTION (R406). -/
  | taskDistribution
  /-- DISTRIBUTION_WAIT_LIMIT (R406). -/
  | distributionWaitLimit (ctx launch task : Nat)
  /-- QUOTA_REPORT (R409). -/
  | quotaReport (cluster ctx : Nat)
  /-- GOVERNOR_WINDOW_END (R437). -/
  | governorWindowEnd (core : Nat)
  /-- VOLTAGE_SLEW_DONE (R436). -/
  | voltageSlewDone (core : Nat)
  /-- TOKEN_GRANT (R198). -/
  | tokenGrant
  /-- TOKEN_RETURN (R198). -/
  | tokenReturn (core : Nat)
  /-- PREEMPT_DELIVERY (R425). -/
  | preemptDelivery (core entry : Nat)
  /-- PRINCIPAL_DELIVERY (R426). -/
  | principalDelivery (core slot : Nat)
  /-- SHEET_LEAVE_RESIDENCY (R427). -/
  | sheetLeaveResidency (core slot : Nat)
  /-- TASK_RESUME (R427). -/
  | taskResume (ctx launch task : Nat)
  /-- CANCEL_KILL_TIMEOUT (R412). -/
  | cancelKillTimeout (core slot : Nat)
  /-- CANCEL_COMPLETE (R412). -/
  | cancelComplete (ctx cid : Nat)
  /-- LAUNCH_KILL (R430). -/
  | launchKill (ctx launch : Nat) (why : KillWhy)
  /-- SNAPSHOT_PAGE_COPY (R431). -/
  | snapshotPageCopy (ctx launch page : Nat)
  /-- LAUNCH_ROLLBACK (R431). -/
  | launchRollback (ctx launch : Nat)
  /-- PHASE_DEADLINE_EXPIRY (R387). -/
  | phaseDeadlineExpiry (idx : Nat)
  /-- PAUSE_CAP_EXPIRY (R388). -/
  | pauseCapExpiry (idx : Nat)
  /-- SHADOW_TIMER_EXPIRY (R393). -/
  | shadowTimerExpiry (idx : Nat)
  /-- PORT_IDLE_TIMEOUT (R456). -/
  | portIdleTimeout (port : Nat)
  /-- EMSEN_DEADLINE_EXPIRY (R458). -/
  | emsenDeadlineExpiry (req : Nat)
  /-- FROZEN_REGISTER_WRITE (R453). -/
  | frozenRegisterWrite (w : RegWr)
  /-- VERSION (R464). -/
  | version (op : Nat)
  /-- BOOT_READ (R464). -/
  | bootRead (op : Nat)
  /-- STITCH_DUMP (R52). -/
  | stitchDump (op : Nat)
  /-- GATHER_DUMP (R380). -/
  | gatherDump (op : Nat)
  /-- DEBUG_RESUME (R464). -/
  | debugResume (op : Nat)
  /-- BOOT_CLEAR (R464). -/
  | bootClear (op : Nat)
  /-- SCLIM_WRITE (R85). -/
  | sclimWrite (w : RegWr)
  /-- CLEASE_WRITE (R86). -/
  | cleaseWrite (w : RegWr)
  /-- PREQ_WRITE (R425). -/
  | preqWrite (w : RegWr)
  /-- TOKPOOL_WRITE (R438). -/
  | tokpoolWrite (w : RegWr)
  /-- CBUDGET_WRITE (R407). -/
  | cbudgetWrite (w : RegWr)
  /-- COUNTER_BANK_WRITE (R186). -/
  | counterBankWrite (w : RegWr)
  /-- CXPEND_CLEAR (R185). -/
  | cxpendClear (w : RegWr)
  /-- PARTITION_REGISTER_WRITE (R445). -/
  | partitionRegisterWrite (w : RegWr)
  /-- EVCTL_WRITE (R449). -/
  | evctlWrite (w : RegWr)
  /-- MBTAIL_WRITE (R450). -/
  | mbtailWrite (w : RegWr)
  /-- FABRIC_REGISTER_WRITE (R459). -/
  | fabricRegisterWrite (w : RegWr)
  /-- REGISTER_WRITE (R471). -/
  | registerWrite (w : RegWr)
  /-- CTRWAIT_TIMEOUT (R369). -/
  | ctrwaitTimeout (core entry : Nat)
  /-- HOST_CAS_COMPLETION (R43). -/
  | hostCasCompletion (acc : Nat) (refused : Bool) (seen : BitVec 128)
  /-- CONTROL_INTERVAL_START (R407). -/
  | controlIntervalStart (amps : Nat) (temps : List (Nat × Nat))
  /-- TILE_GRANT (R79). -/
  | tileGrant (req : Nat) (state : Nat) (data : List Byte)
  /-- TILE_INVALIDATION (R80). -/
  | tileInvalidation (tile : Nat)
  /-- TILE_RENEWAL (R80). -/
  | tileRenewal (fab : Nat)
  /-- HOST_POSTED_WRITE (R226). -/
  | hostPostedWrite (w : HostReq)
  /-- HOST_READ_REQUEST (R226). -/
  | hostReadRequest (r : HostReq)
  /-- PHASE_BEGUN (R392). -/
  | phaseBegun (handle : Word) (dev : Nat) (kind op : Nat)
  /-- PHASE_START (R392). -/
  | phaseStart (handle : Word) (phase : Nat)
  /-- SHADOW_ARRIVAL (R392). -/
  | shadowArrival (handle : Word) (dev lanes : Nat) (part : Partial)
  /-- PHASE_OUTCOME (R392). -/
  | phaseOutcome (handle : Word) (phase : Nat) (status : BitVec 4) (value : Word)
  /-- SHADOW_GONE (R393). -/
  | shadowGone (handle : Word) (dev : Nat)
  /-- SHADOW_COUNT_REPORT (R469). -/
  | shadowCountReport (handle : Word) (dev lanes : Nat)
  /-- FLIT_CRC_RETRY (R456). -/
  | flitCrcRetry (port : Nat) (good : Bool)
  /-- PORT_UP (R456). -/
  | portUp (port : Nat)
  /-- EMSEN_REQUEST (R458). -/
  | emsenRequest (m : FabMsg)
  /-- EMSEN_RESPONSE (R458). -/
  | emsenResponse (req : Nat) (status : Nat) (data : List Byte)
  /-- MSIX_UNMASK (R377). -/
  | msixUnmask (fn vector : Nat)
  /-- FUNCTION_LEVEL_RESET (R451). -/
  | functionLevelReset (fn : Nat)
  /-- LOCK_INTERFACE_REQUEST (R452). -/
  | lockInterfaceRequest (fn : Nat)
  /-- START_INTERFACE_REQUEST (R452). -/
  | startInterfaceRequest (fn : Nat)
  /-- STOP_INTERFACE_REQUEST (R452). -/
  | stopInterfaceRequest (fn : Nat)
  /-- GET_DEVICE_INTERFACE_REPORT (R455). -/
  | getDeviceInterfaceReport (fn : Nat)
  /-- IDE_INTEGRITY_FAILURE (R452). -/
  | ideIntegrityFailure (fn : Nat)
  /-- POWER_ON (R460). -/
  | powerOn (b : BootPlan)
  /-- WARM_RESET (R462). -/
  | warmReset (b : BootPlan)
  /-- HOST_ATOMICOP_REQUEST (R444). -/
  | hostAtomicopRequest (r : HostReq)
  /-- HOST_READ_COMPLETION (R43). -/
  | hostReadCompletion (acc : Nat) (data : BitVec 128)
  /-- IDLE_FLIT (R456). -/
  | idleFlit (port : Nat) (received : Bool)
  /-- CONTEXT_CREATION (R366). -/
  | contextCreation (ctx : Nat) (root table : DWord)
  /-- CONTEXT_DESTRUCTION (R381). -/
  | contextDestruction (ctx : Nat)
  deriving DecidableEq, Repr

end Sys2Proof
end

