-- ==== Sys2Proof/WellFormed.lean ====
section
/-!
DEFINITION. Which terms of `Instr` stand for words: an instruction whose selector bits agree with its
constructor (10 R250, R251, 11 R291). An event has no word. Every other field value is a word; what
the device then makes of it (10 R237) is `Machine.illegal`.
-/
namespace Sys2Proof

/-- The instruction's selector agrees with its row: SUB<3:0> of a shared major (10 R250), the R-form
opcode of an immediate major (10 R251), SUB<0> of CALL (11 R291). Events have no encoding. -/
def WellFormed (i : Instr) : Bool :=
  match i with
  | .bra _ => true
  | .brx _ => true
  | .call f => f.sub.toNat % 2 == 0
  | .callInd f => f.sub.toNat % 2 == 1
  | .ret _ => true
  | .split _ => true
  | .join _ => true
  | .exitL _ => true
  | .yield _ => true
  | .nop _ => true
  | .trap _ => true
  | .syscall _ => true
  | .rtt _ => true
  | .bkpt _ => true
  | .iadd _ => true
  | .iadd3 _ => true
  | .isub _ => true
  | .imul _ => true
  | .imulh _ => true
  | .imad _ => true
  | .imin _ => true
  | .imax _ => true
  | .iabs _ => true
  | .andB _ => true
  | .orB _ => true
  | .xorB _ => true
  | .notB _ => true
  | .shl _ => true
  | .shr _ => true
  | .sar _ => true
  | .rot _ => true
  | .bfe _ => true
  | .bfi _ => true
  | .popc _ => true
  | .clz _ => true
  | .brev _ => true
  | .sel _ => true
  | .mov _ => true
  | .movi _ => true
  | .lea _ => true
  | .icmp _ => true
  | .pset _ => true
  | .plop _ => true
  | .pmov _ => true
  | .iaddImm f => f.sub.toNat == 0x10
  | .isubImm f => f.sub.toNat == 0x12
  | .imulImm f => f.sub.toNat == 0x13
  | .imulhImm f => f.sub.toNat == 0x14
  | .iminImm f => f.sub.toNat == 0x16
  | .imaxImm f => f.sub.toNat == 0x17
  | .andImm f => f.sub.toNat == 0x19
  | .orImm f => f.sub.toNat == 0x1a
  | .xorImm f => f.sub.toNat == 0x1b
  | .shlImm f => f.sub.toNat == 0x1d
  | .shrImm f => f.sub.toNat == 0x1e
  | .sarImm f => f.sub.toNat == 0x1f
  | .rotImm f => f.sub.toNat == 0x20
  | .leaImm f => f.sub.toNat == 0x29
  | .icmpImm f => f.sub.toNat == 0x2a
  | .fadd _ => true
  | .fsub _ => true
  | .fmul _ => true
  | .ffma _ => true
  | .fmin _ => true
  | .fmax _ => true
  | .fcmp _ => true
  | .fclass _ => true
  | .frnd _ => true
  | .faddImm f => f.sub.toNat == 0x30
  | .fsubImm f => f.sub.toNat == 0x31
  | .fmulImm f => f.sub.toNat == 0x32
  | .fminImm f => f.sub.toNat == 0x34
  | .fmaxImm f => f.sub.toNat == 0x35
  | .fcmpImm f => f.sub.toNat == 0x36
  | .cvt _ => true
  | .rcp _ => true
  | .rsq _ => true
  | .sqrt _ => true
  | .exp2 _ => true
  | .log2 _ => true
  | .sin _ => true
  | .cos _ => true
  | .shfl _ => true
  | .vote _ => true
  | .redux _ => true
  | .scan _ => true
  | .matchV _ => true
  | .flagclr _ => true
  | .ld _ => true
  | .st _ => true
  | .stt _ => true
  | .atom _ => true
  | .red _ => true
  | .pref _ => true
  | .cflush _ => true
  | .cinv _ => true
  | .fence _ => true
  | .xlate _ => true
  | .tdset f => f.sub.toNat % 16 == 0
  | .tdget f => f.sub.toNat % 16 == 1
  | .cpy _ => true
  | .cpyr _ => true
  | .rinit f => f.sub.toNat % 16 == 0
  | .rwait f => f.sub.toNat % 16 == 1
  | .rrel f => f.sub.toNat % 16 == 2
  | .wait f => f.sub.toNat % 16 == 0
  | .waitany f => f.sub.toNat % 16 == 1
  | .waitall f => f.sub.toNat % 16 == 2
  | .tfirst f => f.sub.toNat % 16 == 3
  | .ttest f => f.sub.toNat % 16 == 4
  | .tcancel f => f.sub.toNat % 16 == 5
  | .mxrdy _ => true
  | .mxa _ => true
  | .mxsp _ => true
  | .mxld _ => true
  | .mxst _ => true
  | .mxzero _ => true
  | .mxsave f => f.sub.toNat % 16 == 0
  | .mxrest f => f.sub.toNat % 16 == 1
  | .cbset f => f.sub.toNat % 16 == 0
  | .cbswap f => f.sub.toNat % 16 == 1
  | .tmask _ => true
  | .cred _ => true
  | .mcast _ => true
  | .gnew _ => true
  | .gjoin f => f.sub.toNat % 16 == 0
  | .gleave f => f.sub.toNat % 16 == 1
  | .garrive f => f.sub.toNat % 16 == 0
  | .gvote f => f.sub.toNat % 16 == 1
  | .gred f => f.sub.toNat % 16 == 2
  | .gwait f => f.sub.toNat % 16 == 0
  | .gstat f => f.sub.toNat % 16 == 1
  | .gabort f => f.sub.toNat % 16 == 0
  | .gfree f => f.sub.toNat % 16 == 1
  | .launch _ => true
  | .ctradd f => f.sub.toNat % 16 == 0
  | .ctrwait f => f.sub.toNat % 16 == 1
  | .cancel f => f.sub.toNat % 16 == 2
  | .sysrd f => f.sub.toNat % 16 == 0
  | .syswr f => f.sub.toNat % 16 == 1
  | .tlbinv f => f.sub.toNat % 16 == 0
  | .rfclr f => f.sub.toNat % 16 == 1
  | .mbox f => f.sub.toNat % 16 == 0
  | .irq f => f.sub.toNat % 16 == 1
  | .halt _ => true
  | .issueGrant _ => false
  | .fetchLine _ _ => false
  | .loadDataReturn _ => false
  | .parkedLeafVector _ _ => false
  | .splitStallRetry _ _ => false
  | .leafExhaustedStall _ _ => false
  | .joinRelease _ _ => false
  | .sheetComplete _ _ => false
  | .tagComplete _ => false
  | .copyStart _ => false
  | .copyComplete _ => false
  | .descriptorWriteComplete _ => false
  | .fenceComplete _ => false
  | .mxrdyComplete _ => false
  | .passStart _ => false
  | .fusionWaitExpiry _ => false
  | .passComplete _ => false
  | .arrayFreeze _ => false
  | .mxsaveComplete _ => false
  | .mxrestComplete _ => false
  | .writeBackComplete _ => false
  | .cbsetComplete _ => false
  | .credRoundComplete _ _ => false
  | .rangeOpComplete _ => false
  | .tlbinvComplete _ => false
  | .rfclrComplete _ => false
  | .mboxComplete _ => false
  | .xlateReadReturn _ => false
  | .tlbMissWalk _ => false
  | .walkReadReturn _ _ => false
  | .hostCasCompletion _ _ _ => false
  | .atomicopCompletion _ _ _ => false
  | .readRequest _ => false
  | .readResponse _ => false
  | .writeRequest _ => false
  | .invalidation _ => false
  | .invalidationAck _ => false
  | .writeGrant _ => false
  | .prune _ => false
  | .dropNotice _ => false
  | .anchorRelease _ => false
  | .foldDelivery _ => false
  | .joinRequest _ => false
  | .commutativeGather _ => false
  | .gatherStart _ => false
  | .collect _ => false
  | .unpickRequest _ => false
  | .uncachedAccess _ => false
  | .renewalSend _ => false
  | .renewal _ => false
  | .leaseWindowEnd _ _ => false
  | .branchLossReport _ => false
  | .leaseLost _ => false
  | .tileGrant _ _ _ => false
  | .tileInvalidation _ => false
  | .tileRenewal _ => false
  | .hostPostedWrite _ => false
  | .hostReadRequest _ => false
  | .taskDistribution => false
  | .distributionWaitLimit _ _ _ => false
  | .controlIntervalStart _ _ => false
  | .quotaReport _ _ => false
  | .governorWindowEnd _ => false
  | .voltageSlewDone _ => false
  | .tokenGrant => false
  | .tokenReturn _ => false
  | .preemptDelivery _ _ => false
  | .principalDelivery _ _ => false
  | .sheetLeaveResidency _ _ => false
  | .taskResume _ _ _ => false
  | .cancelKillTimeout _ _ => false
  | .cancelComplete _ _ => false
  | .launchKill _ _ _ => false
  | .snapshotPageCopy _ _ _ => false
  | .launchRollback _ _ => false
  | .phaseDeadlineExpiry _ => false
  | .pauseCapExpiry _ => false
  | .phaseBegun _ _ _ _ => false
  | .phaseStart _ _ => false
  | .shadowArrival _ _ _ _ => false
  | .phaseOutcome _ _ _ _ => false
  | .shadowTimerExpiry _ => false
  | .shadowGone _ _ => false
  | .shadowCountReport _ _ _ => false
  | .flitCrcRetry _ _ => false
  | .portIdleTimeout _ => false
  | .portUp _ => false
  | .emsenDeadlineExpiry _ => false
  | .emsenRequest _ => false
  | .emsenResponse _ _ _ => false
  | .msixUnmask _ _ => false
  | .functionLevelReset _ => false
  | .lockInterfaceRequest _ => false
  | .startInterfaceRequest _ => false
  | .stopInterfaceRequest _ => false
  | .getDeviceInterfaceReport _ => false
  | .ideIntegrityFailure _ => false
  | .frozenRegisterWrite _ => false
  | .powerOn _ => false
  | .warmReset _ => false
  | .version _ => false
  | .bootRead _ => false
  | .stitchDump _ => false
  | .gatherDump _ => false
  | .debugResume _ => false
  | .bootClear _ => false
  | .sclimWrite _ => false
  | .cleaseWrite _ => false
  | .preqWrite _ => false
  | .tokpoolWrite _ => false
  | .cbudgetWrite _ => false
  | .counterBankWrite _ => false
  | .cxpendClear _ => false
  | .partitionRegisterWrite _ => false
  | .evctlWrite _ => false
  | .mbtailWrite _ => false
  | .fabricRegisterWrite _ => false
  | .registerWrite _ => false
  | .ctrwaitTimeout _ _ => false
  | .hostAtomicopRequest _ => false
  | .hostReadCompletion _ _ => false
  | .idleFlit _ _ => false
  | .contextCreation _ _ _ => false
  | .contextDestruction _ => false

/-- The row is an event of the device, not an instruction of a leaf. -/
def Instr.isEvent (i : Instr) : Bool :=
  match i with
  | .bra _ => false
  | .brx _ => false
  | .call _ => false
  | .callInd _ => false
  | .ret _ => false
  | .split _ => false
  | .join _ => false
  | .exitL _ => false
  | .yield _ => false
  | .nop _ => false
  | .trap _ => false
  | .syscall _ => false
  | .rtt _ => false
  | .bkpt _ => false
  | .iadd _ => false
  | .iadd3 _ => false
  | .isub _ => false
  | .imul _ => false
  | .imulh _ => false
  | .imad _ => false
  | .imin _ => false
  | .imax _ => false
  | .iabs _ => false
  | .andB _ => false
  | .orB _ => false
  | .xorB _ => false
  | .notB _ => false
  | .shl _ => false
  | .shr _ => false
  | .sar _ => false
  | .rot _ => false
  | .bfe _ => false
  | .bfi _ => false
  | .popc _ => false
  | .clz _ => false
  | .brev _ => false
  | .sel _ => false
  | .mov _ => false
  | .movi _ => false
  | .lea _ => false
  | .icmp _ => false
  | .pset _ => false
  | .plop _ => false
  | .pmov _ => false
  | .iaddImm _ => false
  | .isubImm _ => false
  | .imulImm _ => false
  | .imulhImm _ => false
  | .iminImm _ => false
  | .imaxImm _ => false
  | .andImm _ => false
  | .orImm _ => false
  | .xorImm _ => false
  | .shlImm _ => false
  | .shrImm _ => false
  | .sarImm _ => false
  | .rotImm _ => false
  | .leaImm _ => false
  | .icmpImm _ => false
  | .fadd _ => false
  | .fsub _ => false
  | .fmul _ => false
  | .ffma _ => false
  | .fmin _ => false
  | .fmax _ => false
  | .fcmp _ => false
  | .fclass _ => false
  | .frnd _ => false
  | .faddImm _ => false
  | .fsubImm _ => false
  | .fmulImm _ => false
  | .fminImm _ => false
  | .fmaxImm _ => false
  | .fcmpImm _ => false
  | .cvt _ => false
  | .rcp _ => false
  | .rsq _ => false
  | .sqrt _ => false
  | .exp2 _ => false
  | .log2 _ => false
  | .sin _ => false
  | .cos _ => false
  | .shfl _ => false
  | .vote _ => false
  | .redux _ => false
  | .scan _ => false
  | .matchV _ => false
  | .flagclr _ => false
  | .ld _ => false
  | .st _ => false
  | .stt _ => false
  | .atom _ => false
  | .red _ => false
  | .pref _ => false
  | .cflush _ => false
  | .cinv _ => false
  | .fence _ => false
  | .xlate _ => false
  | .tdset _ => false
  | .tdget _ => false
  | .cpy _ => false
  | .cpyr _ => false
  | .rinit _ => false
  | .rwait _ => false
  | .rrel _ => false
  | .wait _ => false
  | .waitany _ => false
  | .waitall _ => false
  | .tfirst _ => false
  | .ttest _ => false
  | .tcancel _ => false
  | .mxrdy _ => false
  | .mxa _ => false
  | .mxsp _ => false
  | .mxld _ => false
  | .mxst _ => false
  | .mxzero _ => false
  | .mxsave _ => false
  | .mxrest _ => false
  | .cbset _ => false
  | .cbswap _ => false
  | .tmask _ => false
  | .cred _ => false
  | .mcast _ => false
  | .gnew _ => false
  | .gjoin _ => false
  | .gleave _ => false
  | .garrive _ => false
  | .gvote _ => false
  | .gred _ => false
  | .gwait _ => false
  | .gstat _ => false
  | .gabort _ => false
  | .gfree _ => false
  | .launch _ => false
  | .ctradd _ => false
  | .ctrwait _ => false
  | .cancel _ => false
  | .sysrd _ => false
  | .syswr _ => false
  | .tlbinv _ => false
  | .rfclr _ => false
  | .mbox _ => false
  | .irq _ => false
  | .halt _ => false
  | .issueGrant _ => true
  | .fetchLine _ _ => true
  | .loadDataReturn _ => true
  | .parkedLeafVector _ _ => true
  | .splitStallRetry _ _ => true
  | .leafExhaustedStall _ _ => true
  | .joinRelease _ _ => true
  | .sheetComplete _ _ => true
  | .tagComplete _ => true
  | .copyStart _ => true
  | .copyComplete _ => true
  | .descriptorWriteComplete _ => true
  | .fenceComplete _ => true
  | .mxrdyComplete _ => true
  | .passStart _ => true
  | .fusionWaitExpiry _ => true
  | .passComplete _ => true
  | .arrayFreeze _ => true
  | .mxsaveComplete _ => true
  | .mxrestComplete _ => true
  | .writeBackComplete _ => true
  | .cbsetComplete _ => true
  | .credRoundComplete _ _ => true
  | .rangeOpComplete _ => true
  | .tlbinvComplete _ => true
  | .rfclrComplete _ => true
  | .mboxComplete _ => true
  | .xlateReadReturn _ => true
  | .tlbMissWalk _ => true
  | .walkReadReturn _ _ => true
  | .hostCasCompletion _ _ _ => true
  | .atomicopCompletion _ _ _ => true
  | .readRequest _ => true
  | .readResponse _ => true
  | .writeRequest _ => true
  | .invalidation _ => true
  | .invalidationAck _ => true
  | .writeGrant _ => true
  | .prune _ => true
  | .dropNotice _ => true
  | .anchorRelease _ => true
  | .foldDelivery _ => true
  | .joinRequest _ => true
  | .commutativeGather _ => true
  | .gatherStart _ => true
  | .collect _ => true
  | .unpickRequest _ => true
  | .uncachedAccess _ => true
  | .renewalSend _ => true
  | .renewal _ => true
  | .leaseWindowEnd _ _ => true
  | .branchLossReport _ => true
  | .leaseLost _ => true
  | .tileGrant _ _ _ => true
  | .tileInvalidation _ => true
  | .tileRenewal _ => true
  | .hostPostedWrite _ => true
  | .hostReadRequest _ => true
  | .taskDistribution => true
  | .distributionWaitLimit _ _ _ => true
  | .controlIntervalStart _ _ => true
  | .quotaReport _ _ => true
  | .governorWindowEnd _ => true
  | .voltageSlewDone _ => true
  | .tokenGrant => true
  | .tokenReturn _ => true
  | .preemptDelivery _ _ => true
  | .principalDelivery _ _ => true
  | .sheetLeaveResidency _ _ => true
  | .taskResume _ _ _ => true
  | .cancelKillTimeout _ _ => true
  | .cancelComplete _ _ => true
  | .launchKill _ _ _ => true
  | .snapshotPageCopy _ _ _ => true
  | .launchRollback _ _ => true
  | .phaseDeadlineExpiry _ => true
  | .pauseCapExpiry _ => true
  | .phaseBegun _ _ _ _ => true
  | .phaseStart _ _ => true
  | .shadowArrival _ _ _ _ => true
  | .phaseOutcome _ _ _ _ => true
  | .shadowTimerExpiry _ => true
  | .shadowGone _ _ => true
  | .shadowCountReport _ _ _ => true
  | .flitCrcRetry _ _ => true
  | .portIdleTimeout _ => true
  | .portUp _ => true
  | .emsenDeadlineExpiry _ => true
  | .emsenRequest _ => true
  | .emsenResponse _ _ _ => true
  | .msixUnmask _ _ => true
  | .functionLevelReset _ => true
  | .lockInterfaceRequest _ => true
  | .startInterfaceRequest _ => true
  | .stopInterfaceRequest _ => true
  | .getDeviceInterfaceReport _ => true
  | .ideIntegrityFailure _ => true
  | .frozenRegisterWrite _ => true
  | .powerOn _ => true
  | .warmReset _ => true
  | .version _ => true
  | .bootRead _ => true
  | .stitchDump _ => true
  | .gatherDump _ => true
  | .debugResume _ => true
  | .bootClear _ => true
  | .sclimWrite _ => true
  | .cleaseWrite _ => true
  | .preqWrite _ => true
  | .tokpoolWrite _ => true
  | .cbudgetWrite _ => true
  | .counterBankWrite _ => true
  | .cxpendClear _ => true
  | .partitionRegisterWrite _ => true
  | .evctlWrite _ => true
  | .mbtailWrite _ => true
  | .fabricRegisterWrite _ => true
  | .registerWrite _ => true
  | .ctrwaitTimeout _ _ => true
  | .hostAtomicopRequest _ => true
  | .hostReadCompletion _ _ => true
  | .idleFlit _ _ => true
  | .contextCreation _ _ _ => true
  | .contextDestruction _ => true

/-- The common header of an instruction; an event has none. -/
def Instr.hdr (i : Instr) : Option Hdr :=
  match i with
  | .bra f => some f.h
  | .brx f => some f.h
  | .call f => some f.h
  | .callInd f => some f.h
  | .ret f => some f.h
  | .split f => some f.h
  | .join f => some f.h
  | .exitL f => some f.h
  | .yield f => some f.h
  | .nop f => some f.h
  | .trap f => some f.h
  | .syscall f => some f.h
  | .rtt f => some f.h
  | .bkpt f => some f.h
  | .iadd f => some f.h
  | .iadd3 f => some f.h
  | .isub f => some f.h
  | .imul f => some f.h
  | .imulh f => some f.h
  | .imad f => some f.h
  | .imin f => some f.h
  | .imax f => some f.h
  | .iabs f => some f.h
  | .andB f => some f.h
  | .orB f => some f.h
  | .xorB f => some f.h
  | .notB f => some f.h
  | .shl f => some f.h
  | .shr f => some f.h
  | .sar f => some f.h
  | .rot f => some f.h
  | .bfe f => some f.h
  | .bfi f => some f.h
  | .popc f => some f.h
  | .clz f => some f.h
  | .brev f => some f.h
  | .sel f => some f.h
  | .mov f => some f.h
  | .movi f => some f.h
  | .lea f => some f.h
  | .icmp f => some f.h
  | .pset f => some f.h
  | .plop f => some f.h
  | .pmov f => some f.h
  | .iaddImm f => some f.h
  | .isubImm f => some f.h
  | .imulImm f => some f.h
  | .imulhImm f => some f.h
  | .iminImm f => some f.h
  | .imaxImm f => some f.h
  | .andImm f => some f.h
  | .orImm f => some f.h
  | .xorImm f => some f.h
  | .shlImm f => some f.h
  | .shrImm f => some f.h
  | .sarImm f => some f.h
  | .rotImm f => some f.h
  | .leaImm f => some f.h
  | .icmpImm f => some f.h
  | .fadd f => some f.h
  | .fsub f => some f.h
  | .fmul f => some f.h
  | .ffma f => some f.h
  | .fmin f => some f.h
  | .fmax f => some f.h
  | .fcmp f => some f.h
  | .fclass f => some f.h
  | .frnd f => some f.h
  | .faddImm f => some f.h
  | .fsubImm f => some f.h
  | .fmulImm f => some f.h
  | .fminImm f => some f.h
  | .fmaxImm f => some f.h
  | .fcmpImm f => some f.h
  | .cvt f => some f.h
  | .rcp f => some f.h
  | .rsq f => some f.h
  | .sqrt f => some f.h
  | .exp2 f => some f.h
  | .log2 f => some f.h
  | .sin f => some f.h
  | .cos f => some f.h
  | .shfl f => some f.h
  | .vote f => some f.h
  | .redux f => some f.h
  | .scan f => some f.h
  | .matchV f => some f.h
  | .flagclr f => some f.h
  | .ld f => some f.h
  | .st f => some f.h
  | .stt f => some f.h
  | .atom f => some f.h
  | .red f => some f.h
  | .pref f => some f.h
  | .cflush f => some f.h
  | .cinv f => some f.h
  | .fence f => some f.h
  | .xlate f => some f.h
  | .tdset f => some f.h
  | .tdget f => some f.h
  | .cpy f => some f.h
  | .cpyr f => some f.h
  | .rinit f => some f.h
  | .rwait f => some f.h
  | .rrel f => some f.h
  | .wait f => some f.h
  | .waitany f => some f.h
  | .waitall f => some f.h
  | .tfirst f => some f.h
  | .ttest f => some f.h
  | .tcancel f => some f.h
  | .mxrdy f => some f.h
  | .mxa f => some f.h
  | .mxsp f => some f.h
  | .mxld f => some f.h
  | .mxst f => some f.h
  | .mxzero f => some f.h
  | .mxsave f => some f.h
  | .mxrest f => some f.h
  | .cbset f => some f.h
  | .cbswap f => some f.h
  | .tmask f => some f.h
  | .cred f => some f.h
  | .mcast f => some f.h
  | .gnew f => some f.h
  | .gjoin f => some f.h
  | .gleave f => some f.h
  | .garrive f => some f.h
  | .gvote f => some f.h
  | .gred f => some f.h
  | .gwait f => some f.h
  | .gstat f => some f.h
  | .gabort f => some f.h
  | .gfree f => some f.h
  | .launch f => some f.h
  | .ctradd f => some f.h
  | .ctrwait f => some f.h
  | .cancel f => some f.h
  | .sysrd f => some f.h
  | .syswr f => some f.h
  | .tlbinv f => some f.h
  | .rfclr f => some f.h
  | .mbox f => some f.h
  | .irq f => some f.h
  | .halt f => some f.h
  | .issueGrant _ => none
  | .fetchLine _ _ => none
  | .loadDataReturn _ => none
  | .parkedLeafVector _ _ => none
  | .splitStallRetry _ _ => none
  | .leafExhaustedStall _ _ => none
  | .joinRelease _ _ => none
  | .sheetComplete _ _ => none
  | .tagComplete _ => none
  | .copyStart _ => none
  | .copyComplete _ => none
  | .descriptorWriteComplete _ => none
  | .fenceComplete _ => none
  | .mxrdyComplete _ => none
  | .passStart _ => none
  | .fusionWaitExpiry _ => none
  | .passComplete _ => none
  | .arrayFreeze _ => none
  | .mxsaveComplete _ => none
  | .mxrestComplete _ => none
  | .writeBackComplete _ => none
  | .cbsetComplete _ => none
  | .credRoundComplete _ _ => none
  | .rangeOpComplete _ => none
  | .tlbinvComplete _ => none
  | .rfclrComplete _ => none
  | .mboxComplete _ => none
  | .xlateReadReturn _ => none
  | .tlbMissWalk _ => none
  | .walkReadReturn _ _ => none
  | .hostCasCompletion _ _ _ => none
  | .atomicopCompletion _ _ _ => none
  | .readRequest _ => none
  | .readResponse _ => none
  | .writeRequest _ => none
  | .invalidation _ => none
  | .invalidationAck _ => none
  | .writeGrant _ => none
  | .prune _ => none
  | .dropNotice _ => none
  | .anchorRelease _ => none
  | .foldDelivery _ => none
  | .joinRequest _ => none
  | .commutativeGather _ => none
  | .gatherStart _ => none
  | .collect _ => none
  | .unpickRequest _ => none
  | .uncachedAccess _ => none
  | .renewalSend _ => none
  | .renewal _ => none
  | .leaseWindowEnd _ _ => none
  | .branchLossReport _ => none
  | .leaseLost _ => none
  | .tileGrant _ _ _ => none
  | .tileInvalidation _ => none
  | .tileRenewal _ => none
  | .hostPostedWrite _ => none
  | .hostReadRequest _ => none
  | .taskDistribution => none
  | .distributionWaitLimit _ _ _ => none
  | .controlIntervalStart _ _ => none
  | .quotaReport _ _ => none
  | .governorWindowEnd _ => none
  | .voltageSlewDone _ => none
  | .tokenGrant => none
  | .tokenReturn _ => none
  | .preemptDelivery _ _ => none
  | .principalDelivery _ _ => none
  | .sheetLeaveResidency _ _ => none
  | .taskResume _ _ _ => none
  | .cancelKillTimeout _ _ => none
  | .cancelComplete _ _ => none
  | .launchKill _ _ _ => none
  | .snapshotPageCopy _ _ _ => none
  | .launchRollback _ _ => none
  | .phaseDeadlineExpiry _ => none
  | .pauseCapExpiry _ => none
  | .phaseBegun _ _ _ _ => none
  | .phaseStart _ _ => none
  | .shadowArrival _ _ _ _ => none
  | .phaseOutcome _ _ _ _ => none
  | .shadowTimerExpiry _ => none
  | .shadowGone _ _ => none
  | .shadowCountReport _ _ _ => none
  | .flitCrcRetry _ _ => none
  | .portIdleTimeout _ => none
  | .portUp _ => none
  | .emsenDeadlineExpiry _ => none
  | .emsenRequest _ => none
  | .emsenResponse _ _ _ => none
  | .msixUnmask _ _ => none
  | .functionLevelReset _ => none
  | .lockInterfaceRequest _ => none
  | .startInterfaceRequest _ => none
  | .stopInterfaceRequest _ => none
  | .getDeviceInterfaceReport _ => none
  | .ideIntegrityFailure _ => none
  | .frozenRegisterWrite _ => none
  | .powerOn _ => none
  | .warmReset _ => none
  | .version _ => none
  | .bootRead _ => none
  | .stitchDump _ => none
  | .gatherDump _ => none
  | .debugResume _ => none
  | .bootClear _ => none
  | .sclimWrite _ => none
  | .cleaseWrite _ => none
  | .preqWrite _ => none
  | .tokpoolWrite _ => none
  | .cbudgetWrite _ => none
  | .counterBankWrite _ => none
  | .cxpendClear _ => none
  | .partitionRegisterWrite _ => none
  | .evctlWrite _ => none
  | .mbtailWrite _ => none
  | .fabricRegisterWrite _ => none
  | .registerWrite _ => none
  | .ctrwaitTimeout _ _ => none
  | .hostAtomicopRequest _ => none
  | .hostReadCompletion _ _ => none
  | .idleFlit _ _ => none
  | .contextCreation _ _ _ => none
  | .contextDestruction _ => none

end Sys2Proof
end

