-- ==== Sys2Proof/Decode.lean ====
section
/-!
DEFINITION. Decoding and encoding of the 96-bit instruction words (10 R230, R234, R242 to R251). A
word is read as one number, bit 0 its least significant bit; the fields stand from the lowest bit up.
-/
namespace Sys2Proof

/-- Why a word is no instruction (10 R237 step 1): each is an ILLEGAL of the device. -/
inductive DecodeErr where
  /-- an opcode that 10 R249 leaves unassigned -/
  | unassignedOpcode
  /-- a sub-function of a shared or immediate major that R250 or R251 does not list -/
  | unassignedSub
  /-- a reserved bit of the format is set -/
  | reservedBits
  deriving DecidableEq, Repr

/-- Fields from the lowest bit up, each with its width, as one number. -/
def pack : List (Nat × Nat) → Nat
  | [] => 0
  | (w, v) :: t => v % 2 ^ w + 2 ^ w * pack t

/-- The fields of the given widths, from the lowest bit up. -/
def unpack : List Nat → Nat → List Nat
  | [], _ => []
  | w :: t, x => x % 2 ^ w :: unpack t (x / 2 ^ w)

/-- Widths of CLS, GC, GB, GA, STALL, E, OPC (10 R234). -/
def hdrWidths : List Nat := [3, 1, 4, 4, 4, 1, 7]

/-- The header with its major opcode, as the number of bits 95:72 (10 R234). -/
def packHdr (opc : Nat) (h : Hdr) : Nat :=
  pack [(3, h.cls.toNat), (1, b2n h.gc), (4, h.gb.toNat), (4, h.ga.toNat), (4, h.stall.toNat), (1, b2n h.e), (7, opc)]

/-- Reads the header and the major opcode from the number of bits 95:72. -/
def unpackHdr (x : Nat) : Nat × Hdr :=
  match unpack hdrWidths x with
  | [cls, gc, gb, ga, stall, e, opc] =>
    (opc, { e := e == 1, stall := BitVec.ofNat 4 stall, ga := BitVec.ofNat 4 ga, gb := BitVec.ofNat 4 gb,
            gc := gc == 1, cls := BitVec.ofNat 3 cls })
  | _ => (0, { e := false, stall := 0, ga := 0, gb := 0, gc := false, cls := 0 })

/-- Field widths of format R from bit 0 up. -/
def widthsR : List Nat := [3, 5, 2, 4, 1, 1, 1, 2, 8, 9, 9, 9, 9, 9]

/-- The word of a format R instruction under major `opc`. -/
def encR (opc : Nat) (f : FmtR) : Nat :=
  pack [(3, 0), (5, f.sty.toNat), (2, f.tw.toNat), (4, f.mod.toNat), (1, b2n f.asc), (1, b2n f.sr), (1, b2n f.sat), (2, f.rnd.toNat), (8, f.sub.toNat), (9, f.dst2.toNat), (9, f.opc.toNat), (9, f.opb.toNat), (9, f.opa.toNat), (9, f.dst.toNat)] + 2 ^ 72 * packHdr opc f.h

/-- Reads the fields of format R from bits 71:0. -/
def decR (h : Hdr) (x : Nat) : Except DecodeErr FmtR :=
  match unpack widthsR x with
  | [rsv, sty, tw, mod, asc, sr, sat, rnd, sub, dst2, opc, opb, opa, dst] =>
    if rsv = 0 then .ok { h := h, sty := BitVec.ofNat 5 sty, tw := BitVec.ofNat 2 tw, mod := BitVec.ofNat 4 mod, asc := asc == 1, sr := sr == 1, sat := sat == 1, rnd := BitVec.ofNat 2 rnd, sub := BitVec.ofNat 8 sub, dst2 := BitVec.ofNat 9 dst2, opc := BitVec.ofNat 9 opc, opb := BitVec.ofNat 9 opb, opa := BitVec.ofNat 9 opa, dst := BitVec.ofNat 9 dst } else .error .reservedBits
  | _ => .error .reservedBits

/-- Field widths of format I from bit 0 up. -/
def widthsI : List Nat := [5, 4, 2, 2, 1, 8, 32, 9, 9]

/-- The word of a format I instruction under major `opc`. -/
def encI (opc : Nat) (f : FmtI) : Nat :=
  pack [(5, 0), (4, f.mod.toNat), (2, f.tw.toNat), (2, f.rnd.toNat), (1, b2n f.sat), (8, f.sub.toNat), (32, f.imm.toNat), (9, f.opa.toNat), (9, f.dst.toNat)] + 2 ^ 72 * packHdr opc f.h

/-- Reads the fields of format I from bits 71:0. -/
def decI (h : Hdr) (x : Nat) : Except DecodeErr FmtI :=
  match unpack widthsI x with
  | [rsv, mod, tw, rnd, sat, sub, imm, opa, dst] =>
    if rsv = 0 then .ok { h := h, mod := BitVec.ofNat 4 mod, tw := BitVec.ofNat 2 tw, rnd := BitVec.ofNat 2 rnd, sat := sat == 1, sub := BitVec.ofNat 8 sub, imm := BitVec.ofNat 32 imm, opa := BitVec.ofNat 9 opa, dst := BitVec.ofNat 9 dst } else .error .reservedBits
  | _ => .error .reservedBits

/-- Field widths of format M from bit 0 up. -/
def widthsM : List Nat := [7, 3, 3, 3, 3, 2, 24, 9, 9, 9]

/-- The word of a format M instruction under major `opc`. -/
def encM (opc : Nat) (f : FmtM) : Nat :=
  pack [(7, f.subop.toNat), (3, f.wid.toNat), (3, f.asp.toNat), (3, f.evp.toNat), (3, f.scope.toNat), (2, f.ord.toNat), (24, f.off.toNat), (9, f.index.toNat), (9, f.base.toNat), (9, f.data.toNat)] + 2 ^ 72 * packHdr opc f.h

/-- Reads the fields of format M from bits 71:0. -/
def decM (h : Hdr) (x : Nat) : Except DecodeErr FmtM :=
  match unpack widthsM x with
  | [subop, wid, asp, evp, scope, ord, off, index, base, data] =>
    .ok { h := h, subop := BitVec.ofNat 7 subop, wid := BitVec.ofNat 3 wid, asp := BitVec.ofNat 3 asp, evp := BitVec.ofNat 3 evp, scope := BitVec.ofNat 3 scope, ord := BitVec.ofNat 2 ord, off := BitVec.ofNat 24 off, index := BitVec.ofNat 9 index, base := BitVec.ofNat 9 base, data := BitVec.ofNat 9 data }
  | _ => .error .reservedBits

/-- Field widths of format B from bit 0 up. -/
def widthsB : List Nat := [18, 8, 9, 9, 1, 3, 24]

/-- The word of a format B instruction under major `opc`. -/
def encB (opc : Nat) (f : FmtB) : Nat :=
  pack [(18, 0), (8, f.sub.toNat), (9, f.opb.toNat), (9, f.opa.toNat), (1, b2n f.fp), (3, f.slot.toNat), (24, f.loff.toNat)] + 2 ^ 72 * packHdr opc f.h

/-- Reads the fields of format B from bits 71:0. -/
def decB (h : Hdr) (x : Nat) : Except DecodeErr FmtB :=
  match unpack widthsB x with
  | [rsv, sub, opb, opa, fp, slot, loff] =>
    if rsv = 0 then .ok { h := h, sub := BitVec.ofNat 8 sub, opb := BitVec.ofNat 9 opb, opa := BitVec.ofNat 9 opa, fp := fp == 1, slot := BitVec.ofNat 3 slot, loff := BitVec.ofNat 24 loff } else .error .reservedBits
  | _ => .error .reservedBits

/-- Field widths of format A from bit 0 up. -/
def widthsA : List Nat := [13, 3, 3, 8, 9, 9, 9, 9, 9]

/-- The word of a format A instruction under major `opc`. -/
def encA (opc : Nat) (f : FmtA) : Nat :=
  pack [(13, f.mod.toNat), (3, f.evp.toNat), (3, f.scope.toNat), (8, f.sub.toNat), (9, f.opd.toNat), (9, f.opc.toNat), (9, f.opb.toNat), (9, f.opa.toNat), (9, f.dst.toNat)] + 2 ^ 72 * packHdr opc f.h

/-- Reads the fields of format A from bits 71:0. -/
def decA (h : Hdr) (x : Nat) : Except DecodeErr FmtA :=
  match unpack widthsA x with
  | [mod, evp, scope, sub, opd, opc, opb, opa, dst] =>
    .ok { h := h, mod := BitVec.ofNat 13 mod, evp := BitVec.ofNat 3 evp, scope := BitVec.ofNat 3 scope, sub := BitVec.ofNat 8 sub, opd := BitVec.ofNat 9 opd, opc := BitVec.ofNat 9 opc, opb := BitVec.ofNat 9 opb, opa := BitVec.ofNat 9 opa, dst := BitVec.ofNat 9 dst }
  | _ => .error .reservedBits

/-- Field widths of format X from bit 0 up. -/
def widthsX : List Nat := [10, 4, 1, 1, 1, 2, 8, 9, 9, 9, 9, 9]

/-- The word of a format X instruction under major `opc`. -/
def encX (opc : Nat) (f : FmtX) : Nat :=
  pack [(10, 0), (4, f.mod.toNat), (1, b2n f.asc), (1, b2n f.sr), (1, b2n f.sat), (2, f.rnd.toNat), (8, f.sub.toNat), (9, f.opd.toNat), (9, f.opc.toNat), (9, f.opb.toNat), (9, f.opa.toNat), (9, f.dst.toNat)] + 2 ^ 72 * packHdr opc f.h

/-- Reads the fields of format X from bits 71:0. -/
def decX (h : Hdr) (x : Nat) : Except DecodeErr FmtX :=
  match unpack widthsX x with
  | [rsv, mod, asc, sr, sat, rnd, sub, opd, opc, opb, opa, dst] =>
    if rsv = 0 then .ok { h := h, mod := BitVec.ofNat 4 mod, asc := asc == 1, sr := sr == 1, sat := sat == 1, rnd := BitVec.ofNat 2 rnd, sub := BitVec.ofNat 8 sub, opd := BitVec.ofNat 9 opd, opc := BitVec.ofNat 9 opc, opb := BitVec.ofNat 9 opb, opa := BitVec.ofNat 9 opa, dst := BitVec.ofNat 9 dst } else .error .reservedBits
  | _ => .error .reservedBits

/-- Field widths of format G from bit 0 up. -/
def widthsG : List Nat := [9, 3, 8, 16, 9, 9, 9, 9]

/-- The word of a format G instruction under major `opc`. -/
def encG (opc : Nat) (f : FmtG) : Nat :=
  pack [(9, f.mod.toNat), (3, f.scope.toNat), (8, f.sub.toNat), (16, f.imm.toNat), (9, f.opc.toNat), (9, f.opb.toNat), (9, f.opa.toNat), (9, f.dst.toNat)] + 2 ^ 72 * packHdr opc f.h

/-- Reads the fields of format G from bits 71:0. -/
def decG (h : Hdr) (x : Nat) : Except DecodeErr FmtG :=
  match unpack widthsG x with
  | [mod, scope, sub, imm, opc, opb, opa, dst] =>
    .ok { h := h, mod := BitVec.ofNat 9 mod, scope := BitVec.ofNat 3 scope, sub := BitVec.ofNat 8 sub, imm := BitVec.ofNat 16 imm, opc := BitVec.ofNat 9 opc, opb := BitVec.ofNat 9 opb, opa := BitVec.ofNat 9 opa, dst := BitVec.ofNat 9 dst }
  | _ => .error .reservedBits

/-- The row of a format R major and its SUB field (10 R249 to R251). -/
def rowR (opc _sub : Nat) : Except DecodeErr (FmtR → Instr) :=
  match opc with
  | 0x05 => .ok .split
  | 0x07 => .ok .exitL
  | 0x08 => .ok .yield
  | 0x09 => .ok .nop
  | 0x10 => .ok .iadd
  | 0x11 => .ok .iadd3
  | 0x12 => .ok .isub
  | 0x13 => .ok .imul
  | 0x14 => .ok .imulh
  | 0x15 => .ok .imad
  | 0x16 => .ok .imin
  | 0x17 => .ok .imax
  | 0x18 => .ok .iabs
  | 0x19 => .ok .andB
  | 0x1a => .ok .orB
  | 0x1b => .ok .xorB
  | 0x1c => .ok .notB
  | 0x1d => .ok .shl
  | 0x1e => .ok .shr
  | 0x1f => .ok .sar
  | 0x20 => .ok .rot
  | 0x21 => .ok .bfe
  | 0x22 => .ok .bfi
  | 0x23 => .ok .popc
  | 0x24 => .ok .clz
  | 0x25 => .ok .brev
  | 0x26 => .ok .sel
  | 0x27 => .ok .mov
  | 0x29 => .ok .lea
  | 0x2a => .ok .icmp
  | 0x2b => .ok .pset
  | 0x2c => .ok .plop
  | 0x2d => .ok .pmov
  | 0x30 => .ok .fadd
  | 0x31 => .ok .fsub
  | 0x32 => .ok .fmul
  | 0x33 => .ok .ffma
  | 0x34 => .ok .fmin
  | 0x35 => .ok .fmax
  | 0x36 => .ok .fcmp
  | 0x37 => .ok .fclass
  | 0x38 => .ok .frnd
  | 0x40 => .ok .cvt
  | 0x41 => .ok .rcp
  | 0x42 => .ok .rsq
  | 0x43 => .ok .sqrt
  | 0x44 => .ok .exp2
  | 0x45 => .ok .log2
  | 0x46 => .ok .sin
  | 0x47 => .ok .cos
  | 0x48 => .ok .shfl
  | 0x49 => .ok .vote
  | 0x4a => .ok .redux
  | 0x4b => .ok .scan
  | 0x4c => .ok .matchV
  | 0x4d => .ok .flagclr
  | _ => .error .unassignedOpcode

/-- The row of a format I major and its SUB field (10 R249 to R251). -/
def rowI (opc sub : Nat) : Except DecodeErr (FmtI → Instr) :=
  match opc with
  | 0x28 => .ok .movi
  | 0x2e =>
    match sub with
    | 0x10 => .ok .iaddImm
    | 0x12 => .ok .isubImm
    | 0x13 => .ok .imulImm
    | 0x14 => .ok .imulhImm
    | 0x16 => .ok .iminImm
    | 0x17 => .ok .imaxImm
    | 0x19 => .ok .andImm
    | 0x1a => .ok .orImm
    | 0x1b => .ok .xorImm
    | 0x1d => .ok .shlImm
    | 0x1e => .ok .shrImm
    | 0x1f => .ok .sarImm
    | 0x20 => .ok .rotImm
    | 0x29 => .ok .leaImm
    | 0x2a => .ok .icmpImm
    | _ => .error .unassignedSub
  | 0x39 =>
    match sub with
    | 0x30 => .ok .faddImm
    | 0x31 => .ok .fsubImm
    | 0x32 => .ok .fmulImm
    | 0x34 => .ok .fminImm
    | 0x35 => .ok .fmaxImm
    | 0x36 => .ok .fcmpImm
    | _ => .error .unassignedSub
  | _ => .error .unassignedOpcode

/-- The row of a format M major and its SUB field (10 R249 to R251). -/
def rowM (opc _sub : Nat) : Except DecodeErr (FmtM → Instr) :=
  match opc with
  | 0x50 => .ok .ld
  | 0x51 => .ok .st
  | 0x53 => .ok .atom
  | 0x54 => .ok .red
  | 0x55 => .ok .pref
  | 0x56 => .ok .cflush
  | 0x57 => .ok .cinv
  | 0x58 => .ok .fence
  | _ => .error .unassignedOpcode

/-- The row of a format B major and its SUB field (10 R249 to R251). -/
def rowB (opc sub : Nat) : Except DecodeErr (FmtB → Instr) :=
  match opc with
  | 0x01 => .ok .bra
  | 0x02 => .ok .brx
  | 0x04 => .ok .ret
  | 0x06 => .ok .join
  | 0x03 => if sub % 2 = 0 then .ok .call else .ok .callInd
  | _ => .error .unassignedOpcode

/-- The row of a format A major and its SUB field (10 R249 to R251). -/
def rowA (opc sub : Nat) : Except DecodeErr (FmtA → Instr) :=
  match opc with
  | 0x52 => .ok .stt
  | 0x59 => .ok .xlate
  | 0x60 =>
    match sub % 16 with
    | 0 => .ok .tdset
    | 1 => .ok .tdget
    | _ => .error .unassignedSub
  | 0x61 => .ok .cpy
  | 0x62 => .ok .cpyr
  | 0x63 =>
    match sub % 16 with
    | 0 => .ok .rinit
    | 1 => .ok .rwait
    | 2 => .ok .rrel
    | _ => .error .unassignedSub
  | 0x64 =>
    match sub % 16 with
    | 0 => .ok .wait
    | 1 => .ok .waitany
    | 2 => .ok .waitall
    | 3 => .ok .tfirst
    | 4 => .ok .ttest
    | 5 => .ok .tcancel
    | _ => .error .unassignedSub
  | _ => .error .unassignedOpcode

/-- The row of a format X major and its SUB field (10 R249 to R251). -/
def rowX (opc sub : Nat) : Except DecodeErr (FmtX → Instr) :=
  match opc with
  | 0x65 => .ok .mxrdy
  | 0x66 => .ok .mxa
  | 0x67 => .ok .mxsp
  | 0x68 => .ok .mxld
  | 0x69 => .ok .mxst
  | 0x6a => .ok .mxzero
  | 0x6b =>
    match sub % 16 with
    | 0 => .ok .mxsave
    | 1 => .ok .mxrest
    | _ => .error .unassignedSub
  | 0x6c =>
    match sub % 16 with
    | 0 => .ok .cbset
    | 1 => .ok .cbswap
    | _ => .error .unassignedSub
  | 0x70 => .ok .tmask
  | 0x71 => .ok .cred
  | 0x72 => .ok .mcast
  | _ => .error .unassignedOpcode

/-- The row of a format G major and its SUB field (10 R249 to R251). -/
def rowG (opc sub : Nat) : Except DecodeErr (FmtG → Instr) :=
  match opc with
  | 0x0a => .ok .trap
  | 0x0b => .ok .syscall
  | 0x0c => .ok .rtt
  | 0x0d => .ok .bkpt
  | 0x73 => .ok .gnew
  | 0x74 =>
    match sub % 16 with
    | 0 => .ok .gjoin
    | 1 => .ok .gleave
    | _ => .error .unassignedSub
  | 0x75 =>
    match sub % 16 with
    | 0 => .ok .garrive
    | 1 => .ok .gvote
    | 2 => .ok .gred
    | _ => .error .unassignedSub
  | 0x76 =>
    match sub % 16 with
    | 0 => .ok .gwait
    | 1 => .ok .gstat
    | _ => .error .unassignedSub
  | 0x77 =>
    match sub % 16 with
    | 0 => .ok .gabort
    | 1 => .ok .gfree
    | _ => .error .unassignedSub
  | 0x78 => .ok .launch
  | 0x79 =>
    match sub % 16 with
    | 0 => .ok .ctradd
    | 1 => .ok .ctrwait
    | 2 => .ok .cancel
    | _ => .error .unassignedSub
  | 0x7a =>
    match sub % 16 with
    | 0 => .ok .sysrd
    | 1 => .ok .syswr
    | _ => .error .unassignedSub
  | 0x7b =>
    match sub % 16 with
    | 0 => .ok .tlbinv
    | 1 => .ok .rfclr
    | _ => .error .unassignedSub
  | 0x7c =>
    match sub % 16 with
    | 0 => .ok .mbox
    | 1 => .ok .irq
    | _ => .error .unassignedSub
  | 0x7d => .ok .halt
  | _ => .error .unassignedOpcode

/-- The format that a major opcode selects (10 R249); none where it is unassigned. -/
inductive Format where
  | R | I | M | B | A | X | G
  deriving DecidableEq, Repr

/-- The format of each assigned major opcode (10 R249). -/
def formatOf (opc : Nat) : Option Format :=
  match opc with
  | 0x01 => some .B
  | 0x02 => some .B
  | 0x03 => some .B
  | 0x04 => some .B
  | 0x05 => some .R
  | 0x06 => some .B
  | 0x07 => some .R
  | 0x08 => some .R
  | 0x09 => some .R
  | 0x0a => some .G
  | 0x0b => some .G
  | 0x0c => some .G
  | 0x0d => some .G
  | 0x10 => some .R
  | 0x11 => some .R
  | 0x12 => some .R
  | 0x13 => some .R
  | 0x14 => some .R
  | 0x15 => some .R
  | 0x16 => some .R
  | 0x17 => some .R
  | 0x18 => some .R
  | 0x19 => some .R
  | 0x1a => some .R
  | 0x1b => some .R
  | 0x1c => some .R
  | 0x1d => some .R
  | 0x1e => some .R
  | 0x1f => some .R
  | 0x20 => some .R
  | 0x21 => some .R
  | 0x22 => some .R
  | 0x23 => some .R
  | 0x24 => some .R
  | 0x25 => some .R
  | 0x26 => some .R
  | 0x27 => some .R
  | 0x28 => some .I
  | 0x29 => some .R
  | 0x2a => some .R
  | 0x2b => some .R
  | 0x2c => some .R
  | 0x2d => some .R
  | 0x2e => some .I
  | 0x30 => some .R
  | 0x31 => some .R
  | 0x32 => some .R
  | 0x33 => some .R
  | 0x34 => some .R
  | 0x35 => some .R
  | 0x36 => some .R
  | 0x37 => some .R
  | 0x38 => some .R
  | 0x39 => some .I
  | 0x40 => some .R
  | 0x41 => some .R
  | 0x42 => some .R
  | 0x43 => some .R
  | 0x44 => some .R
  | 0x45 => some .R
  | 0x46 => some .R
  | 0x47 => some .R
  | 0x48 => some .R
  | 0x49 => some .R
  | 0x4a => some .R
  | 0x4b => some .R
  | 0x4c => some .R
  | 0x4d => some .R
  | 0x50 => some .M
  | 0x51 => some .M
  | 0x52 => some .A
  | 0x53 => some .M
  | 0x54 => some .M
  | 0x55 => some .M
  | 0x56 => some .M
  | 0x57 => some .M
  | 0x58 => some .M
  | 0x59 => some .A
  | 0x60 => some .A
  | 0x61 => some .A
  | 0x62 => some .A
  | 0x63 => some .A
  | 0x64 => some .A
  | 0x65 => some .X
  | 0x66 => some .X
  | 0x67 => some .X
  | 0x68 => some .X
  | 0x69 => some .X
  | 0x6a => some .X
  | 0x6b => some .X
  | 0x6c => some .X
  | 0x70 => some .X
  | 0x71 => some .X
  | 0x72 => some .X
  | 0x73 => some .G
  | 0x74 => some .G
  | 0x75 => some .G
  | 0x76 => some .G
  | 0x77 => some .G
  | 0x78 => some .G
  | 0x79 => some .G
  | 0x7a => some .G
  | 0x7b => some .G
  | 0x7c => some .G
  | 0x7d => some .G
  | _ => none

/-- Decodes one 96-bit instruction, read as a number. Total: every number is an instruction or is
rejected by name. -/
def decode (w : Nat) : Except DecodeErr Instr :=
  let hx := unpackHdr (w / 2 ^ 72 % 2 ^ 24)
  let h := hx.2
  let x := w % 2 ^ 72
  match formatOf hx.1 with
  | none => .error .unassignedOpcode
  | some .R =>
    match decR h x with
    | .error e => .error e
    | .ok f => match rowR hx.1 f.sub.toNat with
      | .error e => .error e
      | .ok c => .ok (c f)
  | some .I =>
    match decI h x with
    | .error e => .error e
    | .ok f => match rowI hx.1 f.sub.toNat with
      | .error e => .error e
      | .ok c => .ok (c f)
  | some .M =>
    match decM h x with
    | .error e => .error e
    | .ok f => match rowM hx.1 0 with
      | .error e => .error e
      | .ok c => .ok (c f)
  | some .B =>
    match decB h x with
    | .error e => .error e
    | .ok f => match rowB hx.1 f.sub.toNat with
      | .error e => .error e
      | .ok c => .ok (c f)
  | some .A =>
    match decA h x with
    | .error e => .error e
    | .ok f => match rowA hx.1 f.sub.toNat with
      | .error e => .error e
      | .ok c => .ok (c f)
  | some .X =>
    match decX h x with
    | .error e => .error e
    | .ok f => match rowX hx.1 f.sub.toNat with
      | .error e => .error e
      | .ok c => .ok (c f)
  | some .G =>
    match decG h x with
    | .error e => .error e
    | .ok f => match rowG hx.1 f.sub.toNat with
      | .error e => .error e
      | .ok c => .ok (c f)

/-- The word of a well-formed instruction, as a number. An event has no word and gets 0, which is the
unassigned opcode 0x00. -/
def encode (i : Instr) : Nat :=
  match i with
  | .bra f => encB 0x01 f
  | .brx f => encB 0x02 f
  | .call f => encB 0x03 f
  | .callInd f => encB 0x03 f
  | .ret f => encB 0x04 f
  | .split f => encR 0x05 f
  | .join f => encB 0x06 f
  | .exitL f => encR 0x07 f
  | .yield f => encR 0x08 f
  | .nop f => encR 0x09 f
  | .trap f => encG 0x0a f
  | .syscall f => encG 0x0b f
  | .rtt f => encG 0x0c f
  | .bkpt f => encG 0x0d f
  | .iadd f => encR 0x10 f
  | .iadd3 f => encR 0x11 f
  | .isub f => encR 0x12 f
  | .imul f => encR 0x13 f
  | .imulh f => encR 0x14 f
  | .imad f => encR 0x15 f
  | .imin f => encR 0x16 f
  | .imax f => encR 0x17 f
  | .iabs f => encR 0x18 f
  | .andB f => encR 0x19 f
  | .orB f => encR 0x1a f
  | .xorB f => encR 0x1b f
  | .notB f => encR 0x1c f
  | .shl f => encR 0x1d f
  | .shr f => encR 0x1e f
  | .sar f => encR 0x1f f
  | .rot f => encR 0x20 f
  | .bfe f => encR 0x21 f
  | .bfi f => encR 0x22 f
  | .popc f => encR 0x23 f
  | .clz f => encR 0x24 f
  | .brev f => encR 0x25 f
  | .sel f => encR 0x26 f
  | .mov f => encR 0x27 f
  | .movi f => encI 0x28 f
  | .lea f => encR 0x29 f
  | .icmp f => encR 0x2a f
  | .pset f => encR 0x2b f
  | .plop f => encR 0x2c f
  | .pmov f => encR 0x2d f
  | .iaddImm f => encI 0x2e f
  | .isubImm f => encI 0x2e f
  | .imulImm f => encI 0x2e f
  | .imulhImm f => encI 0x2e f
  | .iminImm f => encI 0x2e f
  | .imaxImm f => encI 0x2e f
  | .andImm f => encI 0x2e f
  | .orImm f => encI 0x2e f
  | .xorImm f => encI 0x2e f
  | .shlImm f => encI 0x2e f
  | .shrImm f => encI 0x2e f
  | .sarImm f => encI 0x2e f
  | .rotImm f => encI 0x2e f
  | .leaImm f => encI 0x2e f
  | .icmpImm f => encI 0x2e f
  | .fadd f => encR 0x30 f
  | .fsub f => encR 0x31 f
  | .fmul f => encR 0x32 f
  | .ffma f => encR 0x33 f
  | .fmin f => encR 0x34 f
  | .fmax f => encR 0x35 f
  | .fcmp f => encR 0x36 f
  | .fclass f => encR 0x37 f
  | .frnd f => encR 0x38 f
  | .faddImm f => encI 0x39 f
  | .fsubImm f => encI 0x39 f
  | .fmulImm f => encI 0x39 f
  | .fminImm f => encI 0x39 f
  | .fmaxImm f => encI 0x39 f
  | .fcmpImm f => encI 0x39 f
  | .cvt f => encR 0x40 f
  | .rcp f => encR 0x41 f
  | .rsq f => encR 0x42 f
  | .sqrt f => encR 0x43 f
  | .exp2 f => encR 0x44 f
  | .log2 f => encR 0x45 f
  | .sin f => encR 0x46 f
  | .cos f => encR 0x47 f
  | .shfl f => encR 0x48 f
  | .vote f => encR 0x49 f
  | .redux f => encR 0x4a f
  | .scan f => encR 0x4b f
  | .matchV f => encR 0x4c f
  | .flagclr f => encR 0x4d f
  | .ld f => encM 0x50 f
  | .st f => encM 0x51 f
  | .stt f => encA 0x52 f
  | .atom f => encM 0x53 f
  | .red f => encM 0x54 f
  | .pref f => encM 0x55 f
  | .cflush f => encM 0x56 f
  | .cinv f => encM 0x57 f
  | .fence f => encM 0x58 f
  | .xlate f => encA 0x59 f
  | .tdset f => encA 0x60 f
  | .tdget f => encA 0x60 f
  | .cpy f => encA 0x61 f
  | .cpyr f => encA 0x62 f
  | .rinit f => encA 0x63 f
  | .rwait f => encA 0x63 f
  | .rrel f => encA 0x63 f
  | .wait f => encA 0x64 f
  | .waitany f => encA 0x64 f
  | .waitall f => encA 0x64 f
  | .tfirst f => encA 0x64 f
  | .ttest f => encA 0x64 f
  | .tcancel f => encA 0x64 f
  | .mxrdy f => encX 0x65 f
  | .mxa f => encX 0x66 f
  | .mxsp f => encX 0x67 f
  | .mxld f => encX 0x68 f
  | .mxst f => encX 0x69 f
  | .mxzero f => encX 0x6a f
  | .mxsave f => encX 0x6b f
  | .mxrest f => encX 0x6b f
  | .cbset f => encX 0x6c f
  | .cbswap f => encX 0x6c f
  | .tmask f => encX 0x70 f
  | .cred f => encX 0x71 f
  | .mcast f => encX 0x72 f
  | .gnew f => encG 0x73 f
  | .gjoin f => encG 0x74 f
  | .gleave f => encG 0x74 f
  | .garrive f => encG 0x75 f
  | .gvote f => encG 0x75 f
  | .gred f => encG 0x75 f
  | .gwait f => encG 0x76 f
  | .gstat f => encG 0x76 f
  | .gabort f => encG 0x77 f
  | .gfree f => encG 0x77 f
  | .launch f => encG 0x78 f
  | .ctradd f => encG 0x79 f
  | .ctrwait f => encG 0x79 f
  | .cancel f => encG 0x79 f
  | .sysrd f => encG 0x7a f
  | .syswr f => encG 0x7a f
  | .tlbinv f => encG 0x7b f
  | .rfclr f => encG 0x7b f
  | .mbox f => encG 0x7c f
  | .irq f => encG 0x7c f
  | .halt f => encG 0x7d f
  | .issueGrant _ => 0
  | .fetchLine _ _ => 0
  | .loadDataReturn _ => 0
  | .parkedLeafVector _ _ => 0
  | .splitStallRetry _ _ => 0
  | .leafExhaustedStall _ _ => 0
  | .joinRelease _ _ => 0
  | .sheetComplete _ _ => 0
  | .tagComplete _ => 0
  | .copyStart _ => 0
  | .copyComplete _ => 0
  | .descriptorWriteComplete _ => 0
  | .fenceComplete _ => 0
  | .mxrdyComplete _ => 0
  | .passStart _ => 0
  | .fusionWaitExpiry _ => 0
  | .passComplete _ => 0
  | .arrayFreeze _ => 0
  | .mxsaveComplete _ => 0
  | .mxrestComplete _ => 0
  | .writeBackComplete _ => 0
  | .cbsetComplete _ => 0
  | .credRoundComplete _ _ => 0
  | .rangeOpComplete _ => 0
  | .tlbinvComplete _ => 0
  | .rfclrComplete _ => 0
  | .mboxComplete _ => 0
  | .xlateReadReturn _ => 0
  | .tlbMissWalk _ => 0
  | .walkReadReturn _ _ => 0
  | .hostCasCompletion _ _ _ => 0
  | .atomicopCompletion _ _ _ => 0
  | .readRequest _ => 0
  | .readResponse _ => 0
  | .writeRequest _ => 0
  | .invalidation _ => 0
  | .invalidationAck _ => 0
  | .writeGrant _ => 0
  | .prune _ => 0
  | .dropNotice _ => 0
  | .anchorRelease _ => 0
  | .foldDelivery _ => 0
  | .joinRequest _ => 0
  | .commutativeGather _ => 0
  | .gatherStart _ => 0
  | .collect _ => 0
  | .unpickRequest _ => 0
  | .uncachedAccess _ => 0
  | .renewalSend _ => 0
  | .renewal _ => 0
  | .leaseWindowEnd _ _ => 0
  | .branchLossReport _ => 0
  | .leaseLost _ => 0
  | .tileGrant _ _ _ => 0
  | .tileInvalidation _ => 0
  | .tileRenewal _ => 0
  | .hostPostedWrite _ => 0
  | .hostReadRequest _ => 0
  | .taskDistribution => 0
  | .distributionWaitLimit _ _ _ => 0
  | .controlIntervalStart _ _ => 0
  | .quotaReport _ _ => 0
  | .governorWindowEnd _ => 0
  | .voltageSlewDone _ => 0
  | .tokenGrant => 0
  | .tokenReturn _ => 0
  | .preemptDelivery _ _ => 0
  | .principalDelivery _ _ => 0
  | .sheetLeaveResidency _ _ => 0
  | .taskResume _ _ _ => 0
  | .cancelKillTimeout _ _ => 0
  | .cancelComplete _ _ => 0
  | .launchKill _ _ _ => 0
  | .snapshotPageCopy _ _ _ => 0
  | .launchRollback _ _ => 0
  | .phaseDeadlineExpiry _ => 0
  | .pauseCapExpiry _ => 0
  | .phaseBegun _ _ _ _ => 0
  | .phaseStart _ _ => 0
  | .shadowArrival _ _ _ _ => 0
  | .phaseOutcome _ _ _ _ => 0
  | .shadowTimerExpiry _ => 0
  | .shadowGone _ _ => 0
  | .shadowCountReport _ _ _ => 0
  | .flitCrcRetry _ _ => 0
  | .portIdleTimeout _ => 0
  | .portUp _ => 0
  | .emsenDeadlineExpiry _ => 0
  | .emsenRequest _ => 0
  | .emsenResponse _ _ _ => 0
  | .msixUnmask _ _ => 0
  | .functionLevelReset _ => 0
  | .lockInterfaceRequest _ => 0
  | .startInterfaceRequest _ => 0
  | .stopInterfaceRequest _ => 0
  | .getDeviceInterfaceReport _ => 0
  | .ideIntegrityFailure _ => 0
  | .frozenRegisterWrite _ => 0
  | .powerOn _ => 0
  | .warmReset _ => 0
  | .version _ => 0
  | .bootRead _ => 0
  | .stitchDump _ => 0
  | .gatherDump _ => 0
  | .debugResume _ => 0
  | .bootClear _ => 0
  | .sclimWrite _ => 0
  | .cleaseWrite _ => 0
  | .preqWrite _ => 0
  | .tokpoolWrite _ => 0
  | .cbudgetWrite _ => 0
  | .counterBankWrite _ => 0
  | .cxpendClear _ => 0
  | .partitionRegisterWrite _ => 0
  | .evctlWrite _ => 0
  | .mbtailWrite _ => 0
  | .fabricRegisterWrite _ => 0
  | .registerWrite _ => 0
  | .ctrwaitTimeout _ _ => 0
  | .hostAtomicopRequest _ => 0
  | .hostReadCompletion _ _ => 0
  | .idleFlit _ _ => 0
  | .contextCreation _ _ _ => 0
  | .contextDestruction _ => 0

/-- What the decoder reads from an instruction whose bits are `w` (bits above `nbits` are zero). -/
def decodeTableWord (nbits w : Nat) : Option Instr :=
  match decode (w % 2 ^ nbits % 2 ^ 96) with
  | .ok i => some i
  | .error _ => none

/-- The number a list of bytes stands for, little-endian (00 R5). -/
def leBytes : List Byte → Nat
  | [] => 0
  | b :: t => b.toNat + 256 * leBytes t

/-- The low `n` bytes of a number, little-endian (00 R5). -/
def toBytes : Nat → Nat → List Byte
  | 0, _ => []
  | n + 1, x => BitVec.ofNat 8 x :: toBytes n (x / 256)

/-- The 96-bit instruction in slot `s` of a fetch line of 64 bytes (10 R230). -/
def lineSlot (line : List Byte) (s : Nat) : Nat := leBytes ((line.drop (12 * s)).take 12)

/-- The line word of a fetch line, bytes 60 to 63 (10 R230). -/
def lineWord (line : List Byte) : Nat := leBytes ((line.drop 60).take 4)

/-- The XOR of a list of bytes. -/
def xorBytes (l : List Byte) : Byte := l.foldl (fun a b => a ^^^ b) 0

/-- PAR agrees with the 60 instruction bytes (10 R231). -/
def lineParity (line : List Byte) : Bool := (line)[63]?.getD 0 == xorBytes (line.take 60)

/-- TGT of slot `s` is set (10 R231). -/
def lineTarget (line : List Byte) (s : Nat) : Bool := bitN (lineWord line) (15 + s)

/-- PAIR of slots `s` and `s + 1` is set (10 R231). -/
def linePair (line : List Byte) (s : Nat) : Bool := s < 4 && bitN (lineWord line) (20 + s)

/-- A reserved bit of the line word is set (10 R231). -/
def lineReserved (line : List Byte) : Bool := lineWord line % 2 ^ 15 != 0

/-- A fetch line of five slots with the given TGT bits and PAIR 0, and its parity (10 R230, R231). -/
def makeLine (slots : List Nat) (tgt : Nat) : List Byte :=
  let body := (slots.map (toBytes 12)).flatten
  body ++ toBytes 3 (tgt * 2 ^ 15) ++ [xorBytes body]

/-- The canonical NOP (10 R257). -/
def canonicalNop : Nat := 0x120770FFFFFFFFFFF8000000

end Sys2Proof
end

