-- ==== Sys2Proof/Config.lean ====
section
/-!
DEFINITION. What an implementation fixes and the values the manual leaves open. Every `opaque`
constant is a free value: nothing evaluates it, so what is proved holds for each of its values.
-/
namespace Sys2Proof.Config

/-- A free 32-bit value for each reading of the counter `State.free` (00 R3: undefined results). -/
opaque freeWord : Nat → BitVec 32
/-- A free byte, for undefined bytes of memory (00 R3, 05 R124, R125, 08 R197). -/
opaque freeByte : Nat → BitVec 8
/-- A free choice between two allowed outcomes (10 R240: old value or new). -/
opaque freeBool : Nat → Bool
/-- What a special function delivers inside its bound: function, type, operand (11 R279). -/
opaque sfu : Nat → Nat → Nat → Nat
/-- ROMVER of CID, which 20 R463 gives no value for. -/
opaque romVer : BitVec 24
/-- Bytes 8 to 16,383 of an array image, opaque to software (08 R201), by image and byte. -/
opaque imageByte : Nat → Nat → BitVec 8
/-- The check word over the opaque bytes of an array image (08 R201). -/
opaque imageCheck : Nat → BitVec 32
/-- The energy, in 0.01 µJ, that a report of 16 R409 finds for a context (weights not given). -/
opaque meter : Nat → Nat → Nat

end Sys2Proof.Config
end

