-- ==== Sys2Proof/Machine/Num.lean ====
section
/-!
DEFINITION. Number formats, exact values and roundings (07 R159 to R176). A finite value is a sign, a
natural number and a power of two; an exact result is a sign and a fraction of natural numbers.
-/
namespace Sys2Proof.Machine

/-- The floating element formats of 07 R159. -/
inductive Fmt where
  | f32 | f16 | bf16 | e5m2 | e4m3 | e2m1
  deriving DecidableEq, Repr

/-- Bits of the exponent field. -/
def fmtE : Fmt → Nat
  | .f32 => 8 | .f16 => 5 | .bf16 => 8 | .e5m2 => 5 | .e4m3 => 4 | .e2m1 => 2

/-- Bits of the significand field. -/
def fmtM : Fmt → Nat
  | .f32 => 23 | .f16 => 10 | .bf16 => 7 | .e5m2 => 2 | .e4m3 => 3 | .e2m1 => 1

/-- The exponent bias. -/
def fmtBias : Fmt → Nat
  | .f32 => 127 | .f16 => 15 | .bf16 => 127 | .e5m2 => 15 | .e4m3 => 7 | .e2m1 => 1

/-- Bits of a code. -/
def fmtW (f : Fmt) : Nat := 1 + fmtE f + fmtM f

/-- The format index of the exception counters, equal to the FMT code of 05 R112 (07 R184). -/
def fmtIdx : Fmt → Nat
  | .f32 => 3 | .f16 => 4 | .bf16 => 5 | .e4m3 => 6 | .e5m2 => 7 | .e2m1 => 8

/-- The canonical NaN (07 R162); E2M1 has no NaN and delivers +0 (R170). -/
def canonNaN : Fmt → Nat
  | .f32 => 0x7FC00000 | .f16 => 0x7E00 | .bf16 => 0x7FC0 | .e5m2 => 0x7E | .e4m3 => 0x7F | .e2m1 => 0

/-- The magnitude code of the largest finite value (07 R159). -/
def maxCode : Fmt → Nat
  | .f32 => 0x7F7FFFFF | .f16 => 0x7BFF | .bf16 => 0x7F7F | .e5m2 => 0x7B | .e4m3 => 0x7E | .e2m1 => 7

/-- The magnitude code of infinity, where the format has one. -/
def infCode (f : Fmt) : Nat := (2 ^ fmtE f - 1) * 2 ^ fmtM f

/-- The code with sign and magnitude. -/
def signed (f : Fmt) (neg : Bool) (mag : Nat) : Nat := (if neg then 2 ^ (fmtW f - 1) else 0) + mag

/-- A decoded value: NaN, infinity, or (-1)^neg × m × 2^e. -/
inductive FVal where
  | nan (signalling : Bool)
  | inf (neg : Bool)
  | fin (neg : Bool) (m : Nat) (e : Int)
  deriving DecidableEq, Repr

/-- The value of a code (07 R159, R160, R162). -/
def decodeF (f : Fmt) (code : Nat) : FVal :=
  let c := code % 2 ^ fmtW f
  let neg := bitN c (fmtW f - 1)
  let e := c / 2 ^ fmtM f % 2 ^ fmtE f
  let m := c % 2 ^ fmtM f
  let top := 2 ^ fmtE f - 1
  let fin := if e = 0 then FVal.fin neg m (1 - (fmtBias f : Int) - fmtM f)
             else .fin neg (2 ^ fmtM f + m) ((e : Int) - fmtBias f - fmtM f)
  match f with
  | .e2m1 => fin
  | .e4m3 => if e = top ∧ m = 7 then .nan false else fin
  | _ => if e = top then (if m = 0 then .inf neg else .nan (!bitN m (fmtM f - 1))) else fin

/-- Rounding modes of 07 R169, and stochastic rounding with the generator value (R172). -/
inductive RMode where
  | rne | rtz | rup | rdn
  | sr (x : Nat)
  deriving DecidableEq, Repr

/-- The mode of a 2-bit RND field (07 R169). -/
def rmode (c : BitVec 2) : RMode :=
  if c = 0 then .rne else if c = 1 then .rtz else if c = 2 then .rup else .rdn

/-- 2^e as a fraction. -/
def pow2Q (e : Int) : Nat × Nat := if 0 ≤ e then (2 ^ e.toNat, 1) else (1, 2 ^ (-e).toNat)

/-- ⌊log2 (n ÷ d)⌋ for n, d > 0. -/
def ilog2Q (n d : Nat) : Int :=
  let k : Int := (n.log2 : Int) - d.log2
  let p := pow2Q k
  if n * p.2 ≥ d * p.1 then k else k - 1

/-- Rounds n ÷ d to a multiple of 2^u under the mode: the integer multiple and whether it is inexact. -/
def roundUnit (mode : RMode) (neg : Bool) (n d : Nat) (u : Int) : Nat × Bool :=
  let p := pow2Q u
  let num := n * p.2
  let den := d * p.1
  let q := num / den
  let r := num % den
  let up : Bool := match mode with
    | .rne => decide (2 * r > den) || (2 * r == den && q % 2 == 1)
    | .rtz => false
    | .rup => !neg && r != 0
    | .rdn => neg && r != 0
    | .sr x => r * 2 ^ 24 / den + x % 2 ^ 24 ≥ 2 ^ 24
  (if up then q + 1 else q, r != 0)

/-- An exact result: a NaN (with the invalid flag), an infinity, a signed zero, or (-1)^neg × n ÷ d. -/
inductive Ex where
  | nan (invalid : Bool)
  | inf (neg : Bool)
  | zero (neg : Bool)
  | num (neg : Bool) (n d : Nat)
  deriving DecidableEq, Repr

/-- The five sticky flags, bit i is ei (07 R176). -/
abbrev Flags := BitVec 5
/-- e0 invalid. -/
def flagNV : Flags := 1
/-- e1 divide-by-zero. -/
def flagDZ : Flags := 2
/-- e2 overflow. -/
def flagOF : Flags := 4
/-- e3 underflow. -/
def flagUF : Flags := 8
/-- e4 inexact. -/
def flagNX : Flags := 16

/-- An event of 07 R184: format index and 0 NAN, 1 INF, 2 OVF, 3 UDF. -/
abbrev Event := Nat × Nat

/-- A delivered result: code, flags, and the events of its destination (07 R170, R176, R184). -/
structure Out where
  code : Nat
  flags : Flags := 0
  events : List Event := []
  deriving DecidableEq, Repr

/-- What an overflow delivers (07 R170, R172). -/
def overflowCode (f : Fmt) (mode : RMode) (sat neg : Bool) : Nat :=
  match f with
  | .e2m1 => signed f neg (maxCode f)
  | .e4m3 => if sat then signed f neg (maxCode f) else canonNaN f
  | _ =>
    if sat then signed f neg (maxCode f)
    else match mode with
      | .rtz => signed f neg (maxCode f)
      | .rup => if neg then signed f neg (maxCode f) else signed f neg (infCode f)
      | .rdn => if neg then signed f neg (infCode f) else signed f neg (maxCode f)
      | _ => signed f neg (infCode f)

/-- The value `q` × 2^`u` as a magnitude code, for q at most 2^(M+1). -/
def magCode (f : Fmt) (q : Nat) (u : Int) : Nat :=
  if q < 2 ^ fmtM f then q
  else if q = 2 ^ (fmtM f + 1) then ((u + 1 + fmtM f + fmtBias f).toNat) * 2 ^ fmtM f
  else ((u + fmtM f + fmtBias f).toNat) * 2 ^ fmtM f + (q - 2 ^ fmtM f)

/-- A rounded magnitude above the largest finite value (07 R169). -/
def isOverflow (f : Fmt) (q : Nat) (u : Int) : Bool :=
  match decodeF f (maxCode f) with
  | .fin _ m e =>
    let a := pow2Q u; let b := pow2Q e
    decide (q * a.1 * b.2 > m * b.1 * a.2)
  | _ => false

/-- Rounds an exact nonzero magnitude and delivers it (07 R169, R170, R172, R176). -/
def roundNum (f : Fmt) (mode : RMode) (sat neg : Bool) (n d : Nat) : Out :=
  let E := ilog2Q n d
  let emin : Int := 1 - (fmtBias f : Int)
  let u := (if E < emin then emin else E) - fmtM f
  let r := roundUnit mode neg n d u
  if isOverflow f r.1 u then
    let nanOut := f == .e4m3 && !sat
    { code := overflowCode f mode sat neg, flags := flagOF ||| flagNX,
      events := (fmtIdx f, 2) :: (if nanOut then [(fmtIdx f, 0)] else []) }
  else
    let t := roundUnit mode neg n d (E - fmtM f)
    let tp := pow2Q (E - fmtM f - emin)
    let tiny : Bool := t.1 * tp.1 < tp.2
    let code := magCode f r.1 u
    let small : Bool := code < 2 ^ fmtM f
    { code := signed f neg code,
      flags := (if r.2 then flagNX else 0) ||| (if tiny && r.2 then flagUF else 0),
      events := if small then [(fmtIdx f, 3)] else [] }

/-- Delivers an exact result of arithmetic in format `f` (07 R169, R170, 11 R270): an infinity passes,
a NaN is canonical. -/
def deliver (f : Fmt) (mode : RMode) (sat : Bool) : Ex → Out
  | .nan nv => { code := canonNaN f, flags := if nv then flagNV else 0 }
  | .inf neg => { code := signed f neg (infCode f) }
  | .zero neg => { code := signed f neg 0 }
  | .num neg n d => if n = 0 then { code := signed f neg 0 } else roundNum f mode sat neg n d

/-- Converts a value to format `f` (07 R170 to R172): NaN and infinite sources by the table. -/
def convertF (f : Fmt) (mode : RMode) (sat : Bool) (v : Ex) : Out :=
  match v with
  | .nan sig =>
    if f = .e2m1 then { code := 0, flags := flagNV }
    else { code := canonNaN f, flags := if sig then flagNV else 0 }
  | .inf neg =>
    let clamp : Out := { code := signed f neg (maxCode f), flags := flagOF ||| flagNX, events := [(fmtIdx f, 2)] }
    match f with
    | .e2m1 => clamp
    | .e4m3 => if sat then clamp else { code := canonNaN f, flags := flagNV, events := [(fmtIdx f, 0)] }
    | _ => if sat then clamp else { code := signed f neg (infCode f) }
  | .zero neg => { code := signed f neg 0 }
  | .num neg n d => if n = 0 then { code := signed f neg 0 } else roundNum f mode sat neg n d

/-- A decoded value as an exact source of a conversion; the NaN's flag is whether it signals. -/
def exOf : FVal → Ex
  | .nan s => .nan s
  | .inf neg => .inf neg
  | .fin neg m e => if m = 0 then .zero neg else .num neg (m * (pow2Q e).1) (pow2Q e).2

/-- The signed numerator over 2^k with exponent `e`: m × 2^(e - k). -/
def scaled (neg : Bool) (m : Nat) (e k : Int) : Int :=
  let x : Int := (m * 2 ^ (e - k).toNat : Nat)
  if neg then -x else x

/-- An exact signed multiple of 2^k, with the sign of an exact zero. -/
def exSum (x : Int) (k : Int) (zeroNeg : Bool) : Ex :=
  if x = 0 then .zero zeroNeg else .num (x < 0) (x.natAbs * (pow2Q k).1) (pow2Q k).2

/-- A value is a signalling NaN. -/
def isSig : FVal → Bool
  | .nan s => s
  | _ => false

/-- A value is a NaN. -/
def isNaN : FVal → Bool
  | .nan _ => true
  | _ => false

/-- a + b exactly (11 R269, R270): an exact zero sum of opposite signs is +0, or -0 under RDN. -/
def addF (mode : RMode) (a b : FVal) : Ex :=
  match a, b with
  | .nan s, y => .nan (s || isSig y)
  | x, .nan s => .nan (s || isSig x)
  | .inf p, .inf q => if p = q then .inf p else .nan true
  | .inf p, _ => .inf p
  | _, .inf q => .inf q
  | .fin p m e, .fin q n f =>
    if m = 0 ∧ n = 0 then .zero (if p = q then p else decide (mode = .rdn))
    else
      let k := if e < f then e else f
      exSum (scaled p m e k + scaled q n f k) k (decide (mode = .rdn))

/-- The negation of a value; a NaN stays. -/
def negF : FVal → FVal
  | .nan s => .nan s
  | .inf n => .inf (!n)
  | .fin n m e => .fin (!n) m e

/-- a × b exactly. -/
def mulF (a b : FVal) : Ex :=
  match a, b with
  | .nan s, y => .nan (s || isSig y)
  | x, .nan s => .nan (s || isSig x)
  | .inf p, .inf q => .inf (p != q)
  | .inf p, .fin q m _ => if m = 0 then .nan true else .inf (p != q)
  | .fin p m _, .inf q => if m = 0 then .nan true else .inf (p != q)
  | .fin p m e, .fin q n f =>
    if m * n = 0 then .zero (p != q)
    else .num (p != q) (m * n * (pow2Q (e + f)).1) (pow2Q (e + f)).2

/-- a × b + c with no rounding between (11 R269, R270). -/
def fmaF (mode : RMode) (a b c : FVal) : Ex :=
  let sig := isSig a || isSig b || isSig c
  match a, b with
  | .nan _, _ => .nan sig
  | _, .nan _ => .nan sig
  | .fin p m e, .fin q n f => 
    match c with
    | .nan s => .nan (s || sig)
    | c => addF mode (.fin (p != q) (m * n) (e + f)) c
  | x, y =>
    match mulF x y with
    | .nan _ => .nan true
    | .inf p => match c with
      | .nan s => .nan s
      | .inf q => if p = q then .inf p else .nan true
      | _ => .inf p
    | r => r

/-- Compares two non-NaN values: a < b, with -0 equal to +0. -/
def ltF (a b : FVal) : Bool :=
  match a, b with
  | .nan _, _ => false
  | _, .nan _ => false
  | .inf p, .inf q => p && !q
  | .inf p, .fin .. => p
  | .fin .., .inf q => !q
  | .fin p m e, .fin q n f =>
    let k := if e < f then e else f
    scaled p m e k < scaled q n f k

/-- Equality of two values, false with a NaN. -/
def eqF (a b : FVal) : Bool := !isNaN a && !isNaN b && !ltF a b && !ltF b a

/-- The sign bit of a non-NaN value. -/
def negOf : FVal → Bool
  | .nan _ => false
  | .inf n => n
  | .fin n _ _ => n

/-- A value is a zero. -/
def isZeroF : FVal → Bool
  | .fin _ m _ => m == 0
  | _ => false

/-- -0 orders below +0 (11 R271, 03 R74). -/
def ltZ (a b : FVal) : Bool := ltF a b || (isZeroF a && isZeroF b && negOf a && !negOf b)

/-- A code is subnormal in its format. -/
def isSubnormal (f : Fmt) (code : Nat) : Bool :=
  code / 2 ^ fmtM f % 2 ^ fmtE f == 0 && code % 2 ^ fmtM f != 0

/-- The flush-to-zero formats of 07 R175. -/
def ftzFmt : Fmt → Bool
  | .f32 => true | .f16 => true | .bf16 => true | _ => false

/-- An operand under flush-to-zero: a subnormal reads as zero of its sign (07 R175). -/
def ftzIn (ftz : Bool) (f : Fmt) (code : Nat) : Nat :=
  if ftz && ftzFmt f && isSubnormal f code then signed f (bitN code (fmtW f - 1)) 0 else code % 2 ^ fmtW f

/-- A result under flush-to-zero: a subnormal becomes zero of its sign and sets e3 and e4 (07 R175). -/
def ftzOut (ftz : Bool) (f : Fmt) (o : Out) : Out :=
  if ftz && ftzFmt f && isSubnormal f o.code then
    { code := signed f (bitN o.code (fmtW f - 1)) 0, flags := o.flags ||| flagUF ||| flagNX,
      events := if o.events.contains (fmtIdx f, 3) then o.events else (fmtIdx f, 3) :: o.events }
  else o

/-- A code's value under flush-to-zero. -/
def opF (ftz : Bool) (f : Fmt) (code : Nat) : FVal := decodeF f (ftzIn ftz f code)

/-- RoundRNE_F32 of an exact value (10 R252). -/
def rneF32 (v : Ex) : Nat := (deliver .f32 .rne false v).code

/-- The integer square root by bits, from bit `k - 1` down. -/
def isqrtFrom : Nat → Nat → Nat → Nat
  | 0, _, acc => acc
  | k + 1, n, acc => let c := acc + 2 ^ k; isqrtFrom k n (if c * c ≤ n then c else acc)

/-- √a exactly enough to round in any format: a fraction with a sticky last bit (11 R279). -/
def sqrtF (a : FVal) : Ex :=
  match a with
  | .nan s => .nan s
  | .inf n => if n then .nan true else .inf false
  | .fin n m e =>
    if m = 0 then .zero n
    else if n then .nan true
    else
      let odd := e % 2 != 0
      let e' := if odd then e - 1 else e
      let m' := (if odd then 2 * m else m) * 2 ^ 64
      let r := isqrtFrom 64 m' 0
      let num := 2 * r + (if r * r = m' then 0 else 1)
      let p := pow2Q (e' / 2)
      .num false (num * p.1) (2 ^ 33 * p.2)

/-- The rounded integral value of n ÷ d under a mode (11 R274, 07 R171). -/
def roundInt (mode : RMode) (neg : Bool) (n d : Nat) : Nat × Bool := roundUnit mode neg n d 0

/-- Conversion of an exact value to a `w`-bit integer type (07 R171): code, flags, whether an end of
the range was delivered in place of the value. A finite value that is rounded sets e4 (R176). -/
def toIntTy (w : Nat) (sgn : Bool) (mode : RMode) (v : Ex) : Nat × Flags × Bool :=
  let lo : Int := if sgn then -(2 ^ (w - 1) : Nat) else 0
  let hi : Int := if sgn then (2 ^ (w - 1) : Nat) - 1 else (2 ^ w : Nat) - 1
  match v with
  | .nan _ => (0, flagNV, false)
  | .inf neg => (wrapZ w (if neg then lo else hi), flagNV, true)
  | .zero _ => (0, 0, false)
  | .num neg n d =>
    let r := roundInt mode neg n d
    let x : Int := if neg then -(r.1 : Int) else r.1
    if x < lo then (wrapZ w lo, flagNV ||| flagNX, true)
    else if hi < x then (wrapZ w hi, flagNV ||| flagNX, true)
    else (wrapZ w x, if r.2 then flagNX else 0, false)

/-- The underflow event of a conversion to an integer: a nonzero value is delivered as zero, no end of the range (07 R184;
DEDUCED, log entry 81). -/
def toZero (idx : Nat) (v : Ex) (r : Nat × Flags × Bool) : List Event :=
  match v with
  | .num _ n _ => if n ≠ 0 ∧ r.1 = 0 ∧ r.2.2 = false then [(idx, 3)] else []
  | _ => []

/-- An integer as an exact value. -/
def exInt (x : Int) : Ex := if x = 0 then .zero false else .num (x < 0) x.natAbs 1

/-- One advance of a lane's generator (07 R173). -/
def xorshift (x0 : Word) : Word :=
  let x1 := x0 ^^^ (x0 <<< 13)
  let x2 := x1 ^^^ (x1 >>> 17)
  x2 ^^^ (x2 <<< 5)

/-- The generator state of a lane when its sheet is made resident (07 R173). -/
def genSeed (seed taskId sheetId lane : Nat) : Word :=
  let i := (taskId * 64 + sheetId) * 32 + lane
  let x := BitVec.ofNat 32 seed ^^^ BitVec.ofNat 32 (i * 0x9E3779B9)
  if x = 0 then 0x6D2B79F5 else x

/-- The value of an E8M0 scale code (07 R163). -/
def decodeE8M0 (c : Nat) : FVal := if c % 256 = 255 then .nan false else .fin false 1 ((c % 256 : Nat) - 127)

end Sys2Proof.Machine
end

