-- ==== Sys2Proof/Machine/Tab.lean ====
section
/-!
DEFINITION. Tables keyed by a number: lists of (key, value) pairs with keys strictly rising. A value
table leaves out every key that holds the value an unlisted key reads as, so equal tables are equal
lists; a record table (`tput`) keeps every key it was given.
-/
namespace Sys2Proof.Machine

/-- A sparse table keyed by numbers. -/
abbrev Tab (α : Type) := List (Nat × α)

/-- The entry at `k`, if the table lists it. -/
def tfind {α : Type} : Tab α → Nat → Option α
  | [], _ => none
  | (i, v) :: t, k => if i = k then some v else tfind t k

/-- What the table reads at `k`, with `d` for an unlisted key. -/
def tget {α : Type} (d : α) (t : Tab α) (k : Nat) : α := (tfind t k).getD d

/-- Lists `v` at `k`, keys rising. -/
def tput {α : Type} : Tab α → Nat → α → Tab α
  | [], k, v => [(k, v)]
  | (i, w) :: t, k, v =>
    if k < i then (k, v) :: (i, w) :: t
    else if k = i then (k, v) :: t
    else (i, w) :: tput t k v

/-- Removes key `k`. -/
def tdel {α : Type} : Tab α → Nat → Tab α
  | [], _ => []
  | (i, w) :: t, k => if i = k then tdel t k else (i, w) :: tdel t k

/-- Writes `v` at `k`; a value equal to the default `d` is not listed. -/
def tset {α : Type} [DecidableEq α] (d : α) (t : Tab α) (k : Nat) (v : α) : Tab α :=
  if v = d then tdel t k else tput t k v

/-- The keys are strictly rising. -/
def tsorted {α : Type} : Tab α → Bool
  | [] => true
  | [_] => true
  | (i, _) :: (j, w) :: t => i < j && tsorted ((j, w) :: t)

/-- The canonical form of a value table: keys strictly rising and no entry equal to the default. -/
def twf {α : Type} [DecidableEq α] (d : α) (t : Tab α) : Bool := tsorted t && t.all (fun e => e.2 ≠ d)

end Sys2Proof.Machine
end

