-- ==== Sys2Proof/Machine/State.lean ====
section
/-!
DEFINITION. The state of one Ghelith G512 package, as plain data: everything the manual gives it, and
the model's own bookkeeping (`agenda`, `work`, `cur`, `free`, `nextId`). Tables list what has been
touched; an unlisted key reads as the reset value.
-/
namespace Sys2Proof.Machine

/-- Why the model stops. No instruction of a program raises either. -/
inductive Fault where
  /-- raised by an instruction's meaning when `State.cur` names no leaf that could issue it; no step
  reaches it. Safe: nothing issues. -/
  | noIssuer
  /-- raised by `step` once bring-up has stopped at a mandatory step (20 R461): no function enumerates
  and nothing runs. Safe: the device does nothing. -/
  | bringUpStopped
  deriving DecidableEq, Repr

/-- Why the model refuses an instruction. -/
inductive Refusal where
  /-- the arm of `exec` for this row has no meaning yet. Safe. -/
  | notModelled (mnemonic : String)
  deriving DecidableEq, Repr

/-- What a leaf that may not issue waits for (06 R146). -/
inductive Wait where
  /-- a tag of the core (05 R127) -/
  | tag (t : Nat)
  /-- some tag of a mask, or every tag of it (12 R330) -/
  | tagAny (m : DWord) | tagAll (m : DWord)
  /-- results or earlier accesses still outstanding (10 R239, 17 R227) -/
  | results (ids : List Nat)
  /-- a ring slot to be filled, or to be released (05 R130) -/
  | ringSlot (ring ahead : Nat) | ringRoom (ring : Nat)
  /-- room in the cluster's copy queue (05 R122) -/
  | copyRoom
  /-- room for n operations in the pass queue (08 R192, R202) -/
  | passRoom (n : Nat)
  /-- no CBSET pending on the bank (13 R346); no quarter operation that captured it -/
  | bank (b : Nat) | bankUse (b : Nat)
  /-- a reduction round to free (13 R350) -/
  | roundRoom
  /-- page walks in flight for this leaf (02 R34) -/
  | walks
  /-- room in the die's full miss queue: the core's memory pipeline stalls (02 R34) -/
  | walkRoom
  /-- the answers of peers to an issuing instruction's requests (19 R458) -/
  | link (op : Nat)
  /-- the current phase of a gathering to end (14 R358) -/
  | phase (handle : Word)
  /-- a counter's target, with the deadline in ticks or none (14 R369) -/
  | counter (cid : Nat) (target : DWord) (deadline : Option Nat)
  /-- room in a mailbox: the firmware's, or a function's host mailbox (14 R376) -/
  | mailbox (fn : Option Nat)
  /-- a gathering tag that is HELD, until its recorded phase ends (14 R362) -/
  | held (t : Nat)
  /-- at YIELD of a PREEMPT handler, until the sheet leaves residency (17 R427) -/
  | yielded
  /-- pool entries for the rebuild at an RTT.retry of a RESUME leaf (17 R428) -/
  | rebuild
  deriving DecidableEq, Repr

/-- The state of a leaf (06 R146). -/
inductive LeafSt where
  | ready
  | blocked (w : Wait)
  /-- since the given ac -/
  | splitStalled (since : Nat)
  /-- at a JOIN whose range begins at `low` -/
  | joining (low : DWord)
  | parked
  | trapped
  deriving DecidableEq, Repr

/-- A fetch line that a leaf has fetched and checked: its virtual address and 64 bytes (10 R232). -/
structure Fetched where
  va : Nat
  bytes : List Byte
  deriving DecidableEq, Repr

/-- A fault record of the core-control region (17 R419). -/
structure FaultRec where
  v : Bool := false
  kleaf : Bool := false
  klaunch : Bool := false
  prin : Bool := false
  cause : Nat := 0
  status : Nat := 0
  lanes : Mask := 0
  pc : DWord := 0
  lmask : Mask := 0
  v2 : Bool := false
  cause2 : Nat := 0
  status2 : Nat := 0
  replay : Mask := 0
  bank : Tab DWord := []
  addr : Tab DWord := []
  /-- the TGT check of `pc` is still to be made (10 R233) -/
  tgt : Bool := false
  deriving DecidableEq, Repr

/-- An entry of the leaf table (06 R145). `slot` is the sheet's residency slot, `age` the run-start age
and `since` the ac from which it has been ready (16 R411); `inRun` and `runLen` place it in a run
(R154), `nextIssue` is the earliest ac of its next issue (10 R239); `checkTgt` asks for the TGT check
at its next fetch (10 R233); `handler` is the cause whose handler it runs, `priv` whether it is privileged (R238). -/
structure Leaf where
  slot : Nat
  pc : DWord
  mask : Mask
  st : LeafSt := .ready
  inRun : Bool := false
  runLen : Nat := 0
  age : Nat := 0
  since : Nat := 0
  nextIssue : Nat := 0
  priv : Bool := false
  handler : Nat := 0
  line : Option Fetched := none
  checkTgt : Bool := false
  /-- the accesses that leaves which have merged made before the merge: they stand before every later one (06 R151) -/
  before : List Nat := []
  /-- the issue at which a parked leaf's lanes faulted, as `Acc.issue` (02 R38) -/
  issue : Nat := 0
  /-- a LEAF-EXHAUSTED that waits for the leaf's other accesses (06 R149, 09 R227) -/
  pend : Option FaultRec := none
  /-- released from the `JOIN` at its PC, which lets it pass (06 R152) -/
  joined : Bool := false
  deriving DecidableEq, Repr

/-- A membership slot of a sheet (15 R384). -/
structure Member where
  handle : Word := 0
  member : Mask := 0
  joining : Mask := 0
  arrived : Mask := 0
  owed : Mask := 0
  /-- The outcome that the owed lanes receive, and its phase (15 R389, R390). -/
  oweSt : BitVec 4 := 0
  owePhase : Nat := 0
  deriving DecidableEq, Repr

/-- An entry of the leaf list (17 R420): byte 12 is 0 empty, 1 live, 2 parked. -/
structure ListEntry where
  pc : DWord := 0
  mask : Mask := 0
  kind : Nat := 0
  deriving DecidableEq, Repr

/-- A result that a reader may not see yet (10 R239): the operand code written, the lanes, the values
before the write by lane, the ac of issue and the ac from which it can be read; `sets` for an instruction that
raises a flag, the lanes in which it does (11 R287). A sheet lists its latest result first. -/
structure InFlight where
  code : Nat
  mask : Mask
  old : List DWord
  issued : Nat
  ready : Nat
  sets : Option Mask := none
  deriving DecidableEq, Repr

/-- A resident sheet (06 R134, R143): who owns it, its allocation and its registers. `preds` and `flags`
hold a lane mask for each of p0..p6 and e0..e4; `gone` the lanes that have left by EXIT or a kill. -/
structure Sheet where
  ctx : Nat
  launch : Nat
  task : Nat
  index : Nat
  base : Nat
  nregs : Nat
  tbase : Nat
  ntags : Nat
  ftz : Bool := false
  chk : Bool := false
  s : Tab DWord := []
  h : Tab Word := []
  preds : Tab Mask := []
  flags : Tab Mask := []
  gen : Tab Word := []
  slots : Tab Member := []
  list : Tab ListEntry := []
  resumew : DWord := 0
  gone : Mask := 0
  inflight : List InFlight := []
  /-- a PREEMPT has been asked for: 1 schedule, 2 cancel (17 R416) -/
  preempt : Nat := 0
  /-- when a cancel asked for it, in ticks (16 R412) -/
  preemptAt : Nat := 0
  deriving DecidableEq, Repr

/-- The kind of operation that last made a tag pending. -/
inductive TagOp where
  | none | copy | tdget | gathering | other
  deriving DecidableEq, Repr

/-- A tag of a core (05 R127, 14 R358, R373). -/
structure Tag where
  ready : Bool := true
  status : BitVec 4 := 0
  op : TagOp := .none
  va : DWord := 0
  handle : Word := 0
  phase : Nat := 0
  gstatus : BitVec 4 := 0
  value : Word := 0
  /-- one past the ac in which it was last made pending, and the status that it had before (10 R241) -/
  wasAt : Nat := 0
  was : BitVec 4 := 0
  deriving DecidableEq, Repr

/-- A cached translation (02 R32): context, virtual base, size in bytes, and the leaf entry. -/
structure TlbEntry where
  ctx : Nat
  base : Nat
  size : Nat
  pte : DWord
  deriving DecidableEq, Repr

/-- The outcome of a walk that faulted, kept for the leaf that waits on it (02 R33, R34): the core and
the leaf-table entry, context and 64 KiB page, and the status of PAGE. -/
structure WalkFault where
  entry : Nat
  ctx : Nat
  page : Nat
  status : Nat
  deriving DecidableEq, Repr

/-- A walk in flight or waiting (02 R34): context, 64 KiB page, the next level to read, the table that
it reads next, and the core and leaf entries that wait on it. -/
structure Walk where
  id : Nat
  ctx : Nat
  page : Nat
  level : Nat
  table : Nat
  cluster : Nat
  waiters : List (Nat × Nat)
  deriving DecidableEq, Repr

/-- The walkers of a die (02 R32). -/
structure Die where
  active : List Walk := []
  missed : List Walk := []
  walkCache : List (Nat × DWord) := []
  deriving DecidableEq, Repr

/-- A quarter operation of the pass queue (08 R190, R192): the task and sheet that issued it, its
quarter and opcode, the captured images and codebook banks, its operands and tile, and the tag. `tile`
is numbered from the task's first tile. -/
structure QOp where
  id : Nat
  ctx : Nat
  launch : Nat
  task : Nat
  sheet : Nat
  slot : Nat
  quarter : Nat
  sparse : Bool
  imgA : List DWord
  imgB : List DWord
  idB : Nat
  bankA : Nat
  bankB : Nat
  xa : Nat
  xb : Nat
  k0 : Nat
  m0 : Nat
  n0 : Nat
  tile : Nat
  tag : Nat
  group : Nat
  spoiled : Bool := false
  idA : Nat := 0
  /-- the status that its tag had gathered when `MXSAVE` took it out -/
  prior : Nat := 0
  deriving DecidableEq, Repr

/-- The running pass of an array: the fused operations and the step reached (08 R192, R199). -/
structure Pass where
  ops : List Nat
  step : Nat
  /-- the ac from which it has run on from `step` -/
  since : Nat := 0
  deriving DecidableEq, Repr

/-- Where the bytes of a window lie: in the core's own scratchpad or accumulator memory, in the scratchpad or the accumulator
memory of a core, in its registers, or in memory, by storage address. `saved` marks the tile of an operation that `MXSAVE` has taken, which is defined as
long as its tag is not consumed, and `lost` one whose tag was consumed before `MXREST` (08 R200). -/
inductive WinAt where
  | own
  | saved
  | lost
  | chip (core : Nat)
  | regs (core : Nat)
  | mem
  deriving DecidableEq, Repr

/-- An undefined window of 08 R197 and 13 R352: bytes of the scratchpad, the accumulator memory or memory that
are undefined to other accesses until the tag is consumed; or, with `wr`, bytes of a copy that no store may reach until its
completion is acquired (05 R125). -/
structure Window where
  tag : Nat
  op : Nat
  acc : Bool
  lo : Nat
  hi : Nat
  /-- the descriptors that the operation captured, as context × 1,024 + id -/
  ids : List Nat := []
  at' : WinAt := .own
  /-- only stores matter -/
  wr : Bool := false
  /-- the residency slot of the sheet that issued the copy, and the ring and slot that it fills -/
  slot : Nat := 0
  ring : Option (Nat × Nat) := none
  /-- the ranges of a copy's window that stores have reached -/
  hits : List (Nat × Nat) := []
  deriving DecidableEq, Repr

/-- What an outstanding access does (12 R300, R301, R305, R308). -/
inductive AccKind where
  | load | store | atom | red | prefR | prefW
  /-- an engine's read or write that brings its line to the cluster cache (04 R90), and a fetch that does (04 R92) -/
  | engR | engW | fetch
  deriving DecidableEq, Repr

/-- An outstanding access of one lane: its instruction, its place and its operands. `deps` are the
earlier accesses that must perform first (09 R208, R212). `live` marks the result words still to be written,
`msg` is the coherence message sent for it, `fail` the HOST-ATOMIC status it met (02 R45). -/
structure Acc where
  id : Nat
  kind : AccKind
  core : Nat
  slot : Nat
  lane : Nat
  pc : DWord
  pa : Nat
  va : DWord
  bytes : Nat
  pte : DWord
  uncached : Bool
  ord : BitVec 2
  scope : BitVec 3
  evp : BitVec 3
  subop : BitVec 7
  cls : BitVec 3
  dst : Opd
  live : BitVec 8
  d : Nat
  c : Nat
  deps : List Nat
  sent : Bool := false
  msg : Nat := 0
  fail : Nat := 0
  attempt : Nat := 0
  seen : Nat := 0
  deadline : Nat := 0
  /-- one number for the accesses of one issue of an instruction -/
  issue : Nat := 0
  /-- a part of an access that is wider than what is single-copy atomic at its place (09 R210) -/
  part : Bool := false
  /-- stores that a release is ordered after at its scope, which it need not wait for (09 R212, R213) -/
  soft : List Nat := []
  deriving DecidableEq, Repr

/-- A release that has performed before stores that it is ordered after: its bytes, its lane and scope, and those stores. Readers that
its scope covers wait for them (09 R206, R212, R213). -/
structure Owed where
  pa : Nat
  bytes : Nat
  core : Nat
  slot : Nat
  lane : Nat
  scope : BitVec 3
  ids : List Nat
  deriving DecidableEq, Repr

/-- One core (01 R13). -/
structure Core where
  cycles : Nat := 0
  leaves : Tab Leaf := []
  recs : Tab FaultRec := []
  sheets : Tab Sheet := []
  regs : Tab Word := []
  regPoison : Tab Bool := []
  scr : Tab Byte := []
  scrPoison : Tab Bool := []
  acc : Tab Byte := []
  accPoison : Tab Bool := []
  bank0 : Tab (BitVec 16) := []
  bank1 : Tab (BitVec 16) := []
  bankSel : Bool := false
  cecnt : Word := 0
  tags : Tab Tag := []
  queue : List QOp := []
  pass : Option Pass := none
  /-- passes that `MXREST` has placed and that go on from their steps (08 R202) -/
  resume : List Pass := []
  /-- the tasks (context, launch, task) for which the array is frozen, and those for which it is to freeze at its next step boundary (08
  R199) -/
  frozen : List (Nat × Nat × Nat) := []
  freezing : List (Nat × Nat × Nat) := []
  /-- the ranges of the scratchpad that copies have filled, from their destinations (08 R189) -/
  dests : List (Nat × Nat) := []
  /-- the ac at which the head entered an idle array (08 R192) -/
  headAt : Nat := 0
  emptyAt : Nat := 0
  token : Bool := false
  tlb : List TlbEntry := []
  walkFaults : List WalkFault := []
  l1 : List Nat := []
  icache : List Nat := []
  windows : List Window := []
  isCount : Nat := 0
  msCount : Nat := 0
  gstep : Nat := 0
  /-- when the governor's window began, in ticks (18 R437) -/
  windowAt : Nat := 0
  /-- 1 while STEP has been at least NTSTEP since the window began (18 R436) -/
  ntWindows : Nat := 0
  /-- the island slews, since when, and the STEP that it left (18 R436) -/
  slewing : Bool := false
  slewAt : Nat := 0
  slewFrom : Nat := 0
  nearThreshold : Bool := false
  /-- one past the ac of the last issue, and the part of an ac that has passed, in sixteenths -/
  lastIssue : Nat := 0
  frac : Nat := 0
  deriving DecidableEq, Repr

/-- What an array image holds (08 R200 to R202): its operations, with `slot` 0 and `tag` counted from TBASE, and the passes in
progress with their steps. Its bytes in memory are opaque. -/
structure ArrayImage where
  id : Nat
  ops : List QOp
  runs : List Pass
  /-- what each operation's tile held (08 R202) -/
  tiles : List (List Byte) := []
  deriving DecidableEq, Repr

/-- The states of a line in an agent (03 R51). -/
inductive Moesic where
  | m | o | e | s | c
  deriving DecidableEq, Repr

/-- A line of a cluster cache: bytes, poisoned words, protection level (03 R51, 04 R88, R93). For a
partial (state C), bit i of `has` says whether element i holds a value. The list order of a cache is
its recency order, most recent first. -/
structure CLine where
  line : Nat
  st : Moesic
  data : List Byte
  poison : BitVec 16
  prot : Nat
  pte : DWord
  has : Nat := 0
  /-- when its agent last sent a message for it (03 R67) -/
  renewed : Nat := 0
  deriving DecidableEq, Repr

/-- A ring (05 R129, R130, 12 R326): its two words and the task that owns it. -/
structure Ring where
  w0 : DWord := 0
  w1 : DWord := 0
  owner : Option (Nat × Nat × Nat) := none
  /-- slots whose copy has completed and that WP has not passed -/
  finished : List Nat := []
  deriving DecidableEq, Repr

/-- What one core contributed to a round (13 R350): the rows of O, m and l as FP32 codes. -/
structure Contribution where
  core : Nat
  j : Nat
  j2 : Nat
  tag : Nat
  slot : Nat
  o : List (List Word)
  m : List Word
  l : List Word
  poisoned : Bool
  op : Nat := 0
  spoiled : Bool := false
  deriving DecidableEq, Repr

/-- A round of the cluster reduction unit (13 R350). -/
structure Round where
  id : Nat
  ctx : Nat
  launch : Nat
  task : Nat
  number : Nat
  mask : BitVec 4
  parts : List Contribution
  deriving DecidableEq, Repr

/-- One cluster (01 R14). -/
structure Cluster where
  cache : List CLine := []
  tlb : List TlbEntry := []
  rings : Tab Ring := []
  rounds : List Round := []
  energy : Nat := 0x493E
  current : Nat := 0x088B
  deriving DecidableEq, Repr

/-- A stitch (03 R52). -/
structure Stitch where
  set : Nat
  way : Nat
  line : Nat
  mask : BitVec 5
  root : Nat
  home : Nat
  tile : Bool := false
  own : Bool := false
  unpk : Bool := false
  comm : Bool := false
  cfmt : BitVec 2 := 0
  cop : BitVec 2 := 0
  rnwd : BitVec 5 := 0
  lwin : Nat := 0
  /-- the interleave mode of the page by which the line was named, for LINE -/
  imode : Nat := 0
  deriving DecidableEq, Repr

/-- A router: its stitches, most recently used first (03 R63). -/
structure Router where
  stitches : List Stitch := []
  deriving DecidableEq, Repr

/-- The kinds of coherence message (03). -/
inductive MsgKind where
  | read | readResp | write | inval | invalAck | grant | prune | dropNotice | anchorRelease
  | foldDelivery | join | joinResp | commRead | gatherStart | collect | unpickReq | renewal
  | branchLoss | leaseLost | rangeFlush | rangeInv
  deriving DecidableEq, Repr

/-- A coherence message at router `at`, arrived by port `port` (0 is L): its line and home, the agent
that asked for it (a router index), the path it has taken (router and arrival port, latest first), and
what it carries. -/
structure Msg where
  id : Nat
  kind : MsgKind
  line : Nat
  at' : Nat
  port : Nat
  home : Nat
  src : Nat
  path : List (Nat × Nat) := []
  steered : Bool := false
  uncached : Bool := false
  reroute : Bool := false
  data : Option (List Byte) := none
  poison : BitVec 16 := 0
  has : Nat := 0
  st : Moesic := .s
  pte : DWord := 0
  ev6 : Bool := false
  aux : Nat := 0
  /-- the stitch that makes room for it at this router: twice its line, plus one for a tile's (03 R63) -/
  evict : Option Nat := none
  /-- an acknowledgement through a branch that expired with the anchor's data or a partial (03 R72) -/
  lost : Bool := false
  deriving DecidableEq, Repr

/-- An unpick, invalidation or collect in progress at a router: where it came from, the ports not yet
acknowledged, and the data returned so far (03 R59, R64). `why` is 0 an invalidation, 1 a partial
unpicking of its own, 2 the home's own transaction. -/
structure Unpick where
  router : Nat
  line : Nat
  port : Nat
  left : BitVec 5
  data : Option (List Byte) := none
  poison : BitVec 16 := 0
  has : Nat := 0
  pte : DWord := 0
  keep : Option Nat := none
  why : Nat := 0
  /-- a branch that carried the anchor's data, or a partial, has expired (03 R72) -/
  lost : Bool := false
  deriving DecidableEq, Repr

/-- The open home transaction of a line (03 R49): the message that opened it. -/
structure HomeTx where
  line : Nat
  msg : Msg
  deriving DecidableEq, Repr

/-- A level's completion counter (06 R157, 16 R404). -/
structure Level where
  value : DWord := 0
  done : Bool := false
  cancelled : Bool := false
  /-- a cancel has started (16 R412) -/
  cancelling : Bool := false
  /-- a launch's tasks (16 R404) -/
  members : Nat := 0
  /-- the closing member has been accepted (16 R404) -/
  closed : Bool := false
  /-- a graph's phase, by its counter id, and a phase's graphs that are to complete, in order of acceptance (16 R404) -/
  up : Nat := 0
  parts : List Nat := []
  /-- a member was cancelled -/
  spoilt : Bool := false
  deriving DecidableEq, Repr

/-- A context (02 R28, 05 R108, 14 R366, 16 R401). -/
structure Ctx where
  root : Nat
  table : Nat
  events : Tab DWord := []
  levels : Tab Level := []
  cdisc : Word := 0
  nextLaunch : Nat := 0
  use : Nat := 0
  overQuota : Bool := false
  overAll : Bool := false
  /-- descriptors changed by other means than `TDSET` while the context had work resident (05 R108) -/
  undef : List Nat := []
  deriving DecidableEq, Repr

/-- Where a launch stands (16 R403, 17 R430). -/
inductive LaunchSt where
  | waiting | eligible | killed | done | cancelled
  deriving DecidableEq, Repr

/-- A task of a launch (16 R405, R406, 17 R427). -/
structure Task where
  index : Nat
  /-- 0 undistributed, 1 resident, 2 yielded, 3 complete, 4 cancelled -/
  st : Nat := 0
  cluster : Nat := 0
  prio : Nat := 0
  scr : Nat := 0
  tile : Nat := 0
  halted : Bool := false
  waitSince : Nat := 0
  barred : Bool := false
  left : Nat := 0
  resume : Tab DWord := []
  preempted : Bool := false
  deriving DecidableEq, Repr

/-- A launch of the graph store (16 R403). `rec'` is the launch record as 32 words. -/
structure Launch where
  ctx : Nat
  index : Nat
  queue : Nat
  rec' : List DWord
  st : LaunchSt := .waiting
  tasks : Tab Task := []
  lastCluster : Nat := 127
  replays : Nat := 0
  pages : List Nat := []
  unrecoverable : Option Nat := none
  /-- accepted after the launch that closes its graph (16 R404) -/
  late : Bool := false
  /-- cause, status and PC of the fault that led to the last kill (19 R450) -/
  killCause : Nat := 0
  killStatus : Nat := 0
  killPc : DWord := 0
  deriving DecidableEq, Repr

/-- What a copy does (05 R120, 12 R324, 13 R348): 0 to own scratch, 1 through the on-chip map, 2 to
memory, 3 out, 4 multicast to the cores of `cores`. `bank` is the codebook bank that it captured, `owner` the task that owned its ring. -/
structure CopyArgs where
  kind : Nat
  img : List DWord
  coords : List Nat
  dest : DWord
  cores : BitVec 4 := 0
  ring : Option (Nat × Nat) := none
  owner : Option (Nat × Nat × Nat) := none
  bank : Nat := 0
  evp : BitVec 3 := 0
  deriving DecidableEq, Repr

/-- One element of a write-back: its address, the merge of a nibble, and its code (07 R181, 12 R318). -/
structure ElemWrite where
  va : DWord
  bytes : Nat
  nibble : Option Bool
  code : Nat
  lane : Nat := 0
  deriving DecidableEq, Repr

/-- An asynchronous operation that completes a tag or a ring slot. -/
inductive AsyncKind where
  | copy (a : CopyArgs)
  | tdset (id : Nat) (img : List DWord)
  | tdget (id : Nat) (va : DWord)
  | stt (ws : List ElemWrite) (status : Nat) (pa : DWord) (issue : Nat)
  | mxst (ws : List ElemWrite) (status : Nat) (pa : DWord)
  | xlate (dst : Opd) (opd : Opd) (img : List DWord) (items : List (Nat × Nat × Nat))
  | fence (ord : BitVec 2) (ids : List Nat)
  | mxrdy (ids : List Nat)
  /-- CFLUSH or CINV; `found` is the status and the first failing address once its lines are on their way -/
  | range (inv : Bool) (asp : Nat) (va : DWord) (len : Nat) (found : Option (Nat × DWord))
  | cbset (bank : Nat) (va : DWord) (first count : Nat)
  | tlbinv (form : Nat) (va : DWord) (count ctx : Nat)
  | rfclr (pa count : Nat)
  | mbox (host : Bool) (va : DWord) (msg : List Byte) (answered : Bool)
  | mxsave (va : DWord) (image : Nat)
  | mxrest (va : DWord)
  deriving DecidableEq, Repr

/-- An operation in progress: who issued it, where its completion goes. -/
structure Async where
  id : Nat
  core : Nat
  slot : Nat
  ctx : Nat
  launch : Nat
  task : Nat
  tag : Nat
  scope : BitVec 3
  mask : Mask
  priv : Bool
  started : Bool := false
  cancelled : Bool := false
  /-- accesses that must perform first (09 R221) -/
  deps : List Nat := []
  kind : AsyncKind
  deriving DecidableEq, Repr

/-- A registered shadow of a home entry (15 R392, 25 R469). -/
structure Shadow where
  dev : Nat
  lanes : Nat := 0
  arrived : Bool := false
  arrLanes : Nat := 0
  /-- its arrival was of another kind (14 R358) -/
  bad : Bool := false
  deriving DecidableEq, Repr

/-- A sheet that has yielded under PREEMPT with members of a gathering (15 R388, R391). -/
structure Away where
  ctx : Nat
  launch : Nat
  task : Nat
  sheet : Nat
  member : Mask
  joining : Mask
  arrived : Mask
  /-- resident again: its RESUME leaf has started -/
  back : Bool := false
  deriving DecidableEq, Repr

/-- An entry of the gathering table (15 R380); `sum`, `nan`, `pinf`, `ninf` hold the exact FP32 sum in
units of 2^-149, `began` the tick of the phase's first arrival, `paused` what R388 has taken out, `leaving`
and `joins` what the end of the phase takes from and adds to `memb` (14 R357). -/
structure GEntry where
  name : Word := 0
  owner : Nat := 0
  gen : Nat := 0
  scope : BitVec 3 := 0
  inst : Nat := 0
  strict : Bool := false
  role : Nat := 0
  pip : Bool := false
  dep : Bool := false
  homedev : Nat := 0
  dl : Nat := 0
  memb : Nat := 0
  arrv : Nat := 0
  phase : Nat := 0
  kind : Nat := 0
  op : Nat := 0
  last : BitVec 4 := 0
  lastph : Nat := 0
  lastval : Word := 0
  acc : Word := 0
  any : Bool := false
  sum : Int := 0
  nan : Bool := false
  pinf : Bool := false
  ninf : Bool := false
  began : Nat := 0
  paused : Nat := 0
  pausedAt : Option Nat := none
  pmax : Nat := 0
  fmarg : Nat := 0
  leaving : Nat := 0
  joins : Nat := 0
  away : List Away := []
  /-- the pause of this phase has reached its cap -/
  capped : Bool := false
  shadows : List Shadow := []
  /-- the handle of the home entry, for a shadow (15 R379) -/
  homeHandle : Word := 0
  ctx : Nat := 0
  told : Bool := false
  deriving DecidableEq, Repr

/-- TDISP states (19 R452). -/
inductive Tdisp where
  | configUnlocked | configLocked | run | error
  deriving DecidableEq, Repr

/-- What one PCIe function holds beside its registers (14 R377, 19 R444, R450, R452): MSI-X enable and
function mask, vectors unmasked and vectors pending (the reset state masks every vector), the host
mailbox, the event sequence number, IDE, TDISP. -/
structure Fn where
  msixEnable : Bool := false
  fmask : Bool := false
  unmasked : List Nat := []
  pending : List Nat := []
  mbox : Tab Byte := []
  mbhead : DWord := 0
  mbtail : DWord := 0
  seq : Nat := 0
  ide : Bool := false
  tdisp : Tdisp := .configUnlocked
  resetting : Bool := false
  deriving DecidableEq, Repr

/-- A port's link (19 R456). -/
structure Port where
  retries : Nat := 0
  lastFlit : Nat := 0
  lastSent : Nat := 0
  deriving DecidableEq, Repr

/-- What an outstanding Emsen request is for (19 R458). -/
inductive EmsenUse where
  | access (acc : Nat)
  | copy (op : Nat)
  | gath (core entry : Nat)
  | tile (line : Nat) (write : Bool) (src : Nat)
  /-- a join, or a plain load, of a peer's commutative line; a collect of a local one's partial at a fabric router -/
  | join (line : Nat)
  | commLoad (line : Nat)
  | collect (line router : Nat)
  deriving DecidableEq, Repr

/-- An outstanding Emsen request with its absolute deadline in ticks (19 R458). -/
structure EmsenReq where
  id : Nat
  dev : Nat
  deadline : Nat
  use : EmsenUse
  /-- the physical bytes that it names, and the answer to it where an operation keeps it until it ends, with the tag status
  where it failed -/
  addr : Nat := 0
  len : Nat := 0
  write : Bool := false
  reply : Option (List Byte) := none
  fail : Nat := 0
  deriving DecidableEq, Repr

/-- A request from a peer about a commutative line that its fabric router's agent is getting: the device, the line, and
whether it is a join (25 R468). -/
structure FabIn where
  router : Nat
  dev : Nat
  line : Nat
  join : Bool
  /-- the first line of a tile granule, asked for a read or a write (03 R79) -/
  tile : Option Bool := none
  deriving DecidableEq, Repr

/-- What the device sends to peers. -/
inductive EmsenOut where
  | request (id dev addr len : Nat) (write : Bool) (data : List Byte) (deadline : Nat)
  | response (dev : Nat) (ok : Bool) (data : List Byte)
  | phaseStart (dev : Nat) (handle : Word) (phase deadline : Nat)
  | phaseBegun (dev : Nat) (handle : Word) (kind op deadline : Nat)
  | arrival (dev : Nat) (handle : Word) (lanes : Nat) (part : Partial) (deadline : Nat)
  | outcome (dev : Nat) (handle : Word) (phase : Nat) (status : BitVec 4) (value : Word) (deadline : Nat)
  | gone (dev : Nat) (handle : Word) (deadline : Nat)
  | count (dev : Nat) (handle : Word) (lanes deadline : Nat)
  | gnew (id dev : Nat) (name : Word) (job dl : Nat) (strict : Bool) (deadline : Nat)
  /-- `GSTAT` (0), `GABORT` (1) or `GFREE` (2) for a gathering homed elsewhere -/
  | gask (id dev : Nat) (handle : Word) (op deadline : Nat)
  /-- a departure under `.strict`, or a kill there, at a shadow (15 R386) -/
  | gbreak (dev : Nat) (handle : Word) (deadline : Nat)
  | gnewReply (dev : Nat) (handle : Word) (status : Nat)
  | gReply (dev : Nat) (word : DWord)
  | tileGrant (dev tile : Nat) (state : Nat) (data : List Byte)
  | tileInval (dev tile : Nat)
  /-- a tile granule goes back to its home (log entry 88) -/
  | tileBack (dev tile : Nat) (data : List Byte)
  | renew (dev count : Nat)
  | join (id dev pa : Nat) (cfmt cop : Nat) (deadline : Nat)
  | commLoad (id dev pa deadline : Nat)
  | fold (dev pa : Nat) (elems : List (Option Word)) (deadline : Nat)
  | collect (id dev pa deadline : Nat)
  | idle (port : Nat)
  deriving DecidableEq, Repr

/-- What the device sends to the host: messages, posted writes, AtomicOps, reads, completions. -/
inductive HostOut where
  | msix (fn vector : Nat)
  | completion (fn tag : Nat) (data : List Byte)
  | unsupported (fn tag : Nat)
  | atomicOp (acc pa op bytes a b : Nat)
  | readReq (acc pa bytes : Nat)
  | tdispReport (fn : Nat) (words : List DWord)
  | tdispError (fn : Nat)
  | tdispOk (fn : Nat)
  deriving DecidableEq, Repr

/-- An event record (19 R449, R450): the receiving function, the kind and the fields. -/
structure EventRec where
  fn : Nat
  kind : Nat
  ctx : Nat := 0
  unit : Nat := 0
  cid : Nat := 0
  pc : DWord := 0
  cause : Nat := 0
  reason : Nat := 0
  status : Nat := 0
  lanes : Mask := 0
  addr : Nat := 0
  arg0 : Nat := 0
  arg1 : Nat := 0
  deriving DecidableEq, Repr

/-- A thermal sensor (18 R440): throttled or not, since when, and since when below TTHR - 3 (R441). -/
structure Sensor where
  throttled : Bool := false
  since : Nat := 0
  coolSince : Option Nat := none
  deriving DecidableEq, Repr

/-- An error that a read of on-chip storage or of HBM finds (04 R107, 06 R139): it comes from outside. -/
inductive Upset where
  /-- a register of a core: uncorrectable, or corrected and counted -/
  | reg (core reg : Nat) (fatal : Bool)
  /-- a 64-bit word of the scratchpad, or with `acc` of the accumulator memory -/
  | chip (core : Nat) (acc : Bool) (word : Nat)
  /-- words of a line that a cluster cache holds -/
  | line (cluster line : Nat) (words : BitVec 16)
  /-- a line in the L1 or the instruction cache of a core -/
  | inner (core line : Nat)
  /-- a 64-bit word of local HBM -/
  | mem (word : Nat)
  deriving DecidableEq, Repr

/-- Storage that mappings in use at the same time leave undefined: with `rows` every byte of the stack rows of index `lo` to
`hi` − 1 (02 R25), else the bytes that the interleave mode puts at the addresses `lo` to `hi` − 1 (04 R91). -/
structure Mixed where
  rows : Bool
  imode : Nat
  lo : Nat
  hi : Nat
  deriving DecidableEq, Repr

/-- An entry of the agenda: time passes, a leaf issues, an event of the device happens, or an error is found. -/
inductive Agendum where
  | lapse (ticks : Nat)
  | issue (core entry : Nat)
  | event (i : Instr)
  | upset (u : Upset)
  deriving DecidableEq, Repr

/-- The state of the package. -/
structure State where
  ticks : Nat := 0
  agenda : List Agendum := []
  work : List Instr := []
  /-- the issuing leaf: core and leaf-table entry -/
  cur : Option (Nat × Nat) := none
  /-- the issuing instruction is the second of a couple (10 R241) -/
  couple : Bool := false
  free : Nat := 0
  nextId : Nat := 0
  mem : List Host.Cell := []
  poison : Tab Bool := []
  flagged : Tab Bool := []
  mixed : List Mixed := []
  cores : Tab Core := []
  clusters : Tab Cluster := []
  dies : Tab Die := []
  routers : Tab Router := []
  msgs : List Msg := []
  unpicks : List Unpick := []
  homeTx : List HomeTx := []
  accs : List Acc := []
  owed : List Owed := []
  regs : Tab DWord := []
  ctxs : Tab Ctx := []
  launches : List Launch := []
  asyncs : List Async := []
  gather : Tab GEntry := []
  tokenWait : List Nat := []
  tokenBar : Bool := false
  sensors : Tab Sensor := []
  thermalStop : Bool := false
  intervalStart : Nat := 0
  fns : Tab Fn := []
  atomicOpEnable : Bool := false
  ports : Tab Port := []
  emsen : List EmsenReq := []
  emsenOut : List EmsenOut := []
  fabIn : List FabIn := []
  hostOut : List HostOut := []
  /-- this device's copies of peers' tiles by tile number, and its own tiles as granted (see `tileState`, `granted`) -/
  tiles : Tab Nat := []
  bootClear : Bool := false
  images : List ArrayImage := []
  stopped : Bool := false
  deriving DecidableEq, Repr

/-- The machine right after reset: bring-up completed with every unit present (log entry 9), no context,
nothing resident, every register at its reset value, memory with nothing listed. -/
def State.reset : State := {}

end Sys2Proof.Machine
end

