-- ==== Sys2Proof/Machine/Regs.lean ====
section
/-!
DEFINITION. The registers of the device control range: where they stand, their reset values, which bits
a write changes, and what a write is checked against (00 R4, 02 R471 and the field maps of 03 R84, 07
R185, 15 R396, 16 R415, 17 R433, 18 R442, 19 R448, R459, 20 R463). Offsets count from
0xE_0000_0000_0000. The parts of a write that reach other state are in RegWrite.lean.
-/
namespace Sys2Proof.Machine

/-- The registers of the device control range. `part f k` is the k-th register of function f (R448). -/
inductive CReg where
  | sclim (n : Nat) | clease | rfcnt (m : Nat) | ctr (b i : Nat) | cxpend (b : Nat)
  | gquota (f : Nat) | gtime | cbudget (c : Nat) | qctl (q : Nat) | sched | cquota (n : Nat)
  | qsnapb (q : Nat) | qsnapc (q : Nat) | preq | roll | ctrap (n : Nat)
  | tokpool | govcfg | ilim | coreclk (n : Nat) | therm (n : Nat)
  | part (f k : Nat) | mbslot (w : Nat) | mbhead | mbtail
  | fabcfg | fport (p : Nat) | fpeer (d : Nat) | froute (n : Nat) | cfabj (n : Nat)
  | cid | cclu0 | cclu1 | cmem | cport | bootrec
  deriving DecidableEq, Repr

/-- The register at an 8-byte aligned offset of the range, if one stands there. -/
def regOf (off : Nat) : Option CReg :=
  let at' (base n : Nat) (k : Nat → CReg) : Option CReg :=
    if base ≤ off ∧ off < base + 8 * n ∧ off % 8 = 0 then some (k ((off - base) / 8)) else none
  if off % 8 ≠ 0 then none
  else if off = 0x201000 then some .clease
  else if off = 0x220200 then some .gtime
  else if off = 0x241000 then some .sched
  else if off = 0x261000 then some .preq
  else if off = 0x261008 then some .roll
  else if off = 0x280000 then some .tokpool
  else if off = 0x280008 then some .govcfg
  else if off = 0x280010 then some .ilim
  else if off = 0x2A1400 then some .mbhead
  else if off = 0x2A1408 then some .mbtail
  else if off = 0x2B0000 then some .fabcfg
  else if off = 0x2D0000 then some .cid
  else if off = 0x2D0008 then some .cclu0
  else if off = 0x2D0010 then some .cclu1
  else if off = 0x2D0018 then some .cmem
  else if off = 0x2D0020 then some .cport
  else if off = 0x2D0100 then some .bootrec
  else if 0x300000 ≤ off ∧ off < 0x300000 + 0x200 * 64 then
    let b := (off - 0x300000) / 0x200
    let i := (off - 0x300000) % 0x200 / 8
    if i < 45 then some (.ctr b i) else if i = 0x30 then some (.cxpend b) else none
  else if 0x260000 ≤ off ∧ off < 0x260000 + 16 * 256 then
    let q := (off - 0x260000) / 16
    if off % 16 = 0 then some (.qsnapb q) else some (.qsnapc q)
  else if 0x2A0000 ≤ off ∧ off < 0x2A0000 + 64 * 64 then
    let k := (off - 0x2A0000) % 64 / 8
    if k < 7 then some (.part ((off - 0x2A0000) / 64) k) else none
  else (at' 0x200000 157 .sclim) <|> (at' 0x201100 24 .rfcnt) <|> (at' 0x220000 64 .gquota) <|>
    (at' 0x240000 128 .cbudget) <|> (at' 0x240800 256 .qctl) <|> (at' 0x250000 4096 .cquota) <|>
    (at' 0x270000 4096 .ctrap) <|> (at' 0x281000 512 .coreclk) <|> (at' 0x282000 136 .therm) <|>
    (at' 0x2A1000 128 .mbslot) <|> (at' 0x2B0100 18 .fport) <|> (at' 0x2B0200 16 .fpeer) <|>
    (at' 0x2B8000 4096 .froute) <|> (at' 0x2C0000 4096 .cfabj)

/-- The offset of a register. -/
def regOff : CReg → Nat
  | .sclim n => 0x200000 + 8 * n | .clease => 0x201000 | .rfcnt m => 0x201100 + 8 * m
  | .ctr b i => 0x300000 + 0x200 * b + 8 * i | .cxpend b => 0x300000 + 0x200 * b + 0x180
  | .gquota f => 0x220000 + 8 * f | .gtime => 0x220200 | .cbudget c => 0x240000 + 8 * c
  | .qctl q => 0x240800 + 8 * q | .sched => 0x241000 | .cquota n => 0x250000 + 8 * n
  | .qsnapb q => 0x260000 + 16 * q | .qsnapc q => 0x260008 + 16 * q | .preq => 0x261000
  | .roll => 0x261008 | .ctrap n => 0x270000 + 8 * n | .tokpool => 0x280000 | .govcfg => 0x280008
  | .ilim => 0x280010 | .coreclk n => 0x281000 + 8 * n | .therm n => 0x282000 + 8 * n
  | .part f k => 0x2A0000 + 64 * f + 8 * k | .mbslot w => 0x2A1000 + 8 * w | .mbhead => 0x2A1400
  | .mbtail => 0x2A1408 | .fabcfg => 0x2B0000 | .fport p => 0x2B0100 + 8 * p
  | .fpeer d => 0x2B0200 + 8 * d | .froute n => 0x2B8000 + 8 * n | .cfabj n => 0x2C0000 + 8 * n
  | .cid => 0x2D0000 | .cclu0 => 0x2D0008 | .cclu1 => 0x2D0010 | .cmem => 0x2D0018
  | .cport => 0x2D0020 | .bootrec => 0x2D0100

/-- The reset value of a register, from its field map. BOOTREC has STEP 0xF: bring-up has completed
(20 R463, log entry 9); ROMVER is a free constant (log entry 7). -/
def regReset : CReg → DWord
  | .sclim _ => 0x2000
  | .clease => 0x14
  | .gquota _ => 0x1000
  | .gtime => 0x64000F4240
  | .cbudget _ => 0x088B0000493E
  | .sched => 0x64
  | .roll => 2
  | .tokpool => 0x200
  | .govcfg => 0xCAC0C080
  | .ilim => 0xAF0
  | .therm _ => 0x805F73
  | .part _ k => if k = 4 then 0x1F else 0
  | .fabcfg => 0x1F40000
  | .cid => 0x5749051201000000 ||| Config.romVer.setWidth 64
  | .cclu0 => 0xFFFFFFFFFFFFFFFF
  | .cclu1 => 0xFFFFFFFFFFFFFFFF
  | .cmem => 0x30000000FFF
  | .cport => 0x3FFFF
  | .bootrec => 0xF
  | _ => 0

/-- The mask of bits h down to l. -/
def bitsMask (h l : Nat) : DWord := BitVec.ofNat 64 (2 ^ (h + 1) - 2 ^ l)

/-- The rw bits of a register (00 R4: reserved and read-only bits ignore writes). -/
def rwMask : CReg → DWord
  | .sclim _ => bitsMask 13 0
  | .clease => bitsMask 4 0
  | .ctr _ _ => bitsMask 63 0
  | .gquota _ => bitsMask 12 0
  | .gtime => bitsMask 51 0
  | .cbudget _ => bitsMask 47 32 ||| bitsMask 15 0
  | .qctl _ => bitsMask 63 63 ||| bitsMask 55 32 ||| bitsMask 20 16 ||| bitsMask 11 0
  | .sched => bitsMask 15 0
  | .cquota _ => bitsMask 31 0
  | .qsnapb _ => bitsMask 51 16
  | .qsnapc _ => bitsMask 12 0
  | .roll => bitsMask 3 0
  | .ctrap _ => bitsMask 63 8
  | .tokpool => bitsMask 9 0
  | .govcfg => bitsMask 31 30 ||| bitsMask 27 20 ||| bitsMask 15 0
  | .ilim => bitsMask 11 0
  | .coreclk _ => bitsMask 23 20
  | .therm _ => bitsMask 23 20 ||| bitsMask 15 8
  | .part _ k =>
    if k = 0 ∨ k = 1 then bitsMask 63 0
    else if k = 2 then bitsMask 25 16 ||| bitsMask 9 0
    else if k = 3 then bitsMask 16 0
    else if k = 4 then bitsMask 44 32 ||| bitsMask 27 16 ||| bitsMask 9 8 ||| bitsMask 4 0
    else if k = 5 then bitsMask 63 12
    else bitsMask 63 48 ||| bitsMask 34 22
  | .mbtail => bitsMask 63 0
  | .fabcfg => bitsMask 35 0
  | .fpeer _ => bitsMask 12 0
  | .froute _ => bitsMask 17 0
  | .cfabj _ => bitsMask 15 0
  | _ => 0

/-- The write-1-to-clear bits of a register. -/
def w1cMask : CReg → DWord
  | .cxpend _ => bitsMask 44 0
  | .part _ k => if k = 6 then bitsMask 21 0 else 0
  | .fport _ => bitsMask 1 1
  | .fpeer _ => bitsMask 13 13
  | _ => 0

/-- The bits that a part of a 64-bit register covers (02 R471). -/
def partMask : Part → DWord
  | .full => bitsMask 63 0
  | .low => bitsMask 31 0
  | .high => bitsMask 63 32

/-- A written value moved to its half (02 R471). -/
def partVal (p : Part) (v : DWord) : DWord :=
  match p with
  | .full => v
  | .low => v &&& bitsMask 31 0
  | .high => v <<< 32

/-- The register after a write of the given part, before its range is judged (02 R471, 00 R4). -/
def merged (r : CReg) (old : DWord) (p : Part) (v : DWord) : DWord :=
  let m := partMask p
  let w := partVal p v
  let rw := rwMask r &&& m
  ((old &&& ~~~rw) ||| (w &&& rw)) &&& ~~~(w &&& w1cMask r &&& m)

/-- A field of a 64-bit register. -/
def fld (x : DWord) (h l : Nat) : Nat := slice x.toNat h l

/-- The register after a write: unchanged where its value would lie outside a field's range; a zero
FMARG, CKILL or DLUS leaves that field unchanged (03 R85, R86, 15 R397, R398, 16 R414, 18 R438, R443, 19 R459). -/
def afterWrite (r : CReg) (old : DWord) (p : Part) (v : DWord) : DWord :=
  let n := merged r old p v
  let keep (ok : Bool) := if ok then n else old
  match r with
  | .sclim _ => keep (1 ≤ fld n 13 0 && fld n 13 0 ≤ 8192)
  | .clease => keep (12 ≤ fld n 4 0 && fld n 4 0 ≤ 26)
  | .gquota _ => keep (fld n 12 0 ≤ 4096)
  | .gtime => if fld n 51 32 = 0 then (n &&& bitsMask 31 0) ||| (old &&& bitsMask 51 32) else n
  | .sched => keep (fld n 15 0 != 0)
  | .tokpool => keep (fld n 9 0 ≤ 512)
  | .govcfg => keep (fld n 7 0 < fld n 15 8 && fld n 27 24 ≤ 12 && fld n 23 20 ≤ 12)
  | .coreclk _ => keep (fld n 23 20 ≤ 12)
  | .therm _ => keep (fld n 23 20 ≤ 12)
  | .fabcfg => if fld n 35 16 = 0 then (n &&& bitsMask 15 0) ||| (old &&& bitsMask 35 16) else n
  | _ => n

/-- The stored bits of a register. -/
def rawReg (s : State) (r : CReg) : DWord := tget (regReset r) s.regs (regOff r)

/-- Stores the bits of a register. -/
def setReg (s : State) (r : CReg) (v : DWord) : State :=
  { s with regs := tset (regReset r) s.regs (regOff r) v }

/-- Virtual function `f` holds item `n` of a kind: 0 a cluster, 1 a GiB of HBM, 2 a queue, 3 a context
(19 R445, R448). -/
def vfHolds (s : State) (f kind n : Nat) : Bool :=
  let reg (k : Nat) := rawReg s (.part f k)
  if kind = 0 then (if n < 64 then bitN (reg 0).toNat n else bitN (reg 1).toNat (n - 64))
  else if kind = 1 then fld (reg 2) 9 0 ≤ n && n < fld (reg 2) 9 0 + fld (reg 2) 25 16
  else if kind = 2 then fld (reg 3) 7 0 ≤ n && n < fld (reg 3) 7 0 + fld (reg 3) 16 8
  else fld (reg 4) 27 16 ≤ n && n < fld (reg 4) 27 16 + fld (reg 4) 44 32

/-- The function whose partition holds the item: a virtual function, else function 0 (19 R445). -/
def ownerFn (s : State) (kind n : Nat) : Nat :=
  ((List.range 64).find? (fun f => 0 < f && vfHolds s f kind n)).getD 0

/-- The step a thermal sensor imposes on the cores it governs (18 R440). -/
def sensorStep (s : State) (n : Nat) : Nat :=
  if (tget {} s.sensors n).throttled then fld (rawReg s (.therm n)) 23 20 else 0

/-- TSTEP of a core: the largest step among the throttled sensors that govern it (18 R440). -/
def tstep (s : State) (core : Nat) : Nat := max (sensorStep s (core / 4)) (sensorStep s (128 + core / 64))

/-- GSTEP of a core: zero while the governor is disabled (18 R437). -/
def gstepOf (s : State) (core : Nat) : Nat :=
  if fld (rawReg s .govcfg) 31 31 = 0 then 0 else (tget {} s.cores core).gstep

/-- The STEP that a core is set to: the largest of GSTEP, TSTEP and CAP (18 R434). -/
def wantStep (s : State) (core : Nat) : Nat :=
  max (max (gstepOf s core) (tstep s core)) (fld (rawReg s (.coreclk core)) 23 20)

/-- STEP of a core: while its island slews, the larger of the old and the new (18 R434, R436). -/
def stepOf (s : State) (core : Nat) : Nat :=
  let k : Core := tget {} s.cores core
  if k.slewing then max k.slewFrom (wantStep s core) else wantStep s core

/-- The number of cores that hold a token. -/
def tokensHeld (s : State) : Nat := (s.cores.filter (fun c => c.2.token)).length

/-- The entries of any role that the contexts of function `f` hold (15 R397). -/
def gatherUsed (s : State) (f : Nat) : Nat :=
  (s.gather.filter (fun g => g.2.role != 0 && ownerFn s 3 g.2.ctx == f)).length

/-- What a read of a register returns: its stored bits with the fields the device forms (18 R443, 15
R397, 19 R445, R450). -/
def readReg (s : State) (r : CReg) : DWord :=
  let raw := rawReg s r
  let all (n : Nat) (kind base : Nat) : Nat :=
    (List.range n).foldl (fun a i => a + if ownerFn s kind (base + i) = 0 then 2 ^ i else 0) 0
  match r with
  | .tokpool => raw ||| BitVec.ofNat 64 (tokensHeld s * 2 ^ 16)
  | .gquota f => raw ||| BitVec.ofNat 64 (gatherUsed s f * 2 ^ 16)
  | .coreclk n => raw ||| BitVec.ofNat 64 (b2n (tget {} s.cores n).nearThreshold * 2 ^ 15 + tstep s n * 2 ^ 8
      + gstepOf s n * 2 ^ 4 + stepOf s n)
  | .therm n => raw ||| BitVec.ofNat 64 (b2n (tget {} s.sensors n).throttled * 2 ^ 63)
  | .part 0 k =>
    if k = 0 then BitVec.ofNat 64 (all 64 0 0)
    else if k = 1 then BitVec.ofNat 64 (all 64 0 64)
    else if k = 2 then BitVec.ofNat 64 ((List.range 768).filter (fun i => ownerFn s 1 i = 0)).length <<< 16
    else if k = 3 then BitVec.ofNat 64 ((List.range 256).filter (fun i => ownerFn s 2 i = 0)).length <<< 8
    else if k = 4 then (BitVec.ofNat 64 ((List.range 64).foldl (fun a f => a - if f = 0 then 0 else
        fld (rawReg s (.part f 4)) 44 32) 4096) <<< 32) ||| 0x31F
    else raw
  | .preq => 0
  | .mbslot w => BitVec.ofNat 64 ((List.range 8).foldl
      (fun a i => a + (tget 0 (tget {} s.fns 0).mbox (8 * w + i)).toNat * 256 ^ i) 0)
  | .mbhead => (tget {} s.fns 0).mbhead
  | .mbtail => (tget {} s.fns 0).mbtail
  | _ => raw

/-- A read of the control range at a register-aligned offset; where no register stands it reads zero
(log entry 12). -/
def readCtl (s : State) (off : Nat) : DWord :=
  match regOf off with
  | some r => readReg s r
  | none => 0

end Sys2Proof.Machine
end

