-- ==== Sys2Proof/Machine/Phys.lean ====
section
/-!
DEFINITION. Physical memory: what an address names (02 R19 to R26), the bytes and poison marks of
memory (04 R107), the folds of commutative lines (03 R74), and the coherent reads and writes that an
engine makes in one event (log entry 10).
-/
namespace Sys2Proof.Machine

/-- What a physical address names (02 R19, R20). -/
inductive Place where
  | hbm (a : Nat)
  | host (a : Nat)
  | peer (d a : Nat)
  | peerMap (d off : Nat)
  | ctl (off : Nat)
  | win (core off : Nat)
  | hole
  deriving DecidableEq, Repr

/-- Cluster `c` is present (20 R463). -/
def clusterPresent (s : State) (c : Nat) : Bool :=
  c < 128 && bitN (rawReg s (if c < 64 then .cclu0 else .cclu1)).toNat (c % 64)

/-- HBM stack `k` is present (20 R463). -/
def stackPresent (s : State) (k : Nat) : Bool := k < 12 && bitN (rawReg s .cmem).toNat k

/-- The device's own peer number (19 R459). -/
def selfPeer (s : State) : Nat := fld (rawReg s .fabcfg) 15 12

/-- The device's fabric-domain number (19 R459). -/
def selfDev (s : State) : Nat := fld (rawReg s .fabcfg) 11 0

/-- Peer `d` is a member of the coherence domain and no path to it is lost (19 R457, R459). -/
def peerUsable (s : State) (d : Nat) : Bool :=
  bitN (rawReg s (.fpeer d)).toNat 12 && !bitN (rawReg s (.fpeer d)).toNat 13

/-- Decodes a physical address (02 R19, R20, R22). -/
def placeOf (s : State) (pa : Nat) : Place :=
  let hbm (a : Nat) : Place := if a < 768 * 2 ^ 30 then .hbm a else .hole
  match pa / 2 ^ 48 with
  | 0xC =>
    let d := slice pa 43 40
    if slice pa 47 44 ≠ 0 then .hole
    else if d = selfPeer s then hbm (pa % 2 ^ 40)
    else .peer d (pa % 2 ^ 40)
  | 0xD =>
    if slice pa 47 44 ≠ 0 ∨ slice pa 39 31 ≠ 0 then .hole else .peerMap (slice pa 43 40) (pa % 2 ^ 31)
  | 0xE => if pa % 2 ^ 48 < 2 ^ 32 then .ctl (pa % 2 ^ 32) else .hole
  | 0xF =>
    let o := pa % 2 ^ 48
    if 2 ^ 31 ≤ o then .hole
    else
      let n := o / 0x400000
      let w := o % 0x400000
      if w < 0x130000 ∧ clusterPresent s (n / 4) then .win n w else .hole
  | t => if t = 0 then hbm pa else if 8 ≤ t ∧ t ≤ 11 then .host (pa % 2 ^ 50) else .hole

/-- The stack that holds the byte of a local HBM address under an interleave mode (02 R23). -/
def stackOf (imode a : Nat) : Nat :=
  let f := slice a 39 36
  let k := slice a 35 12
  if imode = 1 then (let b := if f ≤ 5 then 0 else 6; b + (f - b + k) % 6)
  else if imode = 2 then (f + k) % 12
  else f

/-- The storage address of a local HBM byte: the die-local address of its stack and offset (02 R23). -/
def storeAddr (imode a : Nat) : Nat := stackOf imode a * 2 ^ 36 + a % 2 ^ 36

/-- The local HBM address that an interleave mode puts at a storage address. -/
def unStore (imode a : Nat) : Nat :=
  let t := a / 2 ^ 36
  let k := a / 4096 % 2 ^ 24
  let f := if imode = 1 then (let b := if t ≤ 5 then 0 else 6; b + (t - b + 6 - k % 6) % 6)
    else if imode = 2 then (t + 12 - k % 12) % 12
    else t
  f * 2 ^ 36 + a % 2 ^ 36

/-- The byte at a storage address is undefined: it is mapped in two interleave modes, or cacheable and uncacheable (02 R25, 04
R91). -/
def mixedAt (s : State) (a : Nat) : Bool :=
  s.mixed.any (fun m =>
    if m.rows then decide (a < 768 * 2 ^ 30) && decide (m.lo ≤ a / 4096 % 2 ^ 24) && decide (a / 4096 % 2 ^ 24 < m.hi)
    else let b := if a < 768 * 2 ^ 30 then unStore m.imode a else a
      decide (m.lo ≤ b) && decide (b < m.hi))

/-- Bytes of memory as a read sees them: free where such mappings leave them undefined (00 R3). -/
def seenMixed (s : State) (a : Nat) (bs : List Byte) : List Byte :=
  if s.mixed.isEmpty then bs
  else (bs.zipIdx).map (fun p =>
    if mixedAt s (a + p.2) then Config.freeByte ((s.free + s.nextId) * 2 ^ 64 + 2 ^ 60 + a + p.2) else p.1)

/-- A router index of a die-local storage address's home (02 R23, 03 R47). -/
def memRouter (a : Nat) : Nat := 128 + 2 * (a / 2 ^ 36) + slice a 7 7

/-- The router index of a cluster router at column x, row y (01 R8). -/
def routerAt (x y : Nat) : Nat := 16 * (x / 4 + 4 * (y / 4)) + 4 * (y % 4) + x % 4

/-- The cluster router an edge router attaches to, and the port of that router (01 R9). -/
def attach (r : Nat) : Nat × Nat :=
  if r < 140 then (routerAt (2 + (r - 128)) 0, 1)
  else if r < 152 then (routerAt (r - 128 - 10) 7, 3)
  else if r = 152 then (routerAt 0 4, 4)
  else if r = 153 then (routerAt 0 0, 1)
  else if r = 154 then (routerAt 15 0, 1)
  else if r = 155 then (routerAt 0 7, 3)
  else (routerAt 15 7, 3)

/-- Column and row of a router, or of the cluster router it attaches to (01 R8). -/
def routerXY (r : Nat) : Nat × Nat :=
  let c := if r < 128 then r else (attach r).1
  let d := c / 16
  (4 * (d % 4) + c % 4, 4 * (d / 4) + c % 16 / 4)

/-- The opposite port: 1 N, 2 E, 3 S, 4 W. -/
def opposite (p : Nat) : Nat := if p = 0 then 0 else (p + 1) % 4 + 1

/-- The edge router at a port of a cluster router. -/
def edgeAt (r p : Nat) : Option Nat := ((List.range 29).map (· + 128)).find? (fun e => attach e = (r, p))

/-- The neighbour of a router by a grid port, and the port by which it is entered (03 R47). -/
def neighbour (r p : Nat) : Option (Nat × Nat) :=
  if 128 ≤ r then (if p = opposite (attach r).2 then some ((attach r).1, (attach r).2) else none)
  else match edgeAt r p with
    | some e => some (e, opposite p)
    | none =>
      let c := routerXY r
      if p = 1 then (if 0 < c.2 then some (routerAt c.1 (c.2 - 1), 3) else none)
      else if p = 2 then (if c.1 < 15 then some (routerAt (c.1 + 1) c.2, 4) else none)
      else if p = 3 then (if c.2 < 7 then some (routerAt c.1 (c.2 + 1), 1) else none)
      else if p = 4 then (if 0 < c.1 then some (routerAt (c.1 - 1) c.2, 2) else none)
      else none

/-- The fabric router that leads to peer `d`: that of its lowest port that is up, else of its lowest
port, else fabric router 0 (19 R456, R457). -/
def fabricRouter (s : State) (d : Nat) : Nat :=
  let m := (rawReg s (.froute (fld (rawReg s (.fpeer d)) 11 0))).toNat
  let ports := (List.range 18).filter (fun p => bitN m p)
  let p := ((ports.find? (fun p => bitN (rawReg s (.fport p)).toNat 0)) <|> ports.head?).getD 0
  153 + (if p ≤ 4 then 0 else if p ≤ 8 then 1 else if p ≤ 13 then 2 else 3)

/-- The home router of a line's storage address: host memory at the host router, peer HBM at the
fabric router in the home's role (02 R23, 03 R79, 12 R306). -/
def homeOf (s : State) (a : Nat) : Nat :=
  match placeOf s a with
  | .hbm a => memRouter a
  | .peer d _ => fabricRouter s d
  | _ => 152

/-- A leaf entry's fields (02 R30). -/
def pteImode (e : DWord) : Nat := fld e 59 58
/-- Device-exclusive host page. -/
def pteDevx (e : DWord) : Bool := bitN e.toNat 57
/-- Discardable. -/
def pteDisc (e : DWord) : Bool := bitN e.toNat 56
/-- Snapshot-exempt. -/
def pteSnex (e : DWord) : Bool := bitN e.toNat 55
/-- Read-duplicate replica. -/
def pteRdup (e : DWord) : Bool := bitN e.toNat 54
/-- Commutative format. -/
def pteCfmt (e : DWord) : Nat := fld e 53 52
/-- Commutative operator. -/
def pteCop (e : DWord) : Nat := fld e 15 14
/-- Cacheable. -/
def pteC (e : DWord) : Bool := bitN e.toNat 9
/-- Privileged access only. -/
def pteP (e : DWord) : Bool := bitN e.toNat 8
/-- Execute. -/
def pteX (e : DWord) : Bool := bitN e.toNat 7
/-- Write. -/
def pteW (e : DWord) : Bool := bitN e.toNat 6
/-- Read. -/
def pteR (e : DWord) : Bool := bitN e.toNat 5

/-- The storage address of a physical address reached through a leaf entry: interleaved in local HBM,
itself elsewhere (02 R23). -/
def storeOf (s : State) (pte : DWord) (pa : Nat) : Nat :=
  match placeOf s pa with
  | .hbm a => storeAddr (pteImode pte) a
  | _ => pa

/-- A byte of memory at a storage address. -/
def memByte (s : State) (a : Nat) : Byte := tget 0 s.mem a

/-- Writes a byte of memory. -/
def putByte (s : State) (a : Nat) (b : Byte) : State := { s with mem := tset 0 s.mem a b }

/-- `n` bytes of memory. -/
def memBytes (s : State) (a n : Nat) : List Byte := (List.range n).map (fun i => memByte s (a + i))

/-- Writes bytes of memory, lowest address first. -/
def putBytes (s : State) (a : Nat) : List Byte → State
  | [] => s
  | b :: t => putBytes (putByte s a b) (a + 1) t

/-- The 64-bit words that `n` bytes at `a` touch. -/
def wordsOf (a n : Nat) : List Nat := if n = 0 then [] else (List.range ((a + n - 1) / 8 + 1 - a / 8)).map (· + a / 8)

/-- A poison mark among the words of a range (04 R107). -/
def memPoison (s : State) (a n : Nat) : Bool := (wordsOf a n).any (fun w => tget false s.poison w)

/-- A store of bytes clears the poison of the words it writes whole (04 R107). -/
def clearWhole (p : Tab Bool) (a n : Nat) : Tab Bool :=
  (wordsOf a n).foldl (fun p w => if a ≤ 8 * w ∧ 8 * w + 8 ≤ a + n then tset false p w false else p) p

/-- A store to memory: bytes and poison (04 R107). -/
def storeMem (s : State) (a : Nat) (bs : List Byte) : State :=
  { putBytes s a bs with poison := clearWhole s.poison a bs.length }

/-- The line of a storage address (03 R50). -/
def lineOf (a : Nat) : Nat := a / 128

/-- The lines that `n` bytes at an address touch. -/
def reqLines (a n : Nat) : List Nat := if n = 0 then [] else (List.range ((a + n - 1) / 128 + 1 - a / 128)).map (· + a / 128)

/-- The caches that hold a line, with their lines. -/
def holdersOf (s : State) (line : Nat) : List (Nat × CLine) :=
  s.clusters.filterMap (fun c => (c.2.cache.find? (fun l => l.line = line)).map (fun l => (c.1, l)))

/-- The holder whose bytes are current: M, O or E, else S (03 R53). -/
def currentHolder (s : State) (line : Nat) : Option (Nat × CLine) :=
  let hs := holdersOf s line
  (hs.find? (fun h => h.2.st = .m || h.2.st = .o || h.2.st = .e)) <|> hs.find? (fun h => h.2.st = .s)

/-- The size in bytes of an element of a commutative line (03 R74). -/
def elemBytes (cfmt : Nat) : Nat := if cfmt = 3 then 2 else 4

/-- Fold of two elements (03 R74). -/
def foldElem (cfmt cop a b : Nat) : Nat :=
  if cfmt = 1 then
    if cop = 0 then (a + b) % 2 ^ 32
    else
      let x := sgnN 32 a; let y := sgnN 32 b
      if cop = 1 then (if x < y then b else a) else (if y < x then b else a)
  else
    let f : Fmt := if cfmt = 2 then .f32 else .bf16
    let x := decodeF f a; let y := decodeF f b
    if cop = 0 then (deliver f .rne false (addF .rne x y)).code
    else if isNaN x || isNaN y then canonNaN f
    else if cop = 1 then (if ltZ x y then b else a) else (if ltZ y x then b else a)

/-- A partial of a commutative line: 128 bytes and, bit by element, whether it holds a value (25 R468). -/
abbrev PartialLine := List Byte × Nat

/-- Fold of two partials: none is the identity (03 R74). -/
def foldLine (cfmt cop : Nat) (x y : PartialLine) : PartialLine :=
  let w := elemBytes cfmt
  let el (i : Nat) : List Byte :=
    let a := (x.1.drop (w * i)).take w
    let b := (y.1.drop (w * i)).take w
    if !bitN x.2 i then b
    else if !bitN y.2 i then a
    else toBytes w (foldElem cfmt cop (leBytes a) (leBytes b))
  (((List.range (128 / w)).map el).flatten, x.2 ||| y.2)

/-- A whole line as a partial. -/
def wholeLine (cfmt : Nat) (bs : List Byte) : PartialLine := (bs, 2 ^ (128 / elemBytes cfmt) - 1)

/-- No partial. -/
def noPartial : PartialLine := (List.replicate 128 0, 0)

/-- Dirty bytes of a line on their way between agents (03 R59, R62). -/
def movingLine (s : State) (line : Nat) : Option (List Byte × BitVec 16) :=
  let moves (m : Msg) : Bool :=
    m.line == line && m.has == 0 && (m.kind == .anchorRelease || m.kind == .grant || m.kind == .invalAck)
  (s.msgs.findSome? (fun m => if moves m then m.data.map (fun d => (d, m.poison)) else none)) <|>
  (s.unpicks.findSome? (fun u => if u.line = line ∧ u.has = 0 then u.data.map (fun d => (d, u.poison)) else none))

/-- A router. -/
def routerOf (s : State) (r : Nat) : Router := tget {} s.routers r
/-- The line stitch of a router (03 R52). -/
def stitchOf (s : State) (r line : Nat) : Option Stitch := (routerOf s r).stitches.find? (fun t => !t.tile && t.line == line)
/-- A MASK bit of a stitch. -/
def maskBit (t : Stitch) (p : Nat) : Bool := t.mask.getLsbD p

/-- The router of the agent whose cache has a number: a cluster's, the host router's or a fabric router's own, or, from 200 on, a
fabric router's copies for the device numbered 200 less (03 R50, R79). -/
def agentRouter (h : Nat × CLine) : Nat := if h.1 < 200 then h.1 else h.2.prot

/-- The routers of a line's tree in the order of 03 R75, each after its own agent, entered at `r` by `from'`; `n` bounds the depth. -/
def treeFold (s : State) (line f o : Nat) : Nat → Nat → Nat → PartialLine × List Nat
  | 0, _, _ => (noPartial, [])
  | n + 1, r, from' =>
    match stitchOf s r line with
    | none => (noPartial, [])
    | some t =>
      let mine := (holdersOf s line).filter (fun h => agentRouter h == r)
      let v := mine.foldl (fun v h => foldLine f o v (h.2.data, h.2.has)) noPartial
      [1, 2, 3, 4].foldl (fun (v : PartialLine × List Nat) p =>
        if p = from' ∨ !maskBit t p then v
        else match neighbour r p with
          | some (k, q) =>
            let w := treeFold s line f o n k q
            (foldLine f o v.1 w.1, v.2 ++ w.2)
          | none => v) (v, [r])

/-- The partials of a line folded as a gather that enters at its home folds them (03 R75); one that no tree reaches comes last. -/
def foldTree (s : State) (line : Nat) (pte : DWord) : PartialLine :=
  let f := pteCfmt pte; let o := pteCop pte
  let w := treeFold s line f o 160 (homeOf s (128 * line)) 0
  ((holdersOf s line).filter (fun h => !w.2.contains (agentRouter h))).foldl (fun v h => foldLine f o v (h.2.data, h.2.has)) w.1

/-- The current value of a line and its poisoned words: the anchor's bytes, those on their way, else memory with
every partial folded in (03 R75, 09 R225). -/
def coherentLine (s : State) (line : Nat) : List Byte × BitVec 16 :=
  match (currentHolder s line).map (fun h => (h.2.data, h.2.poison)) <|> movingLine s line with
  | some v => v
  | none =>
    let mem := memBytes s (128 * line) 128
    let pz := BitVec.ofNat 16 ((List.range 16).foldl
      (fun a i => a + if tget false s.poison (16 * line + i) then 2 ^ i else 0) 0)
    match holdersOf s line with
    | [] => (mem, pz)
    | h :: _ =>
      let f := pteCfmt h.2.pte
      ((foldLine f (pteCop h.2.pte) (foldTree s line h.2.pte) (wholeLine f mem)).1, pz)

/-- A coherent read of `n` bytes inside one line, and whether a word of them is poisoned. -/
def coherentRead (s : State) (a n : Nat) : List Byte × Bool :=
  let l := coherentLine s (lineOf a)
  (seenMixed s a ((l.1.drop (a % 128)).take n), (wordsOf (a % 128) n).any (fun w => l.2.getLsbD w))

/-- Removes a line from the L1 and instruction caches of a cluster's cores (04 R89). -/
def dropPrivate (s : State) (cluster line : Nat) : State :=
  { s with cores := s.cores.map (fun c =>
      if c.1 / 4 = cluster then (c.1, { c.2 with l1 := c.2.l1.filter (· ≠ line),
                                                 icache := c.2.icache.filter (fun i => i / 2 ≠ line) }) else c) }

/-- Removes a line from a cluster cache and the caches inside it (04 R89). -/
def dropHeld (s : State) (cluster line : Nat) : State :=
  let k := tget {} s.clusters cluster
  dropPrivate { s with clusters := tput s.clusters cluster { k with cache := k.cache.filter (fun l => l.line ≠ line) } }
    cluster line

/-- Drops every stitch of a line (03 R59). -/
def dropStitches (s : State) (line : Nat) : State :=
  { s with routers := s.routers.map (fun r =>
      (r.1, { r.2 with stitches := r.2.stitches.filter (fun t => t.tile || t.line ≠ line) })) }

/-- Writes a line's bytes and poison to memory. -/
def writeHome (s : State) (line : Nat) (bs : List Byte) (pz : BitVec 16) : State :=
  { putBytes s (128 * line) bs with
      poison := (List.range 16).foldl (fun p i => tset false p (16 * line + i) (pz.getLsbD i)) s.poison }

/-- Ends every copy of a line, its current value written home (03 R59, R82). -/
def collapse (s : State) (line : Nat) : State :=
  let hs := holdersOf s line
  if hs.isEmpty then dropStitches s line
  else
    let v := coherentLine s line
    dropStitches (hs.foldl (fun s h => dropHeld s h.1 line) (writeHome s line v.1 v.2)) line

/-- Ends every copy of a line without write-back (03 R82, R69). -/
def discard (s : State) (line : Nat) : State :=
  dropStitches ((holdersOf s line).foldl (fun s h => dropHeld s h.1 line) s) line

/-- A coherent write of bytes inside one line by an engine: every copy ends first (03 R59, R60). -/
def coherentWrite (s : State) (a : Nat) (bs : List Byte) : State := storeMem (collapse s (lineOf a)) a bs

/-- The flag of the 4 KiB region of a storage address (03 R70). -/
def regionFlagged (s : State) (a : Nat) : Bool := tget false s.flagged (a / 4096)

/-- Sets or clears the flag of a region of this device's HBM, counted at both routers of its stack (03 R70, R87). The flag lies in
the HBM of the region, so host and peer memory have none (log entry 88). -/
def setFlag (s : State) (region : Nat) (v : Bool) : State :=
  if tget false s.flagged region = v ∨ 768 * 2 ^ 18 ≤ region then s
  else
    let k := 2 * (region / 2 ^ 24)
    let bump (s : State) (m : Nat) : State :=
      let n := (rawReg s (.rfcnt m)).toNat
      setReg s (.rfcnt m) (BitVec.ofNat 64 (if v then n + 1 else n - 1))
    bump (bump { s with flagged := tset false s.flagged region v } k) (k + 1)

end Sys2Proof.Machine
end

