-- ==== Sys2Proof/Machine/Translate.lean ====
section
/-!
DEFINITION. Translation (02 R26 to R34, R37): canonical addresses, the entries of a walk, the TLBs and
the walk cache, and the walk that an engine or the trap hardware makes in one event.
-/
namespace Sys2Proof.Machine

/-- PAGE statuses of 02 R37. -/
def stNotPresent : Nat := 1
/-- NONCANONICAL -/
def stNonCanonical : Nat := 2
/-- PTE-RESERVED -/
def stPteReserved : Nat := 3
/-- PTE-CONFLICT -/
def stPteConflict : Nat := 4
/-- PHYS-HOLE -/
def stPhysHole : Nat := 5
/-- STACK-ABSENT -/
def stStackAbsent : Nat := 6
/-- PEER-ABSENT -/
def stPeerAbsent : Nat := 7
/-- WALK-POISON -/
def stWalkPoison : Nat := 8
/-- PEER-TIMEOUT -/
def stPeerTimeout : Nat := 9

/-- A virtual address is canonical: bits 63:57 all equal bit 56 (02 R27). -/
def canonical (va : Nat) : Bool := let t := slice va 63 56; t == 0 || t == 255

/-- The index bits of a level: shift and width (02 R28). -/
def levelBits : Nat → Nat × Nat
  | 4 => (48, 9) | 3 => (39, 9) | 2 => (30, 9) | 1 => (21, 9) | _ => (16, 5)

/-- Bytes that a leaf at this level maps. -/
def leafSize : Nat → Nat
  | 2 => 2 ^ 30 | 1 => 2 ^ 21 | _ => 2 ^ 16

/-- The address of the entry that a level reads. R28 and R29 align the tables of levels 4 to 1 to 4 KiB and give no outcome for an
entry of level 4, 3 or 2 whose NEXT<11:8> is nonzero: the index is added to the address as it stands (DESIGN CHOICE, log entry 85). -/
def entryAddr (table level va : Nat) : Nat :=
  let b := levelBits level
  table + 8 * (va / 2 ^ b.1 % 2 ^ b.2)

/-- What one entry of a walk gives: the next table, the leaf, or a PAGE status. -/
inductive WalkRes where
  | next (table : Nat)
  | leaf (pte : DWord)
  | fault (status : Nat)
  deriving DecidableEq, Repr

/-- A frame in local HBM fits its stacks: a status, or 0 (02 R26). -/
def stackCheck (s : State) (imode a : Nat) : Nat :=
  let f := slice a 39 36
  if imode = 1 then
    (if (List.range 6).all (fun i => stackPresent s ((if f ≤ 5 then 0 else 6) + i)) then 0 else stStackAbsent)
  else if imode = 2 then
    (if (List.range 12).all (stackPresent s) then 0 else stStackAbsent)
  else if stackPresent s f then 0 else stPhysHole

/-- The status of a physical address that an access reaches, or 0 (02 R26, R36 step 2, R37). -/
def frameCheck (s : State) (imode pa : Nat) : Nat :=
  match placeOf s pa with
  | .hbm a => stackCheck s imode a
  | .peer d _ => if peerUsable s d then 0 else stPeerAbsent
  | .peerMap d _ => if peerUsable s d then 0 else stPeerAbsent
  | .hole => stPhysHole
  | _ => 0

/-- Whether a frame lies in local HBM. -/
def frameLocal (s : State) (pa : Nat) : Bool :=
  match placeOf s pa with
  | .hbm _ => true
  | .hole => pa / 2 ^ 48 == 0
  | _ => false

/-- Whether a frame or a table's address lies in the range of local HBM, as 02 R29 and R31 ask. An address of peer HBM
with the device's own number does not, though 02 R22 makes it name local HBM (DEDUCED, log 28). -/
def rangeLocal (pa : Nat) : Bool := pa / 2 ^ 48 == 0

/-- The checks of a leaf entry (02 R30, R31, R446): a status, or 0. -/
def leafCheck (s : State) (ctx level : Nat) (e : DWord) : Nat :=
  let frame := fld e 51 16 * 2 ^ 16
  let top := frame / 2 ^ 48
  let isLocal := rangeLocal frame
  let peer := top == 0xC
  if level ≥ 3 then stPteReserved
  else if fld e 63 60 ≠ 0 ∨ fld e 13 10 ≠ 0 ∨ fld e 4 2 ≠ 0 then stPteReserved
  else if frame % leafSize level ≠ 0 then stPteReserved
  else if pteImode e = 3 ∨ (pteImode e ≠ 0 ∧ !isLocal) then stPteConflict
  else if pteCfmt e ≠ 0 ∧ (!pteC e ∨ pteCop e = 3 ∨ pteRdup e ∨ (8 ≤ top ∧ top ≤ 11) ∨ 13 ≤ top) then stPteConflict
  else if pteRdup e ∧ !isLocal then stPteConflict
  else if pteX e ∧ !(isLocal || peer) then stPteConflict
  else if top = 0xE ∧ !pteP e then stPteConflict
  else if pteImode e ≠ 0 ∧ ownerFn s 3 ctx ≠ 0 then stPteConflict
  else match placeOf s frame with
    | .hbm a => stackCheck s (pteImode e) a
    | _ => if isLocal then stPhysHole else 0

/-- What an entry gives the walker at a level (02 R28 to R31, R34). -/
def walkEntry (s : State) (ctx level : Nat) (e : DWord) (poisoned : Bool) : WalkRes :=
  if poisoned then .fault stWalkPoison
  else if !bitN e.toNat 0 then .fault stNotPresent
  else if bitN e.toNat 1 then
    (match leafCheck s ctx level e with
     | 0 => .leaf e
     | st => .fault st)
  else if level = 0 ∨ fld e 63 52 ≠ 0 ∨ fld e 7 2 ≠ 0 then .fault stPteReserved
  else
    let next := fld e 51 8 * 2 ^ 8
    match placeOf s next with
    | .hbm a => if !rangeLocal next then .fault stPteConflict else if stackPresent s (a / 2 ^ 36) then .next a else .fault stPhysHole
    | .hole => .fault stPhysHole
    | _ => .fault stPteConflict

/-- A walk from a level down, reading each entry coherently (02 R34). The result names the level. -/
def walkFrom (s : State) (ctx va : Nat) : Nat → Nat → Except Nat (Nat × DWord)
  | 0, table =>
    let r := coherentRead s (entryAddr table 0 va) 8
    match walkEntry s ctx 0 (BitVec.ofNat 64 (leBytes r.1)) r.2 with
    | .leaf e => .ok (0, e)
    | .fault st => .error st
    | .next _ => .error stPteReserved
  | level + 1, table =>
    let r := coherentRead s (entryAddr table (level + 1) va) 8
    match walkEntry s ctx (level + 1) (BitVec.ofNat 64 (leBytes r.1)) r.2 with
    | .leaf e => .ok (level + 1, e)
    | .fault st => .error st
    | .next t => walkFrom s ctx va level t

/-- A context that exists. -/
def ctxOf (s : State) (c : Nat) : Option Ctx := tfind s.ctxs c

/-- The translation that a TLB entry gives. -/
def tlbHit (e : TlbEntry) (ctx va : Nat) : Bool := e.ctx == ctx && e.base ≤ va && va < e.base + e.size

/-- The TLB entry of a leaf found at a level. -/
def tlbEntryOf (ctx va level : Nat) (pte : DWord) : TlbEntry :=
  { ctx := ctx, base := va / leafSize level * leafSize level, size := leafSize level, pte := pte }

/-- A context is over quota (16 R409). -/
def overQuota (s : State) (ctx : Nat) : Bool := ((ctxOf s ctx).map (·.overQuota)).getD false

/-- A cached translation: the core's L1 TLB, then its cluster's (02 R32). -/
def tlbLookup (s : State) (core ctx va : Nat) : Option TlbEntry :=
  ((tget {} s.cores core).tlb.find? (fun e => tlbHit e ctx va)) <|>
  ((tget {} s.clusters (core / 4)).tlb.find? (fun e => tlbHit e ctx va))

/-- Puts an entry first in a TLB of `n` entries. -/
def tlbPut (n : Nat) (t : List TlbEntry) (e : TlbEntry) : List TlbEntry := (e :: t.filter (· ≠ e)).take n

/-- The set of an entry in the cluster TLB's 256 sets of 8 ways (02 R32). The spec gives no index function and no choice of victim:
the 64 KiB page number modulo 256, and the least recent (DESIGN CHOICE, log entry 84). -/
def tlbSet (e : TlbEntry) : Nat := e.base / 2 ^ 16 % 256

/-- Puts an entry first in the cluster TLB; a full set of 8 ways gives up its least recent. -/
def tlbPutWay (t : List TlbEntry) (e : TlbEntry) : List TlbEntry :=
  let t := t.filter (· ≠ e)
  let set := t.filter (fun x => tlbSet x == tlbSet e)
  e :: (if set.length < 8 then t else match set.getLast? with
    | some v => t.filter (· ≠ v)
    | none => t)

/-- The physical address under an entry. -/
def paUnder (pte : DWord) (size va : Nat) : Nat := fld pte 51 16 * 2 ^ 16 / size * size + va % size

/-- What two mappings that exist at the same time leave undefined: stack rows mapped in two interleave modes (02 R25), or
addresses mapped cacheable and uncacheable (04 R91). -/
def mixOf (s : State) (x y : TlbEntry) : Option Mixed :=
  let frame (e : TlbEntry) : Nat :=
    let f := paUnder e.pte e.size e.base
    match placeOf s f with
    | .hbm a => a
    | _ => f
  let cut (lo hi lo' hi' : Nat) : Option (Nat × Nat) := if max lo lo' < min hi hi' then some (max lo lo', min hi hi') else none
  let a := frame x
  let b := frame y
  let rowsOf (f n : Nat) : Nat × Nat := (f / 4096 % 2 ^ 24, f / 4096 % 2 ^ 24 + n / 4096)
  if a < 768 * 2 ^ 30 ∧ b < 768 * 2 ^ 30 ∧ pteImode x.pte ≠ pteImode y.pte then
    (cut (rowsOf a x.size).1 (rowsOf a x.size).2 (rowsOf b y.size).1 (rowsOf b y.size).2).map
      (fun c => { rows := true, imode := 0, lo := c.1, hi := c.2 })
  else if pteC x.pte ≠ pteC y.pte ∧ a < 0xD000000000000 then
    (cut a (a + x.size) b (b + y.size)).map (fun c => { rows := false, imode := pteImode x.pte, lo := c.1, hi := c.2 })
  else none

/-- Notes what a mapping that comes into use leaves undefined beside those in use. -/
def noteMixed (s : State) (e : TlbEntry) : State :=
  let es := (s.cores.map (fun c => c.2.tlb)).flatten ++ (s.clusters.map (fun c => c.2.tlb)).flatten
  match (es.filterMap (mixOf s e)).filter (fun m => !s.mixed.contains m) with
  | [] => s
  | ms => { s with mixed := s.mixed ++ ms.eraseDups }

/-- Fills the cluster TLB and the core's L1 TLB (02 R32). -/
def tlbFill (s : State) (core : Nat) (e : TlbEntry) : State :=
  let s := noteMixed s e
  let k := tget {} s.cores core
  let c := tget {} s.clusters (core / 4)
  { s with cores := tput s.cores core { k with tlb := tlbPut 64 k.tlb e },
           clusters := tput s.clusters (core / 4) { c with tlb := tlbPutWay c.tlb e } }

/-- A translation made in one event by an engine of a context: the leaf entry and the physical
address, or a PAGE status (02 R27 to R34). -/
def translateNow (s : State) (core ctx va : Nat) : Except Nat (DWord × Nat) :=
  if !canonical va then .error stNonCanonical
  else
    let found : Except Nat (DWord × Nat) :=
      match tlbLookup s core ctx va with
      | some e => .ok (e.pte, paUnder e.pte e.size va)
      | none =>
        match ctxOf s ctx with
        | none => .error stNotPresent
        | some c =>
          match walkFrom s ctx va 4 c.root with
          | .error st => .error st
          | .ok (lv, pte) => .ok (pte, paUnder pte (leafSize lv) va)
    match found with
    | .error st => .error st
    | .ok (pte, pa) =>
      match frameCheck s (pteImode pte) pa with
      | 0 => .ok (pte, pa)
      | st => .error st

/-- The partition permits a context's access to a physical address (19 R446, R451, R454). -/
def partitionOk (s : State) (ctx pa : Nat) : Bool :=
  let f := ownerFn s 3 ctx
  if f = 0 then true
  else
    match placeOf s pa with
    | .hbm a => vfHolds s f 1 (a / 2 ^ 30)
    | .host _ => bitN (rawReg s (.part f 4)).toNat 9 && (tget {} s.fns f).tdisp != .error
    | .peer _ _ => bitN (rawReg s (.part f 4)).toNat 8
    | .peerMap _ _ => bitN (rawReg s (.part f 4)).toNat 8
    | _ => true

end Sys2Proof.Machine
end

