-- ==== Sys2Proof/Machine/Chip.lean ====
section
/-!
DEFINITION. Reads of on-chip storage: scratchpad and accumulator memory with their poison and the undefined windows of the
matrix array (04 R95 to R107, 08 R197), the on-chip windows of the cores (02 R20, 04 R101 to R105) and their core-control
region (17 R419, R420).
-/
namespace Sys2Proof.Machine

/-- A core. -/
def coreOf (s : State) (c : Nat) : Core := tget {} s.cores c

/-- A field of a launch record (16 R399). -/
def recFld (r : List DWord) (h l : Nat) : Nat := fld (r[l / 64]?.getD 0) (l % 64 + (h - l)) (l % 64)

/-- A lane of a physical register. -/
def physReg (s : State) (c g lane : Nat) : Word := tget 0 (coreOf s c).regs (32 * g + lane)

/-- A byte that a queued operation holds is undefined (08 R197, 13 R352): a byte of the scratchpad, or with `acc` of the
accumulator memory. -/
def undefAt (k : Core) (acc : Bool) (o : Nat) : Bool := k.windows.any (fun w => (w.at' == .own || w.at' == .lost) && w.acc == acc && decide (w.lo ≤ o) && decide (o < w.hi))

/-- A byte of the scratchpad or the accumulator memory, as it stands. -/
def chipByte (k : Core) (acc : Bool) (o : Nat) : Byte := if acc then tget 0 k.acc o else tget 0 k.scr o

/-- Bytes as another access reads them: a free byte where they are undefined (00 R3). -/
def chipRead (s : State) (c : Nat) (acc : Bool) (o n : Nat) : List Byte :=
  let k := coreOf s c
  (List.range n).map (fun i =>
    if undefAt k acc (o + i) then Config.freeByte (s.free * 2 ^ 64 + (2 * c + b2n acc) * 2 ^ 19 + o + i) else chipByte k acc (o + i))

/-- A word of a range is poisoned (04 R107). -/
def chipPoison (s : State) (c : Nat) (acc : Bool) (o n : Nat) : Bool :=
  let k := coreOf s c
  (wordsOf o n).any (fun w => tget false (if acc then k.accPoison else k.scrPoison) w)

/-- Free bytes for a range. -/
def freeBytes (s : State) (o n : Nat) : List Byte := (List.range n).map (fun i => Config.freeByte (s.free * 2 ^ 64 + o + i))

/-- The size of a launch's scratch blocks (04 R96). -/
def scratchSize (r : List DWord) : Nat := roundUp (recFld r 211 192) 2048

/-- The accumulator tiles of each task of a launch (16 R399). -/
def acctOf (r : List DWord) : Nat := recFld r 171 165

/-- The tasks placed on a cluster, with their launches. -/
def placed (s : State) (k : Nat) : List (Launch × Task) :=
  (s.launches.map (fun l => (l.tasks.filter (fun t => t.2.st = 1 ∧ t.2.cluster = k)).map (fun t => (l, t.2)))).flatten

/-- Storage of a core that a context holds (04 R105): a physical register, scratchpad bytes, an accumulator tile. -/
def ownsChip (s : State) (ctx core off n : Nat) : Bool :=
  if off < 0x80000 then (coreOf s core).sheets.any (fun h => h.2.ctx = ctx ∧ h.2.base ≤ off / 128 ∧ off / 128 < h.2.base + h.2.nregs)
  else (placed s (core / 4)).any (fun p =>
    if off < 0x100000 then
      p.1.ctx = ctx ∧ p.2.scr ≤ off - 0x80000 ∧ off - 0x80000 + n ≤ p.2.scr + scratchSize p.1.rec'
    else p.1.ctx = ctx ∧ p.2.tile ≤ (off - 0x100000) / 0x800 ∧ (off - 0x100000) / 0x800 < p.2.tile + acctOf p.1.rec')

/-- A 32-bit word of a 64-bit value. -/
def half (v : DWord) (hi : Bool) : Word := if hi then (v >>> 32).setWidth 32 else v.setWidth 32

/-- The RSTAT word of a record (17 R419). -/
def rstatOf (r : FaultRec) : DWord :=
  BitVec.ofNat 64 (b2n r.v * 2 ^ 63 + b2n r.kleaf * 2 ^ 62 + b2n r.klaunch * 2 ^ 61 + b2n r.prin * 2 ^ 60 +
    r.cause % 32 * 2 ^ 51 + r.status % 2 ^ 16 * 2 ^ 32 + r.lanes.toNat)

/-- A 64-bit word of a fault record (17 R419). -/
def recWord (r : FaultRec) (o : Nat) : DWord :=
  if o = 0 then rstatOf r
  else if o = 8 then r.pc
  else if o = 0x10 then BitVec.ofNat 64 (b2n r.v2 * 2 ^ 63 + r.cause2 % 32 * 2 ^ 51 + r.status2 % 2 ^ 16 * 2 ^ 32 + r.lmask.toNat)
  else if o = 0x18 then r.replay.setWidth 64
  else if 0x40 ≤ o ∧ o < 0x80 then tget 0 r.bank ((o - 0x40) / 8)
  else if 0x80 ≤ o then tget 0 r.addr ((o - 0x80) / 8)
  else 0

/-- A 32-bit word of a sheet's state (17 R420). -/
def sheetWord (h : Sheet) (o : Nat) : Word :=
  if o < 0x80 then tget 0 h.gen (o / 4)
  else if o < 0x1C0 then
    let m := tget {} h.slots ((o - 0x80) / 20)
    match (o - 0x80) % 20 / 4 with
    | 0 => m.handle | 1 => m.member | 2 => m.joining | 3 => m.arrived | _ => m.owed
  else if o < 0x2D0 then
    let e := tget {} h.list ((o - 0x1C0) / 16)
    match (o - 0x1C0) % 16 / 4 with
    | 0 => half e.pc false | 1 => half e.pc true | 2 => e.mask | _ => BitVec.ofNat 32 e.kind
  else if o = 0x2D0 then half h.resumew false
  else if o = 0x2D4 then half h.resumew true
  else 0

/-- A 32-bit word of the core-control region; `o` counts from 0x12_0000. A residency slot that holds no sheet reads as zero
(log entry 18). -/
def ctlWord (s : State) (c o : Nat) : Word :=
  let k := coreOf s c
  let bank (b : Tab (BitVec 16)) (i : Nat) : Word := (tget 0 b (i + 1)).setWidth 32 <<< 16 ||| (tget 0 b i).setWidth 32
  if o < 0x6000 then half (recWord (tget {} k.recs (o / 384)) (o % 384 / 8 * 8)) (o / 4 % 2 == 1)
  else if o < 0xF000 then (match tfind k.sheets ((o - 0x6000) / 768) with
    | some h => sheetWord h ((o - 0x6000) % 768)
    | none => 0)
  else if o < 0xF200 then bank k.bank0 ((o - 0xF000) / 2)
  else if o < 0xF400 then bank k.bank1 ((o - 0xF200) / 2)
  else if o = 0xF400 then BitVec.ofNat 32 (b2n k.bankSel)
  else if o = 0xF408 then k.cecnt
  else 0

/-- The physical register is held by a resident sheet. -/
def regHeld (s : State) (c g : Nat) : Bool := (coreOf s c).sheets.any (fun h => decide (h.2.base ≤ g) && decide (g < h.2.base + h.2.nregs))

/-- A read of a window: its bytes, or none where it meets a poisoned register or word (04 R101 to R103, R107). -/
def windowRead (s : State) (c off n : Nat) : Option (List Byte) :=
  if off < 0x80000 then
    let g := off / 128
    if !regHeld s c g then some (List.replicate n 0)
    else if tget false (coreOf s c).regPoison g then none
    else some (((List.range (n / 4)).map (fun i => toBytes 4 (physReg s c g (off % 128 / 4 + i)).toNat)).flatten)
  else if off < 0x120000 then
    let acc := decide (0x100000 ≤ off)
    let o := if acc then off - 0x100000 else off - 0x80000
    if chipPoison s c acc o n then none else some (chipRead s c acc o n)
  else some (((List.range (n / 4)).map (fun i => toBytes 4 (ctlWord s c (off - 0x120000 + 4 * i)).toNat)).flatten)

/-- The bytes of registers of the control range from an offset. -/
def ctlBytes (s : State) (o n : Nat) : List Byte :=
  ((((List.range (n / 8 + 2)).map (fun i => toBytes 8 (readCtl s (o / 8 * 8 + 8 * i)).toNat)).flatten).drop (o % 8)).take n

end Sys2Proof.Machine
end

