-- ==== Sys2Proof/Machine/Ops.lean ====
section
/-!
DEFINITION. Named operations on the machine: the issuing leaf, the leaf table (06 R145 to R150), fault
records, taking a trap and returning from one (17 R416 to R424, R465), event records and interrupts
(19 R449, 14 R377), and the queue of what happens next.
-/
namespace Sys2Proof.Machine

/-- Trap causes of 17 R416. -/
def cPage : Nat := 1
/-- PROT -/
def cProt : Nat := 2
/-- MISALIGN -/
def cMisalign : Nat := 3
/-- STALE-REVERTED -/
def cStale : Nat := 4
/-- POISON -/
def cPoison : Nat := 5
/-- ILLEGAL -/
def cIllegal : Nat := 6
/-- PRIV -/
def cPriv : Nat := 7
/-- CONTROL -/
def cControl : Nat := 8
/-- FETCH-PARITY -/
def cFetchParity : Nat := 9
/-- STALL-SHORT -/
def cStallShort : Nat := 10
/-- DESCRIPTOR -/
def cDescriptor : Nat := 11
/-- BOUNDS -/
def cBounds : Nat := 12
/-- LEAF-EXHAUSTED -/
def cLeafExhausted : Nat := 13
/-- HOST-ATOMIC -/
def cHostAtomic : Nat := 14
/-- BREAKPOINT -/
def cBreakpoint : Nat := 15
/-- SOFTWARE -/
def cSoftware : Nat := 16
/-- SYSCALL -/
def cSyscall : Nat := 17
/-- PREEMPT -/
def cPreempt : Nat := 18
/-- RESUME -/
def cResume : Nat := 19

/-- CONTROL statuses of 17 R417. -/
def ctlPcForm : Nat := 1
/-- TARGET -/
def ctlTarget : Nat := 2
/-- TAG-PENDING -/
def ctlTagPending : Nat := 3
/-- RING-BUSY -/
def ctlRingBusy : Nat := 4
/-- RING-EMPTY -/
def ctlRingEmpty : Nat := 5
/-- RING-OWNER -/
def ctlRingOwner : Nat := 6
/-- RING-GEOM -/
def ctlRingGeom : Nat := 7
/-- RING-AHEAD -/
def ctlRingAhead : Nat := 8
/-- CB-RANGE -/
def ctlCbRange : Nat := 9
/-- CRED-MISMATCH -/
def ctlCredMismatch : Nat := 10
/-- GATHER-ARG -/
def ctlGatherArg : Nat := 11
/-- RING-INVALID -/
def ctlRingInvalid : Nat := 12
/-- GATHER-SLOTS -/
def ctlGatherSlots : Nat := 13
/-- TAG-KIND -/
def ctlTagKind : Nat := 14
/-- SYS-SELECT -/
def ctlSysSelect : Nat := 15
/-- TLB-RANGE -/
def ctlTlbRange : Nat := 16
/-- RF-RANGE -/
def ctlRfRange : Nat := 17
/-- IRQ-VECTOR -/
def ctlIrqVector : Nat := 18

/-- Replaces a core. -/
def setCore (s : State) (c : Nat) (k : Core) : State := { s with cores := tput s.cores c k }
/-- A cluster. -/
def clusterOf (s : State) (c : Nat) : Cluster := tget {} s.clusters c
/-- Replaces a cluster. -/
def setCluster (s : State) (c : Nat) (k : Cluster) : State := { s with clusters := tput s.clusters c k }
/-- The die of a core. -/
def dieOfCore (core : Nat) : Nat := core / 64
/-- A leaf of a core. -/
def leafOf (s : State) (c e : Nat) : Option Leaf := tfind (coreOf s c).leaves e
/-- Replaces a leaf. -/
def setLeaf (s : State) (c e : Nat) (l : Leaf) : State :=
  let k := coreOf s c
  setCore s c { k with leaves := tput k.leaves e l }
/-- A resident sheet of a core. -/
def sheetOf (s : State) (c slot : Nat) : Option Sheet := tfind (coreOf s c).sheets slot
/-- Replaces a sheet. -/
def setSheet (s : State) (c slot : Nat) (h : Sheet) : State :=
  let k := coreOf s c
  setCore s c { k with sheets := tput k.sheets slot h }
/-- Changes a sheet that is resident. -/
def modSheet (s : State) (c slot : Nat) (f : Sheet → Sheet) : State :=
  match sheetOf s c slot with
  | some h => setSheet s c slot (f h)
  | none => s
/-- The arithmetic-clock count of a core (06 R137). -/
def now (s : State) (c : Nat) : Nat := (coreOf s c).cycles
/-- Lease ticks in a microsecond (03 R66). -/
def usTicks : Nat := 600

/-- The issuing leaf of a step: where it stands, the leaf and its sheet. -/
structure Iss where
  core : Nat
  entry : Nat
  leaf : Leaf
  sheet : Sheet
  deriving DecidableEq, Repr

/-- The issuing leaf that `cur` names. -/
def issuer (s : State) : Option Iss :=
  match s.cur with
  | none => none
  | some (c, e) =>
    match leafOf s c e with
    | none => none
    | some l =>
      match sheetOf s c l.slot with
      | none => none
      | some h => some { core := c, entry := e, leaf := l, sheet := h }

/-- The issuing leaf as the state now holds it. -/
def reload (s : State) (x : Iss) : Iss :=
  match leafOf s x.core x.entry with
  | none => x
  | some l =>
    match sheetOf s x.core l.slot with
    | none => x
    | some h => { x with leaf := l, sheet := h }

/-- The next instruction's address (11 R288). -/
def nextPc (pc : DWord) : DWord :=
  if pc.toNat % 64 < 48 then pc + 12 else (pc &&& ~~~63) + 64

/-- A PC names a slot of a line (10 R233). -/
def pcForm (pc : DWord) : Bool := pc.toNat % 64 % 12 == 0 && pc.toNat % 64 ≤ 48

/-- Something of the device that happens next. -/
def postNow (s : State) (a : Agendum) : State := { s with agenda := a :: s.agenda }
/-- An event of the device that its own state has enabled. -/
def postWork (s : State) (i : Instr) : State := { s with work := s.work ++ [i] }
/-- A fresh number for a message, an access or an operation. -/
def fresh (s : State) : Nat × State := (s.nextId, { s with nextId := s.nextId + 1 })

/-- A launch of the graph store. -/
def launchOf (s : State) (ctx index : Nat) : Option Launch :=
  s.launches.find? (fun l => l.ctx = ctx ∧ l.index = index)
/-- Changes a launch. -/
def modLaunch (s : State) (ctx index : Nat) (f : Launch → Launch) : State :=
  { s with launches := s.launches.map (fun l => if l.ctx = ctx ∧ l.index = index then f l else l) }

/-- The record of a sheet's launch. -/
def launchRec (s : State) (h : Sheet) : List DWord := ((launchOf s h.ctx h.launch).map (·.rec')).getD []
/-- The task of a launch. -/
def taskOf (s : State) (ctx launch task : Nat) : Option Task :=
  (launchOf s ctx launch).bind (fun l => tfind l.tasks task)
/-- Changes a task that the launch lists. -/
def modTask (s : State) (ctx launch task : Nat) (f : Task → Task) : State :=
  modLaunch s ctx launch (fun l =>
    { l with tasks := match tfind l.tasks task with
                      | some t => tput l.tasks task (f t)
                      | none => l.tasks })
/-- The task of a sheet. -/
def sheetTask (s : State) (h : Sheet) : Task := (taskOf s h.ctx h.launch h.task).getD { index := h.task }

/-- The launch is killed at once (17 R430): its row comes next; the cause, status and PC are for its record. -/
def killLaunch (s : State) (ctx launch : Nat) (why : KillWhy) (cause status : Nat) (pc : DWord) : State :=
  postNow (modLaunch s ctx launch (fun l => { l with killCause := cause, killStatus := status, killPc := pc }))
    (.event (.launchKill ctx launch why))

/-- The free pool entries of a core (06 R147). -/
def poolFree (s : State) (c : Nat) : List Nat :=
  ((List.range 16).map (· + 48)).filter (fun e => (tfind (coreOf s c).leaves e).isNone)

/-- Moves a leaf and its fault record to another entry (06 R147; log entry 13). -/
def moveEntry (s : State) (c a b : Nat) : State :=
  let k := coreOf s c
  match tfind k.leaves a with
  | none => s
  | some l =>
    let r := tget {} k.recs a
    let ren (e : Nat) : Nat := if e = a then b else e
    { setCore s c { k with leaves := tput (tdel k.leaves a) b l,
                           recs := tset {} (tdel k.recs a) b r,
                           walkFaults := k.walkFaults.map (fun w => { w with entry := ren w.entry }) } with
      dies := s.dies.map (fun d => (d.1, { d.2 with
        active := d.2.active.map (fun w => { w with waiters := w.waiters.map (fun p => if p.1 = c then (c, ren p.2) else p) }),
        missed := d.2.missed.map (fun w => { w with waiters := w.waiters.map (fun p => if p.1 = c then (c, ren p.2) else p) }) })),
      cur := s.cur.map (fun p => if p.1 = c then (c, ren p.2) else p) }

/-- A pool leaf moves into its sheet's empty reserved entry (06 R147). -/
def promote (s : State) (c slot : Nat) : State :=
  let k := coreOf s c
  if (tfind k.leaves slot).isSome then s
  else match k.leaves.find? (fun p => 48 ≤ p.1 ∧ p.2.slot = slot) with
    | some p => moveEntry s c p.1 slot
    | none => s

/-- Every split-stalled leaf of a core retries when an entry frees (06 R149). -/
def wakeStalled (s : State) (c : Nat) : State :=
  (coreOf s c).leaves.foldl (fun s p =>
    match p.2.st with
    | .splitStalled _ => postWork s (.splitStallRetry c p.1)
    | _ => s) s

/-- Frees a leaf's entry (06 R147). -/
def freeLeaf (s : State) (c e : Nat) : State :=
  match leafOf s c e with
  | none => s
  | some l =>
    let k := coreOf s c
    wakeStalled (promote (setCore s c { k with leaves := tdel k.leaves e }) c l.slot) c

/-- A leaf that a trap, a wait or a repair leaves able to issue is ready, or trapped in a handler. -/
def readySt (l : Leaf) : LeafSt := if l.priv then .trapped else .ready

/-- The leaf waits and its run ends (06 R154). -/
def blockLeaf (s : State) (c e : Nat) (w : Wait) : State :=
  match leafOf s c e with
  | none => s
  | some l => setLeaf s c e { l with st := .blocked w, inRun := false, runLen := 0 }

/-- The leaf goes on at `pc` after an instruction with header `h` (06 R154, 10 R239). `ends` is set where
the instruction itself ends the run. -/
def retireAt (s : State) (c e : Nat) (h : Hdr) (ends : Bool) (pc : DWord) : State :=
  match leafOf s c e with
  | none => s
  | some l =>
    let t := now s c
    let n := l.runLen + 1
    let stop := ends || h.e || decide (24 ≤ n) || !l.inRun
    setLeaf s c e { l with
      pc := pc, nextIssue := max l.nextIssue (t + 1 + h.stall.toNat),
      inRun := !stop, runLen := if stop then 0 else n, since := if stop then t else l.since }

/-- A new ready leaf in a pool entry (06 R148). -/
def addLeaf (s : State) (c e : Nat) (x : Leaf) (mask : Mask) (pc : DWord) (checkTgt : Bool) : State :=
  let t := now s c
  setLeaf s c e { x with mask := mask, pc := pc, st := readySt x, inRun := false, runLen := 0, age := t,
                         since := t, line := none, checkTgt := checkTgt }

/-- Clamps a saturating count. -/
def satTo (w n : Nat) : Nat := min n (2 ^ w - 1)

/-- The addresses in host memory that a bus address names (02 R19). -/
def hostPa (a : Nat) : Nat := 0x8000000000000 + a % 2 ^ 50

/-- Signals an MSI-X vector of a function (14 R377): sent, or pending while masked. -/
def signalVec (s : State) (fn vec : Nat) : State :=
  let f := tget {} s.fns fn
  if f.msixEnable && !f.fmask && f.unmasked.contains vec then { s with hostOut := s.hostOut ++ [.msix fn vec] }
  else if f.pending.contains vec then s
  else { s with fns := tput s.fns fn { f with pending := f.pending ++ [vec] } }

/-- The 64 bytes of an event record (19 R449, R450). -/
def recordBytes (s : State) (r : EventRec) (seq : Nat) : List Byte :=
  toBytes 8 (r.kind + r.fn * 2 ^ 8 + seq * 2 ^ 32) ++ toBytes 2 r.ctx ++ toBytes 2 r.unit ++ toBytes 4 r.cid ++
  toBytes 8 r.pc.toNat ++ toBytes 1 r.cause ++ toBytes 1 r.reason ++ toBytes 2 r.status ++
  toBytes 4 r.lanes.toNat ++ toBytes 8 r.addr ++ toBytes 8 r.arg0 ++ toBytes 8 r.arg1 ++ toBytes 8 s.ticks

/-- A management controller writes an event record to a function's ring and signals its vector (19 R449). -/
def postRecord (s : State) (r : EventRec) : State :=
  let base := rawReg s (.part r.fn 5)
  let ctl := rawReg s (.part r.fn 6)
  if !bitN ctl.toNat 63 then s
  else
    let size := 2 ^ (fld ctl 51 48 + 6)
    let head := fld ctl 47 35
    let tail := fld ctl 34 22
    if (head + 2 ^ 13 - tail) % 2 ^ 13 = size then
      setReg s (.part r.fn 6) (BitVec.ofNat 64 (putSlice ctl.toNat 21 0 (satTo 22 (fld ctl 21 0 + 1))))
    else
      let f := tget {} s.fns r.fn
      let s := storeMem s (hostPa (base.toNat + 64 * (head % size))) (recordBytes s r f.seq)
      let s := setReg s (.part r.fn 6) (BitVec.ofNat 64 (putSlice ctl.toNat 47 35 (head + 1)))
      signalVec { s with fns := tput s.fns r.fn { f with seq := (f.seq + 1) % 2 ^ 32 } } r.fn (fld ctl 62 52)

/-- The function that owns a context (19 R445). -/
def ctxFn (s : State) (ctx : Nat) : Nat := ownerFn s 3 ctx

/-- The PROT status of an access type against a leaf entry (02 R36 step 3, R37, 12 R307), or 0. `kind` is
0 a read, 1 a store, 2 an atomic, 3 a fetch, 4 a reduction that matches the page, 5 one that does not. -/
def permCheck (s : State) (ctx : Nat) (priv : Bool) (kind : Nat) (pte : DWord) (pa : Nat) : Nat :=
  let comm := pteCfmt pte ≠ 0
  if pteP pte && !priv then 4
  else if kind = 0 ∧ !pteR pte then 1
  else if kind = 3 ∧ !pteX pte then 3
  else if (kind ≠ 0 ∧ kind ≠ 3) ∧ pteRdup pte then 5
  else if (kind ≠ 0 ∧ kind ≠ 3) ∧ !comm ∧ !pteW pte then 2
  else if kind = 1 ∧ comm then 6
  else if (kind = 2 ∨ kind = 5) ∧ comm then 7
  else if partitionOk s ctx pa then 0
  else 0xA

/-- An access of `n` bytes is of a width that what stands at an offset of a window does not take (04 R103, 17 R419). -/
def windowNarrow (off n : Nat) : Bool :=
  ((off < 0x80000 || (0x100000 ≤ off && off < 0x120000)) && n < 4) || (0x120000 ≤ off && off < 0x130000 && n != 4 && n != 8)

/-- The check of an access of `n` bytes at an offset of a window (02 R20, 04 R105): cause and status, or cause 0. `pp` says
that no page, or a page with P = 1, leads there: through any other page core control is not reached (log entry 82). -/
def windowCheck (s : State) (ctx : Nat) (priv pp : Bool) (core off n : Nat) : Nat × Nat :=
  if 0x130000 ≤ off then (cPage, stPhysHole)
  else if 0x120000 ≤ off then (if priv && pp then (0, 0) else (cProt, 9))
  else if priv || ownsChip s ctx core off n then (0, 0) else (cProt, 9)

/-- A read made in one event for a context: cause and status of its failure, or the bytes (02 R36). -/
def readVa (s : State) (core ctx va n : Nat) (priv : Bool) (kind : Nat) : Except (Nat × Nat) (List Byte) :=
  match translateNow s core ctx va with
  | .error st => .error (cPage, st)
  | .ok (pte, pa) =>
    match permCheck s ctx priv kind pte pa with
    | 0 =>
      let a := storeOf s pte pa
      if frameLocal s pa && regionFlagged s a then .error (cStale, 1)
      else match placeOf s pa with
        | .win c off =>
          (match windowCheck s ctx priv (pteP pte) c off n, windowRead s c off n with
           | (0, _), some bs => .ok bs
           | (0, _), none => .error (cPoison, if off < 0x80000 then 2 else 1)
           | e, _ => .error e)
        | .ctl off => .ok (ctlBytes s off n)
        | .peer _ _ => .ok (freeBytes s pa n)
        | .peerMap _ _ => .ok (freeBytes s pa n)
        | _ =>
          let r := coherentRead s a n
          if r.2 then .error (cPoison, 1) else .ok r.1
    | st => .error (cProt, st)

/-- The fetch line at a virtual address, read in one event (10 R230). -/
def readLine (s : State) (core ctx : Nat) (priv : Bool) (va : Nat) : Except (Nat × Nat) (List Byte) :=
  readVa s core ctx (va / 64 * 64) 64 priv 3

/-- The check of a transfer's target (10 R233): a CONTROL status or 0, and whether the TGT check is left
to the first fetch. `tgt` asks for the TGT bit. -/
def checkTarget (s : State) (core ctx : Nat) (priv : Bool) (pc : DWord) (tgt : Bool) : Nat × Bool :=
  if !pcForm pc then (ctlPcForm, false)
  else if !tgt then (0, false)
  else match readLine s core ctx priv pc.toNat with
    | .error _ => (0, true)
    | .ok b =>
      if !lineParity b || lineReserved b then (0, true)
      else if lineTarget b (pc.toNat % 64 / 12) then (0, false)
      else (ctlTarget, false)

/-- The handler of a cause in a context's trap table (17 R418), or none where the read or the handler
fails; with whether the TGT check is left to the fetch. -/
def trapVector (s : State) (core ctx cause : Nat) : Option (DWord × Bool) :=
  match readVa s core ctx ((rawReg s (.ctrap ctx)).toNat + 8 * cause) 8 true 0 with
  | .error _ => none
  | .ok b =>
    let h := BitVec.ofNat 64 (leBytes b)
    if h = 0 then none
    else match translateNow s core ctx h.toNat with
      | .error _ => none
      | .ok (pte, _) =>
        if !pteX pte || !pteP pte then none
        else match checkTarget s core ctx true h true with
          | (0, later) => some (h, later)
          | _ => none

/-- The handler's s-register bank as the device writes it (17 R421, 22 R465). -/
def handlerBank (s : State) (core entry : Nat) (h : Sheet) (slot : Nat) : Tab DWord :=
  let win := core * 0x400000
  let t := sheetTask s h
  let put (b : Tab DWord) (k v : Nat) : Tab DWord := tset 0 b k (BitVec.ofNat 64 v)
  put (put (put (put [] 0 (win + 0x120000 + 384 * entry)) 1 (win + 0x126000 + 768 * slot))
    2 (win + 0x100000 + 0x800 * t.tile)) 3 (win + 0x80000 + t.scr)

/-- Vectors a leaf to the handler of a cause with its record (17 R421): the record is valid, the leaf is
privileged and trapped at the handler. A failure of the trap table kills the launch (R418). -/
def enterHandler (s : State) (c e : Nat) (l : Leaf) (h : Sheet) (r : FaultRec) : State :=
  match trapVector s c h.ctx r.cause with
  | none => killLaunch s h.ctx h.launch .trapTable r.cause r.status r.pc
  | some (pc, later) =>
    let k := coreOf s c
    let r' := { r with v := true, kleaf := false, klaunch := false, lmask := l.mask, tgt := l.checkTgt,
                       bank := handlerBank s c e h l.slot }
    let task := (h.ctx, h.launch, h.task)
    let stops := r.cause == cPreempt && !(k.frozen ++ k.freezing).contains task &&
      k.queue.any (fun q => q.ctx == h.ctx && q.launch == h.launch && q.task == h.task)
    setCore s c { k with
      recs := tput k.recs e r',
      freezing := if stops then k.freezing ++ [task] else k.freezing,
      leaves := tput k.leaves e { l with pc := pc, st := .trapped, joined := false, inRun := false, runLen := 0, priv := true, pend := none,
                                         handler := r.cause, line := none, checkTgt := later,
                                         since := k.cycles, nextIssue := max l.nextIssue (k.cycles + 1) } }

/-- The array is no longer frozen for tasks; a pass that nothing holds any more goes on from its step (08 R200, R203). -/
def thaw (k : Core) (p : Nat × Nat × Nat → Bool) : Core :=
  let left := k.frozen.filter (fun t => !p t)
  { k with frozen := left, freezing := k.freezing.filter (fun t => !p t),
           pass := if left.isEmpty && !k.frozen.isEmpty then k.pass.map (fun r => { r with since := k.cycles }) else k.pass }

/-- Accesses that are no program's own: prefetches, and those by which lines come to a cluster cache. -/
def isHint (a : Acc) : Bool :=
  match a.kind with
  | .prefR | .prefW | .engR | .engW | .fetch => true
  | _ => false

/-- The accesses of lanes of a sheet that have not performed: `XLATE`'s reads are among them (12 R317). -/
def accsLeft (s : State) (c slot : Nat) (m : Mask) : List Nat :=
  (s.accs.filter (fun a => a.core = c ∧ a.slot = slot ∧ m.has a.lane ∧ !isHint a)).map (·.id) ++
  (s.asyncs.filter (fun q => q.core == c && q.slot == slot && (q.mask &&& m) != 0 &&
    (match q.kind with | .xlate _ _ _ _ => true | _ => false))).map (·.id)

/-- An access or an operation with one of these numbers is still outstanding. -/
def idsLeft (s : State) (ids : List Nat) : Bool := s.accs.any (fun a => ids.contains a.id) || s.asyncs.any (fun a => ids.contains a.id)

/-- The accesses of a leaf's lanes that have not yet performed (09 R227). -/
def outstanding (s : State) (c : Nat) (l : Leaf) : List Nat := accsLeft s c l.slot l.mask

/-- TAKING A SHEET TRAP (17 R421, R422, 09 R227): a privileged leaf kills its launch; a leaf with accesses
outstanding waits for them; else the leaf is vectored at its own PC. -/
def trapRec (s : State) (c e : Nat) (r : FaultRec) : State :=
  match leafOf s c e with
  | none => s
  | some l =>
    match sheetOf s c l.slot with
    | none => s
    | some h =>
      if l.priv then killLaunch s h.ctx h.launch .nested r.cause r.status l.pc
      else
        let o := outstanding s c l
        if o.isEmpty then enterHandler s c e l h r else blockLeaf s c e (.results o)

/-- The record of a sheet trap of the issuing leaf: every lane of the leaf has the cause. -/
def sheetRec (x : Iss) (cause status : Nat) : FaultRec :=
  { cause := cause, status := status, lanes := x.leaf.mask, pc := x.leaf.pc }

/-- A sheet trap of the issuing leaf at its instruction. -/
def sheetTrap (s : State) (x : Iss) (cause status : Nat) : State := trapRec s x.core x.entry (sheetRec x cause status)

/-- A fault of one lane: the lane, cause, status and address (02 R36). `late` is set where it was found while
the access was made (steps 4 to 6). -/
structure LaneFault where
  lane : Nat
  cause : Nat
  status : Nat
  addr : Nat
  deriving DecidableEq, Repr

/-- The rank of a cause, by the step of 02 R36 that gives it. -/
def causeStep (cause status : Nat) : Nat :=
  if cause = cMisalign then 1
  else if cause = cPage then (if status = stPeerTimeout then 5 else 2)
  else if cause = cProt then 3
  else if cause = cStale then 4
  else 6

/-- Lane fault `a` ranks above `b` (02 R36). -/
def ranksAbove (a b : LaneFault) : Bool :=
  let x := causeStep a.cause a.status; let y := causeStep b.cause b.status
  x < y || (x == y && a.status < b.status)

/-- The fault that ranks highest. -/
def topFault : List LaneFault → Option LaneFault
  | [] => none
  | f :: t => match topFault t with
    | none => some f
    | some g => if ranksAbove g f then some g else some f

/-- The lanes of a list of faults. -/
def faultLanes (fs : List LaneFault) : Mask := maskOf (fun l => fs.any (fun f => f.lane = l))

/-- The fault record of parked lanes (02 R38, 17 R419). -/
def laneRec (fs : List LaneFault) (top : LaneFault) (pc : DWord) (m : Mask) : FaultRec :=
  { cause := top.cause, status := top.status, pc := pc, lmask := m,
    lanes := maskOf (fun l => fs.any (fun f => f.lane = l ∧ f.cause = top.cause ∧ f.status = top.status)),
    addr := fs.foldl (fun t f => tset 0 t f.lane (BitVec.ofNat 64 f.addr)) [] }

/-- The outcome of parking lanes of a leaf. -/
inductive Parked where
  /-- the leaf keeps its other lanes -/
  | some' (s : State)
  /-- the whole leaf is parked, trapped or killed -/
  | all (s : State)

/-- One number for an issue of a leaf's. -/
def issueNo (s : State) (c e : Nat) : Nat := 64 * now s c + e + 1

/-- LEAF-EXHAUSTED for lanes that fault with the pool empty (06 R149): those of a late fault are to replay. -/
def exhaustedRec (fs : List LaneFault) (top : LaneFault) (pc : DWord) (l : Leaf) (late : Bool) : FaultRec :=
  { laneRec fs top pc l.mask with cause := cLeafExhausted, status := if late then 3 else 2, v2 := true, cause2 := top.cause,
                                  status2 := top.status, replay := if late then faultLanes fs &&& l.mask else 0 }

/-- Two LEAF-EXHAUSTED of one leaf that wait: the higher-ranked cause, and every lane that replays. -/
def joinPend (a b : FaultRec) : FaultRec :=
  let f (r : FaultRec) : LaneFault := { lane := 0, cause := r.cause2, status := r.status2, addr := 0 }
  { (if ranksAbove (f b) (f a) then b else a) with replay := a.replay ||| b.replay }

/-- Parks the faulting lanes of a leaf at `pc` (02 R38, 06 R149, R150). `late` is the issue of a fault found while the access was
made: the other lanes have performed. With the pool empty the whole leaf traps with LEAF-EXHAUSTED, a late one once its other
accesses are done; a privileged leaf kills its launch (17 R422). -/
def parkLanes (s : State) (c e : Nat) (pc : DWord) (fs : List LaneFault) (late : Option Nat) : Parked :=
  match leafOf s c e, topFault fs with
  | some l, some top =>
    match sheetOf s c l.slot with
    | none => .all s
    | some h =>
      let m := faultLanes fs &&& l.mask
      let issue := late.getD (issueNo s c e)
      if l.priv then .all (killLaunch s h.ctx h.launch .nested top.cause top.status pc)
      else if m = l.mask then
        let k := coreOf s c
        .all (setCore s c { k with
          recs := tput k.recs e (laneRec fs top pc m),
          leaves := tput k.leaves e { l with st := .parked, inRun := false, runLen := 0, pc := pc, line := none,
                                             since := k.cycles, issue := issue } })
      else match poolFree s c with
        | n :: _ =>
          let k := coreOf s c
          .some' (setCore s c { k with
            recs := tput k.recs n (laneRec fs top pc m),
            leaves := tput (tput k.leaves n { l with mask := m, pc := pc, st := .parked, inRun := false, runLen := 0,
                                                     age := k.cycles, since := k.cycles, line := none, checkTgt := false, issue := issue })
                        e { l with mask := l.mask &&& ~~~m } })
        | [] =>
          let r := exhaustedRec fs top pc l late.isSome
          let o := outstanding s c l
          if late.isNone || o.isEmpty then .all (trapRec s c e r)
          else .all (setLeaf s c e { l with st := .blocked (.results o), inRun := false, runLen := 0,
                                            pend := some (match l.pend with | some q => joinPend q r | none => r) })
  | _, _ => .all s

/-- The lane of an access in its leaf, whatever leaf now holds it. -/
def leafOfLane (s : State) (c slot lane : Nat) : Option (Nat × Leaf) :=
  (coreOf s c).leaves.find? (fun p => p.2.slot = slot ∧ p.2.mask.has lane)

/-- A register as the leaf's handler names it: s56 to s63 are the record's bank (17 R421). -/
def banked (l : Leaf) (i : Nat) : Bool := l.priv && 56 ≤ i

/-- The value of an s-register. -/
def sReg (s : State) (x : Iss) (i : Nat) : DWord :=
  if banked x.leaf i then tget 0 (tget {} (coreOf s x.core).recs x.entry).bank (i - 56)
  else tget 0 ((sheetOf s x.core x.leaf.slot).getD x.sheet).s i

/-- Writes an s-register. -/
def putSReg (s : State) (x : Iss) (i : Nat) (v : DWord) : State :=
  if banked x.leaf i then
    let k := coreOf s x.core
    let r := tget {} k.recs x.entry
    setCore s x.core { k with recs := tput k.recs x.entry { r with bank := tset 0 r.bank (i - 56) v } }
  else modSheet s x.core x.leaf.slot (fun h => { h with s := tset 0 h.s i v })

/-- Writes lanes of a physical register (06 R140): a full-mask write clears poison, a partial write to a
poisoned register is discarded. -/
def putPhys (s : State) (c g : Nat) (m : Mask) (v : Nat → Word) : State :=
  let k := coreOf s c
  if m = BitVec.allOnes 32 then
    setCore s c { k with regs := lanes.foldl (fun t l => tset 0 t (32 * g + l) (v l)) k.regs,
                         regPoison := tset false k.regPoison g false }
  else if tget false k.regPoison g then s
  else setCore s c { k with regs := (laneList m).foldl (fun t l => tset 0 t (32 * g + l) (v l)) k.regs }

/-- A context's counter id of a launch, a task (14 R366, 16 R401). -/
def launchCid (index : Nat) : Nat := 1 * 2 ^ 29 + index
/-- The counter id of a task. -/
def taskCid (index task : Nat) : Nat := index * 8192 + task

/-- RETURN FROM A HANDLER to `pc` (17 R423): the record is no longer valid, the leaf is unprivileged. A TGT check that a fetch
fault put off is made at the record's PC (10 R233). A leaf that was parked takes the ac of its return as run-start age (06 R150). -/
def leaveHandler (s : State) (c e : Nat) (l : Leaf) (pc : DWord) : State :=
  let k := coreOf s c
  let r := tget {} k.recs e
  setCore s c { k with
    recs := tput k.recs e { r with v := false },
    leaves := tput k.leaves e { l with pc := pc, st := .ready, priv := false, handler := 0, inRun := false, runLen := 0,
                                       line := none, checkTgt := r.tgt && pc == r.pc, since := k.cycles,
                                       age := if r.cause ≤ cPoison then k.cycles else l.age } }

end Sys2Proof.Machine
end

