-- ==== Sys2Proof/Machine/Operands.lean ====
section
/-!
DEFINITION. Operands: the operand space (06 R132 to R138), what each use of a 9-bit value accepts (R133),
reads and writes of lanes (R135, R136, R140, 10 R239 to R241), guards (R236), and the checks of an issuing
instruction (R237) in their order.
-/
namespace Sys2Proof.Machine

/-- The type at which an operand is read. -/
inductive RdTy where
  | i32
  | i64
  | fl (f : Fmt)
  | bf2
  | e8m0
  deriving DecidableEq, Repr

/-- What an instruction does with an operand field. -/
inductive Role where
  /-- not used: must be 0x1FF -/
  | unused
  /-- a source of the type -/
  | src (t : RdTy)
  /-- a 64-bit uniform source (12 R314): an s-register, a v-pair or an inline constant -/
  | uni64
  /-- a predicate source, p0..p7 or e0..e4; `predN` also 0x1FF -/
  | pred | predN
  /-- a result to a v- or s-register or 0x1FF; `dstReg` not 0x1FF; `dstH` also an h-register -/
  | dst (w64 : Bool) | dstReg (w64 : Bool) | dstH (w64 : Bool)
  /-- a result that merges into the register's old bits (11 R277) -/
  | dstMerge
  /-- a predicate destination; `dstPN` also 0x1FF; `dstP6` only p0..p6 -/
  | dstP | dstPN | dstP6
  /-- an even v-register pair written -/
  | dstPair
  /-- a tag returned; a tag read without consuming its status here -/
  | tagDst | tagRead
  /-- an h-register written -/
  | dstHand
  /-- a group of n v-registers from a multiple of n, written, read, or both -/
  | grpDst (n : Nat) | grpSrc (n : Nat) | grpBoth (n : Nat)
  /-- store data: a group, an s-register where n ≤ 2, or 0x1FF -/
  | stData (n : Nat)
  /-- an s-register source -/
  | sreg
  /-- a v-pair or s-register source; a v-pair or s-register link written -/
  | tgt64 | link
  /-- n consecutive v- or s-registers read -/
  | coords (n : Nat)
  /-- a register group of v-registers read per lane from any start -/
  | vcoords (n : Nat)
  /-- anything whose checks stand in the instruction's own description -/
  | free
  deriving DecidableEq, Repr

/-- v0..v255 -/
def isV (c : Nat) : Bool := c < 0x100
/-- s0..s63 -/
def isS (c : Nat) : Bool := 0x100 ≤ c && c < 0x140
/-- t0..t63 -/
def isT (c : Nat) : Bool := 0x140 ≤ c && c < 0x180
/-- h0..h15 -/
def isH (c : Nat) : Bool := 0x180 ≤ c && c < 0x190
/-- p0..p7 -/
def isP (c : Nat) : Bool := 0x190 ≤ c && c < 0x198
/-- e0..e4 -/
def isE (c : Nat) : Bool := 0x198 ≤ c && c < 0x19D
/-- The special registers that R137 names. -/
def isSpecial (c : Nat) : Bool := 0x1A0 ≤ c && c < 0x1B0
/-- The inline constants. -/
def isConst (c : Nat) : Bool := 0x1C0 ≤ c && c < 0x1FF

/-- A tag operand within the sheet's reservation (05 R126). -/
def tagLegal (h : Sheet) (c : Nat) : Bool := isT c && c - 0x140 < h.ntags

/-- An operand value that a use accepts (06 R132, R133, R137). -/
def opdLegal (h : Sheet) (r : Role) (c : Nat) : Bool :=
  let v (n : Nat) := isV c && c % n == 0 && c + n ≤ h.nregs
  let any (n : Nat) (w64 : Bool) :=
    v n || isS c || tagLegal h c || isH c || isP c || isE c || isConst c || c == 0x1FF ||
      (isSpecial c && (!w64 || c == 0x1AD || c == 0x1AE))
  match r with
  | .unused => c == 0x1FF
  | .src .i64 => any 2 true
  | .src _ => any 1 false
  | .uni64 => v 2 || isS c || isConst c
  | .pred => isP c || isE c
  | .predN => isP c || isE c || c == 0x1FF
  | .dst w => v (if w then 2 else 1) || isS c || c == 0x1FF
  | .dstReg w => v (if w then 2 else 1) || isS c
  | .dstH w => v (if w then 2 else 1) || isS c || isH c || c == 0x1FF
  | .dstMerge => v 1 || isS c || c == 0x1FF
  | .dstP => isP c
  | .dstPN => isP c || c == 0x1FF
  | .dstP6 => isP c && c != 0x197
  | .dstPair => v 2
  | .tagDst => tagLegal h c
  | .tagRead => tagLegal h c
  | .dstHand => isH c
  | .grpDst n => v n
  | .grpSrc n => v n
  | .grpBoth n => v n
  | .stData n => v n || (isS c && n ≤ 2) || c == 0x1FF
  | .sreg => isS c
  | .tgt64 => v 2 || isS c
  | .link => v 2 || isS c
  | .coords n => (isV c && c + n ≤ h.nregs) || (isS c && c + n ≤ 0x140)
  | .vcoords n => isV c && c + n ≤ h.nregs
  | .free => true

/-- The lanes of a predicate or flag as the sheet stores them; p7 is all lanes. -/
def predRaw (h : Sheet) (c : Nat) : Mask :=
  if c = 0x197 then BitVec.allOnes 32
  else if isP c then tget 0 h.preds (c - 0x190)
  else if isE c then tget 0 h.flags (c - 0x198)
  else 0

/-- How an in-flight result names a register: the banked s56..s63 apart (17 R421). -/
def hzCode (x : Iss) (c : Nat) : Nat :=
  if isS c && banked x.leaf (c - 0x100) then 0x400 + 8 * x.entry + (c - 0x138) else c

/-- The stored value of an operand element in a lane: 32 bits of a v-register, a whole s-register, a
handle, a predicate bit. -/
def rawElem (s : State) (x : Iss) (c l : Nat) : Nat :=
  let h := (sheetOf s x.core x.leaf.slot).getD x.sheet
  if isV c then (physReg s x.core (h.base + c) l).toNat
  else if isS c then (sReg s x (c - 0x100)).toNat
  else if isH c then (tget 0 h.h (c - 0x180)).toNat
  else if isP c || isE c then b2n ((predRaw h c).has l)
  else 0

/-- The results in flight of a register that reach a lane, the latest first (10 R239); an s- or h-register is one for every
lane (06 R135). -/
def flightsOn (s : State) (x : Iss) (c l : Nat) : List InFlight :=
  let z := hzCode x c
  ((sheetOf s x.core x.leaf.slot).getD x.sheet).inflight.filter (fun f => f.code == z && (f.mask.has l || isS c || isH c))

/-- The first instruction of the couple whose second issues has made this result (10 R241). -/
def byFirst (s : State) (x : Iss) (f : InFlight) : Bool := s.couple && f.issued == now s x.core

/-- What a reader in a lane gets of a register whose stored value is `v` (10 R239 to R241, 11 R287): a result of the couple's
first instruction is never seen, one that can be read always is, and one before t + L is or is not, by a free choice (log
entry 1). A raised flag leaves what stood before it where it is not raised. -/
def flightVal (s : State) (x : Iss) (c l : Nat) : List InFlight → Nat → Nat
  | [], v => v
  | f :: fs, v =>
    let old := (f.old[l]?.getD 0).toNat % (if isV c then 2 ^ 32 else 2 ^ 64)
    let seen := !byFirst s x f && (decide (f.ready ≤ now s x.core) ||
      Config.freeBool ((s.free * 2 ^ 16 + c * 32 + l) * 32 + (now s x.core - f.issued)))
    match f.sets with
    | none => if seen then v else flightVal s x c l fs old
    | some k => if seen && k.has l then 1 else flightVal s x c l fs old

/-- The value of an operand element that a reader gets. -/
def readElem (s : State) (x : Iss) (c l : Nat) : Nat := flightVal s x c l (flightsOn s x c l) (rawElem s x c l)

/-- The lanes of a predicate or flag as a reader gets them. -/
def readPred (s : State) (x : Iss) (c : Nat) : Mask :=
  if c = 0x197 then BitVec.allOnes 32
  else if isP c || isE c then maskOf (fun l => readElem s x c l != 0) else 0

/-- The guard's lanes (10 R236). -/
def guardMask (s : State) (x : Iss) (h : Hdr) : Mask :=
  let one (g : BitVec 4) : Mask :=
    let m := readPred s x (0x190 + g.toNat % 8)
    if g.getLsbD 3 then ~~~m else m
  if h.gc then one h.ga ||| one h.gb else one h.ga &&& one h.gb

/-- The FP32 codes of the floating inline constants 0x1F0 to 0x1FE (06 R138). -/
def fconst (c : Nat) : Nat :=
  match c with
  | 0x1F0 => 0x3F000000 | 0x1F1 => 0xBF000000 | 0x1F2 => 0x3F800000 | 0x1F3 => 0xBF800000
  | 0x1F4 => 0x40000000 | 0x1F5 => 0xC0000000 | 0x1F6 => 0x40800000 | 0x1F7 => 0xC0800000
  | 0x1F8 => 0x3E800000 | 0x1F9 => 0x41000000 | 0x1FA => 0x3FB8AA3B | 0x1FB => 0x3F317218
  | 0x1FC => 0x3E22F983 | 0x1FD => 0x7F800000 | 0x1FE => 0xFF800000 | _ => 0

/-- The exact value of log2(e), ln(2) or 1 ÷ (2π) to 96 bits, so that it rounds to a narrower format
without a second rounding (06 R138). -/
def constEx (c : Nat) : Ex :=
  match c with
  | 0x1FA => .num false 0x171547652B82FE1777D0FFDA0 (2 ^ 96)
  | 0x1FB => .num false 0xB17217F7D1CF79ABC9E3B398 (2 ^ 96)
  | 0x1FC => .num false 0x28BE60DB9391054A7F09D5F4 (2 ^ 96)
  | _ => exOf (decodeF .f32 (fconst c))

/-- A floating or integer inline constant in a floating format (06 R138). The manual states no code for an integer that has
none in the format: a free one (DESIGN CHOICE, log entry 1). -/
def constF (f : Fmt) (c : Nat) : Nat :=
  if c < 0x1F0 then
    let v : Int := if c < 0x1E0 then (c - 0x1C0 : Nat) else (c - 0x1E0 : Nat) - 16
    let r := convertF f .rne false (exInt v)
    if r.flags = 0 then r.code else (Config.freeByte (0x200 * (fmtIdx f + 1) + c)).toNat % 2 ^ fmtW f
  else if (c = 0x1FD ∨ c = 0x1FE) ∧ (f = .e4m3 ∨ f = .e2m1) then signed f (c = 0x1FE) (maxCode f)
  else (convertF f .rne false (constEx c)).code

/-- An inline constant at a type (06 R138, 07 R472). As a scale code of E8M0, log2(e), ln(2) and 1 ÷ (2π) round to a power of
two; the manual states no code for a constant that is not positive and finite or an integer that is no power of two: a free
byte (DESIGN CHOICE, log entry 1). -/
def constVal (t : RdTy) (c : Nat) : Nat :=
  match t with
  | .fl f => constF f c
  | .bf2 => constF .bf16 c * 0x10001
  | .i32 => if c < 0x1E0 then c - 0x1C0 else if c < 0x1F0 then wrapZ 32 ((c - 0x1E0 : Nat) - 16) else fconst c
  | .i64 => if c < 0x1E0 then c - 0x1C0 else if c < 0x1F0 then wrapZ 64 ((c - 0x1E0 : Nat) - 16) else fconst c
  | .e8m0 =>
    match c with
    | 0x1FA => 127
    | 0x1FB => 126
    | 0x1FC => 124
    | _ =>
      match decodeF .f32 (if c < 0x1F0 then constF .f32 c else fconst c) with
      | .fin false m e => if m = 2 ^ 23 then (e + 23 + 127).toNat else (Config.freeByte c).toNat
      | _ => (Config.freeByte c).toNat

/-- A special register in a lane (06 R137). -/
def specialVal (s : State) (x : Iss) (c l : Nat) : Nat :=
  let r := launchRec s x.sheet
  let t := sheetTask s x.sheet
  match c with
  | 0x1A0 => l
  | 0x1A1 => l / 8
  | 0x1A2 => l / 4
  | 0x1A3 => x.leaf.mask.toNat
  | 0x1A4 => x.sheet.index
  | 0x1A5 => recFld r 148 142
  | 0x1A6 => x.core
  | 0x1A7 => x.core / 4
  | 0x1A8 => x.sheet.task
  | 0x1A9 => x.sheet.launch
  | 0x1AA => t.scr
  | 0x1AB => roundUp (recFld r 211 192) 2048
  | 0x1AC => x.sheet.tbase
  | 0x1AD => now s x.core % 2 ^ 64
  | 0x1AE => s.ticks % 2 ^ 64
  | 0x1AF => x.sheet.ctx
  | _ => 0

/-- The core's tag that a tag operand names (05 R126). -/
def tagNo (h : Sheet) (c : Nat) : Nat := h.tbase + (c - 0x140)

/-- A tag of a core. -/
def tagOf (s : State) (c n : Nat) : Tag := tget {} (coreOf s c).tags n

/-- A tag as an issuing instruction reads it: the second of a couple does not see that the first has made it pending (10 R241). -/
def tagSeen (s : State) (c n : Nat) : Tag :=
  let t := tagOf s c n
  if s.couple && t.wasAt == now s c + 1 then { t with ready := true, status := t.was } else t

/-- Replaces a tag. -/
def setTag (s : State) (c n : Nat) (t : Tag) : State :=
  let k := coreOf s c
  setCore s c { k with tags := tset {} k.tags n t }

/-- An operand in a lane at a type (06 R132, R135, R138). A 32-bit operand that names CYCLES or TICKS, which are of 64 bits, has no
stated value: it reads the low 32 bits (DESIGN CHOICE, log entry 93). -/
def readOpd (s : State) (x : Iss) (t : RdTy) (c l : Nat) : Nat :=
  let w64 := t == .i64
  let wrap (n : Nat) : Nat := if w64 then n % 2 ^ 64 else n % 2 ^ 32
  if isV c then
    (if w64 then readElem s x c l + 2 ^ 32 * (readElem s x (c + 1) l % 2 ^ 32) else readElem s x c l)
  else if isS c || isH c then wrap (readElem s x c l)
  else if isT c then (tagSeen s x.core (tagNo x.sheet c)).status.toNat
  else if isP c || isE c then (readPred s x c).toNat
  else if isSpecial c then wrap (specialVal s x c l)
  else if isConst c then constVal t c
  else 0

/-- A predicate operand in a lane; 0x1FF reads 0. -/
def readBit (s : State) (x : Iss) (c l : Nat) : Bool :=
  if c = 0x197 then true else if isP c || isE c then readElem s x c l != 0 else false

/-- The codes whose elements a use reads. -/
def readCodes (r : Role) (c : Nat) : List Nat :=
  let grp (n : Nat) := (List.range n).map (· + c)
  let val (n : Nat) := if isV c then grp n else if isS c || isH c || isP c || isE c then [c] else []
  match r with
  | .src .i64 | .uni64 => val 2
  | .src _ => val 1
  | .pred | .predN => if isP c || isE c then [c] else []
  | .dstMerge => val 1
  | .grpSrc n | .grpBoth n => grp n
  | .stData n => val n
  | .sreg => [c]
  | .tgt64 => val 2
  | .coords n | .vcoords n => grp n
  | _ => []

/-- The codes whose elements a use writes. -/
def writeCodes (r : Role) (c : Nat) : List Nat :=
  let grp (n : Nat) := (List.range n).map (· + c)
  let val (w : Bool) := if isV c then grp (if w then 2 else 1) else if isS c || isH c then [c] else []
  match r with
  | .dst w | .dstReg w | .dstH w => val w
  | .dstMerge => val false
  | .dstP | .dstPN | .dstP6 => if isP c then [c] else []
  | .dstPair | .link => val true
  | .dstHand => [c]
  | .grpDst n | .grpBoth n => grp n
  | _ => []

/-- The registers that an outstanding access still writes (10 R239). -/
def accRegs (a : Acc) : List Nat :=
  if a.kind = .load || a.kind = .atom then
    ((List.range (max 1 (a.bytes / 4))).filter (fun i => a.live.getLsbD i)).map (· + a.dst.toNat)
  else []

/-- The accesses and operations whose results a reader of `codes` in lanes `m` must wait for (10 R239). -/
def pendingOn (s : State) (x : Iss) (codes : List Nat) (m : Mask) : List Nat :=
  let a := s.accs.filter (fun a => a.core = x.core ∧ a.slot = x.leaf.slot ∧ m.has a.lane ∧
    codes.any (fun c => (accRegs a).contains c))
  let b := s.asyncs.filter (fun a => a.core == x.core && a.slot == x.leaf.slot &&
    (match a.kind with
     | .xlate d p _ _ => (a.mask &&& m) != 0 && codes.any (fun c => c = d.toNat ∨ c = d.toNat + 1 ∨ c = p.toNat)
     | _ => false))
  a.map (·.id) ++ b.map (·.id)

/-- A result written by an asynchronous operation stands before a later writer (10 R239; log entry 14). -/
def xlateOn (s : State) (x : Iss) (codes : List Nat) : List Nat :=
  (s.asyncs.filter (fun a => a.core == x.core && a.slot == x.leaf.slot &&
    (match a.kind with
     | .xlate d p _ _ => codes.any (fun c => c = d.toNat ∨ c = d.toNat + 1 ∨ c = p.toNat)
     | _ => false))).map (·.id)

/-- What an instruction declares of its fields: whether its modifiers are accepted (10 R237 step 1), its
operand uses, and whether it is privileged. -/
structure Sig where
  ok : Bool
  uses : List (Opd × Role)
  priv : Bool := false
  deriving DecidableEq, Repr

/-- What the checks of R237 and the scoreboard find. -/
inductive Verdict where
  | go (act : Mask)
  | trap (cause status : Nat)
  | block (w : Wait)
  | poisoned
  deriving DecidableEq, Repr

/-- The predicates that the guard names, p7 apart. -/
def guardCodes (h : Hdr) : List Nat :=
  ([h.ga.toNat % 8, h.gb.toNat % 8].filter (· ≠ 7)).map (· + 0x190)

/-- Of a register's results in flight, one that a reader now would read before its t + L (10 R240): one that a later result
which can be read has not taken over (R239). -/
def early (s : State) (x : Iss) : List InFlight → Bool
  | [] => false
  | f :: fs =>
    if byFirst s x f then early s x fs
    else if now s x.core < f.ready then true
    else f.sets.isSome && early s x fs

/-- A reader of `codes` in lanes `m` issues before a producer's t + L (10 R240). -/
def tooEarly (s : State) (x : Iss) (codes : List Nat) (m : Mask) : Bool :=
  codes.any (fun c => lanes.any (fun l => (m.has l || isS c || isH c) && early s x (flightsOn s x c l)))

/-- A tag source that is pending (05 R127). -/
def pendingTag (s : State) (x : Iss) (uses : List (Opd × Role)) : Option Nat :=
  (uses.filterMap (fun u => match u.2 with
    | .src _ => if isT u.1.toNat then some (tagNo x.sheet u.1.toNat) else none
    | _ => none)).find? (fun n => !(tagSeen s x.core n).ready)

/-- A tag source holds status BOUNDS (05 R127). -/
def boundsTag (s : State) (x : Iss) (uses : List (Opd × Role)) : Bool :=
  uses.any (fun u => match u.2 with
    | .src _ => isT u.1.toNat && (tagSeen s x.core (tagNo x.sheet u.1.toNat)).status == 0xB
    | _ => false)

/-- A v-register among operands is poisoned (06 R141). -/
def poisonedAny (s : State) (x : Iss) (codes : List Nat) : Bool :=
  codes.any (fun c => isV c && tget false (coreOf s x.core).regPoison (x.sheet.base + c))

/-- The checks of an issuing instruction in their order: ILLEGAL for its fields and its operands, PRIV
(10 R237), the guard (R236), the checking scoreboard (R240), results not yet written (R239), pending and
BOUNDS tags (05 R127), poisoned registers (06 R141). -/
def vet (s : State) (x : Iss) (h : Hdr) (g : Sig) : Verdict :=
  if !g.ok || !g.uses.all (fun u => opdLegal x.sheet u.2 u.1.toNat) then .trap cIllegal 0
  else if (g.priv || g.uses.any (fun u => u.1 == 0x1AF)) && !x.leaf.priv then .trap cPriv 0
  else
    let gc := guardCodes h
    let gw := pendingOn s x gc x.leaf.mask
    if x.sheet.chk && tooEarly s x gc x.leaf.mask then .trap cStallShort 0
    else if !gw.isEmpty then .block (.results gw)
    else
      let act := x.leaf.mask &&& guardMask s x h
      if act = 0 then .go 0
      else
        let rc := (g.uses.map (fun u => readCodes u.2 u.1.toNat)).flatten
        let wc := (g.uses.map (fun u => writeCodes u.2 u.1.toNat)).flatten
        let w := pendingOn s x rc act ++ xlateOn s x wc
        if x.sheet.chk && tooEarly s x rc act then .trap cStallShort 0
        else if !w.isEmpty then .block (.results w)
        else match pendingTag s x g.uses with
          | some n => .block (.tag n)
          | none =>
            if boundsTag s x g.uses then .trap cBounds 0
            else if poisonedAny s x rc then .poisoned
            else .go act

/-- The windows of a core once a tag is consumed (05 R127): the bytes that its operation held are undefined no longer (08 R197,
13 R352). The tile of an operation that `MXSAVE` has taken is undefined from then on (08 R200). -/
def afterConsume (ws : List Window) (n : Nat) (cancelled : Bool) : List Window :=
  (ws.filter (fun w => w.tag ≠ n || w.at' == .saved || w.at' == .lost)).map (fun w =>
    if w.tag = n ∧ w.at' = .saved ∧ cancelled = true then { w with at' := .lost } else w)

/-- A tag is consumed; what the couple's first instruction has just issued on it is not. -/
def consumeTag (s : State) (c n : Nat) : State :=
  let k := coreOf s c
  if k.windows.any (fun w => w.tag = n) && !(s.couple && (tagOf s c n).wasAt == now s c + 1) then
    setCore s c { k with windows := afterConsume k.windows n ((tagOf s c n).status == 9) }
  else s

/-- The tiles of a range that are undefined because the tag of an operation in an image was consumed (08 R200). -/
def lostIn (k : Core) (lo hi : Nat) : Bool := k.windows.any (fun w => w.at' == .lost && decide (w.lo < hi) && decide (lo < w.hi))

/-- The windows without the marks of `MXSAVE` that meet a range. -/
def withoutMarks (ws : List Window) (lo hi : Nat) : List Window :=
  ws.filter (fun w => !((w.at' == .saved || w.at' == .lost) && decide (w.lo < hi) && decide (lo < w.hi)))

/-- The tags that an instruction reads as sources are consumed. -/
def consumeSrc (s : State) (x : Iss) (uses : List (Opd × Role)) (act : Mask) : State :=
  if act = 0 then s
  else uses.foldl (fun s u => match u.2 with
    | .src _ => if isT u.1.toNat then consumeTag s x.core (tagNo x.sheet u.1.toNat) else s
    | _ => s) s

/-- An issuing instruction: its checks, then its effect. -/
def issueOp (s : State) (h : Hdr) (g : Sig) (body : State → Iss → Mask → State) : Host.Outcome State Fault Refusal :=
  match issuer s with
  | none => .fault .noIssuer
  | some x =>
    match vet s x h g with
    | .trap c st => .next (sheetTrap s x c st)
    | .block w => .next (blockLeaf s x.core x.entry w)
    | .poisoned => .next (killLaunch s x.sheet.ctx x.sheet.launch .poisonedRegister 0 0 x.leaf.pc)
    | .go act => .next (body (consumeSrc s x g.uses act) x act)

/-- The instruction is done and the leaf goes on at the next. -/
def doneOp (s : State) (x : Iss) (h : Hdr) : State := retireAt s x.core x.entry h false (nextPc x.leaf.pc)

/-- An instruction that changes no control: its effect, then the next instruction. -/
def plainOp (s : State) (h : Hdr) (g : Sig) (f : State → Iss → Mask → State) : Host.Outcome State Fault Refusal :=
  issueOp s h g (fun s x act => doneOp (f s x act) x h)

/-- Notes a result in flight: readable from t + L (10 R239). No L is above 12: what was issued before is dropped. -/
def addFlight (s : State) (x : Iss) (c : Nat) (m : Mask) (lat : Nat) : State :=
  let t := now s x.core
  let old := lanes.map (fun l => BitVec.ofNat 64 (rawElem s x c l))
  modSheet s x.core x.leaf.slot (fun h => { h with
    inflight := { code := hzCode x c, mask := m, old := old, issued := t, ready := t + lat } ::
      h.inflight.filter (fun f => t < f.issued + 13) })

/-- A later write of the same elements stands: the earlier results outstanding are not written (10 R239). -/
def dropPending (s : State) (x : Iss) (c : Nat) (m : Mask) : State :=
  { s with accs := s.accs.map (fun a =>
      if a.core = x.core ∧ a.slot = x.leaf.slot ∧ m.has a.lane ∧ (accRegs a).contains c then { a with live := a.live &&& ~~~((1 : BitVec 8) <<< (c - a.dst.toNat)) } else a) }

/-- Writes an element in lanes: a v-register under R140, an s- or h-register from the lowest lane (06
R135), predicate or flag bits. -/
def putElem (s : State) (x : Iss) (c : Nat) (m : Mask) (v : Nat → Nat) : State :=
  match lowLane m with
  | none => s
  | some low =>
    if isV c then putPhys s x.core (x.sheet.base + c) m (fun l => BitVec.ofNat 32 (v l))
    else if isS c then putSReg s x (c - 0x100) (BitVec.ofNat 64 (v low))
    else if isH c then modSheet s x.core x.leaf.slot (fun h => { h with h := tset 0 h.h (c - 0x180) (BitVec.ofNat 32 (v low)) })
    else
      let put (old : Mask) : Mask := (old &&& ~~~m) ||| maskOf (fun l => m.has l && v l != 0)
      if isP c && c != 0x197 then
        modSheet s x.core x.leaf.slot (fun h => { h with preds := tset 0 h.preds (c - 0x190) (put (tget 0 h.preds (c - 0x190))) })
      else if isE c then
        modSheet s x.core x.leaf.slot (fun h => { h with flags := tset 0 h.flags (c - 0x198) (put (tget 0 h.flags (c - 0x198))) })
      else s

/-- Writes one element with its latency. -/
def writeElem (s : State) (x : Iss) (c : Nat) (m : Mask) (lat : Nat) (v : Nat → Nat) : State :=
  if m = 0 then s else putElem (dropPending (addFlight s x c m lat) x c m) x c m v

/-- Writes a result (06 R135, 11 R259): a v-register or pair per lane, an s-register from the lowest lane,
a 32-bit value sign-extended there where the type is signed. `w64` is a 64-bit result. -/
def writeOpd (s : State) (x : Iss) (m : Mask) (c : Nat) (w64 sx : Bool) (lat : Nat) (v : Nat → Nat) : State :=
  if isV c then
    let s := writeElem s x c m lat (fun l => v l % 2 ^ 32)
    if w64 then writeElem s x (c + 1) m lat (fun l => v l / 2 ^ 32) else s
  else if isS c then
    writeElem s x c m lat (fun l => if w64 then v l % 2 ^ 64 else if sx then wrapZ 64 (sgnN 32 (v l)) else v l % 2 ^ 32)
  else if isH c || isP c then writeElem s x c m lat v
  else s

/-- A uniform operand, read in a lane (12 R314); 0 with no lane. -/
def uniOpd (s : State) (x : Iss) (m : Mask) (t : RdTy) (c : Nat) : Nat :=
  match lowLane m with
  | some l => readOpd s x t c l
  | none => 0

end Sys2Proof.Machine
end

