-- ==== Sys2Proof/Machine/Flags.lean ====
section
/-!
DEFINITION. The sticky flags e0..e4 (07 R176, 11 R287) and the exception counters (07 R184, R186): what an
instruction that computes in a floating format does beside its result.
-/
namespace Sys2Proof.Machine

/-- The flags of a lane, bit i is ei. -/
def laneFlags (h : Sheet) (l : Nat) : Flags :=
  BitVec.ofNat 5 ((List.range 5).foldl (fun a i => a + if (tget 0 h.flags i).has l then 2 ^ i else 0) 0)

/-- The last result in flight raises a flag in the lanes `k` (11 R287). -/
def markRaise (s : State) (x : Iss) (m k : Mask) : State :=
  if m = 0 then s
  else modSheet s x.core x.leaf.slot (fun h => { h with inflight := match h.inflight with
    | f :: fs => { f with sets := some k } :: fs
    | [] => [] })

/-- Sets sticky flags in lanes: bit i of `f l` sets ei in lane l; the update can be read from t + L (11 R287). -/
def raiseFlags (s : State) (x : Iss) (m : Mask) (lat : Nat) (f : Nat → Flags) : State :=
  (List.range 5).foldl (fun s i =>
    let old := predRaw ((sheetOf s x.core x.leaf.slot).getD x.sheet) (0x198 + i)
    markRaise (writeElem s x (0x198 + i) m lat (fun l => b2n (old.has l || (f l).getLsbD i))) x m
      (maskOf (fun l => m.has l && (f l).getLsbD i))) s

/-- Clears the flags named in `sel` in lanes (11 R287). -/
def clearFlags (s : State) (x : Iss) (m : Mask) (lat : Nat) (sel : Flags) : State :=
  (List.range 5).foldl (fun s i => if sel.getLsbD i then writeElem s x (0x198 + i) m lat (fun _ => 0) else s) s

/-- The counter bank of a launch: CBANK of its queue (16 R402). -/
def bankOf (s : State) (ctx launch : Nat) : Nat :=
  match launchOf s ctx launch with
  | some l => fld (rawReg s (.qctl l.queue)) 55 50
  | none => 0

/-- The counter of an event: 4 × format + kind (07 R185). -/
def counterIndex (e : Event) : Nat := 4 * e.1 + e.2

/-- Counter index of BOUND (07 R185). -/
def boundCounter : Nat := 44

/-- Counter `i` of a bank has reached its threshold: PEND is set and the interrupt sent, once (07 R186). -/
def checkThreshold (s : State) (b i ctx launch : Nat) : State :=
  let c := rawReg s (.ctr b i)
  let p := rawReg s (.cxpend b)
  if fld c 63 32 ≠ 0 ∧ fld c 63 32 ≤ fld c 31 0 ∧ !bitN p.toNat i then
    postRecord (setReg s (.cxpend b) (p ||| BitVec.ofNat 64 (2 ^ i)))
      { fn := ctxFn s ctx, kind := 1, ctx := ctx, unit := b, cid := launchCid launch, arg0 := 2 ^ i }
  else s

/-- Counts one event of a launch in its bank, saturating (07 R184 to R186). -/
def countOne (ctx launch : Nat) (s : State) (i : Nat) : State :=
  let b := bankOf s ctx launch
  let c := rawReg s (.ctr b i)
  checkThreshold (setReg s (.ctr b i) (BitVec.ofNat 64 (putSlice c.toNat 31 0 (satTo 32 (fld c 31 0 + 1))))) b i ctx launch

/-- Counts events of a launch (07 R184). -/
def countEvents (s : State) (ctx launch : Nat) (es : List Event) : State :=
  es.foldl (fun s e => countOne ctx launch s (counterIndex e)) s

/-- Counts the same counter `n` times. -/
def countTimes (s : State) (ctx launch i : Nat) : Nat → State
  | 0 => s
  | n + 1 => countTimes (countOne ctx launch s i) ctx launch i n

end Sys2Proof.Machine
end

