-- ==== Sys2Proof/Machine/Int.lean ====
section
/-!
DEFINITION. Integer, logic, address, comparison and predicate instructions (11 R258 to R268), with the
immediate forms of major 0x2E (10 R251).
-/
namespace Sys2Proof.Machine

/-- Which modifier fields of format R may be nonzero. -/
structure Mods where
  sub : Bool := false
  rnd : Bool := false
  sat : Bool := false
  sr : Bool := false
  asc : Bool := false
  mod : Bool := false
  sty : Bool := false
  deriving DecidableEq, Repr

/-- Every modifier that the instruction does not use is zero (10 R237, 11 R258). -/
def modsOk (f : FmtR) (m : Mods) : Bool :=
  (m.sub || f.sub == 0) && (m.rnd || f.rnd == 0) && (m.sat || !f.sat) && (m.sr || !f.sr) && (m.asc || !f.asc) &&
  (m.mod || f.mod == 0) && (m.sty || f.sty == 0)

/-- The operand uses of a format R instruction: DST, OPA, OPB, OPC, DST2. -/
def usesR (f : FmtR) (dst a b c d2 : Role) : List (Opd × Role) :=
  [(f.dst, dst), (f.opa, a), (f.opb, b), (f.opc, c), (f.dst2, d2)]

/-- The R form that an immediate form performs, its unused fields 0x1FF (10 R251). -/
def asR (f : FmtI) : FmtR :=
  { h := f.h, dst := f.dst, opa := f.opa, opb := 0x1FF, opc := 0x1FF, dst2 := 0x1FF, sub := 0, rnd := f.rnd,
    sat := f.sat, sr := false, asc := false, mod := f.mod, tw := f.tw, sty := 0 }

/-- An integer type of 32 or 64 bits: width and signedness (10 R235). -/
def intTy (h : Hdr) (tw : BitVec 2) : Option (Nat × Bool) :=
  if h.cls = 1 ∨ h.cls = 2 then
    (if tw = 2 then some (32, h.cls == 1) else if tw = 3 then some (64, h.cls == 1) else none)
  else none

/-- A bits type: its width. -/
def bitsTy (h : Hdr) (tw : BitVec 2) : Option Nat :=
  if h.cls = 3 then (if tw = 2 then some 32 else if tw = 3 then some 64 else none) else none

/-- The reading type of a width. -/
def rdW (w : Nat) : RdTy := if w = 64 then .i64 else .i32

/-- IMM under an integer or bits class (10 R243): sign-extended for signed and bits, else zero-extended. -/
def immInt (sx : Bool) (w : Nat) (i : BitVec 32) : Nat := if sx then wrapZ w (sgnN 32 i.toNat) else i.toNat

/-- Source B: the operand, or the immediate. -/
def srcB (s : State) (x : Iss) (t : RdTy) (f : FmtR) (imm : Option Nat) (l : Nat) : Nat :=
  match imm with
  | some v => v
  | none => readOpd s x t f.opb.toNat l

/-- The role of OPB: unused in an immediate form. -/
def roleB (imm : Option Nat) (r : Role) : Role := if imm.isSome then .unused else r

/-- A value read as the class says. -/
def asInt (w : Nat) (sgn : Bool) (v : Nat) : Int := if sgn then sgnN w v else (v % 2 ^ w : Nat)

/-- The least and greatest values of an integer type. -/
def tyMin (w : Nat) (sgn : Bool) : Int := if sgn then -((2 ^ (w - 1) : Nat) : Int) else 0
/-- The greatest value of an integer type. -/
def tyMax (w : Nat) (sgn : Bool) : Int := if sgn then ((2 ^ (w - 1) : Nat) : Int) - 1 else ((2 ^ w : Nat) : Int) - 1

/-- The result of integer arithmetic: clamped under `.sat`, else wrapped (11 R260). -/
def intResult (w : Nat) (sgn sat : Bool) (x : Int) : Nat :=
  wrapZ w (if sat then min (max x (tyMin w sgn)) (tyMax w sgn) else x)

/-- The latency of groups 001 and 010 (10 R239). -/
def latInt : Nat := 2
/-- The latency of the multiplies (10 R239). -/
def latMul : Nat := 4

/-- The fields, operands and privilege that `intOp` asks for (10 R237). -/
def sigIntOp (f : FmtR) (imm : Option (BitVec 32)) (hasB : Bool) (hasC : Bool) (satOk : Bool) (signedOnly : Bool) : Sig :=
  let ty := intTy f.h f.tw
  let w := (ty.getD (32, false)).1
  let sgn := (ty.getD (32, false)).2
  let t := rdW w
  let im := imm.map (immInt sgn w)
  { ok := ty.isSome && (!signedOnly || sgn) && modsOk f { sat := satOk },
    uses := usesR f (.dst (w = 64)) (.src t) (if hasB then roleB im (.src t) else .unused)
      (if hasC then .src t else .unused) .unused }

/-- Integer arithmetic (11 R260): the sources b and c that it has, whether `.sat` is accepted, its latency,
and the exact result. -/
def intOp (f : FmtR) (imm : Option (BitVec 32)) (hasB hasC satOk signedOnly : Bool) (lat : Nat)
    (op : Nat → Int → Int → Int → Int) (s : State) : Host.Outcome State Fault Refusal :=
  let ty := intTy f.h f.tw
  let w := (ty.getD (32, false)).1
  let sgn := (ty.getD (32, false)).2
  let t := rdW w
  let im := imm.map (immInt sgn w)
  plainOp s f.h (sigIntOp f imm hasB hasC satOk signedOnly)
    (fun s x act =>
      writeOpd s x act f.dst.toNat (w = 64) sgn lat (fun l =>
        intResult w sgn f.sat (op w (asInt w sgn (readOpd s x t f.opa.toNat l)) (asInt w sgn (srcB s x t f im l))
          (asInt w sgn (readOpd s x t f.opc.toNat l)))))

/-- IADD (11 R260). -/
def execIadd (f : FmtR) (s : State) : Host.Outcome State Fault Refusal :=
  intOp f none true false true false latInt (fun _ a b _ => a + b) s
/-- IADD3 (11 R260). -/
def execIadd3 (f : FmtR) (s : State) : Host.Outcome State Fault Refusal :=
  intOp f none true true true false latInt (fun _ a b c => a + b + c) s
/-- ISUB (11 R260). -/
def execIsub (f : FmtR) (s : State) : Host.Outcome State Fault Refusal :=
  intOp f none true false true false latInt (fun _ a b _ => a - b) s
/-- IMUL (11 R260). -/
def execImul (f : FmtR) (s : State) : Host.Outcome State Fault Refusal :=
  intOp f none true false true false latMul (fun _ a b _ => a * b) s
/-- IMULH: the high half of the product (11 R260). -/
def execImulh (f : FmtR) (s : State) : Host.Outcome State Fault Refusal :=
  intOp f none true false false false latMul (fun w a b _ => (a * b) / ((2 ^ w : Nat) : Int)) s
/-- IMAD (11 R260). -/
def execImad (f : FmtR) (s : State) : Host.Outcome State Fault Refusal :=
  intOp f none true true true false latMul (fun _ a b c => a * b + c) s
/-- IMIN (11 R260). -/
def execImin (f : FmtR) (s : State) : Host.Outcome State Fault Refusal :=
  intOp f none true false false false latInt (fun _ a b _ => min a b) s
/-- IMAX (11 R260). -/
def execImax (f : FmtR) (s : State) : Host.Outcome State Fault Refusal :=
  intOp f none true false false false latInt (fun _ a b _ => max a b) s
/-- IABS, signed types only (11 R260). -/
def execIabs (f : FmtR) (s : State) : Host.Outcome State Fault Refusal :=
  intOp f none false false true true latInt (fun _ a _ _ => (a.natAbs : Int)) s
/-- IADD with an immediate (10 R251). -/
def execIaddImm (f : FmtI) (s : State) : Host.Outcome State Fault Refusal :=
  intOp (asR f) (some f.imm) true false true false latInt (fun _ a b _ => a + b) s
/-- ISUB with an immediate (10 R251). -/
def execIsubImm (f : FmtI) (s : State) : Host.Outcome State Fault Refusal :=
  intOp (asR f) (some f.imm) true false true false latInt (fun _ a b _ => a - b) s
/-- IMUL with an immediate (10 R251). -/
def execImulImm (f : FmtI) (s : State) : Host.Outcome State Fault Refusal :=
  intOp (asR f) (some f.imm) true false true false latMul (fun _ a b _ => a * b) s
/-- IMULH with an immediate (10 R251). -/
def execImulhImm (f : FmtI) (s : State) : Host.Outcome State Fault Refusal :=
  intOp (asR f) (some f.imm) true false false false latMul (fun w a b _ => (a * b) / ((2 ^ w : Nat) : Int)) s
/-- IMIN with an immediate (10 R251). -/
def execIminImm (f : FmtI) (s : State) : Host.Outcome State Fault Refusal :=
  intOp (asR f) (some f.imm) true false false false latInt (fun _ a b _ => min a b) s
/-- IMAX with an immediate (10 R251). -/
def execImaxImm (f : FmtI) (s : State) : Host.Outcome State Fault Refusal :=
  intOp (asR f) (some f.imm) true false false false latInt (fun _ a b _ => max a b) s

/-- The fields, operands and privilege that `logicOp` asks for (10 R237). -/
def sigLogicOp (f : FmtR) (imm : Option (BitVec 32)) (hasB : Bool) : Sig :=
  let ty := bitsTy f.h f.tw
  let w := ty.getD 32
  let t := rdW w
  let im := imm.map (immInt true w)
  { ok := ty.isSome && modsOk f {},
    uses := usesR f (.dst (w = 64)) (.src t) (if hasB then roleB im (.src t) else .unused) .unused .unused }

/-- Logic on bits (11 R261). -/
def logicOp (f : FmtR) (imm : Option (BitVec 32)) (hasB : Bool) (op : Nat → Nat → Nat → Nat) (s : State) :
    Host.Outcome State Fault Refusal :=
  let ty := bitsTy f.h f.tw
  let w := ty.getD 32
  let t := rdW w
  let im := imm.map (immInt true w)
  plainOp s f.h (sigLogicOp f imm hasB)
    (fun s x act => writeOpd s x act f.dst.toNat (w = 64) false latInt (fun l =>
      op w (readOpd s x t f.opa.toNat l) (srcB s x t f im l)))

/-- The fields, operands and privilege that `shiftOp` asks for (10 R237). -/
def sigShiftOp (f : FmtR) (imm : Option (BitVec 32)) (modOk : Bool) : Sig :=
  let ty := bitsTy f.h f.tw
  let w := ty.getD 32
  let t := rdW w
  let im := imm.map (fun i => i.toNat)
  { ok := ty.isSome && modsOk f { mod := modOk } && f.mod.toNat ≤ 1,
    uses := usesR f (.dst (w = 64)) (.src t) (roleB im (.src .i32)) .unused .unused }

/-- A shift (11 R261): the count is a 32-bit unsigned operand whatever the type. -/
def shiftOp (f : FmtR) (imm : Option (BitVec 32)) (modOk : Bool) (op : Nat → Nat → Nat → Nat) (s : State) :
    Host.Outcome State Fault Refusal :=
  let ty := bitsTy f.h f.tw
  let w := ty.getD 32
  let t := rdW w
  let im := imm.map (fun i => i.toNat)
  plainOp s f.h (sigShiftOp f imm modOk)
    (fun s x act => writeOpd s x act f.dst.toNat (w = 64) false latInt (fun l =>
      op w (readOpd s x t f.opa.toNat l) (srcB s x .i32 f im l)))

/-- a × 2^n mod 2^w; 0 when n ≥ w (11 R261). -/
def shlN (w a n : Nat) : Nat := if w ≤ n then 0 else a * 2 ^ n % 2 ^ w
/-- a ÷ 2^n unsigned; 0 when n ≥ w (11 R261). -/
def shrN (w a n : Nat) : Nat := if w ≤ n then 0 else a / 2 ^ n
/-- a ÷ 2^n signed, rounded down; every bit a's sign when n ≥ w (11 R261). -/
def sarN (w a n : Nat) : Nat := wrapZ w (sgnN w a / ((2 ^ (min n w) : Nat) : Int))
/-- a rotated left by n mod w, or right (11 R261). -/
def rotN (right : Bool) (w a n : Nat) : Nat :=
  let k := n % w
  let k := if right then (w - k) % w else k
  (a * 2 ^ k % 2 ^ w) + a / 2 ^ (w - k)

/-- AND (11 R261). -/
def execAnd (f : FmtR) (s : State) : Host.Outcome State Fault Refusal := logicOp f none true (fun _ a b => a &&& b) s
/-- OR (11 R261). -/
def execOr (f : FmtR) (s : State) : Host.Outcome State Fault Refusal := logicOp f none true (fun _ a b => a ||| b) s
/-- XOR (11 R261). -/
def execXor (f : FmtR) (s : State) : Host.Outcome State Fault Refusal := logicOp f none true (fun _ a b => a ^^^ b) s
/-- NOT reads OPA only (11 R261). -/
def execNot (f : FmtR) (s : State) : Host.Outcome State Fault Refusal :=
  logicOp f none false (fun w a _ => 2 ^ w - 1 - a % 2 ^ w) s
/-- SHL (11 R261). -/
def execShl (f : FmtR) (s : State) : Host.Outcome State Fault Refusal := shiftOp f none false shlN s
/-- SHR (11 R261). -/
def execShr (f : FmtR) (s : State) : Host.Outcome State Fault Refusal := shiftOp f none false shrN s
/-- SAR (11 R261). -/
def execSar (f : FmtR) (s : State) : Host.Outcome State Fault Refusal := shiftOp f none false sarN s
/-- ROT: left, or right with MOD<0> = 1 (11 R261). -/
def execRot (f : FmtR) (s : State) : Host.Outcome State Fault Refusal := shiftOp f none true (rotN (f.mod.getLsbD 0)) s
/-- AND with an immediate (10 R251). -/
def execAndImm (f : FmtI) (s : State) : Host.Outcome State Fault Refusal :=
  logicOp (asR f) (some f.imm) true (fun _ a b => a &&& b) s
/-- OR with an immediate (10 R251). -/
def execOrImm (f : FmtI) (s : State) : Host.Outcome State Fault Refusal :=
  logicOp (asR f) (some f.imm) true (fun _ a b => a ||| b) s
/-- XOR with an immediate (10 R251). -/
def execXorImm (f : FmtI) (s : State) : Host.Outcome State Fault Refusal :=
  logicOp (asR f) (some f.imm) true (fun _ a b => a ^^^ b) s
/-- SHL with an immediate (10 R251). -/
def execShlImm (f : FmtI) (s : State) : Host.Outcome State Fault Refusal := shiftOp (asR f) (some f.imm) false shlN s
/-- SHR with an immediate (10 R251). -/
def execShrImm (f : FmtI) (s : State) : Host.Outcome State Fault Refusal := shiftOp (asR f) (some f.imm) false shrN s
/-- SAR with an immediate (10 R251). -/
def execSarImm (f : FmtI) (s : State) : Host.Outcome State Fault Refusal := shiftOp (asR f) (some f.imm) false sarN s
/-- ROT with an immediate (10 R251). -/
def execRotImm (f : FmtI) (s : State) : Host.Outcome State Fault Refusal :=
  shiftOp (asR f) (some f.imm) true (rotN (f.mod.getLsbD 0)) s

/-- The field that BFE and BFI name: position and length, or none where it is empty (11 R262). -/
def fieldOf (w p n : Nat) : Option (Nat × Nat) :=
  let pos := p % 256
  let len := n % 256
  if w ≤ pos ∨ len = 0 then none else some (pos, min len (w - pos))

/-- The fields, operands and privilege that `execBfe` asks for (10 R237). -/
def sigBfe (f : FmtR) : Sig :=
  let ty := intTy f.h f.tw
  let w := (ty.getD (32, false)).1
  let t := rdW w
  { ok := ty.isSome && modsOk f {}, uses := usesR f (.dst (w = 64)) (.src t) (.src .i32) (.src .i32) .unused }

/-- BFE (11 R262): the field of a, extended by the class. -/
def execBfe (f : FmtR) (s : State) : Host.Outcome State Fault Refusal :=
  let ty := intTy f.h f.tw
  let w := (ty.getD (32, false)).1
  let sgn := (ty.getD (32, false)).2
  let t := rdW w
  plainOp s f.h (sigBfe f)
    (fun s x act => writeOpd s x act f.dst.toNat (w = 64) sgn latInt (fun l =>
      match fieldOf w (readOpd s x .i32 f.opb.toNat l) (readOpd s x .i32 f.opc.toNat l) with
      | none => 0
      | some (pos, n) =>
        let v := readOpd s x t f.opa.toNat l / 2 ^ pos % 2 ^ n
        if sgn then wrapZ w (sgnN n v) else v))

/-- The fields, operands and privilege that `execBfi` asks for (10 R237). -/
def sigBfi (f : FmtR) : Sig :=
  let ty := bitsTy f.h f.tw
  let w := ty.getD 32
  let t := rdW w
  { ok := ty.isSome && modsOk f {}, uses := usesR f (.dst (w = 64)) (.src t) (.src t) (.src .i32) (.src .i32) }

/-- BFI (11 R262): a with the field replaced; the length comes from DST2. -/
def execBfi (f : FmtR) (s : State) : Host.Outcome State Fault Refusal :=
  let ty := bitsTy f.h f.tw
  let w := ty.getD 32
  let t := rdW w
  plainOp s f.h (sigBfi f)
    (fun s x act => writeOpd s x act f.dst.toNat (w = 64) false latInt (fun l =>
      let a := readOpd s x t f.opa.toNat l
      match fieldOf w (readOpd s x .i32 f.opc.toNat l) (readOpd s x .i32 f.dst2.toNat l) with
      | none => a
      | some (pos, n) => putSlice a (pos + n - 1) pos (readOpd s x t f.opb.toNat l)))

/-- The number of set bits of the low `w` bits. -/
def popcN (w a : Nat) : Nat := ((List.range w).filter (fun i => bitN a i)).length
/-- Leading zero bits of a `w`-bit value. -/
def clzN (w a : Nat) : Nat := if a % 2 ^ w = 0 then w else w - 1 - (a % 2 ^ w).log2
/-- The `w`-bit value reversed. -/
def brevN (w a : Nat) : Nat := (List.range w).foldl (fun r i => r + if bitN a i then 2 ^ (w - 1 - i) else 0) 0

/-- The fields, operands and privilege that `countOp` asks for (10 R237). -/
def sigCountOp (f : FmtR) : Sig :=
  let ty := bitsTy f.h f.tw
  let w := ty.getD 32
  { ok := ty.isSome && modsOk f {}, uses := usesR f (.dst false) (.src (rdW w)) .unused .unused .unused }

/-- A bit count (11 R262): a 32-bit unsigned result. -/
def countOp (f : FmtR) (op : Nat → Nat → Nat) (s : State) : Host.Outcome State Fault Refusal :=
  let ty := bitsTy f.h f.tw
  let w := ty.getD 32
  plainOp s f.h (sigCountOp f)
    (fun s x act => writeOpd s x act f.dst.toNat false false latInt (fun l => op w (readOpd s x (rdW w) f.opa.toNat l)))

/-- POPC (11 R262). -/
def execPopc (f : FmtR) (s : State) : Host.Outcome State Fault Refusal := countOp f popcN s
/-- CLZ (11 R262). -/
def execClz (f : FmtR) (s : State) : Host.Outcome State Fault Refusal := countOp f clzN s
/-- BREV (11 R262). -/
def execBrev (f : FmtR) (s : State) : Host.Outcome State Fault Refusal := logicOp f none false (fun w a _ => brevN w a) s

/-- The fields, operands and privilege that `execSel` asks for (10 R237). -/
def sigSel (f : FmtR) : Sig :=
  let ty := bitsTy f.h f.tw
  let w := ty.getD 32
  let t := rdW w
  { ok := ty.isSome && modsOk f {}, uses := usesR f (.dst (w = 64)) (.src t) (.src t) .pred .unused }

/-- SEL (11 R263): a where the predicate bit is 1, else b. -/
def execSel (f : FmtR) (s : State) : Host.Outcome State Fault Refusal :=
  let ty := bitsTy f.h f.tw
  let w := ty.getD 32
  let t := rdW w
  plainOp s f.h (sigSel f)
    (fun s x act => writeOpd s x act f.dst.toNat (w = 64) false latInt (fun l =>
      if readBit s x f.opc.toNat l then readOpd s x t f.opa.toNat l else readOpd s x t f.opb.toNat l))

/-- The fields, operands and privilege that `execMov` asks for (10 R237). -/
def sigMov (f : FmtR) : Sig :=
  let ty := bitsTy f.h f.tw
  let w := ty.getD 32
  let t := rdW w
  { ok := ty.isSome && modsOk f {}, uses := usesR f (.dstH (w = 64)) (.src t) .unused .unused .unused }

/-- MOV (11 R263): the destination may be an h-register. -/
def execMov (f : FmtR) (s : State) : Host.Outcome State Fault Refusal :=
  let ty := bitsTy f.h f.tw
  let w := ty.getD 32
  let t := rdW w
  plainOp s f.h (sigMov f)
    (fun s x act => writeOpd s x act f.dst.toNat (w = 64) false latInt (fun l => readOpd s x t f.opa.toNat l))

/-- The immediate of MOVI at its type, and its width (10 R243, 11 R264). -/
def moviVal (h : Hdr) (tw : BitVec 2) (i : BitVec 32) : Option (Nat × Nat) :=
  match h.cls.toNat, tw.toNat with
  | 1, 2 => some (32, i.toNat)
  | 2, 2 => some (32, i.toNat)
  | 3, 2 => some (32, i.toNat)
  | 1, 3 => some (64, immInt true 64 i)
  | 2, 3 => some (64, i.toNat)
  | 3, 3 => some (64, immInt true 64 i)
  | 4, 0 => some (32, i.toNat)
  | 4, 1 => some (32, (convertF .f16 .rne false (exOf (decodeF .f32 i.toNat))).code)
  | 4, 2 => some (32, (convertF .bf16 .rne false (exOf (decodeF .f32 i.toNat))).code)
  | 4, 3 => some (32, i.toNat)
  | _, _ => none

/-- The fields, operands and privilege that `execMovi` asks for (10 R237). -/
def sigMovi (f : FmtI) : Sig :=
  let v := moviVal f.h f.tw f.imm
  let w64 := (v.getD (32, 0)).1 = 64
  let hi := f.mod.getLsbD 0
  { ok := v.isSome && f.sub == 0 && !f.sat && f.rnd == 0 && f.mod.toNat ≤ 1 && (!hi || (f.h.cls == 3 && f.tw == 3)),
    uses := [(f.dst, .dst w64), (f.opa, .unused)] }

/-- MOVI (11 R264); `.hi` under `.b64` replaces bits 63:32 of DST and keeps bits 31:0. -/
def execMovi (f : FmtI) (s : State) : Host.Outcome State Fault Refusal :=
  let v := moviVal f.h f.tw f.imm
  let w64 := (v.getD (32, 0)).1 = 64
  let hi := f.mod.getLsbD 0
  plainOp s f.h (sigMovi f)
    (fun s x act =>
      if hi then
        (if isV f.dst.toNat then writeElem s x (f.dst.toNat + 1) act latInt (fun _ => f.imm.toNat)
         else if isS f.dst.toNat then
           writeElem s x f.dst.toNat act latInt (fun l => f.imm.toNat * 2 ^ 32 + rawElem s x f.dst.toNat l % 2 ^ 32)
         else s)
      else writeOpd s x act f.dst.toNat w64 (f.h.cls == 1) latInt (fun _ => (v.getD (32, 0)).2))

/-- The fields, operands and privilege that `leaOp` asks for (10 R237). -/
def sigLeaOp (f : FmtR) (imm : Option (BitVec 32)) : Sig :=
  let ty := intTy f.h f.tw
  let im := imm.map (fun i => i.toNat)
  { ok := ty.isSome && (ty.getD (32, false)).1 == 64 && modsOk f { mod := true } && f.mod.toNat < 8,
    uses := usesR f (.dst true) (.src .i64) (roleB im (.src .i64)) .unused .unused }

/-- LEA (11 R265): a + i × 2^MOD<2:0>. -/
def leaOp (f : FmtR) (imm : Option (BitVec 32)) (s : State) : Host.Outcome State Fault Refusal :=
  let ty := intTy f.h f.tw
  let sgn := (ty.getD (64, false)).2
  let im := imm.map (fun i => i.toNat)
  plainOp s f.h (sigLeaOp f imm)
    (fun s x act => writeOpd s x act f.dst.toNat true false latInt (fun l =>
      wrapZ 64 ((readOpd s x .i64 f.opa.toNat l : Nat) + asInt 32 sgn (srcB s x .i64 f im l % 2 ^ 32) * ((2 ^ f.mod.toNat : Nat) : Int))))

/-- LEA (11 R265). -/
def execLea (f : FmtR) (s : State) : Host.Outcome State Fault Refusal := leaOp f none s
/-- LEA with an immediate (11 R265). -/
def execLeaImm (f : FmtI) (s : State) : Host.Outcome State Fault Refusal := leaOp (asR f) (some f.imm) s

/-- Writes a predicate and, where DST2 names one, its complement or another bit. -/
def writePreds (s : State) (x : Iss) (act : Mask) (lat : Nat) (p p2 : Opd) (v v2 : Nat → Bool) : State :=
  let s := writeOpd s x act p.toNat false false lat (fun l => b2n (v l))
  if isP p2.toNat then writeOpd s x act p2.toNat false false lat (fun l => b2n (v2 l)) else s

/-- The condition of ICMP (11 R266). -/
def condInt (c : Nat) (a b : Int) : Bool :=
  match c with
  | 0 => a == b | 1 => a != b | 2 => a < b | 3 => a ≤ b | 4 => b < a | _ => b ≤ a

/-- The fields, operands and privilege that `icmpOp` asks for (10 R237). -/
def sigIcmpOp (f : FmtR) (imm : Option (BitVec 32)) : Sig :=
  let ty := intTy f.h f.tw
  let w := (ty.getD (32, false)).1
  let sgn := (ty.getD (32, false)).2
  let t := rdW w
  let im := imm.map (immInt sgn w)
  { ok := ty.isSome && modsOk f { mod := true } && f.mod.toNat < 6,
    uses := usesR f .dstP (.src t) (roleB im (.src t)) .unused .dstPN }

/-- ICMP (11 R266); DST2 takes the complement. -/
def icmpOp (f : FmtR) (imm : Option (BitVec 32)) (s : State) : Host.Outcome State Fault Refusal :=
  let ty := intTy f.h f.tw
  let w := (ty.getD (32, false)).1
  let sgn := (ty.getD (32, false)).2
  let t := rdW w
  let im := imm.map (immInt sgn w)
  plainOp s f.h (sigIcmpOp f imm)
    (fun s x act =>
      let v := fun l => condInt f.mod.toNat (asInt w sgn (readOpd s x t f.opa.toNat l)) (asInt w sgn (srcB s x t f im l))
      writePreds s x act latInt f.dst f.dst2 v (fun l => !v l))

/-- ICMP (11 R266). -/
def execIcmp (f : FmtR) (s : State) : Host.Outcome State Fault Refusal := icmpOp f none s
/-- ICMP with an immediate (10 R251). -/
def execIcmpImm (f : FmtI) (s : State) : Host.Outcome State Fault Refusal := icmpOp (asR f) (some f.imm) s

/-- The fields, operands and privilege that `execPset` asks for (10 R237). -/
def sigPset (f : FmtR) : Sig :=
  { ok := bitsTy f.h f.tw == some 32 && modsOk f { mod := true } && f.mod.toNat ≤ 1,
    uses := usesR f .dstP (.src .i32) .unused .unused .unused }

/-- PSET (11 R267): bit l of lane l's value, or the value is nonzero. -/
def execPset (f : FmtR) (s : State) : Host.Outcome State Fault Refusal :=
  plainOp s f.h (sigPset f)
    (fun s x act => writePreds s x act latInt f.dst 0x1FF (fun l =>
      let a := readOpd s x .i32 f.opa.toNat l
      if f.mod.getLsbD 0 then a != 0 else bitN a l) (fun _ => false))

/-- The fields, operands and privilege that `execPlop` asks for (10 R237). -/
def sigPlop (f : FmtR) : Sig :=
  { ok := f.h.cls == 0 && f.tw == 0 && modsOk f { sub := true }, uses := usesR f .dstP .predN .predN .predN .unused }

/-- PLOP (11 R267): the table in SUB over three predicate bits. -/
def execPlop (f : FmtR) (s : State) : Host.Outcome State Fault Refusal :=
  plainOp s f.h (sigPlop f)
    (fun s x act => writePreds s x act latInt f.dst 0x1FF (fun l =>
      bitN f.sub.toNat (4 * b2n (readBit s x f.opa.toNat l) + 2 * b2n (readBit s x f.opb.toNat l) +
        b2n (readBit s x f.opc.toNat l))) (fun _ => false))

/-- The fields, operands and privilege that `execPmov` asks for (10 R237). -/
def sigPmov (f : FmtR) : Sig :=
  let m := f.mod.toNat
  { ok := bitsTy f.h f.tw == some 32 && modsOk f { mod := true } && m < 3,
    uses := if m = 0 then usesR f (.dst false) .unused .unused .unused .unused ++
              ((List.range 7).map (fun i => (BitVec.ofNat 9 (0x190 + i), Role.pred)) ++
               (List.range 5).map (fun i => (BitVec.ofNat 9 (0x198 + i), Role.pred)))
            else usesR f .unused (.src .i32) .unused .unused .unused }

/-- PMOV (11 R268): predicates and flags to a register, or from one. -/
def execPmov (f : FmtR) (s : State) : Host.Outcome State Fault Refusal :=
  let m := f.mod.toNat
  plainOp s f.h (sigPmov f)
    (fun s x act =>
      if m = 0 then
        writeOpd s x act f.dst.toNat false false latInt (fun l =>
          (List.range 7).foldl (fun a i => a + 2 ^ i * b2n (readBit s x (0x190 + i) l)) 0x80 +
          (List.range 5).foldl (fun a i => a + 2 ^ (8 + i) * b2n (readBit s x (0x198 + i) l)) 0)
      else
        let v := lanes.map (fun l => readOpd s x .i32 f.opa.toNat l)
        let bit (i l : Nat) : Nat := b2n (bitN (v[l]?.getD 0) i)
        let s := (List.range 7).foldl (fun s i => writeElem s x (0x190 + i) act latInt (bit i)) s
        if m = 2 then (List.range 5).foldl (fun s i => writeElem s x (0x198 + i) act latInt (bit (8 + i))) s else s)

end Sys2Proof.Machine
end

