-- ==== Sys2Proof/Machine/Float.lean ====
section
/-!
DEFINITION. Floating vector arithmetic (11 R269 to R275), with the immediate forms of major 0x39 (10 R251).
-/
namespace Sys2Proof.Machine

/-- The latency of group 011 (10 R239). -/
def latFloat : Nat := 5

/-- The format of a float width code 0..2 (10 R235); `.bf16x2` computes in BF16. -/
def floatFmt (tw : BitVec 2) : Fmt := if tw = 0 then .f32 else if tw = 1 then .f16 else .bf16

/-- The reading type of a float width code. -/
def floatRd (tw : BitVec 2) : RdTy := if tw = 3 then .bf2 else .fl (floatFmt tw)

/-- IMM under a float type (10 R243): an FP32 pattern converted RNE; both halves under `.bf16x2`. -/
def immFloat (tw : BitVec 2) (i : BitVec 32) : Nat :=
  if tw = 0 ∨ tw = 3 then i.toNat else (convertF (floatFmt tw) .rne false (exOf (decodeF .f32 i.toNat))).code

/-- An operation on one value or, under `.bf16x2`, on each packed half, the flags together (11 R275). -/
def perHalf (tw : BitVec 2) (op : Fmt → Nat → Nat → Nat → Out) (a b c : Nat) : Out :=
  if tw = 3 then
    let lo := op .bf16 (a % 2 ^ 16) (b % 2 ^ 16) (c % 2 ^ 16)
    let hi := op .bf16 (a / 2 ^ 16 % 2 ^ 16) (b / 2 ^ 16 % 2 ^ 16) (c / 2 ^ 16 % 2 ^ 16)
    { code := lo.code + 2 ^ 16 * hi.code, flags := lo.flags ||| hi.flags }
  else
    let f := floatFmt tw
    op f (a % 2 ^ fmtW f) (b % 2 ^ fmtW f) (c % 2 ^ fmtW f)

/-- The fields, operands and privilege that `floatOp` asks for (10 R237). -/
def sigFloatOp (f : FmtR) (imm : Option (BitVec 32)) (hasB : Bool) (hasC : Bool) (modsIn : Bool) (satIn : Bool) : Sig :=
  let t := floatRd f.tw
  let im := imm.map (immFloat f.tw)
  { ok := f.h.cls == 4 && modsOk f { rnd := modsIn, sat := satIn },
    uses := usesR f (.dst false) (.src t) (if hasB then roleB im (.src t) else .unused)
      (if hasC then .src t else .unused) .unused }

/-- Floating arithmetic (11 R269, R275, 07 R175, R176): the operation on codes, under flush-to-zero. -/
def floatOp (f : FmtR) (imm : Option (BitVec 32)) (hasB hasC modsIn satIn : Bool)
    (op : Bool → RMode → Bool → Fmt → Nat → Nat → Nat → Out) (s : State) : Host.Outcome State Fault Refusal :=
  let t := floatRd f.tw
  let im := imm.map (immFloat f.tw)
  plainOp s f.h (sigFloatOp f imm hasB hasC modsIn satIn)
    (fun s x act =>
      let r (l : Nat) : Out := perHalf f.tw (op x.sheet.ftz (rmode f.rnd) f.sat) (readOpd s x t f.opa.toNat l)
        (srcB s x t f im l) (readOpd s x t f.opc.toNat l)
      let rs := lanes.map (fun l => if act.has l then r l else { code := 0 })
      raiseFlags (writeOpd s x act f.dst.toNat false false latFloat (fun l => (rs[l]?.getD { code := 0 }).code))
        x act latFloat (fun l => (rs[l]?.getD { code := 0 }).flags))

/-- Delivers an exact result in a format with one rounding, under flush-to-zero (07 R169, R170, R175). -/
def arith (ftz : Bool) (m : RMode) (sat : Bool) (f : Fmt) (e : Ex) : Out := ftzOut ftz f (deliver f m sat e)

/-- a + b. -/
def fAdd (ftz : Bool) (m : RMode) (sat : Bool) (f : Fmt) (a b _c : Nat) : Out :=
  arith ftz m sat f (addF m (opF ftz f a) (opF ftz f b))
/-- a − b. -/
def fSub (ftz : Bool) (m : RMode) (sat : Bool) (f : Fmt) (a b _c : Nat) : Out :=
  arith ftz m sat f (addF m (opF ftz f a) (negF (opF ftz f b)))
/-- a × b. -/
def fMul (ftz : Bool) (m : RMode) (sat : Bool) (f : Fmt) (a b _c : Nat) : Out :=
  arith ftz m sat f (mulF (opF ftz f a) (opF ftz f b))
/-- a × b + c. -/
def fFma (ftz : Bool) (m : RMode) (sat : Bool) (f : Fmt) (a b c : Nat) : Out :=
  arith ftz m sat f (fmaF m (opF ftz f a) (opF ftz f b) (opF ftz f c))

/-- FMIN or FMAX (11 R271): an operand unchanged; a NaN gives way; −0 orders below +0. -/
def fMinMax (isMax ftz : Bool) (_m : RMode) (_sat : Bool) (f : Fmt) (a b _c : Nat) : Out :=
  let a := ftzIn ftz f a
  let b := ftzIn ftz f b
  let x := decodeF f a
  let y := decodeF f b
  let fl : Flags := if isSig x || isSig y then flagNV else 0
  if isNaN x then { code := if isNaN y then canonNaN f else b, flags := fl }
  else if isNaN y then { code := a, flags := fl }
  else if isMax then { code := if ltZ x y then b else a }
  else { code := if ltZ y x then b else a }

/-- FRND: an integral value by the mode, with a's sign (11 R274). -/
def fRnd (ftz : Bool) (m : RMode) (_sat : Bool) (f : Fmt) (a _b _c : Nat) : Out :=
  match opF ftz f a with
  | .nan g => { code := canonNaN f, flags := if g then flagNV else 0 }
  | .inf n => { code := signed f n (infCode f) }
  | .fin n k e =>
    if k = 0 then { code := signed f n 0 }
    else if 0 ≤ e then { code := a }
    else
      let p := pow2Q e
      let r := roundInt m n (k * p.1) p.2
      { code := if r.1 = 0 then signed f n 0 else (deliver f m false (.num n r.1 1)).code }

/-- FADD (11 R269, R270). -/
def execFadd (f : FmtR) (s : State) : Host.Outcome State Fault Refusal := floatOp f none true false true true fAdd s
/-- FSUB (11 R269, R270). -/
def execFsub (f : FmtR) (s : State) : Host.Outcome State Fault Refusal := floatOp f none true false true true fSub s
/-- FMUL (11 R269, R270). -/
def execFmul (f : FmtR) (s : State) : Host.Outcome State Fault Refusal := floatOp f none true false true true fMul s
/-- FFMA (11 R269, R270). -/
def execFfma (f : FmtR) (s : State) : Host.Outcome State Fault Refusal := floatOp f none true true true true fFma s
/-- FMIN (11 R271). -/
def execFmin (f : FmtR) (s : State) : Host.Outcome State Fault Refusal := floatOp f none true false false false (fMinMax false) s
/-- FMAX (11 R271). -/
def execFmax (f : FmtR) (s : State) : Host.Outcome State Fault Refusal := floatOp f none true false false false (fMinMax true) s
/-- FRND (11 R274). -/
def execFrnd (f : FmtR) (s : State) : Host.Outcome State Fault Refusal := floatOp f none false false true false fRnd s
/-- FADD with an immediate (10 R251). -/
def execFaddImm (f : FmtI) (s : State) : Host.Outcome State Fault Refusal :=
  floatOp (asR f) (some f.imm) true false true true fAdd s
/-- FSUB with an immediate (10 R251). -/
def execFsubImm (f : FmtI) (s : State) : Host.Outcome State Fault Refusal :=
  floatOp (asR f) (some f.imm) true false true true fSub s
/-- FMUL with an immediate (10 R251). -/
def execFmulImm (f : FmtI) (s : State) : Host.Outcome State Fault Refusal :=
  floatOp (asR f) (some f.imm) true false true true fMul s
/-- FMIN with an immediate (10 R251). -/
def execFminImm (f : FmtI) (s : State) : Host.Outcome State Fault Refusal :=
  floatOp (asR f) (some f.imm) true false false false (fMinMax false) s
/-- FMAX with an immediate (10 R251). -/
def execFmaxImm (f : FmtI) (s : State) : Host.Outcome State Fault Refusal :=
  floatOp (asR f) (some f.imm) true false false false (fMinMax true) s

/-- The condition of FCMP on two values (11 R272). -/
def condFloat (c : Nat) (a b : FVal) : Bool :=
  let n := isNaN a || isNaN b
  match c with
  | 0 => eqF a b
  | 1 => !eqF a b
  | 2 => ltF a b
  | 3 => !n && !ltF b a
  | 4 => ltF b a
  | 5 => !n && !ltF a b
  | 6 => !n
  | _ => n

/-- The fields, operands and privilege that `fcmpOp` asks for (10 R237). -/
def sigFcmpOp (f : FmtR) (imm : Option (BitVec 32)) : Sig :=
  let fm := floatFmt f.tw
  let t : RdTy := .fl fm
  let im := imm.map (immFloat f.tw)
  let c := f.mod.toNat
  { ok := f.h.cls == 4 && f.tw != 3 && modsOk f { mod := true } && c < 8,
    uses := usesR f .dstP (.src t) (roleB im (.src t)) .unused .dstPN }

/-- FCMP (11 R272): a predicate and its complement; only e0 may be set. -/
def fcmpOp (f : FmtR) (imm : Option (BitVec 32)) (s : State) : Host.Outcome State Fault Refusal :=
  let fm := floatFmt f.tw
  let t : RdTy := .fl fm
  let im := imm.map (immFloat f.tw)
  let c := f.mod.toNat
  plainOp s f.h (sigFcmpOp f imm)
    (fun s x act =>
      let a (l : Nat) := opF x.sheet.ftz fm (readOpd s x t f.opa.toNat l)
      let b (l : Nat) := opF x.sheet.ftz fm (srcB s x t f im l)
      let inv (l : Nat) : Bool :=
        if 2 ≤ c ∧ c ≤ 5 then isNaN (a l) || isNaN (b l) else isSig (a l) || isSig (b l)
      let fl := lanes.map (fun l => if act.has l && inv l then flagNV else 0)
      raiseFlags (writePreds s x act latFloat f.dst f.dst2 (fun l => condFloat c (a l) (b l))
        (fun l => !condFloat c (a l) (b l))) x act latFloat (fun l => fl[l]?.getD 0))

/-- FCMP (11 R272). -/
def execFcmp (f : FmtR) (s : State) : Host.Outcome State Fault Refusal := fcmpOp f none s
/-- FCMP with an immediate (10 R251). -/
def execFcmpImm (f : FmtI) (s : State) : Host.Outcome State Fault Refusal := fcmpOp (asR f) (some f.imm) s

/-- The class bit of a code as stored (11 R273). -/
def classBit (f : Fmt) (code : Nat) : Nat :=
  match decodeF f code with
  | .nan g => if g then 0 else 1
  | .inf n => if n then 2 else 9
  | .fin n m _ =>
    if m = 0 then (if n then 5 else 6)
    else if isSubnormal f code then (if n then 4 else 7)
    else if n then 3 else 8

/-- The formats that FCLASS accepts (11 R273). -/
def classFmt (h : Hdr) (tw : BitVec 2) : Option Fmt :=
  if h.cls = 4 then (if tw = 3 then none else some (floatFmt tw))
  else if h.cls = 5 then
    (if tw = 0 then some .e4m3 else if tw = 1 then some .e5m2 else if tw = 2 then some .e2m1 else none)
  else none

/-- The fields, operands and privilege that `execFclass` asks for (10 R237). -/
def sigFclass (f : FmtR) : Sig :=
  let fm := classFmt f.h f.tw
  let g := fm.getD .f32
  { ok := fm.isSome && modsOk f {}, uses := usesR f (.dst false) (.src (.fl g)) .unused .unused .unused }

/-- FCLASS (11 R273): one of bits 9:0; a narrow operand from the low bits of its element. -/
def execFclass (f : FmtR) (s : State) : Host.Outcome State Fault Refusal :=
  let fm := classFmt f.h f.tw
  let g := fm.getD .f32
  plainOp s f.h (sigFclass f)
    (fun s x act => writeOpd s x act f.dst.toNat false false latFloat (fun l =>
      2 ^ classBit g (readOpd s x (.fl g) f.opa.toNat l % 2 ^ fmtW g)))

end Sys2Proof.Machine
end

