-- ==== Sys2Proof/Machine/CrossLane.lean ====
section
/-!
DEFINITION. Cross-lane instructions (11 R281 to R287): they act over the participating lanes, the leaf's
lanes whose guard is true.
-/
namespace Sys2Proof.Machine

/-- The latency of the cross-lane instructions (10 R239). -/
def latCross : Nat := 6

/-- The lane that SHFL reads for lane `l`, which may lie outside the segment (11 R282). -/
def shflLane (mode w l d : Nat) : Int :=
  let s := l - l % w
  match mode with
  | 0 => (s + d % w : Nat)
  | 1 => (l : Int) - d
  | 2 => (l : Int) + d
  | _ => (s + ((l % w) ^^^ (d % w)) : Nat)

/-- SHFL is valid for lane `l`: its source stands in the segment and participates (11 R282). -/
def shflOk (act : Mask) (mode w l d : Nat) : Bool :=
  let s := l - l % w
  let j := shflLane mode w l d
  (s : Int) ≤ j && j < ((s + w : Nat) : Int) && act.has j.toNat

/-- The fields, operands and privilege that `execShfl` asks for (10 R237). -/
def sigShfl (f : FmtR) : Sig :=
  let ty := bitsTy f.h f.tw
  let w := ty.getD 32
  let t := rdW w
  let k := f.sub.toNat / 4 % 8
  { ok := ty.isSome && modsOk f { sub := true } && k < 6 && f.sub.toNat < 32,
    uses := usesR f (.dst (w = 64)) (.src t) (.src .i32) .unused .dstPN }

/-- SHFL (11 R282). -/
def execShfl (f : FmtR) (s : State) : Host.Outcome State Fault Refusal :=
  let ty := bitsTy f.h f.tw
  let w := ty.getD 32
  let t := rdW w
  let mode := f.sub.toNat % 4
  let k := f.sub.toNat / 4 % 8
  let seg := 2 ^ k
  plainOp s f.h (sigShfl f)
    (fun s x act =>
      let d (l : Nat) := readOpd s x .i32 f.opb.toNat l
      let ok (l : Nat) := shflOk act mode seg l (d l)
      let s' := writeOpd s x act f.dst.toNat (w = 64) false latCross (fun l =>
        readOpd s x t f.opa.toNat (if ok l then (shflLane mode seg l (d l)).toNat else l))
      if isP f.dst2.toNat then writeOpd s' x act f.dst2.toNat false false latCross (fun l => b2n (ok l)) else s')

/-- The fields, operands and privilege that `execVote` asks for (10 R237). -/
def sigVote (f : FmtR) : Sig :=
  let m := f.sub.toNat
  let ballot := m == 3
  { ok := m < 4 && modsOk f { sub := true } &&
      (if ballot then bitsTy f.h f.tw == some 32 else f.h.cls == 0 && f.tw == 0),
    uses := usesR f (if ballot then .dstReg false else .dstP) .pred .unused .unused .unused }

/-- VOTE (11 R283). -/
def execVote (f : FmtR) (s : State) : Host.Outcome State Fault Refusal :=
  let m := f.sub.toNat
  let ballot := m == 3
  plainOp s f.h (sigVote f)
    (fun s x act =>
      let v := maskOf (fun l => act.has l && readBit s x f.opa.toNat l)
      let b : Bool := if m = 0 then v == act else if m = 1 then v != 0 else v == act || v == 0
      writeOpd s x act f.dst.toNat false false latCross (fun _ => if ballot then v.toNat else b2n b))

/-- What REDUX and SCAN combine: a value with the flags of its rounding steps. -/
abbrev Comb := Nat → Nat → Out

/-- The type of REDUX and SCAN: 0 integer of `w` bits and signedness, 1 FP32, 2 bits of `w`; none where the
operation does not accept it (11 R284, R285). -/
def redTy (f : FmtR) (op : Nat) : Option (Nat × Nat × Bool) :=
  if op < 3 then
    match intTy f.h f.tw with
    | some (w, g) => some (0, w, g)
    | none => if f.h.cls = 4 ∧ f.tw = 0 then some (1, 32, false) else none
  else if op < 6 then (bitsTy f.h f.tw).map (fun w => (2, w, false))
  else none

/-- The combination of two values (11 R284). -/
def combine (ftz : Bool) (op : Nat) (ty : Nat × Nat × Bool) (m : RMode) (a b : Nat) : Out :=
  if ty.1 = 1 then
    match op with
    | 0 => fAdd ftz m false .f32 a b 0
    | 1 => fMinMax false ftz m false .f32 a b 0
    | _ => fMinMax true ftz m false .f32 a b 0
  else
    let w := ty.2.1
    let x := asInt w ty.2.2 a
    let y := asInt w ty.2.2 b
    { code := match op with
        | 0 => wrapZ w (x + y)
        | 1 => if y < x then b else a
        | 2 => if x < y then b else a
        | 3 => a &&& b
        | 4 => a ||| b
        | _ => a ^^^ b }

/-- One level of the REDUX tree: pairs of values, none standing for an absent lane, and the flags. -/
def redLevel (c : Comb) : List (Option Nat) → List (Option Nat) × Flags
  | a :: b :: t =>
    let r := redLevel c t
    match a, b with
    | some x, some y => let o := c x y; (some o.code :: r.1, o.flags ||| r.2)
    | some x, none => (some x :: r.1, r.2)
    | none, y => (y :: r.1, r.2)
  | l => (l, 0)

/-- The fixed tree over 32 lane numbers: `n` levels (11 R284). -/
def redTree (c : Comb) : Nat → List (Option Nat) → Option Nat × Flags
  | 0, l => (l.headD none, 0)
  | n + 1, l => let r := redLevel c l; let q := redTree c n r.1; (q.1, r.2 ||| q.2)

/-- The exact sum of the participating lanes, clamped (11 R284: `.sat`). -/
def satSum (w : Nat) (g : Bool) (vs : List Nat) : Nat := intResult w g true (vs.foldl (fun a v => a + asInt w g v) 0)

/-- The fields, operands and privilege that `execRedux` asks for (10 R237). -/
def sigRedux (f : FmtR) : Sig :=
  let op := f.sub.toNat
  let ty := redTy f op
  let k := ty.getD (0, 32, false)
  let fadd := op == 0 && k.1 == 1
  let popc := op == 6
  let t : RdTy := if k.1 = 1 then .fl .f32 else rdW k.2.1
  { ok := op < 7 && modsOk f { sub := true, rnd := fadd, sat := op == 0 && k.1 == 0 } &&
      (if popc then f.h.cls == 0 && f.tw == 0 else ty.isSome),
    uses := usesR f (.dst (!popc && k.2.1 == 64)) (if popc then .pred else .src t) .unused .unused .unused }

/-- REDUX (11 R284). -/
def execRedux (f : FmtR) (s : State) : Host.Outcome State Fault Refusal :=
  let op := f.sub.toNat
  let ty := redTy f op
  let k := ty.getD (0, 32, false)
  let popc := op == 6
  let t : RdTy := if k.1 = 1 then .fl .f32 else rdW k.2.1
  plainOp s f.h (sigRedux f)
    (fun s x act =>
      if popc then
        writeOpd s x act f.dst.toNat false false latCross (fun _ =>
          ((laneList act).filter (fun l => readBit s x f.opa.toNat l)).length)
      else
        let vs := lanes.map (fun l => if act.has l then some (readOpd s x t f.opa.toNat l) else none)
        let r := redTree (combine x.sheet.ftz op k (rmode f.rnd)) 5 vs
        let v := if f.sat then satSum k.2.1 k.2.2 (vs.filterMap id) else r.1.getD 0
        let s' := writeOpd s x act f.dst.toNat (k.2.1 = 64) (f.h.cls == 1) latCross (fun _ => v)
        if k.1 = 1 then raiseFlags s' x act latCross (fun _ => r.2) else s')

/-- The identity of an operation (11 R285). -/
def identity (op : Nat) (ty : Nat × Nat × Bool) : Nat :=
  let w := ty.2.1
  if ty.1 = 1 then (if op = 0 then 0x80000000 else if op = 1 then 0x7F800000 else 0xFF800000)
  else match op with
    | 1 => wrapZ w (tyMax w ty.2.2)
    | 2 => wrapZ w (tyMin w ty.2.2)
    | 3 => 2 ^ w - 1
    | _ => 0

/-- A SCAN over lane values in increasing lane order: for each lane the value before, the value after and
the flags of its step (11 R285). `fst` is set until the first value, which it gives exactly. -/
def scanFrom (c : Comb) : Bool → Nat → List (Nat × Nat) → List (Nat × Nat × Nat × Flags)
  | _, _, [] => []
  | fst, acc, (l, v) :: t =>
    let o : Out := if fst then { code := v } else c acc v
    (l, acc, o.code, o.flags) :: scanFrom c false o.code t

/-- The fields, operands and privilege that `execScan` asks for (10 R237). -/
def sigScan (f : FmtR) : Sig :=
  let op := f.sub.toNat
  let ty := redTy f op
  let k := ty.getD (0, 32, false)
  let fadd := op == 0 && k.1 == 1
  let t : RdTy := if k.1 = 1 then .fl .f32 else rdW k.2.1
  { ok := ty.isSome && op < 6 && f.mod.toNat < 2 &&
      modsOk f { sub := true, rnd := fadd, sat := op == 0 && k.1 == 0, mod := true },
    uses := usesR f (.dst (k.2.1 = 64)) (.src t) .unused .unused .unused }

/-- SCAN (11 R285). -/
def execScan (f : FmtR) (s : State) : Host.Outcome State Fault Refusal :=
  let op := f.sub.toNat
  let ty := redTy f op
  let k := ty.getD (0, 32, false)
  let t : RdTy := if k.1 = 1 then .fl .f32 else rdW k.2.1
  plainOp s f.h (sigScan f)
    (fun s x act =>
      let c : Comb := fun a b =>
        if f.sat then { code := intResult k.2.1 k.2.2 true (asInt k.2.1 k.2.2 a + asInt k.2.1 k.2.2 b) }
        else combine x.sheet.ftz op k (rmode f.rnd) a b
      let r := scanFrom c true (identity op k) ((laneList act).map (fun l => (l, readOpd s x t f.opa.toNat l)))
      let at' (l : Nat) := (r.find? (fun e => e.1 = l)).getD (l, 0, 0, 0)
      let s' := writeOpd s x act f.dst.toNat (k.2.1 = 64) (f.h.cls == 1) latCross (fun l =>
        if f.mod.getLsbD 0 then (at' l).2.1 else (at' l).2.2.1)
      if k.1 = 1 then raiseFlags s' x act latCross (fun l => (at' l).2.2.2) else s')

/-- The fields, operands and privilege that `execMatch` asks for (10 R237). -/
def sigMatch (f : FmtR) : Sig :=
  let ty := bitsTy f.h f.tw
  let t := rdW (ty.getD 32)
  { ok := ty.isSome && modsOk f {}, uses := usesR f (.dst false) (.src t) .unused .unused .dstPN }

/-- MATCH (11 R286): the lanes with the same value, and whether all agree. -/
def execMatch (f : FmtR) (s : State) : Host.Outcome State Fault Refusal :=
  let ty := bitsTy f.h f.tw
  let t := rdW (ty.getD 32)
  plainOp s f.h (sigMatch f)
    (fun s x act =>
      let a (l : Nat) := readOpd s x t f.opa.toNat l
      let m (l : Nat) := maskOf (fun j => act.has j && a j == a l)
      let s' := writeOpd s x act f.dst.toNat false false latCross (fun l => (m l).toNat)
      if isP f.dst2.toNat then writeOpd s' x act f.dst2.toNat false false latCross (fun l => b2n (m l == act)) else s')

/-- The fields, operands and privilege that `execFlagclr` asks for (10 R237). -/
def sigFlagclr (f : FmtR) : Sig :=
  { ok := f.h.cls == 0 && f.tw == 0 && modsOk f { sub := true } && f.sub.toNat < 32 && f.sub != 0,
    uses := usesR f .unused .unused .unused .unused .unused }

/-- FLAGCLR (11 R287). -/
def execFlagclr (f : FmtR) (s : State) : Host.Outcome State Fault Refusal :=
  plainOp s f.h (sigFlagclr f)
    (fun s x act => clearFlags s x act latCross (BitVec.ofNat 5 f.sub.toNat))

end Sys2Proof.Machine
end

