-- ==== Sys2Proof/Machine/Convert.lean ====
section
/-!
DEFINITION. `CVT` (11 R276 to R278) and what it shares with the write-back engines: division by a scale (07
R181), the choice of the next scale (R182) and stochastic rounding's generator (R172, R173).
-/
namespace Sys2Proof.Machine

/-- An element type of a conversion: an integer of a width and signedness, a floating format, or E8M0. -/
inductive CvtTy where
  | int (w : Nat) (sgn : Bool)
  | flt (f : Fmt)
  | scale
  deriving DecidableEq, Repr

/-- The type of a class and width code (10 R235), where `CVT` takes it (11 R276). -/
def cvtTy (cls tw : Nat) : Option CvtTy :=
  match cls, tw with
  | 1, w => some (.int (2 ^ (w + 3)) true)
  | 2, w => some (.int (2 ^ (w + 3)) false)
  | 4, 0 => some (.flt .f32) | 4, 1 => some (.flt .f16) | 4, 2 => some (.flt .bf16)
  | 5, 0 => some (.flt .e4m3) | 5, 1 => some (.flt .e5m2) | 5, 2 => some (.flt .e2m1) | 5, 3 => some .scale
  | _, _ => none

/-- Bits of an element. -/
def cvtW : CvtTy → Nat
  | .int w _ => w | .flt f => fmtW f | .scale => 8

/-- The index of a type in the counter bank (07 R184). -/
def cvtIdx : CvtTy → Nat
  | .int w _ => if w = 8 then 0 else 2
  | .flt f => fmtIdx f
  | .scale => 10

/-- How an operand of the type is read. -/
def cvtRd : CvtTy → RdTy
  | .int w _ => if w = 64 then .i64 else .i32
  | .flt f => .fl f
  | .scale => .e8m0

/-- The position is one that the type has in a 32-bit value (11 R276). -/
def posOk (t : CvtTy) (p : Nat) : Bool := if cvtW t < 32 then p < 32 / cvtW t else p == 0

/-- The element at a position. -/
def elemAt (t : CvtTy) (p v : Nat) : Nat := if cvtW t < 32 then v / 2 ^ (cvtW t * p) % 2 ^ cvtW t else v

/-- A source element as a value: flush-to-zero applies to floating formats (07 R175); none for an integer. -/
def srcVal (ftz : Bool) (t : CvtTy) (c : Nat) : Option FVal :=
  match t with
  | .flt f => some (opF ftz f c)
  | .scale => some (decodeE8M0 c)
  | .int _ _ => none

/-- The NAN and INF events of a value read under an index (07 R184). -/
def readEvents (idx : Nat) : FVal → List Event
  | .nan _ => [(idx, 0)]
  | .inf _ => [(idx, 1)]
  | _ => []

/-- A conversion of one element (11 R277, 07 R171, R184). -/
def convElem (ftz : Bool) (st dt : CvtTy) (m : RMode) (sat : Bool) (c : Nat) : Out :=
  match dt with
  | .scale => { code := 0 }
  | .flt f =>
    match srcVal ftz st c with
    | some v =>
      let o := ftzOut ftz f (convertF f m sat (exOf v))
      { o with events := readEvents (cvtIdx st) v ++ o.events }
    | none => ftzOut ftz f (convertF f m sat (exInt (match st with | .int w g => asInt w g c | _ => 0)))
  | .int w g =>
    match srcVal ftz st c with
    | some v =>
      let r := toIntTy w g m (exOf v)
      { code := r.1, flags := r.2.1, events := readEvents (cvtIdx st) v ++ (if r.2.2 then [(cvtIdx dt, 2)] else []) ++ toZero (cvtIdx dt) (exOf v) r }
    | none =>
      let x := match st with | .int v h => asInt v h c | _ => 0
      let y := if sat then min (max x (tyMin w g)) (tyMax w g) else x
      { code := wrapZ w y, events := if y = x then [] else [(cvtIdx dt, 2)] }

/-- A source advances the generator: it is finite (07 R172). -/
def advances (ftz : Bool) (st : CvtTy) (c : Nat) : Bool :=
  match srcVal ftz st c with
  | some (.nan _) => false
  | some (.inf _) => false
  | _ => true

/-- The generator of a lane after one advance (07 R173). -/
def genNext (h : Sheet) (l : Nat) : Word := xorshift (tget 0 h.gen l)

/-- Advances the generators of lanes. -/
def advanceGen (s : State) (c slot : Nat) (f : Nat → Bool) : State :=
  modSheet s c slot (fun h => { h with gen := lanes.foldl (fun g l =>
    if f l then tset 0 g l (xorshift (tget 0 g l)) else g) h.gen })

/-- The scale formats of 07 R163 and 11 R278: 0 E5M2, 1 E4M3, 2 E8M0, 3 BF16. -/
def scaleFmt (k : Nat) : Option Fmt := if k = 0 then some .e5m2 else if k = 1 then some .e4m3 else if k = 2 then none else some .bf16

/-- The value of a scale code. -/
def scaleVal (k c : Nat) : FVal :=
  match scaleFmt k with
  | some f => decodeF f c
  | none => decodeE8M0 c

/-- The counter index of a scale format. -/
def scaleIdx (k : Nat) : Nat := ((scaleFmt k).map fmtIdx).getD 10

/-- Bits of a scale code. -/
def scaleW (k : Nat) : Nat := ((scaleFmt k).map fmtW).getD 8

/-- A value that a scale may step from: positive and finite (07 R182). -/
def stepsFrom (v : FVal) : Bool :=
  match v with
  | .fin false m _ => m != 0
  | _ => false

/-- The next larger scale code, if one exists. -/
def scaleUp (k c : Nat) : Option Nat :=
  let top := ((scaleFmt k).map maxCode).getD 254
  if c < top then some (c + 1) else none

/-- The next smaller positive scale code, if one exists. -/
def scaleDown (k c : Nat) : Option Nat :=
  let low := if k = 2 then 0 else 1
  if low < c then some (c - 1) else none

/-- σ × τ. -/
def prodF (a b : FVal) : FVal :=
  match a, b with
  | .fin p m e, .fin q n f => .fin (p != q) (m * n) (e + f)
  | .nan s, _ => .nan s
  | _, .nan s => .nan s
  | .inf p, y => if isZeroF y then .nan false else .inf (p != negOf y)
  | x, .inf q => if isZeroF x then .nan false else .inf (negOf x != q)

/-- A scale that writes its block as code zero: zero, infinite or NaN (07 R181). -/
def badScale (v : FVal) : Bool :=
  match v with
  | .fin _ m _ => m == 0
  | _ => true

/-- v ÷ k exactly, for a finite nonzero k (07 R181). -/
def divF (v k : FVal) : Ex :=
  match v, k with
  | .fin p m e, .fin q n f =>
    if m = 0 then .zero (p != q)
    else .num (p != q) (m * (pow2Q e).1 * (pow2Q f).2) ((pow2Q e).2 * n * (pow2Q f).1)
  | .nan g, _ => .nan g
  | .inf p, y => .inf (p != negOf y)
  | x, _ => exOf x

/-- A finite quotient is delivered as an overflow of the format (07 R169). -/
def overflows (f : Fmt) (m : RMode) (e : Ex) : Bool :=
  match e with
  | .num n a d => a != 0 && (convertF f m false (.num n a d)).events.contains (fmtIdx f, 2)
  | _ => false

/-- The largest value of a block over a scale product overflows (07 R182). By zero it does, by infinity it does not; a NaN
product lets no scale step (DESIGN CHOICE, log entry 81). -/
def stepOverflows (f : Fmt) (m : RMode) (big k : FVal) : Bool :=
  match k with
  | .fin _ n _ => if n = 0 then !isZeroF big else overflows f m (divF big k)
  | .inf _ => false
  | .nan _ => true

/-- The larger of two magnitudes among finite values; any other value gives way. -/
def maxMag (a b : FVal) : FVal :=
  match a, b with
  | .fin _ m e, .fin _ n f => if ltF (.fin false m e) (.fin false n f) then .fin false n f else .fin false m e
  | .fin _ m e, _ => .fin false m e
  | _, .fin _ n f => .fin false n f
  | _, _ => .fin false 0 0

/-- The scale that follows σ (07 R182): `vs` are the block's values, `u` its count of nonzero values whose
code is zero, `ovf` whether a value overflowed. -/
def nextScale (k : Nat) (f : Fmt) (m : RMode) (tau : FVal) (vs : List FVal) (c u uthr : Nat) (ovf : Bool) : Nat :=
  if !stepsFrom (scaleVal k c) then c
  else if ovf then (scaleUp k c).getD c
  else if uthr < u then
    match scaleDown k c with
    | some d =>
      let big := vs.foldl maxMag (.fin false 0 0)
      if stepOverflows f m big (prodF (scaleVal k d) tau) then c else d
    | none => c
  else c

/-- A value is nonzero (a NaN is). -/
def nonzeroF (v : FVal) : Bool := !isZeroF v

/-- One element of `CVT` in a lane: the outcome and whether the generator advances. -/
def cvtLane (s : State) (x : Iss) (f : FmtR) (st dt : CvtTy) (l : Nat) : Out :=
  let c := elemAt st (f.sub.toNat / 8 % 8) (readOpd s x (cvtRd st) f.opa.toNat l)
  let m := if f.sr then RMode.sr (genNext ((sheetOf s x.core x.leaf.slot).getD x.sheet) l).toNat else rmode f.rnd
  convElem x.sheet.ftz st dt m f.sat c

/-- One block of `CVT` under ASC: lane outcomes of the quarter, σ′, the generators that advance (11 R278). -/
def cvtBlock (s : State) (x : Iss) (f : FmtR) (st : CvtTy) (fm : Fmt) (q : Mask) : List (Nat × Out × Bool) × Nat × List Event :=
  let k := f.mod.toNat % 4
  let low := (lowLane q).getD 0
  let sc := readOpd s x (match scaleFmt k with | some g => .fl g | none => .e8m0) f.opb.toNat low % 2 ^ scaleW k
  let sv := scaleVal k sc
  let uthr := readOpd s x .i32 f.opc.toNat low % 256
  let ls := laneList q
  let val (l : Nat) : FVal :=
    (srcVal x.sheet.ftz st (elemAt st (f.sub.toNat / 8 % 8) (readOpd s x (cvtRd st) f.opa.toNat l))).getD (.fin false 0 0)
  if badScale sv then
    (ls.map (fun l => (l, { code := 0, events := readEvents (cvtIdx st) (val l) }, false)), sc,
      readEvents (scaleIdx k) sv ++ List.replicate ((ls.filter (fun l => nonzeroF (val l))).length) (fmtIdx fm, 3))
  else
    let out (l : Nat) : Out :=
      let v := val l
      let m := if f.sr then RMode.sr (genNext ((sheetOf s x.core x.leaf.slot).getD x.sheet) l).toNat else rmode f.rnd
      let o := convertF fm m f.sat (divF v sv)
      { o with events := readEvents (cvtIdx st) v ++ o.events }
    let os := ls.map (fun l => (l, out l))
    let fin (v : FVal) : Bool := match v with | .fin _ _ _ => true | _ => false
    let u := (os.filter (fun o => nonzeroF (val o.1) && o.2.code % 2 ^ (fmtW fm - 1) == 0)).length
    let ovf := os.any (fun o => fin (val o.1) && o.2.events.contains (fmtIdx fm, 2))
    (os.map (fun o => (o.1, o.2, f.sr && fin (val o.1))),
      nextScale k fm (rmode f.rnd) (.fin false 1 0) (ls.map val) sc u uthr ovf,
      List.replicate u (fmtIdx fm, 3))

/-- `CVT` is accepted with these modifiers (11 R276). -/
def cvtOk (f : FmtR) (st dt : Option CvtTy) : Bool :=
  match st, dt with
  | some st, some dt =>
    let narrow := dt == .flt .e4m3 || dt == .flt .e5m2 || dt == .flt .e2m1
    let float := st == .flt .f32 || st == .flt .f16 || st == .flt .bf16
    dt != .scale && f.sub.toNat < 64 && posOk dt (f.sub.toNat % 8) && posOk st (f.sub.toNat / 8 % 8) &&
      (!f.sr || (narrow && f.rnd == 0)) && (!f.asc || (narrow && float)) && (if f.asc then f.mod.toNat < 4 else f.mod == 0)
  | _, _ => false

/-- The lane value that `CVT` writes: a narrow code merges into the old bits (11 R277). -/
def cvtMerge (dt : CvtTy) (p old code : Nat) : Nat :=
  if cvtW dt < 32 then putSlice old (cvtW dt * p + cvtW dt - 1) (cvtW dt * p) code else code

/-- The fields, operands and privilege that `execCvt` asks for (10 R237). -/
def sigCvt (f : FmtR) : Sig :=
  let st := cvtTy (f.sty.toNat / 4) (f.sty.toNat % 4)
  let dt := cvtTy f.h.cls.toNat f.tw.toNat
  let a := st.getD .scale
  let d := dt.getD .scale
  let k := f.mod.toNat % 4
  { ok := cvtOk f st dt,
    uses := usesR f (if cvtW d < 32 then .dstMerge else .dst (cvtW d = 64)) (.src (cvtRd a))
      (if f.asc then .src (match scaleFmt k with | some g => .fl g | none => .e8m0) else .unused)
      (if f.asc then .src .i32 else .unused) (if f.asc then .dstReg false else .unused) }

/-- CVT (11 R276 to R278). -/
def execCvt (f : FmtR) (s : State) : Host.Outcome State Fault Refusal :=
  let st := cvtTy (f.sty.toNat / 4) (f.sty.toNat % 4)
  let dt := cvtTy f.h.cls.toNat f.tw.toNat
  let a := st.getD .scale
  let d := dt.getD .scale
  let p := f.sub.toNat % 8
  plainOp s f.h (sigCvt f)
    (fun s x act =>
      let old (l : Nat) : Nat := readOpd s x .i32 f.dst.toNat l
      let sgn := match d with | .int _ g => g | _ => false
      if f.asc then
        let fm := match d with | .flt g => g | _ => .e4m3
        let bs := (List.range 4).map (fun q => act &&& quarterMask q)
        let bs := (bs.filter (· ≠ 0)).map (fun q => (q, cvtBlock s x f a fm q))
        let os := (bs.map (fun b => b.2.1)).flatten
        let at' (l : Nat) : Out := ((os.find? (fun o => o.1 = l)).map (fun o => o.2.1)).getD { code := 0 }
        let sig (l : Nat) : Nat := ((bs.find? (fun b => b.1.has l)).map (fun b => b.2.2.1)).getD 0
        let olds := lanes.map (fun l => old ((lowLane (act &&& quarterMask (l / 8))).getD l))
        let t := advanceGen s x.core x.leaf.slot (fun l => os.any (fun o => o.1 = l && o.2.2))
        let t := writeOpd t x act f.dst.toNat false sgn 5 (fun l => cvtMerge d p (olds[l]?.getD 0) (at' l).code)
        let t := writeOpd t x act f.dst2.toNat false false 5 sig
        let t := raiseFlags t x act 5 (fun l => (at' l).flags)
        countEvents t x.sheet.ctx x.sheet.launch ((os.map (fun o => o.2.1.events)).flatten ++ (bs.map (fun b => b.2.2.2)).flatten)
      else
        let os := lanes.map (fun l => if act.has l then cvtLane s x f a d l else { code := 0 })
        let olds := lanes.map old
        let adv (l : Nat) : Bool := f.sr && act.has l &&
          advances x.sheet.ftz a (elemAt a (f.sub.toNat / 8 % 8) (readOpd s x (cvtRd a) f.opa.toNat l))
        let advs := lanes.map adv
        let t := advanceGen s x.core x.leaf.slot (fun l => advs[l]?.getD false)
        let t := writeOpd t x act f.dst.toNat (cvtW d = 64) sgn 5
          (fun l => cvtMerge d p (olds[l]?.getD 0) (os[l]?.getD { code := 0 }).code)
        let t := raiseFlags t x act 5 (fun l => (os[l]?.getD { code := 0 }).flags)
        countEvents t x.sheet.ctx x.sheet.launch (os.map (·.events)).flatten)

end Sys2Proof.Machine
end

