-- ==== Sys2Proof/Machine/Special.lean ====
section
/-!
DEFINITION. The special functions (11 R279, R280). A result inside its bound is a free value of `Config.sfu`
(log entry 1), held within the bound of R279: a proposal outside it gives way to the rounded exact result.
-/
namespace Sys2Proof.Machine

/-- The fixed-point unit of the approximations: 2^-96. -/
def fxOne : Nat := 2 ^ 96

/-- π in units of 2^-96. -/
def fxPi : Nat := 0x3243F6A8885A308D313198A2E
/-- ln 2 in units of 2^-96. -/
def fxLn2 : Nat := 0xB17217F7D1CF79ABC9E3B398

/-- Σ x^n ÷ n! from term `t` of index `n` on, `k` terms. -/
def expSeries : Nat → Nat → Nat → Nat → Nat
  | 0, _, _, _ => 0
  | k + 1, x, n, t => t + expSeries k x (n + 1) (t * x / fxOne / (n + 1))

/-- Σ t^(2n+1) ÷ (2n+1), `k` terms, from power `p` and index `n`. -/
def atanhSeries : Nat → Nat → Nat → Nat → Nat
  | 0, _, _, _ => 0
  | k + 1, t2, n, p => p / (2 * n + 1) + atanhSeries k t2 (n + 1) (p * t2 / fxOne)

/-- The alternating series of sine and cosine: term `t` of index `n`, x squared, `k` terms. -/
def trigSeries : Nat → Nat → Nat → Int → Int
  | 0, _, _, _ => 0
  | k + 1, x2, n, t => t + trigSeries k x2 (n + 2) (-(t * x2 / fxOne / ((n + 1) * (n + 2) : Nat)))

/-- An exact or approximated result: sign, fraction, and whether it is exact. -/
structure Approx where
  neg : Bool
  n : Nat
  d : Nat
  exact : Bool
  deriving DecidableEq, Repr

/-- 1 ÷ a. -/
def apRcp (p : Bool) (m : Nat) (e : Int) : Approx :=
  { neg := p, n := (pow2Q (-e)).1, d := m * (pow2Q (-e)).2, exact := m == 2 ^ m.log2 && decide (-(e + m.log2) ≥ -126) }

/-- 1 ÷ √a. -/
def apRsq (m : Nat) (e : Int) : Approx :=
  let odd := e % 2 != 0
  let e' := if odd then e - 1 else e
  let m' := if odd then 2 * m else m
  let r := isqrtFrom 66 (2 ^ 128 / m') 0
  let p := pow2Q (-(e' / 2))
  { neg := false, n := r * p.1, d := 2 ^ 64 * p.2, exact := m' == 2 ^ m'.log2 && m'.log2 % 2 == 0 }

/-- 2^a, for |a| below 256. -/
def apExp2 (p : Bool) (m : Nat) (e : Int) : Approx :=
  let q := pow2Q e
  let num : Int := if p then -(m * q.1 : Nat) else (m * q.1 : Nat)
  let k := num / (q.2 : Int)
  let fr := (num % (q.2 : Int)).toNat
  let x := fr * fxOne / q.2
  let y := expSeries 34 (x * fxLn2 / fxOne) 0 fxOne
  let w := pow2Q k
  { neg := false, n := y * w.1, d := fxOne * w.2, exact := fr == 0 }

/-- log2 a. -/
def apLog2 (m : Nat) (e : Int) : Approx :=
  let k := m.log2
  let t := (m - 2 ^ k) * fxOne / (m + 2 ^ k)
  let ln := 2 * atanhSeries 34 (t * t / fxOne) 0 t
  let v : Int := (e + k) * (fxOne : Int) + (ln * fxOne / fxLn2 : Nat)
  { neg := v < 0, n := v.natAbs, d := fxOne, exact := m == 2 ^ k }

/-- sin 2πa or cos 2πa by the exact fraction of a turn. -/
def apTrig (cosine p : Bool) (m : Nat) (e : Int) : Approx :=
  let q := pow2Q e
  let fr := m * q.1 % q.2
  let quad := 4 * fr / q.2
  let y := 4 * fr % q.2
  let x := y * fxOne / q.2 * fxPi / fxOne / 2
  let x2 := x * x / fxOne
  let sn := (trigSeries 20 x2 1 (x : Int)).toNat
  let cs := (trigSeries 20 x2 0 (fxOne : Int)).toNat
  let useSin := (quad % 2 == 0) != cosine
  let v := if y = 0 then (if useSin then 0 else fxOne) else if useSin then sn else cs
  let ng := if cosine then quad == 1 || quad == 2 else (quad ≥ 2) != p
  -- below 2^-40 of a quadrant the sine is its argument, to more bits than the fixed point holds
  if useSin && y != 0 && decide (y * 2 ^ 40 < q.2) then { neg := ng, n := y * fxPi, d := 2 * q.2 * fxOne, exact := false }
  else { neg := ng && (v != 0 || !cosine), n := v, d := fxOne, exact := y == 0 }

/-- |x - y| ≤ b, for signed fractions. -/
def within (x : Int) (dx : Nat) (y : Int) (dy : Nat) (b : Nat) (db : Nat) : Bool :=
  decide ((x * dy - y * dx).natAbs * db ≤ b * dx * dy)

/-- The bound of a function around its result, as a fraction (11 R279); the approximation's own error is
added. -/
def sfBound (fn : Nat) (a : FVal) (r : Approx) : Nat × Nat :=
  let E := ilog2Q r.n r.d
  let u := pow2Q ((if E < -126 then -126 else E) - 23)
  let abs22 : Nat × Nat := (1, 2 ^ 22)
  match fn with
  | 0 => (u.1 * (2 ^ 32 + 1), u.2 * 2 ^ 32)
  | 1 => (u.1 * (2 ^ 33 + 1), u.2 * 2 ^ 32)
  | 3 => (u.1 * (2 ^ 33 + 1), u.2 * 2 ^ 32)
  | 4 => if !ltF a (.fin false 1 (-1)) && !ltF (.fin false 1 1) a then abs22 else (u.1 * (2 ^ 33 + 1), u.2 * 2 ^ 32)
  | _ => abs22

/-- A code of FP32 lies within the bound. -/
def sfInside (fn : Nat) (a : FVal) (r : Approx) (code : Nat) : Bool :=
  match decodeF .f32 code with
  | .fin p m e =>
    let q := pow2Q e
    let x : Int := if p then -(m * q.1 : Nat) else (m * q.1 : Nat)
    let b := sfBound fn a r
    code < 2 ^ 32 && within x q.2 (if r.neg then -(r.n : Int) else r.n) r.d b.1 b.2
  | _ => false

/-- The `.f32` result of a function (numbered RCP 0, RSQ 1, SQRT 2, EXP2 3, LOG2 4, SIN 5, COS 6) on a finite
nonzero operand in its domain (11 R279, R280). The sign of an exact zero is not stated: it is free. -/
def sfFinite (fn : Nat) (a : FVal) (code : Nat) (p : Bool) (m : Nat) (e : Int) : Out :=
  let big : Bool := fn = 3 && !ltF (.fin false m e) (.fin false 1 8)
  if big && !p then { code := infCode .f32, flags := flagOF ||| flagNX }
  else
    let r : Approx :=
      if fn = 0 then apRcp p m e
      else if fn = 1 then apRsq m e
      else if fn = 3 then (if big then { neg := false, n := 1, d := 2 ^ 160, exact := false } else apExp2 p m e)
      else if fn = 4 then apLog2 m e
      else apTrig (fn = 6) p m e
    let best := deliver .f32 .rne false (if r.n = 0 then .zero r.neg else .num r.neg r.n r.d)
    let overf := best.flags &&& flagOF != 0
    let exact := r.exact && best.flags == 0
    let prop := Config.sfu fn 0 code
    let out := if r.n = 0 then signed .f32 (bitN prop 31) 0
      else if exact || overf || !sfInside fn a r prop then best.code else prop
    let tiny : Bool := r.n != 0 && !exact && decide (ilog2Q r.n r.d < -126)
    { code := out, flags := (if overf then flagOF else 0) ||| (if exact then 0 else flagNX) ||| (if tiny then flagUF else 0) }

/-- The fixed results of 11 R280: none where the operand is finite, nonzero and in the domain. -/
def sfSpecial (fn : Nat) (f : Fmt) (a : FVal) : Option Out :=
  let nanNV : Out := { code := canonNaN f, flags := flagNV }
  let infO (n : Bool) : Out := { code := signed f n (infCode f) }
  let zero (n : Bool) : Out := { code := signed f n 0 }
  let one : Out := convertF f .rne false (.num false 1 1)
  match a with
  | .nan g => some { code := canonNaN f, flags := if g then flagNV else 0 }
  | .inf n =>
    match fn with
    | 0 => some (zero n)
    | 1 => some (if n then nanNV else zero false)
    | 2 => some (if n then nanNV else infO false)
    | 3 => some (if n then zero false else infO false)
    | 4 => some (if n then nanNV else infO false)
    | _ => some nanNV
  | .fin n m _ =>
    if m = 0 then
      match fn with
      | 0 => some { infO n with flags := flagDZ }
      | 1 => some { infO n with flags := flagDZ }
      | 2 => some (zero n)
      | 3 => some one
      | 4 => some { infO true with flags := flagDZ }
      | 5 => some (zero n)
      | _ => some one
    else if n ∧ (fn = 1 ∨ fn = 2 ∨ fn = 4) then some nanNV
    else none

/-- A special function of a code (11 R279, R280). -/
def sfOp (fn : Nat) (ftz : Bool) (m : RMode) (_sat : Bool) (f : Fmt) (c _b _c : Nat) : Out :=
  let c := ftzIn ftz f c
  let a := decodeF f c
  match sfSpecial fn f a with
  | some o => o
  | none =>
    if fn = 2 then ftzOut ftz f (deliver f m false (sqrtF a))
    else
      let c32 := (convertF .f32 .rne false (exOf a)).code
      match decodeF .f32 c32 with
      | .fin p k e =>
        let o := sfFinite fn (.fin p k e) c32 p k e
        if f = .f32 then ftzOut ftz f o
        else
          let q := convertF f .rne false (exOf (decodeF .f32 o.code))
          ftzOut ftz f { code := q.code, flags := o.flags ||| q.flags }
      | _ => { code := canonNaN f }

/-- The fields, operands and privilege that `sfuOp` asks for (10 R237). -/
def sigSfuOp (fn : Nat) (f : FmtR) : Sig :=
  let fm := floatFmt f.tw
  let t : RdTy := .fl fm
  { ok := f.h.cls == 4 && f.tw != 3 && modsOk f { rnd := fn = 2 },
    uses := usesR f (.dst false) (.src t) .unused .unused .unused }

/-- A special function: one source, `.f32`, `.f16` or `.bf16`, readable after 12 ac (10 R239). -/
def sfuOp (fn : Nat) (f : FmtR) (s : State) : Host.Outcome State Fault Refusal :=
  let fm := floatFmt f.tw
  let t : RdTy := .fl fm
  plainOp s f.h (sigSfuOp fn f)
    (fun s x act =>
      let r (l : Nat) : Out := sfOp fn x.sheet.ftz (rmode f.rnd) false fm (readOpd s x t f.opa.toNat l) 0 0
      let rs := lanes.map (fun l => if act.has l then r l else { code := 0 })
      raiseFlags (writeOpd s x act f.dst.toNat false false 12 (fun l => (rs[l]?.getD { code := 0 }).code))
        x act 12 (fun l => (rs[l]?.getD { code := 0 }).flags))

/-- RCP (11 R279). -/
def execRcp (f : FmtR) (s : State) : Host.Outcome State Fault Refusal := sfuOp 0 f s
/-- RSQ (11 R279). -/
def execRsq (f : FmtR) (s : State) : Host.Outcome State Fault Refusal := sfuOp 1 f s
/-- SQRT (11 R279). -/
def execSqrt (f : FmtR) (s : State) : Host.Outcome State Fault Refusal := sfuOp 2 f s
/-- EXP2 (11 R279). -/
def execExp2 (f : FmtR) (s : State) : Host.Outcome State Fault Refusal := sfuOp 3 f s
/-- LOG2 (11 R279). -/
def execLog2 (f : FmtR) (s : State) : Host.Outcome State Fault Refusal := sfuOp 4 f s
/-- SIN (11 R279). -/
def execSin (f : FmtR) (s : State) : Host.Outcome State Fault Refusal := sfuOp 5 f s
/-- COS (11 R279). -/
def execCos (f : FmtR) (s : State) : Host.Outcome State Fault Refusal := sfuOp 6 f s

end Sys2Proof.Machine
end

