-- ==== Sys2Proof/Machine/Control.lean ====
section
/-!
DEFINITION. Branches, splits, joins and the trapping instructions (11 R288 to R293, R295, R296, 14 R371), with
the splitting of a leaf (06 R148, R149) and the release of a join (R152).
-/
namespace Sys2Proof.Machine

/-- The direct target of format B (10 R245). -/
def directTarget (pc : DWord) (f : FmtB) : DWord :=
  (pc &&& ~~~63) + BitVec.ofInt 64 (64 * sgnN 24 f.loff.toNat) + BitVec.ofNat 64 (12 * f.slot.toNat)

/-- SLOT names a slot (10 R245; 5..7 are reserved). -/
def slotOk (f : FmtB) : Bool := f.slot.toNat ≤ 4

/-- An instruction without a type (10 R235). -/
def noType (h : Hdr) : Bool := h.cls == 0

/-- The TGT check of the leaf is left to its next fetch (10 R233). -/
def leaveCheck (s : State) (c e : Nat) (later : Bool) : State :=
  match leafOf s c e with
  | some l => if later then setLeaf s c e { l with checkTgt := true, line := none } else s
  | none => s

/-- The leaf stalls undivided at its instruction (06 R149). -/
def splitStall (s : State) (c e : Nat) : State :=
  match leafOf s c e with
  | some l => setLeaf s c e { l with st := .splitStalled (now s c), inRun := false, runLen := 0 }
  | none => s

/-- The lanes of a leaf change. -/
def setMask (s : State) (c e : Nat) (m : Mask) : State :=
  match leafOf s c e with
  | some l => setLeaf s c e { l with mask := m }
  | none => s

/-- A privileged leaf that divides gives the new leaf a copy of its fault record (log entry 15). -/
def shareRec (s : State) (c e n : Nat) : State :=
  match leafOf s c e with
  | some l =>
    let k := coreOf s c
    if l.priv then setCore s c { k with recs := tset {} k.recs n (tget {} k.recs e) } else s
  | none => s

/-- New leaves for groups of lanes, in pool entries in order (06 R148): lanes, PC and whether the TGT check is left. -/
def newLeaves (s : State) (c e : Nat) (gs : List (Mask × DWord × Bool)) (pool : List Nat) : State :=
  match gs, pool with
  | g :: gs, n :: pool =>
    match leafOf s c e with
    | some l => newLeaves (shareRec (addLeaf s c n l g.1 g.2.1 g.2.2) c e n) c e gs pool
    | none => s
  | _, _ => s

/-- One transfer or a division into two sides (06 R148, R149, 11 R289): `t` goes to the target and `n` to the
next instruction; with the pool empty the leaf is split-stalled. A division ends the run, and `ends` says whether the
instruction does so by itself (06 R154). -/
def divide (s : State) (x : Iss) (h : Hdr) (ends : Bool) (t n : Mask) (target : DWord) (later first : Bool)
    (link : State → State) : State :=
  let nx := nextPc x.leaf.pc
  if n = 0 then leaveCheck (retireAt (link s) x.core x.entry h ends target) x.core x.entry later
  else match poolFree s x.core with
    | [] => splitStall s x.core x.entry
    | p =>
      let s := link s
      if first then
        let s := retireAt s x.core x.entry h true target
        let s := newLeaves s x.core x.entry [(n, nx, false)] p
        leaveCheck (setMask s x.core x.entry t) x.core x.entry later
      else
        let s := retireAt s x.core x.entry h true nx
        let s := newLeaves s x.core x.entry [(t, target, later)] p
        setMask s x.core x.entry n

/-- A taken direct or register transfer of the lanes `t` (11 R288, R289). -/
def transfer (s : State) (x : Iss) (h : Hdr) (ends : Bool) (t : Mask) (target : DWord) (tgt first : Bool)
    (link : State → State) : State :=
  if t = 0 then retireAt s x.core x.entry h ends (nextPc x.leaf.pc)
  else match checkTarget s x.core x.sheet.ctx x.leaf.priv target tgt with
    | (0, later) => divide s x h ends t (x.leaf.mask &&& ~~~t) target later first link
    | (st, _) => sheetTrap s x cControl st

/-- The fields, operands and privilege that `execBra` asks for (10 R237). -/
def sigBra (f : FmtB) : Sig :=
  { ok := noType f.h && f.sub == 0 && slotOk f, uses := [(f.opa, .predN), (f.opb, .unused)] }

/-- BRA (11 R289). -/
def execBra (f : FmtB) (s : State) : Host.Outcome State Fault Refusal :=
  issueOp s f.h (sigBra f)
    (fun s x act =>
      let c := f.opa.toNat
      let t := if c = 0x1FF then act else maskOf (fun l => act.has l && readBit s x c l)
      transfer s x f.h false t (directTarget x.leaf.pc f) true f.fp id)

/-- The groups of lanes by target in increasing order of their lowest lane (11 R290); the lanes of a false guard are one
further group, which stands at the next instruction, unchecked against TGT. -/
def groups (m act : Mask) (tgt : Nat → DWord × Bool) : List (Mask × DWord × Bool) :=
  (laneList m).foldl (fun gs l =>
    if gs.any (fun g => g.1.has l) then gs
    else gs ++ [(maskOf (fun j => m.has j && act.has j == act.has l && tgt j == tgt l), tgt l)]) []

/-- The division of a `BRX` or `RET` into its groups as pool entries allow (11 R290). -/
def scatter (s : State) (x : Iss) (h : Hdr) (gs : List (Mask × DWord × Bool)) : State :=
  match gs with
  | [] => doneOp s x h
  | [g] => leaveCheck (retireAt s x.core x.entry h false g.2.1) x.core x.entry g.2.2
  | g :: rest =>
    let p := poolFree s x.core
    let f := p.length
    if f = 0 then splitStall s x.core x.entry
    else
      let s := retireAt s x.core x.entry h true g.2.1
      let out (r : List (Mask × DWord × Bool)) : List (Mask × DWord × Bool) :=
        if rest.length ≤ f then r
        else r.take (f - 1) ++ [((r.drop (f - 1)).foldl (fun a b => a ||| b.1) 0, x.leaf.pc, false)]
      let s := newLeaves s x.core x.entry (out rest) p
      leaveCheck (setMask s x.core x.entry g.1) x.core x.entry g.2.2

/-- The fields, operands and privilege that `scatterOp` asks for (10 R237). -/
def sigScatterOp (f : FmtB) : Sig :=
  { ok := noType f.h && f.sub == 0 && f.loff == 0 && f.slot == 0 && !f.fp,
    uses := [(f.opa, .tgt64), (f.opb, .unused)] }

/-- BRX and RET (11 R290): targets by lane. -/
def scatterOp (f : FmtB) (tgt : Bool) (s : State) : Host.Outcome State Fault Refusal :=
  issueOp s f.h (sigScatterOp f)
    (fun s x act =>
      let pcOf (l : Nat) : DWord := BitVec.ofNat 64 (readOpd s x .i64 f.opa.toNat l)
      let pcs := lanes.map pcOf
      let at' (l : Nat) : DWord := pcs[l]?.getD 0
      let chk := (laneList act).map (fun l => (l, checkTarget s x.core x.sheet.ctx x.leaf.priv (at' l) tgt))
      match chk.find? (fun c => c.2.1 != 0) with
      | some c => sheetTrap s x cControl c.2.1
      | none =>
        let later (l : Nat) : Bool := chk.any (fun c => c.1 = l && c.2.2)
        let laters := lanes.map later
        scatter s x f.h (groups x.leaf.mask act (fun l =>
          if act.has l then (at' l, laters[l]?.getD false) else (nextPc x.leaf.pc, false))))

/-- BRX (11 R290). -/
def execBrx (f : FmtB) (s : State) : Host.Outcome State Fault Refusal := scatterOp f true s
/-- RET (11 R290). -/
def execRet (f : FmtB) (s : State) : Host.Outcome State Fault Refusal := scatterOp f false s

/-- The link of the calling lanes (11 R291). -/
def writeLink (x : Iss) (t : Mask) (c : Nat) (s : State) : State :=
  writeOpd s x t c true false 0 (fun _ => (nextPc x.leaf.pc).toNat)

/-- The fields, operands and privilege that `execCall` asks for (10 R237). -/
def sigCall (f : FmtB) : Sig :=
  { ok := noType f.h && f.sub == 0 && slotOk f, uses := [(f.opa, .unused), (f.opb, .link)] }

/-- CALL (11 R291). -/
def execCall (f : FmtB) (s : State) : Host.Outcome State Fault Refusal :=
  issueOp s f.h (sigCall f)
    (fun s x act => transfer s x f.h false act (directTarget x.leaf.pc f) true f.fp (writeLink x act f.opb.toNat))

/-- The fields, operands and privilege that `execCallInd` asks for (10 R237). -/
def sigCallInd (f : FmtB) : Sig :=
  { ok := noType f.h && f.sub == 1 && f.loff == 0 && f.slot == 0, uses := [(f.opa, .sreg), (f.opb, .link)] }

/-- CALL.ind (11 R291): the target stands in an s-register. -/
def execCallInd (f : FmtB) (s : State) : Host.Outcome State Fault Refusal :=
  issueOp s f.h (sigCallInd f)
    (fun s x act => transfer s x f.h false act (BitVec.ofNat 64 (uniOpd s x act .i64 f.opa.toNat)) true f.fp
      (writeLink x act f.opb.toNat))

/-- The fields, operands and privilege that `execSplit` asks for (10 R237). -/
def sigSplit (f : FmtR) : Sig :=
  let c := f.opa.toNat
  let bits := isP c || isE c
  { ok := noType f.h && f.tw == 0 && f.mod.toNat < 2 && modsOk f { mod := true },
    uses := usesR f .unused (if bits then .pred else .src .i32) .sreg .unused .unused }

/-- SPLIT (11 R292). -/
def execSplit (f : FmtR) (s : State) : Host.Outcome State Fault Refusal :=
  let c := f.opa.toNat
  let bits := isP c || isE c
  issueOp s f.h (sigSplit f)
    (fun s x act =>
      let m : Mask := if bits then 0 else BitVec.ofNat 32 (uniOpd s x act .i32 c)
      let t := maskOf (fun l => act.has l && (if bits then readBit s x c l else m.has l))
      transfer s x f.h true t (BitVec.ofNat 64 (uniOpd s x act .i64 f.opb.toNat)) false (f.mod.getLsbD 0) id)

/-- The fields, operands and privilege that `execJoin` asks for (10 R237). -/
def sigJoin (f : FmtB) : Sig :=
  { ok := noType f.h && f.sub == 0 && slotOk f && !f.fp, uses := [(f.opa, .unused), (f.opb, .unused)] }

/-- JOIN (11 R293). -/
def execJoin (f : FmtB) (s : State) : Host.Outcome State Fault Refusal :=
  issueOp s f.h (sigJoin f)
    (fun s x act =>
      let low := directTarget x.leaf.pc f
      if x.leaf.pc < low then sheetTrap s x cIllegal 0
      else if act = 0 ∨ low = x.leaf.pc then retireAt s x.core x.entry f.h true (nextPc x.leaf.pc)
      else if x.leaf.joined then
        retireAt (setLeaf s x.core x.entry { x.leaf with joined := false }) x.core x.entry f.h true (nextPc x.leaf.pc)
      else setLeaf s x.core x.entry
        { x.leaf with st := .joining low, inRun := false, runLen := 0,
                      nextIssue := max x.leaf.nextIssue (now s x.core + 1 + f.h.stall.toNat) })

/-- A joining leaf waits for this one (06 R152). -/
def holdsJoin (e : Nat) (l : Leaf) (low : DWord) (p : Nat × Leaf) : Bool :=
  p.1 != e && p.2.slot == l.slot && p.2.st != .parked && decide (low ≤ p.2.pc) && decide (p.2.pc < l.pc)

/-- A joining leaf that may continue: no sibling remains in its range (06 R152). -/
def joinFree (s : State) (c e : Nat) : Bool :=
  match leafOf s c e with
  | some l =>
    match l.st with
    | .joining low => !(coreOf s c).leaves.any (holdsJoin e l low)
    | _ => false
  | none => false

/-- JOIN_RELEASE (06 R152): the joining leaf is ready. It is still at the PC of its `JOIN`, so that the siblings that
arrive there merge with it at its next run (06 R151), which then continues past the `JOIN` (DEDUCED, log 26). -/
def execJoinRelease (core entry : Nat) (s : State) : Host.Outcome State Fault Refusal :=
  .next (if joinFree s core entry then
    match leafOf s core entry with
    | some l => setLeaf s core entry { l with st := readySt l, joined := true, since := now s core }
    | none => s
  else s)

/-- SPLIT_STALL_RETRY (06 R149): the stalled leaf may issue its instruction again. -/
def execSplitStallRetry (core entry : Nat) (s : State) : Host.Outcome State Fault Refusal :=
  .next (match leafOf s core entry with
    | some l =>
      match l.st with
      | .splitStalled _ =>
        if (poolFree s core).isEmpty then s
        else setLeaf s core entry { l with st := readySt l, since := now s core }
      | _ => s
    | none => s)

/-- A split-stalled leaf has waited 4,096 ac in which every pool entry was held by a parked leaf (06 R149). -/
def exhausted (s : State) (c e : Nat) : Bool :=
  match leafOf s c e with
  | some l =>
    match l.st with
    | .splitStalled t =>
      let old (u : Nat) : Bool := decide (u + 4096 ≤ now s c)
      old t && ((List.range 16).map (· + 48)).all (fun n =>
        match leafOf s c n with
        | some p => p.st == .parked && old p.since
        | none => false)
    | _ => false
  | none => false

/-- LEAF_EXHAUSTED_STALL (06 R149): LEAF-EXHAUSTED with status STALL (0x1). -/
def execLeafExhaustedStall (core entry : Nat) (s : State) : Host.Outcome State Fault Refusal :=
  .next (match leafOf s core entry with
    | none => s
    | some l =>
      match l.pend with
      | some r => if l.inRun ∨ !(outstanding s core l).isEmpty then s else trapRec s core entry r
      | none => if exhausted s core entry then trapRec s core entry { cause := cLeafExhausted, status := 1, lanes := l.mask, pc := l.pc } else s)

/-- The fields, operands and privilege that `execYield` asks for (10 R237). -/
def sigYield (f : FmtR) : Sig :=
  { ok := noType f.h && f.tw == 0 && modsOk f {}, uses := usesR f .unused .unused .unused .unused .unused }

/-- YIELD (11 R295, 17 R427): in a handler entered for PREEMPT the leaf waits to leave residency, and an array frozen for
its task goes on (08 R203). -/
def execYield (f : FmtR) (s : State) : Host.Outcome State Fault Refusal :=
  issueOp s f.h (sigYield f)
    (fun s x _ =>
      if x.leaf.priv && x.leaf.handler == cPreempt then
        let k := coreOf s x.core
        blockLeaf (setCore s x.core (thaw k (· == (x.sheet.ctx, x.sheet.launch, x.sheet.task)))) x.core x.entry .yielded
      else
        let s := retireAt s x.core x.entry f.h true (nextPc x.leaf.pc)
        match leafOf s x.core x.entry with
        | some l => setLeaf s x.core x.entry { l with age := now s x.core }
        | none => s)

/-- The fields, operands and privilege that `execNop` asks for (10 R237). -/
def sigNop (f : FmtR) : Sig :=
  { ok := noType f.h && f.tw == 0 && modsOk f {}, uses := usesR f .unused .unused .unused .unused .unused }

/-- NOP (11 R296). -/
def execNop (f : FmtR) (s : State) : Host.Outcome State Fault Refusal :=
  plainOp s f.h (sigNop f)
    (fun s _ _ => s)

/-- The fields, operands and privilege that `codeTrap` asks for (10 R237). -/
def sigCodeTrap (f : FmtG) : Sig :=
  { ok := noType f.h && f.sub == 0 && f.scope == 0 && f.mod == 0,
    uses := [(f.dst, .unused), (f.opa, .unused), (f.opb, .unused), (f.opc, .unused)] }

/-- `BKPT`, `TRAP` and `SYSCALL`: a sheet trap with the code as status where any lane's guard is true (11 R296,
14 R371). -/
def codeTrap (f : FmtG) (cause : Nat) (s : State) : Host.Outcome State Fault Refusal :=
  issueOp s f.h (sigCodeTrap f)
    (fun s x act => if act = 0 then doneOp s x f.h else sheetTrap s x cause f.imm.toNat)

/-- BKPT (11 R296). -/
def execBkpt (f : FmtG) (s : State) : Host.Outcome State Fault Refusal := codeTrap f cBreakpoint s
/-- TRAP (14 R371). -/
def execTrap (f : FmtG) (s : State) : Host.Outcome State Fault Refusal := codeTrap f cSoftware s
/-- SYSCALL (14 R371). -/
def execSyscall (f : FmtG) (s : State) : Host.Outcome State Fault Refusal := codeTrap f cSyscall s

end Sys2Proof.Machine
end

