-- ==== Sys2Proof/Machine/Tags.lean ====
section
/-!
DEFINITION. Tags (05 R126 to R128, 12 R315) and asynchronous operations in progress.
-/
namespace Sys2Proof.Machine

/-- Tag statuses of 05 R128. -/
def tsOk : Nat := 0
/-- SCALE-NAN -/
def tsScaleNan : Nat := 1
/-- BOUNDED -/
def tsBounded : Nat := 2
/-- PAGE -/
def tsPage : Nat := 3
/-- PROT -/
def tsProt : Nat := 4
/-- STALE-REVERTED -/
def tsStale : Nat := 5
/-- POISON -/
def tsPoison : Nat := 6
/-- MASK-COUNT -/
def tsMaskCount : Nat := 7
/-- TIMEOUT -/
def tsTimeout : Nat := 8
/-- CANCELLED -/
def tsCancelled : Nat := 9
/-- ABORTED-LINK -/
def tsAbortedLink : Nat := 10
/-- BOUNDS -/
def tsBounds : Nat := 11

/-- The tag status of a fault's cause (05 R128); a cause from 32 on is a status, of a request to a peer. -/
def tsOfCause (cause : Nat) : Nat :=
  if 32 ≤ cause then cause - 32 else if cause = cPage then tsPage else if cause = cProt then tsProt else if cause = cStale then tsStale else tsPoison

/-- The status reported of two that apply (05 R128): the lowest from 0x3 up, else 0x1 before 0x2. -/
def worse (a b : Nat) : Nat :=
  if a < 3 ∧ b < 3 then (if a = 0 then b else if b = 0 then a else min a b)
  else if a < 3 then b
  else if b < 3 then a
  else min a b

/-- Makes a tag pending (05 R127, 12 R315). -/
def pendTag (s : State) (c n : Nat) (op : TagOp) : State :=
  let t := tagOf s c n
  setTag s c n { t with ready := false, status := 0, op := op, va := 0, wasAt := now s c + 1, was := t.status }

/-- Completes a tag with a status and the first failing address. -/
def completeTag (s : State) (c n status : Nat) (va : DWord) : State :=
  setTag s c n { tagOf s c n with ready := true, status := BitVec.ofNat 4 status, va := va }

/-- Goes on with the core's tag of a tag operand unless it is pending: CONTROL with TAG-PENDING (12 R315). -/
def withTag (s : State) (x : Iss) (t : Opd) (f : Nat → State) : State :=
  let n := tagNo x.sheet t.toNat
  if (tagOf s x.core n).ready then f n else sheetTrap s x cControl ctlTagPending

/-- An instruction with a body only where some lane is active; it always goes on to the next. -/
def activeOp (s : State) (h : Hdr) (g : Sig) (f : State → Iss → Mask → State) : Host.Outcome State Fault Refusal :=
  issueOp s h g (fun s x act => if act = 0 then doneOp s x h else f s x act)

/-- Starts an asynchronous operation for the issuing leaf. -/
def startAsync (s : State) (x : Iss) (m : Mask) (tag : Nat) (scope : BitVec 3) (k : AsyncKind) : Nat × State :=
  let r := fresh s
  (r.1, { r.2 with asyncs := r.2.asyncs ++
    [{ id := r.1, core := x.core, slot := x.leaf.slot, ctx := x.sheet.ctx, launch := x.sheet.launch, task := x.sheet.task,
       tag := tag, scope := scope, mask := m, priv := x.leaf.priv, kind := k }] })

/-- The accesses of lanes of the issuing leaf that have not performed, prefetches apart. -/
def accsOfLanes (s : State) (x : Iss) (m : Mask) : List Nat := accsLeft s x.core x.leaf.slot m

/-- A release of the active lanes' earlier accesses: the leaf waits until they have performed (14 R360, R367, R368). -/
def afterAccs (s : State) (x : Iss) (act : Mask) (f : State) : State :=
  let w := accsOfLanes s x act
  if w.isEmpty then f else blockLeaf s x.core x.entry (.results w)

/-- An operation in progress. -/
def asyncOf (s : State) (id : Nat) : Option Async := s.asyncs.find? (fun a => a.id = id)

/-- Ends an operation. -/
def dropAsync (s : State) (id : Nat) : State :=
  { s with asyncs := s.asyncs.filter (fun a => a.id ≠ id),
           msgs := s.msgs.filter (fun m => !((m.kind == .rangeFlush || m.kind == .rangeInv) && m.aux == id)) }

/-- Changes an operation. -/
def modAsync (s : State) (id : Nat) (f : Async → Async) : State :=
  { s with asyncs := s.asyncs.map (fun a => if a.id = id then f a else a) }

end Sys2Proof.Machine
end

