-- ==== Sys2Proof/Machine/GatherOps.lean ====
section
/-!
DEFINITION. The gathering table and membership (14 R354 to R362, 15 R379 to R394): live handles, arrivals and the
value of a phase, the end of a phase, aborts, and what a kill, an exit or a pre-emption does to a member.
-/
namespace Sys2Proof.Machine

/-- Gathering statuses of 14 R355. -/
def gsComplete : Nat := 0
/-- DEPARTED-MEMBERS -/
def gsDeparted : Nat := 1
/-- TIMEOUT -/
def gsTimeout : Nat := 2
/-- ABORTED-LINK -/
def gsLink : Nat := 3
/-- ABORTED-SOFTWARE -/
def gsSoftware : Nat := 4
/-- STALE -/
def gsStale : Nat := 5
/-- NOSPACE -/
def gsNoSpace : Nat := 6
/-- NOT-MEMBER -/
def gsNotMember : Nat := 7
/-- BUSY -/
def gsBusy : Nat := 8
/-- MISMATCH -/
def gsMismatch : Nat := 9
/-- OUT-OF-SCOPE -/
def gsOutOfScope : Nat := 10
/-- HELD -/
def gsHeld : Nat := 15

/-- A role that holds an entry: 0 free, 1 local, 2 home, 3 shadow (15 R379). -/
def gEntry (s : State) (i : Nat) : GEntry := tget {} s.gather i
/-- Replaces an entry. -/
def setG (s : State) (i : Nat) (g : GEntry) : State := { s with gather := tput s.gather i g }

/-- The fabric job number of a context (19 R459). -/
def jobOf (s : State) (ctx : Nat) : Nat := fld (rawReg s (.cfabj ctx)) 15 0

/-- The handle of an entry that this device holds (14 R354). -/
def handleOf (s : State) (i : Nat) : Word := BitVec.ofNat 32 (selfDev s * 2 ^ 20 + i * 2 ^ 8 + (gEntry s i).gen)

/-- The handle under which members know an entry: for a shadow, its home's. -/
def knownAs (s : State) (i : Nat) : Word := if (gEntry s i).role = 3 then (gEntry s i).homeHandle else handleOf s i

/-- The entry of a live handle of a context: a local or home entry of this device, or the shadow registered
under it (14 R354, 15 R379, R381). -/
def liveG (s : State) (ctx : Nat) (h : Word) : Option Nat :=
  let idx := slice h.toNat 19 8
  let e := gEntry s idx
  if h.toNat % 256 = 0 then none
  else if h.toNat / 2 ^ 20 = selfDev s ∧ (e.role = 1 ∨ e.role = 2) then
    (if e.gen = h.toNat % 256 ∧ e.owner = (if e.role = 2 then jobOf s ctx else ctx) then some idx else none)
  else (s.gather.find? (fun g => g.2.role = 3 ∧ g.2.homeHandle = h ∧ g.2.owner = jobOf s ctx)).map (·.1)

/-- The entry that a handle names, whoever owns it. -/
def namedG (s : State) (h : Word) : Option Nat :=
  if h.toNat % 256 = 0 then none else (s.gather.find? (fun g => g.2.role ≠ 0 ∧ knownAs s g.1 = h)).map (·.1)

/-- The membership slot of a sheet that holds a handle. -/
def slotOf (h : Sheet) (w : Word) : Option Nat :=
  (h.slots.find? (fun m => m.2.handle = w ∧ (m.2.member ||| m.2.joining ||| m.2.arrived ||| m.2.owed) ≠ 0)).map (·.1)

/-- A tag of the sheet is pending on the handle. -/
def tagOn (s : State) (c : Nat) (h : Sheet) (w : Word) : Bool :=
  (List.range h.ntags).any (fun i =>
    let t := tagOf s c (h.tbase + i)
    !t.ready && t.op == .gathering && t.handle == w)

/-- A free membership slot: masks empty and no tag pending on its gathering (15 R384). -/
def freeSlot (s : State) (c : Nat) (h : Sheet) : Option Nat :=
  (List.range 16).find? (fun k =>
    let m := tget {} h.slots k
    (m.member ||| m.joining ||| m.arrived ||| m.owed) == 0 && !(m.handle != 0 && tagOn s c h m.handle))

/-- The slot that a join of a handle uses: the one that holds it already, or else a free one (15 R384). -/
def joinSlot (s : State) (c : Nat) (h : Sheet) (w : Word) : Option Nat :=
  slotOf h w <|> ((h.slots.find? (fun m => m.2.handle = w)).map (·.1)) <|> freeSlot s c h

/-- The entry that holds the last outcome of a handle of an earlier generation too. -/
def lastEntry (s : State) (w : Word) : GEntry :=
  match s.gather.find? (fun g => g.2.role = 3 ∧ (g.2.homeHandle &&& ~~~0xFF) = (w &&& ~~~0xFF)) with
  | some g => g.2
  | none => gEntry s (slice w.toNat 19 8)

/-- Changes every resident membership slot that holds a handle. -/
def mapSlots (s : State) (w : Word) (f : Member → Member) : State :=
  { s with cores := s.cores.map (fun c =>
      (c.1, { c.2 with sheets := c.2.sheets.map (fun h =>
        (h.1, { h.2 with slots := h.2.slots.map (fun m => if m.2.handle = w then (m.1, f m.2) else m) })) })) }

/-- Completes the tags pending on a phase of a handle (14 R358): an arrival of another kind keeps MISMATCH where
the phase completes; its value is not stated and is free (log entry 1). -/
def endTags (s : State) (w : Word) (ph status : Nat) (value : Word) : State :=
  { s with
    free := s.free + 1
    cores := s.cores.map (fun c =>
      (c.1, { c.2 with tags := c.2.tags.map (fun t =>
        let g := t.2
        if !g.ready && g.op == .gathering && g.handle == w && g.phase == ph then
          let miss := g.gstatus == BitVec.ofNat 4 gsMismatch && (status = gsComplete || status = gsDeparted)
          (t.1, { g with ready := true, status := 0, gstatus := if miss then BitVec.ofNat 4 gsMismatch else BitVec.ofNat 4 status,
                         value := if miss then Config.freeWord (s.free * 2 ^ 16 + c.1 * 64 + t.1) else value })
        else t) })) }

/-- The deadline of a phase is paused (15 R388): a sheet that has yielded holds members that have not arrived. -/
def shouldPause (g : GEntry) : Bool :=
  g.role == 1 && g.pip && g.pmax != 0 && !g.capped && g.away.any (fun a => !a.back && (a.member &&& ~~~a.arrived) != 0)

/-- Starts or ends the pause of an entry. -/
def repause (s : State) (i : Nat) : State :=
  let g := gEntry s i
  match shouldPause g, g.pausedAt with
  | true, none => setG s i { g with pausedAt := some s.ticks }
  | false, some t => setG s i { g with pausedAt := none, paused := g.paused + (s.ticks - t) }
  | _, _ => s

/-- Ticks of pause in the phase so far. -/
def pausedTicks (s : State) (g : GEntry) : Nat := g.paused + (match g.pausedAt with | some t => s.ticks - t | none => 0)

/-- ELAPSED of 15 R380, in µs. -/
def elapsed (s : State) (g : GEntry) : Nat := if g.pip then (s.ticks - g.began - pausedTicks s g) / usTicks else 0

/-- The value of a phase (14 R359). -/
def phaseValue (g : GEntry) : Word :=
  if g.kind = 2 then g.acc
  else if g.kind ≠ 3 ∨ !g.any then 0
  else if g.op = 8 then
    BitVec.ofNat 32 (if g.nan || (g.pinf && g.ninf) then canonNaN .f32
      else if g.pinf then signed .f32 false (infCode .f32)
      else if g.ninf then signed .f32 true (infCode .f32)
      else rneF32 (exSum g.sum (-149) false))
  else g.acc

/-- Folds one value into the accumulation of a `GRED` (14 R359). -/
def gFold (op : Nat) (any : Bool) (a v : Word) : Word :=
  if !any then v
  else match op with
    | 0 => a + v
    | 1 => if v.slt a then v else a
    | 2 => if a.slt v then v else a
    | 3 => if v.ult a then v else a
    | 4 => if a.ult v then v else a
    | 5 => a &&& v
    | 6 => a ||| v
    | 7 => a ^^^ v
    | 9 => BitVec.ofNat 32 (foldElem 2 2 a.toNat v.toNat)
    | _ => BitVec.ofNat 32 (foldElem 2 1 a.toNat v.toNat)

/-- One contribution of a lane. -/
def contribute (g : GEntry) (v : Word) : GEntry :=
  if g.kind = 2 then { g with acc := g.acc + v, any := true }
  else if g.kind ≠ 3 then g
  else if g.op = 8 then
    match decodeF .f32 v.toNat with
    | .nan _ => { g with nan := true, any := true }
    | .inf n => if n then { g with ninf := true, any := true } else { g with pinf := true, any := true }
    | .fin n m e => { g with sum := g.sum + scaled n m e (-149), any := true }
  else { g with acc := gFold g.op g.any g.acc v, any := true }

/-- The exact partial that a shadow sends (15 R392). -/
def partialOf (g : GEntry) : Partial :=
  { kind := g.kind, op := g.op, count := b2n g.any, value := g.acc, sum := g.sum, nan := g.nan, pinf := g.pinf, ninf := g.ninf, dep := g.dep }

/-- Merges a shadow's partial into the home's. -/
def mergePartial (g : GEntry) (p : Partial) : GEntry :=
  if p.count = 0 then g
  else if g.kind = 2 then { g with acc := g.acc + p.value, any := true }
  else if g.kind ≠ 3 then g
  else if g.op = 8 then
    { g with sum := g.sum + p.sum, nan := g.nan || p.nan, pinf := g.pinf || p.pinf, ninf := g.ninf || p.ninf, any := true }
  else { g with acc := gFold g.op g.any g.acc p.value, any := true }

/-- The absolute deadline of a gathering message (19 R458): its phase's under 15 R393, or that of a phase that began now. -/
def gatherDeadline (s : State) (g : GEntry) : Nat :=
  if g.pip then g.began + (g.dl + g.fmarg) * usTicks else s.ticks + (g.dl + fld (rawReg s .gtime) 51 32) * usTicks

/-- Sends a message to a peer. -/
def emit (s : State) (m : EmsenOut) : State := { s with emsenOut := s.emsenOut ++ [m] }

/-- The masks of a slot when a phase has ended (14 R357). -/
def slotAfter (m : Member) : Member := { m with member := m.member ||| m.joining, joining := 0, arrived := 0 }

/-- The entry after its phase ended with a status and value. -/
def phaseOver (g : GEntry) (status : Nat) (value : Word) : GEntry :=
  { g with last := BitVec.ofNat 4 status, lastph := g.phase, lastval := value,
           memb := g.memb + g.joins - g.leaving, joins := 0, leaving := 0, arrv := 0, pip := false, dep := false,
           phase := (g.phase + 1) % 2 ^ 24, kind := 0, op := 0, acc := 0, any := false, sum := 0, nan := false,
           pinf := false, ninf := false, paused := 0, pausedAt := none, capped := false, told := false,
           away := g.away.map (fun a => { a with member := a.member ||| a.joining, joining := 0, arrived := 0 }),
           shadows := g.shadows.map (fun h => { h with arrived := false, arrLanes := 0, bad := false }) }

/-- A phase ends by completion at an entry (14 R358, R360): tags, masks and the entry. -/
def finishPhase (s : State) (i status : Nat) (value : Word) : State :=
  let g := gEntry s i
  let w := knownAs s i
  mapSlots (setG (endTags s w g.phase status value) i (phaseOver g status value)) w slotAfter

/-- Completion at the timing entry when every member lane and every shadow has arrived (14 R358, 15 R392). -/
def tryComplete (s : State) (i : Nat) : State :=
  let g := gEntry s i
  if (g.role = 1 ∨ g.role = 2) ∧ g.pip ∧ g.memb ≤ g.arrv ∧ g.shadows.all (·.arrived) then
    let st := if g.dep then gsDeparted else gsComplete
    let v := phaseValue g
    let h := handleOf s i
    let s := finishPhase s i st v
    g.shadows.foldl (fun s sh =>
      emit s (.outcome sh.dev h g.phase (if sh.bad then BitVec.ofNat 4 gsMismatch else BitVec.ofNat 4 st) v (gatherDeadline s g))) s
  else s

/-- A shadow whose lanes have all arrived tells the home (15 R392). -/
def tellHome (s : State) (i : Nat) : State :=
  let g := gEntry s i
  if g.role = 3 ∧ g.pip ∧ !g.told ∧ g.memb ≤ g.arrv then
    emit (setG s i { g with told := true }) (.arrival g.homedev g.homeHandle g.arrv (partialOf g) (gatherDeadline s g))
  else s

/-- What follows an arrival or a departure at an entry. -/
def settle (s : State) (i : Nat) : State := tellHome (tryComplete (repause s i) i) i

/-- A phase begins at an entry with its first arrival (14 R358, 15 R387, R398); a shadow or a home tells the
others (15 R392). -/
def beginPhase (s : State) (i kind op : Nat) : State :=
  let g := gEntry s i
  if g.pip then s
  else
    let t := rawReg s .gtime
    let s := setG s i { g with pip := true, kind := kind, op := op, began := s.ticks, paused := 0, pausedAt := none,
                               capped := false, pmax := fld t 31 0, fmarg := fld t 51 32, told := false }
    if g.role = 3 then emit s (.phaseBegun g.homedev g.homeHandle kind op (gatherDeadline s (gEntry s i)))
    else if g.role = 2 then g.shadows.foldl (fun s h => emit s (.phaseStart h.dev (handleOf s i) g.phase (gatherDeadline s (gEntry s i)))) s
    else s

/-- The next generation (15 R382). -/
def nextGen (g : Nat) : Nat := if g = 255 then 1 else g + 1

/-- The entry after an abort (15 R390). -/
def aborted (g : GEntry) (status : Nat) : GEntry :=
  { phaseOver g status 0 with
      gen := nextGen g.gen, memb := 0, phase := 1, away := [],
      homeHandle := if g.role = 3 then (g.homeHandle &&& ~~~0xFF) ||| BitVec.ofNat 32 (nextGen (g.homeHandle.toNat % 256)) else g.homeHandle,
      shadows := g.shadows.map (fun h => { h with lanes := 0, arrived := false, arrLanes := 0, bad := false }) }

/-- A slot after an abort of a phase with a status: what has not arrived is owed it (15 R390). -/
def slotAborted (status phase : Nat) (m : Member) : Member :=
  { m with owed := m.member &&& ~~~m.arrived, oweSt := BitVec.ofNat 4 status, owePhase := phase, member := 0, joining := 0, arrived := 0 }

/-- ABORT at an entry: its own members (15 R390). -/
def abortHere (s : State) (i status : Nat) : State :=
  let g := gEntry s i
  let w := knownAs s i
  mapSlots (setG (endTags s w g.phase status 0) i (aborted g status)) w (slotAborted status g.phase)

/-- ABORT at the timing entry, and its outcome to every shadow (15 R390, R393). A shadow asks its home. -/
def abortG (s : State) (i status : Nat) : State :=
  let g := gEntry s i
  if g.role = 0 then s
  else if g.role = 3 then emit s (.gbreak g.homedev g.homeHandle (gatherDeadline s g))
  else
    let h := handleOf s i
    g.shadows.foldl (fun s sh => emit s (.outcome sh.dev h g.phase (BitVec.ofNat 4 status) 0 (gatherDeadline s g))) (abortHere s i status)

/-- A shadow reports its member lanes when they change outside a phase (25 R469). -/
def reportCount (s : State) (i : Nat) : State :=
  let g := gEntry s i
  if g.role = 3 ∧ !g.pip then emit s (.count g.homedev g.homeHandle g.memb (gatherDeadline s g)) else s

/-- Members of a slot depart (14 R357, 15 R386): `m` of the sheet's lanes leave slot `k`; outside a phase at once,
in a phase as arrived with no value and removed at its end. `killed` sets DEP. Under `.strict` a leave in a phase
and any kill abort. -/
def departSlot (s : State) (c slot k : Nat) (m : Mask) (killed : Bool) : State :=
  match sheetOf s c slot with
  | none => s
  | some h =>
    let w := tget {} h.slots k
    let gone := w.member &&& m
    let joins := w.joining &&& m
    match namedG s w.handle with
    | none => if w.owed &&& m = 0 then s else setSheet s c slot { h with slots := tput h.slots k { w with owed := w.owed &&& ~~~m } }
    | some i =>
      let g := gEntry s i
      if (gone ||| joins) = 0 then s
      else if g.strict && gone != 0 && (killed || g.pip) then
        let s := abortG s i gsSoftware
        modSheet s c slot (fun h => { h with slots := tput h.slots k { tget {} h.slots k with owed := (tget {} h.slots k).owed &&& ~~~m } })
      else
        let n := (laneList gone).length
        let late := (laneList (gone &&& ~~~w.arrived)).length
        let j := (laneList joins).length
        let w' := { w with member := w.member &&& ~~~m, joining := w.joining &&& ~~~m, arrived := w.arrived &&& ~~~m }
        let s := setSheet s c slot { h with slots := tput h.slots k w' }
        let g := { g with dep := g.dep || (killed && gone != 0), joins := g.joins - j }
        let s := setG s i (if g.pip then { g with leaving := g.leaving + n, arrv := g.arrv + late }
                           else { g with memb := g.memb - n })
        settle (if n = 0 then s else reportCount s i) i

/-- Lanes leave every gathering of their sheet: by `EXIT` (14 R357) or killed (15 R386). -/
def departAll (s : State) (c slot : Nat) (m : Mask) (killed : Bool) : State :=
  (List.range 16).foldl (fun s k => departSlot s c slot k m killed) s

/-- The members of an entry's yielded sheet depart with a kill of their launch or level (15 R386). -/
def departAway (s : State) (p : Away → Bool) : State :=
  (s.gather.map (·.1)).foldl (fun s i =>
    let g := gEntry s i
    let hit := g.away.filter p
    if hit.isEmpty then s
    else if g.strict && hit.any (fun a => a.member != 0) then abortG s i gsSoftware
    else
      let count (f : Away → Mask) : Nat := hit.foldl (fun n a => n + (laneList (f a)).length) 0
      let n := count (·.member)
      let g := { g with away := g.away.filter (fun a => !p a), dep := g.dep || n != 0, joins := g.joins - count (·.joining) }
      settle (setG s i (if g.pip then
          { g with leaving := g.leaving + n, arrv := g.arrv + count (fun a => a.member &&& ~~~a.arrived) }
        else { g with memb := g.memb - n })) i) s

/-- A sheet takes PREEMPT: its pending gathering tags become ready as HELD (14 R362). -/
def holdTags (s : State) (c : Nat) (h : Sheet) : State :=
  (List.range h.ntags).foldl (fun s i =>
    let t := tagOf s c (h.tbase + i)
    if !t.ready && t.op == .gathering then setTag s c (h.tbase + i) { t with ready := true, status := 0, gstatus := BitVec.ofNat 4 gsHeld }
    else s) s

/-- A sheet leaves residency: its members are away (15 R388). -/
def sheetAway (s : State) (h : Sheet) : State :=
  (List.range 16).foldl (fun s k =>
    let m := tget {} h.slots k
    match namedG s m.handle with
    | none => s
    | some i =>
      if (m.member ||| m.joining) = 0 then s
      else
        let g := gEntry s i
        let a : Away := { ctx := h.ctx, launch := h.launch, task := h.task, sheet := h.index,
                          member := m.member, joining := m.joining, arrived := m.arrived }
        repause (setG s i { g with away := g.away ++ [a] }) i) s

/-- The record of a sheet among those that are away. -/
def isAway (h : Sheet) (a : Away) : Bool := a.ctx = h.ctx ∧ a.launch = h.launch ∧ a.task = h.task ∧ a.sheet = h.index

/-- A sheet is resident again and its RESUME leaf starts: the pause ends (15 R388). -/
def sheetBack (s : State) (h : Sheet) : State :=
  (s.gather.map (·.1)).foldl (fun s i =>
    let g := gEntry s i
    repause (setG s i { g with away := g.away.map (fun a => if isAway h a then { a with back := true } else a) }) i) s

/-- A restored membership slot when its sheet is rebuilt (17 R428, 15 R384, R391): a stale handle makes the
unarrived members owed the entry's last outcome; under a live one the masks are those of the current phase (log entry 16). -/
def restoredSlot (s : State) (h : Sheet) (m : Member) : Member :=
  match liveG s h.ctx m.handle with
  | none =>
    let g := lastEntry s m.handle
    { m with owed := m.owed ||| (m.member &&& ~~~m.arrived), oweSt := g.last, owePhase := g.lastph, member := 0, joining := 0, arrived := 0 }
  | some i =>
    match (gEntry s i).away.find? (isAway h) with
    | none => m
    | some a => { m with member := m.member ||| (m.joining &&& a.member), joining := m.joining &&& a.joining,
                         arrived := m.arrived &&& a.arrived }

/-- The restored slots of a sheet, whose records among those away are dropped. -/
def restoreSlots (s : State) (c slot : Nat) : State :=
  match sheetOf s c slot with
  | none => s
  | some h =>
    let s := setSheet s c slot { h with slots := h.slots.map (fun m => (m.1, restoredSlot s h m.2)) }
    { s with gather := s.gather.map (fun g => (g.1, { g.2 with away := g.2.away.filter (fun a => !isAway h a) })) }

/-- The outcome that a HELD tag finds (14 R362): none while its phase runs. -/
def heldOutcome (s : State) (t : Tag) : Option (BitVec 4 × Word) :=
  let stale : Option (BitVec 4 × Word) := some (BitVec.ofNat 4 gsStale, 0)
  let idx := slice t.handle.toNat 19 8
  let e : Option GEntry := match namedG s t.handle with
    | some i => some (gEntry s i)
    | none =>
      let g := gEntry s idx
      if t.handle.toNat / 2 ^ 20 = selfDev s ∧ g.role ≠ 0 ∧ g.role ≠ 3 then some g
      else (s.gather.find? (fun e => e.2.role = 3 ∧ (e.2.homeHandle &&& ~~~0xFF) = (t.handle &&& ~~~0xFF))).map (·.2)
  match e with
  | none => stale
  | some g =>
    let gen := t.handle.toNat % 256
    let cur := if g.role = 3 then g.homeHandle.toNat % 256 else g.gen
    let sameLast := g.lastph = t.phase ∧ (g.last.toNat < 2 ∧ gen = cur ∨ 2 ≤ g.last.toNat ∧ nextGen gen = cur)
    if gen = cur ∧ g.pip ∧ g.phase = t.phase then none
    else if sameLast then some (g.last, g.lastval)
    else stale

end Sys2Proof.Machine
end

