-- ==== Sys2Proof/Machine/Gather.lean ====
section
/-!
DEFINITION. The gathering instructions (14 R353 to R365) and the events of the gathering table (15 R387 to R394).
-/
namespace Sys2Proof.Machine

/-- What every G-format instruction needs: no type, and the fields that it does not use zero (14 R353). -/
def gPlain (f : FmtG) (scope : Bool) : Bool := noType f.h && f.imm == 0 && (scope || f.scope == 0) && f.mod == 0

/-- The result of an instruction is written at once; a reader of it needs no stall count (14 R353). -/
def putResult (s : State) (x : Iss) (m : Mask) (c : Opd) (w64 : Bool) (v : Nat) : State :=
  writeOpd s x m c.toNat w64 false 0 (fun _ => v)

/-- The instance number of a scope for a core (15 R380): core, cluster or die; 0 for `.dev` and `.fab`. -/
def scopeInst (scope : BitVec 3) (core : Nat) : Nat :=
  if scope = 2 then core else if scope = 3 then core / 4 else if scope = 4 then core / 64 else 0

/-- The lowest free entry that a context's quota permits (14 R356, 15 R383). -/
def freeEntry (s : State) (ctx : Nat) : Option Nat :=
  if fld (rawReg s (.gquota (ctxFn s ctx))) 12 0 ≤ gatherUsed s (ctxFn s ctx) then none
  else (List.range 4096).find? (fun i => (gEntry s i).role = 0)

/-- A newly allocated entry (14 R356): the entry's next generation, no members. -/
def newEntry (s : State) (i : Nat) (g : GEntry) : State :=
  let old := gEntry s i
  setG s i { g with gen := if old.gen = 0 then 1 else old.gen, phase := 1 }

/-- Lookup or creation at this device (14 R356): the handle and the status word. -/
def findOrMake (s : State) (ctx core : Nat) (scope : BitVec 3) (owner : Nat) (name : Word) (dl : Nat) (strict : Bool) :
    State × Word × Nat :=
  let fab : Bool := scope = 7
  let role := if fab then 2 else 1
  let inst := scopeInst scope core
  match s.gather.find? (fun g => g.2.role = role ∧ g.2.owner = owner ∧ g.2.name = name ∧ (fab ∨ (g.2.scope = scope ∧ g.2.inst = inst))) with
  | some (i, g) => (s, handleOf s i, if g.dl = dl ∧ g.strict = strict then 0 else 32)
  | none =>
    if !fab && s.gather.any (fun g => g.2.role = 1 ∧ g.2.owner = owner ∧ g.2.name = name ∧ g.2.scope ≠ scope) then
      (s, 0, gsMismatch)
    else match freeEntry s ctx with
      | none => (s, 0, gsNoSpace)
      | some i =>
        let s := newEntry s i { name := name, owner := owner, scope := scope, inst := inst, strict := strict, role := role,
                                homedev := if fab then selfDev s else 0, dl := dl, ctx := ctx }
        (s, handleOf s i, 16)

/-- A device is a member of the fabric domain (14 R356): this one, or one that FROUTE names ports for (19 R459). -/
def domainMember (s : State) (dev : Nat) : Bool := dev == selfDev s || rawReg s (.froute dev) != 0

/-- The deadline of an Emsen request made now (19 R458). -/
def emsenDeadline (s : State) : Nat := s.ticks + fld (rawReg s .fabcfg) 35 16 * usTicks

/-- Sends a request for a gathering homed elsewhere; the leaf waits for its response (14 R356, 19 R458). -/
def askHome (s : State) (x : Iss) (dev : Nat) (m : Nat → Nat → EmsenOut) : State :=
  let r := fresh s
  let dl := emsenDeadline s
  let s := emit { r.2 with emsen := r.2.emsen ++ [{ id := r.1, dev := dev, deadline := dl, use := .gath x.core x.entry }] } (m r.1 dl)
  blockLeaf s x.core x.entry (.results [r.1])

/-- The shadow of a `.fab` gathering by name, allocated where there is none (15 R392). -/
def shadowFor (s : State) (ctx home : Nat) (name : Word) (dl : Nat) (strict : Bool) : Option (State × Nat) :=
  match s.gather.find? (fun g => g.2.role = 3 ∧ g.2.owner = jobOf s ctx ∧ g.2.homedev = home ∧ g.2.name = name) with
  | some (i, _) => some (s, i)
  | none => (freeEntry s ctx).map (fun i =>
      (newEntry s i { name := name, owner := jobOf s ctx, scope := 7, strict := strict, role := 3, homedev := home, dl := dl, ctx := ctx }, i))

/-- The result of a `GNEW`. -/
def gnewDone (s : State) (x : Iss) (m : Mask) (f : FmtG) (h : Word) (st : Nat) : State :=
  doneOp (putResult (putResult s x m f.dst false h.toNat) x m f.opc false st) x f.h

/-- The fields, operands and privilege that `execGnew` asks for (10 R237). -/
def sigGnew (f : FmtG) : Sig :=
  { ok := noType f.h && f.imm == 0 && f.sub == 0 && f.mod.toNat < 2 &&
      (f.scope == 2 || f.scope == 3 || f.scope == 4 || f.scope == 5 || f.scope == 7),
    uses := [(f.dst, .dstHand), (f.opa, .src .i32), (f.opb, .uni64), (f.opc, .dst false)] }

/-- GNEW (14 R356). -/
def execGnew (f : FmtG) (s : State) : Host.Outcome State Fault Refusal :=
  activeOp s f.h (sigGnew f)
    (fun s x act =>
      let name := BitVec.ofNat 32 (uniOpd s x act .i32 f.opa.toNat)
      let pol := uniOpd s x act .i64 f.opb.toNat
      let home := slice pol 43 32
      let dl := pol % 2 ^ 32
      let strict := f.mod.getLsbD 0
      let ctx := x.sheet.ctx
      if pol / 2 ^ 44 ≠ 0 ∨ dl = 0 ∨ 2 ^ 24 ≤ dl ∨ (f.scope ≠ 7 ∧ home ≠ 0) then sheetTrap s x cControl ctlGatherArg
      else if f.scope ≠ 7 then
        let r := findOrMake s ctx x.core f.scope ctx name dl strict
        gnewDone r.1 x act f r.2.1 r.2.2
      else if !domainMember s home then gnewDone s x act f 0 gsStale
      else if home = selfDev s then
        let r := findOrMake s ctx x.core f.scope (jobOf s ctx) name dl strict
        gnewDone r.1 x act f r.2.1 r.2.2
      else match shadowFor s ctx home name dl strict with
        | none => gnewDone s x act f 0 gsNoSpace
        | some (s, _) => askHome s x home (fun id d => .gnew id home name (jobOf s ctx) dl strict d))

/-- The fields, operands and privilege that `execGjoin` asks for (10 R237). -/
def sigGjoin (f : FmtG) : Sig :=
  { ok := gPlain f false && f.sub == 0, uses := [(f.dst, .dst false), (f.opa, .src .i32), (f.opb, .unused), (f.opc, .unused)] }

/-- GJOIN (14 R357, 15 R384, R385). -/
def execGjoin (f : FmtG) (s : State) : Host.Outcome State Fault Refusal :=
  activeOp s f.h (sigGjoin f)
    (fun s x act =>
      let w := BitVec.ofNat 32 (uniOpd s x act .i32 f.opa.toNat)
      let done (s : State) (st : Nat) : State := doneOp (putResult s x act f.dst false st) x f.h
      match liveG s x.sheet.ctx w with
      | none => done s gsStale
      | some i =>
        let g := gEntry s i
        if g.inst ≠ scopeInst g.scope x.core then done s gsOutOfScope
        else match joinSlot s x.core x.sheet w with
          | none => sheetTrap s x cControl ctlGatherSlots
          | some k =>
            let m0 := tget {} x.sheet.slots k
            let m : Member := if m0.handle = w then m0 else { handle := w }
            let new := act &&& ~~~(m.member ||| m.joining)
            let n := (laneList new).length
            let m' := if g.pip then { m with joining := m.joining ||| new } else { m with member := m.member ||| new }
            let s := modSheet s x.core x.leaf.slot (fun h => { h with slots := tput h.slots k m' })
            if n = 0 then done s gsComplete
            else if g.pip then done (setG s i { g with joins := g.joins + n }) gsComplete
            else done (reportCount (setG s i { g with memb := g.memb + n }) i) gsComplete)

/-- The fields, operands and privilege that `execGleave` asks for (10 R237). -/
def sigGleave (f : FmtG) : Sig :=
  { ok := gPlain f false && f.sub == 1, uses := [(f.dst, .dst false), (f.opa, .src .i32), (f.opb, .unused), (f.opc, .unused)] }

/-- GLEAVE (14 R357). -/
def execGleave (f : FmtG) (s : State) : Host.Outcome State Fault Refusal :=
  activeOp s f.h (sigGleave f)
    (fun s x act =>
      let w := BitVec.ofNat 32 (uniOpd s x act .i32 f.opa.toNat)
      let done (s : State) (st : Nat) : State := doneOp (putResult s x act f.dst false st) x f.h
      match liveG s x.sheet.ctx w with
      | none => done s gsStale
      | some _ =>
        match slotOf x.sheet w with
        | none => done s gsNotMember
        | some k =>
          let m := tget {} x.sheet.slots k
          if (m.member ||| m.joining) &&& act = 0 then done s gsNotMember
          else done (departSlot s x.core x.leaf.slot k act false) gsComplete)

/-- A tag that completes at once with a phase result; its phase number and value are not stated and are free
(14 R358; log entry 1). -/
def tagAtOnce (s : State) (x : Iss) (n : Nat) (w : Word) (st : BitVec 4) : State :=
  let t := tagOf s x.core n
  { setTag s x.core n { t with ready := true, status := 0, op := .gathering, va := 0, handle := w,
                               phase := (Config.freeWord (2 * s.free)).toNat % 2 ^ 24, gstatus := st,
                               value := Config.freeWord (2 * s.free + 1) } with free := s.free + 1 }

/-- The abort that an owed lane receives (15 R390). -/
def owedTag (s : State) (x : Iss) (n : Nat) (m : Member) : State :=
  setTag s x.core n { tagOf s x.core n with ready := true, status := 0, op := .gathering, va := 0, handle := m.handle,
                                            phase := m.owePhase, gstatus := m.oweSt, value := 0 }

/-- The arrival of member lanes in a phase (14 R358): the entry, the slot and the tag. -/
def arrive (s : State) (x : Iss) (i k n : Nat) (w : Word) (m : Mask) (kind op : Nat) (val : Nat → Word) : State :=
  let s := beginPhase s i kind op
  let g0 := gEntry s i
  let g := if g0.kind = 0 then { g0 with kind := kind, op := op } else g0
  let same : Bool := g.kind = kind ∧ g.op = op
  let g := { g with arrv := g.arrv + (laneList m).length }
  let g := if same then (laneList m).foldl (fun g l => contribute g (val l)) g else g
  let s := setG s i g
  let s := modSheet s x.core x.leaf.slot (fun h =>
    let e := tget {} h.slots k
    { h with slots := tput h.slots k { e with arrived := e.arrived ||| m } })
  let s := setTag s x.core n { tagOf s x.core n with
    ready := false, status := 0, op := .gathering, va := 0, handle := w, phase := g.phase,
    gstatus := if same then 0 else BitVec.ofNat 4 gsMismatch, value := 0 }
  settle s i

/-- The fields, operands and privilege that `arriveOp` asks for (10 R237). -/
def sigArriveOp (f : FmtG) (role : Role) (ok : Bool) : Sig :=
  { ok := gPlain f false && ok, uses := [(f.dst, .tagDst), (f.opa, .src .i32), (f.opb, role), (f.opc, .unused)] }

/-- GARRIVE, GVOTE and GRED (14 R358 to R360, 15 R390): an arrival is a release of the arriving lanes. -/
def arriveOp (f : FmtG) (kind op : Nat) (role : Role) (ok : Bool) (val : State → Iss → Nat → Word) (s : State) :
    Host.Outcome State Fault Refusal :=
  activeOp s f.h (sigArriveOp f role ok)
    (fun s x act =>
      let w := BitVec.ofNat 32 (uniOpd s x act .i32 f.opa.toNat)
      withTag s x f.dst (fun n =>
        let slot := slotOf x.sheet w
        let mb : Member := (slot.map (fun k => tget {} x.sheet.slots k)).getD {}
        match liveG s x.sheet.ctx w with
        | none =>
          if mb.owed &&& act ≠ 0 then
            let s := modSheet s x.core x.leaf.slot (fun h => { h with slots := tput h.slots (slot.getD 16) { mb with owed := mb.owed &&& ~~~act } })
            doneOp (owedTag s x n mb) x f.h
          else doneOp (tagAtOnce s x n w (BitVec.ofNat 4 gsStale)) x f.h
        | some i =>
          if (gEntry s i).pip && ((mb.arrived ||| mb.joining) &&& act) != 0 then blockLeaf s x.core x.entry (.phase w)
          else if mb.member &&& act = 0 then doneOp (tagAtOnce s x n w (BitVec.ofNat 4 gsNotMember)) x f.h
          else
            let vs := lanes.map (fun l => val s x l)
            afterAccs s x (mb.member &&& act) (doneOp (arrive s x i (slot.getD 16) n w (mb.member &&& act) kind op (fun l => vs[l]?.getD 0)) x f.h)))

/-- GARRIVE (14 R358). -/
def execGarrive (f : FmtG) (s : State) : Host.Outcome State Fault Refusal :=
  arriveOp f 1 0 .unused (f.sub == 0) (fun _ _ _ => 0) s
/-- GVOTE (14 R358): each lane contributes its bit. -/
def execGvote (f : FmtG) (s : State) : Host.Outcome State Fault Refusal :=
  arriveOp f 2 0 .pred (f.sub == 1) (fun s x l => BitVec.ofNat 32 (b2n (readBit s x f.opb.toNat l))) s
/-- GRED (14 R358). -/
def execGred (f : FmtG) (s : State) : Host.Outcome State Fault Refusal :=
  arriveOp f 3 (f.sub.toNat / 16) (.src .i32) (f.sub.toNat % 16 == 2 && f.sub.toNat / 16 ≤ 10)
    (fun s x l => BitVec.ofNat 32 (readOpd s x .i32 f.opb.toNat l)) s

/-- The result word of `GWAIT` (14 R361). -/
def gwaitWord (st : BitVec 4) (phase : Nat) (v : Word) : Nat := v.toNat * 2 ^ 32 + phase % 2 ^ 24 * 2 ^ 8 + st.toNat

/-- The fields, operands and privilege that `execGwait` asks for (10 R237). -/
def sigGwait (f : FmtG) : Sig :=
  { ok := gPlain f false && f.sub == 0, uses := [(f.dst, .dstReg true), (f.opa, .tagRead), (f.opb, .unused), (f.opc, .unused)] }

/-- GWAIT (14 R361, R362). -/
def execGwait (f : FmtG) (s : State) : Host.Outcome State Fault Refusal :=
  activeOp s f.h (sigGwait f)
    (fun s x act =>
      let n := tagNo x.sheet f.opa.toNat
      let t := tagOf s x.core n
      let done (st : BitVec 4) (v : Word) : State := doneOp (putResult s x act f.dst true (gwaitWord st t.phase v)) x f.h
      if t.op ≠ .gathering then sheetTrap s x cControl ctlTagKind
      else if !t.ready then blockLeaf s x.core x.entry (.tag n)
      else if t.gstatus.toNat = gsHeld then
        match heldOutcome s t with
        | none => blockLeaf s x.core x.entry (.held n)
        | some r => done r.1 r.2
      else done t.gstatus t.value)

/-- The word of `GSTAT` for an entry (14 R363, 25 R469). -/
def gstatWord (g : GEntry) : Nat :=
  (g.memb + (g.shadows.map (·.lanes)).sum) % 2 ^ 27 + (g.arrv + (g.shadows.map (·.arrLanes)).sum) % 2 ^ 27 * 2 ^ 27

/-- The fields, operands and privilege that `execGstat` asks for (10 R237). -/
def sigGstat (f : FmtG) : Sig :=
  { ok := gPlain f false && f.sub == 1, uses := [(f.dst, .dstReg true), (f.opa, .src .i32), (f.opb, .unused), (f.opc, .unused)] }

/-- GSTAT (14 R363). -/
def execGstat (f : FmtG) (s : State) : Host.Outcome State Fault Refusal :=
  activeOp s f.h (sigGstat f)
    (fun s x act =>
      let w := BitVec.ofNat 32 (uniOpd s x act .i32 f.opa.toNat)
      match liveG s x.sheet.ctx w with
      | none => doneOp (putResult s x act f.dst true (gsStale * 2 ^ 60)) x f.h
      | some i =>
        let g := gEntry s i
        if g.role = 3 then askHome s x g.homedev (fun id d => .gask id g.homedev w 0 d)
        else doneOp (putResult s x act f.dst true (gstatWord g)) x f.h)

/-- The fields, operands and privilege that `execGabort` asks for (10 R237). -/
def sigGabort (f : FmtG) : Sig :=
  { ok := gPlain f false && f.sub == 0, uses := [(f.dst, .dst false), (f.opa, .src .i32), (f.opb, .unused), (f.opc, .unused)] }

/-- GABORT (14 R364). -/
def execGabort (f : FmtG) (s : State) : Host.Outcome State Fault Refusal :=
  activeOp s f.h (sigGabort f)
    (fun s x act =>
      let w := BitVec.ofNat 32 (uniOpd s x act .i32 f.opa.toNat)
      match liveG s x.sheet.ctx w with
      | none => doneOp (putResult s x act f.dst false gsStale) x f.h
      | some i =>
        let g := gEntry s i
        if g.role = 3 then askHome s x g.homedev (fun id d => .gask id g.homedev w 1 d)
        else doneOp (putResult (abortG s i gsSoftware) x act f.dst false gsComplete) x f.h)

/-- Frees an entry and its name (14 R365); a home tells its shadows that the handle is stale. -/
def freeG (s : State) (i : Nat) : State :=
  let g := gEntry s i
  let h := handleOf s i
  g.shadows.foldl (fun s sh => emit s (.outcome sh.dev h g.phase (BitVec.ofNat 4 gsStale) 0 (gatherDeadline s g))) (setG s i { gen := nextGen g.gen })

/-- The status of `GFREE` at the entry, and the state after it (14 R365). -/
def tryFree (s : State) (i : Nat) : State × Nat :=
  let g := gEntry s i
  if g.pip ∨ g.memb + (g.shadows.map (·.lanes)).sum ≠ 0 then (s, gsBusy) else (freeG s i, gsComplete)

/-- The fields, operands and privilege that `execGfree` asks for (10 R237). -/
def sigGfree (f : FmtG) : Sig :=
  { ok := gPlain f false && f.sub == 1, uses := [(f.dst, .dst false), (f.opa, .src .i32), (f.opb, .unused), (f.opc, .unused)] }

/-- GFREE (14 R365). -/
def execGfree (f : FmtG) (s : State) : Host.Outcome State Fault Refusal :=
  activeOp s f.h (sigGfree f)
    (fun s x act =>
      let w := BitVec.ofNat 32 (uniOpd s x act .i32 f.opa.toNat)
      match liveG s x.sheet.ctx w with
      | none => doneOp (putResult s x act f.dst false gsStale) x f.h
      | some i =>
        let g := gEntry s i
        if g.role = 3 then askHome s x g.homedev (fun id d => .gask id g.homedev w 2 d)
        else
          let r := tryFree s i
          doneOp (putResult r.1 x act f.dst false r.2) x f.h)

/-- PHASE_DEADLINE_EXPIRY (15 R387): ELAPSED has reached DL. -/
def execPhaseDeadlineExpiry (idx : Nat) (s : State) : Host.Outcome State Fault Refusal :=
  let g := gEntry s idx
  .next (if (g.role = 1 ∨ g.role = 2) ∧ g.pip ∧ g.dl ≤ elapsed s g then abortG s idx gsTimeout else s)

/-- PAUSE_CAP_EXPIRY (15 R388): the pause of the phase has reached PMAX, and the deadline runs again. -/
def execPauseCapExpiry (idx : Nat) (s : State) : Host.Outcome State Fault Refusal :=
  let g := gEntry s idx
  .next (if g.pausedAt.isSome ∧ g.pmax * usTicks ≤ pausedTicks s g then repause (setG s idx { g with capped := true }) idx else s)

/-- The home entry of a handle of this device, with a shadow of the device registered. -/
def homeEntry (s : State) (h : Word) (dev : Nat) : Option Nat :=
  match namedG s h with
  | some i => if (gEntry s i).role = 2 ∧ (gEntry s i).shadows.any (fun x => x.dev = dev) then some i else none
  | none => none

/-- Changes the registered shadow of a device. -/
def modShadow (g : GEntry) (dev : Nat) (f : Shadow → Shadow) : GEntry :=
  { g with shadows := g.shadows.map (fun x => if x.dev = dev then f x else x) }

/-- PHASE_BEGUN (15 R392): a shadow's first local arrival; the home starts the phase. -/
def execPhaseBegun (handle : Word) (dev kind op : Nat) (s : State) : Host.Outcome State Fault Refusal :=
  .next (match homeEntry s handle dev with
    | some i => settle (beginPhase s i kind op) i
    | none => s)

/-- The shadow that stands for a handle. -/
def shadowEntry (s : State) (h : Word) : Option Nat :=
  match namedG s h with
  | some i => if (gEntry s i).role = 3 then some i else none
  | none => none

/-- A phase that a shadow began by itself takes its home's number (15 R389): the entry and the tags pending on it. -/
def renumber (s : State) (i phase : Nat) : State :=
  let g := gEntry s i
  let w := knownAs s i
  { setG s i { g with phase := phase } with
    cores := s.cores.map (fun c => (c.1, { c.2 with tags := c.2.tags.map (fun t =>
      if !t.2.ready && t.2.op == .gathering && t.2.handle == w && t.2.phase == g.phase then (t.1, { t.2 with phase := phase }) else t) })) }

/-- PHASE_START (15 R392): a shadow with no member left arrives at once. -/
def execPhaseStart (handle : Word) (phase : Nat) (s : State) : Host.Outcome State Fault Refusal :=
  .next (match shadowEntry s handle with
    | some i =>
      let g := gEntry s i
      let s := if g.pip then renumber s i phase
        else setG s i { g with pip := true, phase := phase, began := s.ticks, kind := 0, op := 0, told := false,
                               fmarg := fld (rawReg s .gtime) 51 32 }
      tellHome s i
    | none => s)

/-- SHADOW_ARRIVAL (15 R392): the home counts the shadow and merges its exact partial. An arrival of lanes where no phase
is in progress is the phase's first. -/
def execShadowArrival (handle : Word) (dev lanes : Nat) (part : Partial) (s : State) : Host.Outcome State Fault Refusal :=
  .next (match homeEntry s handle dev with
    | some i =>
      let s := if part.kind = 0 then s else beginPhase s i part.kind part.op
      let g := gEntry s i
      if !g.pip ∨ g.shadows.any (fun x => x.dev = dev ∧ x.arrived) then s
      else
        let bad := part.kind != 0 && !(part.kind == g.kind && part.op == g.op)
        let g := modShadow g dev (fun x => { x with arrived := true, arrLanes := lanes, bad := bad })
        settle (setG s i { (if bad then g else mergePartial g part) with dep := g.dep || part.dep }) i
    | none => s)

/-- PHASE_OUTCOME (15 R390, R392): the home's outcome reaches a shadow; STALE tells of a freed handle. -/
def execPhaseOutcome (handle : Word) (phase : Nat) (status : BitVec 4) (value : Word) (s : State) :
    Host.Outcome State Fault Refusal :=
  .next (match shadowEntry s handle with
    | some i =>
      let st := status.toNat
      if st = gsStale then setG s i { gen := nextGen (gEntry s i).gen }
      else if st = gsTimeout ∨ st = gsLink ∨ st = gsSoftware then abortHere s i st
      else if (gEntry s i).pip ∧ (gEntry s i).phase = phase then reportCount (finishPhase s i st value) i
      else s
    | none => s)

/-- A shadow gives up its members with ABORTED-LINK and tells the home that it is gone (15 R393). -/
def shadowLost (s : State) (i : Nat) : State :=
  let g := gEntry s i
  emit (abortHere s i gsLink) (.gone g.homedev g.homeHandle (gatherDeadline s g))

/-- SHADOW_TIMER_EXPIRY (15 R393): DL + FMARG have passed with no outcome. -/
def execShadowTimerExpiry (idx : Nat) (s : State) : Host.Outcome State Fault Refusal :=
  let g := gEntry s idx
  .next (if g.role = 3 ∧ g.pip ∧ (g.dl + g.fmarg) * usTicks ≤ s.ticks - g.began then shadowLost s idx else s)

/-- The home loses a shadow: it aborts and unregisters the shadow (15 R393). -/
def homeLoses (s : State) (i dev : Nat) : State :=
  let g := gEntry s i
  abortG (setG s i { g with shadows := g.shadows.filter (fun x => x.dev ≠ dev) }) i gsLink

/-- SHADOW_GONE (15 R393). -/
def execShadowGone (handle : Word) (dev : Nat) (s : State) : Host.Outcome State Fault Refusal :=
  .next (match homeEntry s handle dev with
    | some i => homeLoses s i dev
    | none => s)

/-- SHADOW_COUNT_REPORT (25 R469). -/
def execShadowCountReport (handle : Word) (dev lanes : Nat) (s : State) : Host.Outcome State Fault Refusal :=
  .next (match homeEntry s handle dev with
    | some i => setG s i (modShadow (gEntry s i) dev (fun x => { x with lanes := lanes }))
    | none => s)

/-- Every path to a device is lost (15 R393, 19 R457). -/
def gatherPathLost (s : State) (dev : Nat) : State :=
  (s.gather.map (·.1)).foldl (fun s i =>
    let g := gEntry s i
    if g.role = 2 ∧ g.shadows.any (fun x => x.dev = dev) then homeLoses s i dev
    else if g.role = 3 ∧ g.homedev = dev then abortHere s i gsLink
    else s) s

/-- The lease of a cluster's L branch is lost (15 R394). -/
def gatherLeaseLost (s : State) (cluster : Nat) : State :=
  (s.gather.map (·.1)).foldl (fun s i =>
    let w := knownAs s i
    if (gEntry s i).role ≠ 0 ∧ s.cores.any (fun c => c.1 / 4 = cluster ∧
        c.2.sheets.any (fun h => h.2.slots.any (fun m => m.2.handle = w ∧ m.2.member ≠ 0))) then abortG s i gsLink
    else s) s

/-- A context is destroyed: its entries are freed, aborted first where members live elsewhere (15 R381). -/
def gatherDestroy (s : State) (ctx : Nat) : State :=
  (s.gather.map (·.1)).foldl (fun s i =>
    let g := gEntry s i
    if g.role = 0 ∨ g.ctx ≠ ctx then s
    else
      let s := if g.role = 3 then emit (abortHere s i gsSoftware) (.gone g.homedev g.homeHandle (gatherDeadline s g))
        else if g.shadows.any (fun x => x.lanes != 0) then abortG s i gsSoftware
        else s
      setG s i { gen := nextGen (gEntry s i).gen }) s

/-- The timer events of the gathering table that are due. -/
def gatherDue (s : State) : List Instr :=
  (s.gather.map (fun g =>
    (if (g.2.role = 1 ∨ g.2.role = 2) ∧ g.2.pip ∧ g.2.dl ≤ elapsed s g.2 then [Instr.phaseDeadlineExpiry g.1] else []) ++
    (if g.2.pausedAt.isSome ∧ g.2.pmax * usTicks ≤ pausedTicks s g.2 then [Instr.pauseCapExpiry g.1] else []) ++
    (if g.2.role = 3 ∧ g.2.pip ∧ (g.2.dl + g.2.fmarg) * usTicks ≤ s.ticks - g.2.began then [Instr.shadowTimerExpiry g.1] else []))).flatten

end Sys2Proof.Machine
end

