-- ==== Sys2Proof/Machine/Leave.lean ====
section
/-!
DEFINITION. Lanes that leave their sheet: `EXIT` (11 R294), kills (15 R386), and the return from a handler with
the rebuild of a resumed sheet (14 R372, 17 R423, R428).
-/
namespace Sys2Proof.Machine

/-- Lanes of a leaf leave the sheet (06 R153): they depart from every gathering, and an empty leaf ends. -/
def leaveLanes (s : State) (c e : Nat) (m : Mask) (killed : Bool) : State :=
  match leafOf s c e with
  | none => s
  | some l =>
    let m := m &&& l.mask
    let s := departAll s c l.slot m killed
    let s := modSheet s c l.slot (fun h => { h with gone := h.gone ||| m })
    match leafOf s c e with
    | none => s
    | some l => if l.mask &&& ~~~m = 0 then freeLeaf (setLeaf s c e { l with mask := 0 }) c e
                else setLeaf s c e { l with mask := l.mask &&& ~~~m }

/-- The fields, operands and privilege that `execExit` asks for (10 R237). -/
def sigExit (f : FmtR) : Sig :=
  { ok := noType f.h && f.tw == 0 && modsOk f {}, uses := usesR f .unused .unused .unused .unused .unused }

/-- EXIT (11 R294): the active lanes leave; the run ends. -/
def execExit (f : FmtR) (s : State) : Host.Outcome State Fault Refusal :=
  issueOp s f.h (sigExit f)
    (fun s x act =>
      let s := retireAt s x.core x.entry f.h true (nextPc x.leaf.pc)
      if act = 0 then s else leaveLanes s x.core x.entry act false)

/-- The leaf list as it stands (17 R420). -/
def listEntries (h : Sheet) : List ListEntry :=
  ((List.range 17).map (fun i => tget {} h.list i)).filter (fun e => e.kind = 1 ∨ e.kind = 2)

/-- A leaf list that can be rebuilt: masks nonempty and disjoint, PCs at slots (17 R428). -/
def listOk : List ListEntry → Mask → Bool
  | [], _ => true
  | e :: t, seen => e.mask != 0 && (e.mask &&& seen) == 0 && pcForm e.pc && listOk t (seen ||| e.mask)

/-- Places the leaves of a list: the first in the reserved entry, the others in pool entries (17 R428). None issues before
ac `k`: the stall count of the `RTT` binds them as it binds the next run of a leaf (10 R239). -/
def placeLeaves (s : State) (c slot k : Nat) : List ListEntry → List Nat → State
  | [], _ => s
  | e :: t, n :: ns =>
    let t' := now s c
    placeLeaves (setLeaf s c n { slot := slot, pc := e.pc, mask := e.mask, age := t', since := t', nextIssue := k }) c slot k t ns
  | _ :: _, [] => s

/-- The rebuild of a sheet by the RESUME leaf's `RTT.retry` (17 R428). -/
def rebuild (s : State) (x : Iss) (h : Hdr) : State :=
  let es := listEntries x.sheet
  let slot := x.leaf.slot
  if !listOk es 0 then killLaunch s x.sheet.ctx x.sheet.launch .leafList cResume 0 x.leaf.pc
  else if (poolFree s x.core).length + 1 < es.length then blockLeaf s x.core x.entry .rebuild
  else
    let s := restoreSlots s x.core slot
    let all := es.foldl (fun m e => m ||| e.mask) 0
    let k := coreOf s x.core
    let s := setCore s x.core { k with recs := tput k.recs x.entry { tget {} k.recs x.entry with v := false } }
    let left := x.leaf.mask &&& ~~~all
    let s := departAll s x.core slot left false
    let s := modSheet s x.core slot (fun h => { h with gone := h.gone ||| left })
    let s := freeLeaf s x.core x.entry
    placeLeaves s x.core slot (now s x.core + 1 + h.stall.toNat) es (slot :: poolFree s x.core)

/-- The lanes that replay at a `.retry`, where they are not all (17 R423). -/
def replayLanes (r : FaultRec) : Option Mask :=
  if r.cause = cHostAtomic then some r.lanes
  else if r.cause = cLeafExhausted ∧ r.status = 3 then some r.replay
  else none

/-- The handler ends and the leaf goes on at `pc` (17 R423): the next issue obeys the stall count. -/
def leaveAt (s : State) (x : Iss) (h : Hdr) (pc : DWord) : State :=
  match leafOf (retireAt s x.core x.entry h true pc) x.core x.entry with
  | some l => leaveHandler s x.core x.entry l pc
  | none => s

/-- The fields, operands and privilege that `execRtt` asks for (10 R237). -/
def sigRtt (f : FmtG) : Sig :=
  let form := f.mod.toNat
  { ok := noType f.h && f.imm == 0 && f.sub == 0 && f.scope == 0 && form < 3,
    uses := [(f.dst, .unused), (f.opa, if form = 2 then .sreg else .unused), (f.opb, .unused), (f.opc, .unused)],
    priv := true }

/-- RTT (14 R372, 17 R423). -/
def execRtt (f : FmtG) (s : State) : Host.Outcome State Fault Refusal :=
  let form := f.mod.toNat
  issueOp s f.h (sigRtt f)
    (fun s x _ =>
      let r := tget {} (coreOf s x.core).recs x.entry
      let pc : DWord := if form = 0 then r.pc else if form = 1 then nextPc r.pc
        else BitVec.ofNat 64 (uniOpd s x x.leaf.mask .i64 f.opa.toNat)
      if r.klaunch then killLaunch s x.sheet.ctx x.sheet.launch .klaunch r.cause r.status r.pc
      else if r.kleaf then
        let k := coreOf s x.core
        leaveLanes (setCore s x.core { k with recs := tput k.recs x.entry { r with v := false } }) x.core x.entry x.leaf.mask true
      else if x.leaf.handler = cResume ∧ form = 0 then rebuild s x f.h
      else if !pcForm pc then sheetTrap s x cControl ctlPcForm
      else match (if form = 0 then replayLanes r else none) with
        | none =>
          let s := leaveAt s x f.h pc
          if x.leaf.handler = cResume then restoreSlots s x.core x.leaf.slot else s
        | some m =>
          let again := x.leaf.mask &&& m
          let rest := x.leaf.mask &&& ~~~m
          if rest = 0 then leaveAt s x f.h pc
          else if again = 0 then leaveAt s x f.h (nextPc pc)
          else match poolFree s x.core with
            | [] => splitStall s x.core x.entry
            | p =>
              let s := leaveAt s x f.h pc
              setMask (newLeaves s x.core x.entry [(rest, nextPc pc, false)] p) x.core x.entry again)

end Sys2Proof.Machine
end

