-- ==== Sys2Proof/Machine/Mesh.lean ====
section
/-!
DEFINITION. The mesh (01 R9, 03 R47, R48), stitches (03 R52 to R54), and the lines of
the cluster caches (04 R88 to R94).
-/
namespace Sys2Proof.Machine

/-- The next port on the route from `a` to `b` (03 R48); 0 at `b`. -/
def routePort (a b : Nat) : Nat :=
  if a = b then 0
  else if 128 ≤ a then opposite (attach a).2
  else
    let p := routerXY a
    let q := routerXY b
    if p.1 < q.1 then 2 else if q.1 < p.1 then 4
    else if p.2 < q.2 then 3 else if q.2 < p.2 then 1
    else (attach b).2

/-- Replaces a router's stitches. -/
def setStitches (s : State) (r : Nat) (ts : List Stitch) : State := { s with routers := tput s.routers r { stitches := ts } }

/-- Changes a line stitch. -/
def modStitch (s : State) (r line : Nat) (f : Stitch → Stitch) : State :=
  setStitches s r ((routerOf s r).stitches.map (fun t => if !t.tile && t.line == line then f t else t))

/-- Drops a line stitch. -/
def dropStitch (s : State) (r line : Nat) : State :=
  setStitches s r ((routerOf s r).stitches.filter (fun t => t.tile || t.line != line))

/-- The mask with a port set. -/
def setPort (m : BitVec 5) (p : Nat) : BitVec 5 := m ||| BitVec.ofNat 5 (2 ^ p)
/-- The mask with a port cleared. -/
def clearPort (m : BitVec 5) (p : Nat) : BitVec 5 := m &&& ~~~(BitVec.ofNat 5 (2 ^ p))
/-- The ports of a mask. -/
def portsOf (m : BitVec 5) : List Nat := (List.range 5).filter (fun p => m.getLsbD p)

/-- The set of a line's stitch (03 R63). -/
def stitchSet (line : Nat) : Nat := line % 1024

/-- The lease in ticks (03 R66). -/
def leaseTicks (s : State) : Nat := 2 ^ fld (rawReg s .clease) 4 0

/-- A message for a line crosses the router: its stitch is used (03 R63). -/
def useStitch (s : State) (r line : Nat) : State :=
  match stitchOf s r line with
  | none => s
  | some t => setStitches s r (t :: (routerOf s r).stitches.filter (· ≠ t))

/-- A line of a cluster cache. -/
def cacheLine (s : State) (k line : Nat) : Option CLine := (clusterOf s k).cache.find? (fun l => l.line = line)

/-- Changes a line of a cluster cache in its place. -/
def modLine (s : State) (k line : Nat) (f : CLine → CLine) : State :=
  let c := clusterOf s k
  setCluster s k { c with cache := c.cache.map (fun l => if l.line = line then f l else l) }

/-- An agent has sent a message for a line that it holds (03 R67). -/
def renewLine (s : State) (k line : Nat) : State :=
  if (cacheLine s k line).isSome then modLine s k line (fun l => { l with renewed := s.ticks }) else s

/-- Sends a message, last in order (03 R49). -/
def sendMsg (s : State) (m : Msg) : State :=
  useStitch { s with msgs := s.msgs ++ [{ m with id := s.nextId }], nextId := s.nextId + 1 } m.at' m.line

/-- A new message of a line at a router by a port. -/
def newMsg (kind : MsgKind) (line at' port home src : Nat) : Msg :=
  { id := 0, kind := kind, line := line, at' := at', port := port, home := home, src := src }

/-- The home of a line. -/
def lineHome (s : State) (line : Nat) : Nat := homeOf s (128 * line)

/-- Sends a message through a port of a router to the neighbour there. -/
def sendPort (s : State) (r p : Nat) (m : Msg) : State :=
  match neighbour r p with
  | some (n, q) => sendMsg s { m with at' := n, port := q }
  | none => s

/-- Removes a message. -/
def dropMsg (s : State) (id : Nat) : State := { s with msgs := s.msgs.filter (fun m => m.id ≠ id) }
/-- Replaces a message in its place. -/
def putMsg (s : State) (m : Msg) : State := { s with msgs := s.msgs.map (fun x => if x.id = m.id then m else x) }
/-- A message in flight. -/
def msgOf (s : State) (id : Nat) : Option Msg := s.msgs.find? (fun m => m.id = id)

/-- A message arrives at its next router, last in order of those of its line there (03 R49). -/
def moveMsg (s : State) (m : Msg) : State :=
  useStitch { s with msgs := s.msgs.filter (fun x => x.id ≠ m.id) ++ [{ m with evict := none }] } m.at' m.line

/-- A request that a holder of the line sends counts as a renewal at each router (03 R67). -/
def markRenewal (s : State) (m : Msg) : State :=
  if (m.kind == .write || m.kind == .join) && (cacheLine s m.src m.line).isSome then
    modStitch s m.at' m.line (fun t => if maskBit t m.port then { t with rnwd := setPort t.rnwd m.port } else t)
  else s

/-- Moves a message through a port. -/
def hop (s : State) (m : Msg) (p : Nat) : State :=
  match neighbour m.at' p with
  | some (n, q) => moveMsg (markRenewal s m) { m with at' := n, port := q, path := (m.at', m.port) :: m.path }
  | none => dropMsg s m.id

/-- A router other than the home with bit 0 clear and one grid port drops its stitch and sends a prune; a home
drops an empty one (03 R54). A stitch that is being unpicked stays. -/
def prune (s : State) (r line : Nat) : State :=
  match stitchOf s r line with
  | none => s
  | some t =>
    let home := lineHome s line
    if t.unpk then s
    else if r = home then (if t.mask = 0 then dropStitch s r line else s)
    else if maskBit t 0 then s
    else match portsOf t.mask with
      | [p] => sendPort (dropStitch s r line) r p (newMsg .prune line r 0 home r)
      | [] => dropStitch s r line
      | _ => s

/-- The unpick in progress at a router. -/
def unpickOf (s : State) (r line : Nat) : Option Unpick := s.unpicks.find? (fun u => u.router = r ∧ u.line = line)
/-- Records an unpick in progress. -/
def setUnpick (s : State) (u : Unpick) : State :=
  { s with unpicks := u :: s.unpicks.filter (fun v => !(v.router = u.router ∧ v.line = u.line)) }
/-- Ends one. -/
def dropUnpick (s : State) (r line : Nat) : State :=
  { s with unpicks := s.unpicks.filter (fun v => !(v.router = r ∧ v.line = line)) }

/-- The home transaction open on a line (03 R49). -/
def txOf (s : State) (line : Nat) : Option HomeTx := s.homeTx.find? (fun t => t.line = line)

/-- The answers whose path their line's agents wait for. -/
def isAnswer (m : Msg) : Bool := m.kind == .grant || m.kind == .readResp || m.kind == .joinResp

/-- The home is at work on a line: a transaction is open, or its answer has not left the home yet (03 R49). -/
def homeBusy (s : State) (line : Nat) : Bool :=
  (txOf s line).isSome || s.msgs.any (fun m => m.line == line && m.at' == m.home && isAnswer m && !m.uncached)

/-- The messages by which home transactions reach the home and wait there their turn (03 R49). -/
def isRequest (m : Msg) : Bool :=
  m.kind == .write || m.kind == .read || m.kind == .commRead || m.kind == .join || m.kind == .branchLoss || m.kind == .rangeFlush ||
    m.kind == .rangeInv

/-- The messages in flight that came before one: those listed before it. -/
def ahead (s : State) (id : Nat) : List Msg := s.msgs.takeWhile (fun m => m.id ≠ id)

/-- A transaction at the home must wait: the home is at work on the line, or another has arrived before it (03 R49). -/
def mustWait (s : State) (m : Msg) : Bool :=
  homeBusy s m.line || (ahead s m.id).any (fun x => x.line == m.line && x.at' == m.home && isRequest x)

/-- A message waits behind one that came before it over the same link, about the same line (03 R49): an answer that has not
found room at this router, or in its requester's cache. A grant that waits for an unpick to end holds nothing up (R58, R65). -/
def heldUp (s : State) (m : Msg) : Bool :=
  (ahead s m.id).any (fun x => x.line == m.line && x.at' == m.at' && x.port == m.port && isAnswer x &&
    (match stitchOf s x.at' x.line with | some t => !t.unpk | none => true))

/-- A message in flight that nothing holds up on its link. -/
def arrived (s : State) (id : Nat) : Option Msg :=
  match msgOf s id with
  | some m => if heldUp s m then none else some m
  | none => none

/-- Nothing is in flight for a line: no message, no unpick, no home transaction. -/
def quiet (s : State) (line : Nat) : Bool :=
  !s.msgs.any (fun m => m.line = line) && !s.unpicks.any (fun u => u.line = line) && (txOf s line).isNone

/-- Nothing is in flight for the lines of a range of storage addresses. -/
def quietRange (s : State) (a n : Nat) : Bool :=
  n = 0 || (s.msgs.all (fun m => m.line < a / 128 || (a + n - 1) / 128 < m.line) &&
    s.unpicks.all (fun m => m.line < a / 128 || (a + n - 1) / 128 < m.line) &&
    s.homeTx.all (fun m => m.line < a / 128 || (a + n - 1) / 128 < m.line))

/-- A cluster's own access to a held line: recency and protection by its eviction priority (04 R93, R94). R93 gives `.ev6` only for a
miss; a hit of it leaves recency and protection as they are (DESIGN CHOICE, log entry 91). -/
def touchLine (s : State) (k line : Nat) (evp : Nat) : State :=
  let c := clusterOf s k
  match c.cache.find? (fun l => l.line = line) with
  | none => s
  | some l =>
    let rest := c.cache.filter (fun x => x.line ≠ line)
    if evp = 4 ∨ evp = 6 then s
    else if evp = 7 then setCluster s k { c with cache := rest ++ [{ l with prot := 0 }] }
    else
      let l := if 1 ≤ evp ∧ evp ≤ 3 then { l with prot := evp } else l
      let same (x : CLine) : Bool := x.line % 2048 == line % 2048 && x.prot != 0
      let rest := if l.prot ≠ 0 ∧ 12 ≤ (rest.filter same).length then
          match (rest.filter same).getLast? with
          | some v => rest.map (fun x => if x.line = v.line then { x with prot := 0 } else x)
          | none => rest
        else rest
      setCluster s k { c with cache := l :: rest }

/-- The line is held by a transaction: a message about it, or an access of the cluster outstanding on it. -/
def lineBusy (s : State) (k line : Nat) : Bool :=
  s.msgs.any (fun m => m.line = line ∧ m.src = k) ||
  s.accs.any (fun a => a.core / 4 = k ∧ lineOf a.pa = line ∧ a.sent)

/-- An agent, by its cache's number and its router, gives up a line (03 R62). Where another copy stays at a fabric router, its L branch
stays. -/
def giveUp (s : State) (k r : Nat) (l : CLine) : State :=
  let home := lineHome s l.line
  let s := dropHeld s k l.line
  let anchor := match stitchOf s r l.line with | some t => t.root == 0 | none => false
  match l.st with
  | .c => sendMsg s { newMsg .foldDelivery l.line r 0 home r with data := some l.data, has := l.has, pte := l.pte, poison := l.poison }
  | .s =>
    if (holdersOf s l.line).any (fun h => agentRouter h == r) then s
    else if anchor then sendMsg s (newMsg .anchorRelease l.line r 0 home r)
    else sendMsg s (newMsg .dropNotice l.line r 0 home r)
  | .e => sendMsg s (newMsg .anchorRelease l.line r 0 home r)
  | _ => sendMsg s { newMsg .anchorRelease l.line r 0 home r with data := some l.data, poison := l.poison }

/-- A cluster cache gives up a line (03 R62). -/
def dropLine (s : State) (k : Nat) (l : CLine) : State := giveUp s k k l

/-- The victim of a full set of a cluster cache (04 R94): lowest protection, then least recent. -/
def victim (s : State) (k line : Nat) : Option CLine :=
  let set := (clusterOf s k).cache.filter (fun l => l.line % 2048 = line % 2048 && !lineBusy s k l.line)
  set.reverse.foldl (fun v l => match v with
    | none => some l
    | some w => if l.prot < w.prot then some l else some w) none

/-- A fill of a line finds room: a free way or a victim. -/
def roomFor (s : State) (k line : Nat) : Bool :=
  (cacheLine s k line).isSome || ((clusterOf s k).cache.filter (fun l => l.line % 2048 = line % 2048)).length < 16 ||
    (victim s k line).isSome

/-- Fills a line in a cluster cache (04 R88, R90, R93): a full set gives up its victim under 03 R62. -/
def fillLine (s : State) (k : Nat) (l : CLine) (evp : Nat) : State :=
  let s := if (cacheLine s k l.line).isSome ∨ ((clusterOf s k).cache.filter (fun x => x.line % 2048 = l.line % 2048)).length < 16 then s
    else match victim s k l.line with
      | some v => dropLine s k v
      | none => s
  let c := clusterOf s k
  let rest := c.cache.filter (fun x => x.line ≠ l.line)
  let l := { l with renewed := s.ticks }
  let s := setCluster s k { c with cache := if evp = 4 ∨ evp = 6 then rest ++ [l] else l :: rest }
  touchLine s k l.line evp

/-- L1 of a core after a load of a line (04 R89, R93): 8 ways of 128 sets, most recent first. -/
def touchL1 (s : State) (core line evp : Nat) : State :=
  let k := coreOf s core
  let hit := k.l1.contains line
  let rest := k.l1.filter (· ≠ line)
  if evp = 7 then setCore s core { k with l1 := rest }
  else if evp = 5 ∨ evp = 6 ∨ (evp = 4 ∧ hit) then s
  else
    let set := rest.filter (fun x => x % 128 = line % 128)
    let rest := if set.length < 8 then rest else
      match set.getLast? with
      | some v => rest.filter (· ≠ v)
      | none => rest
    setCore s core { k with l1 := if evp = 4 then rest ++ [line] else line :: rest }

/-- Removes a line from the L1s of a cluster but that of one core (04 R89). -/
def dropL1 (s : State) (k line : Nat) (except : Option Nat) : State :=
  { s with cores := s.cores.map (fun c =>
      if c.1 / 4 = k ∧ some c.1 ≠ except then (c.1, { c.2 with l1 := c.2.l1.filter (· ≠ line) }) else c) }

end Sys2Proof.Machine
end

