-- ==== Sys2Proof/Machine/Window.lean ====
section
/-!
DEFINITION. Writes of on-chip storage: scratchpad and accumulator memory with their poison (04 R95 to R107), the undefined
windows of the matrix array and of the copy engines, in the cores and in memory (08 R197, 05 R125), the on-chip windows of
the cores (04 R101 to R105), and their core-control region (17 R419, R420).
-/
namespace Sys2Proof.Machine

/-- Bytes as the matrix array reads them. -/
def chipRaw (s : State) (c : Nat) (acc : Bool) (o n : Nat) : List Byte :=
  let k := coreOf s c
  (List.range n).map (fun i => chipByte k acc (o + i))

/-- Stores bytes: words written whole are clear of poison (04 R107). -/
def chipPut (s : State) (c : Nat) (acc : Bool) (o : Nat) (bs : List Byte) : State :=
  let k := coreOf s c
  let put (t : Tab Byte) : Tab Byte := (bs.zipIdx).foldl (fun t p => tset 0 t (o + p.2) p.1) t
  setCore s c (if acc then { k with acc := put k.acc, accPoison := clearWhole k.accPoison o bs.length }
               else { k with scr := put k.scr, scrPoison := clearWhole k.scrPoison o bs.length })

/-- Marks the words of a range poisoned or clear. -/
def chipMark (s : State) (c : Nat) (acc : Bool) (o n : Nat) (v : Bool) : State :=
  let k := coreOf s c
  let put (t : Tab Bool) : Tab Bool := (wordsOf o n).foldl (fun t w => tset false t w v) t
  setCore s c (if acc then { k with accPoison := put k.accPoison } else { k with scrPoison := put k.scrPoison })

/-- The operations whose undefined bytes a range meets. -/
def spoiledOps (k : Core) (acc : Bool) (o n : Nat) : List Nat :=
  (k.windows.filter (fun w => w.at' == .own && w.acc == acc && decide (w.lo < o + n) && decide (o < w.hi))).map (·.op)

/-- Leaves an operation's tile undefined (08 R197): it is free now, and again when a pass still to run writes it. -/
def spoilOp (s : State) (c op : Nat) : State :=
  let k := coreOf s c
  let s := setCore s c { k with queue := k.queue.map (fun q => if q.id = op then { q with spoiled := true } else q) }
  let u := clusterOf s (c / 4)
  let s := if u.rounds.any (fun r => r.parts.any (fun p => p.op == op)) then
      setCluster s (c / 4) { u with rounds := u.rounds.map (fun r => { r with parts := r.parts.map (fun p =>
        if p.op = op then { p with spoiled := true } else p) }) }
    else s
  let ws := k.windows.filter (fun w => w.at' == .own && w.acc && w.op == op)
  ws.foldl (fun s w => chipPut s c true w.lo (freeBytes s (c * 2 ^ 20 + w.lo) (w.hi - w.lo))) { s with free := s.free + 1 }

/-- A store by a lane, a copy or a window: where it meets undefined bytes, they and the tile are undefined. -/
def chipWrite (s : State) (c : Nat) (acc : Bool) (o : Nat) (bs : List Byte) : State :=
  match spoiledOps (coreOf s c) acc o bs.length with
  | [] => chipPut s c acc o bs
  | ops =>
    let k := coreOf s c
    let bs' := (bs.zipIdx).map (fun p => if undefAt k acc (o + p.2) then Config.freeByte (s.free * 2 ^ 64 + (2 * c + b2n acc) * 2 ^ 19 + o + p.2) else p.1)
    chipPut (ops.foldl (fun s q => spoilOp s c q) s) c acc o bs'

/-- The windows of any core at a place that a range meets, with the core that has them. -/
def winsAt (s : State) (p : Window → Bool) (lo n : Nat) : List (Nat × Window) :=
  (s.cores.map (fun c => (c.2.windows.filter (fun w => p w && decide (w.lo < lo + n) && decide (lo < w.hi))).map (fun w => (c.1, w)))).flatten

/-- The windows that bytes of memory meet, by storage address. -/
def memWins (s : State) (a n : Nat) : List (Nat × Window) := winsAt s (fun w => w.at' == .mem) a n

/-- Notes that a store has reached a copy's window (05 R125). -/
def noteHit (s : State) (w : Nat × Window) (lo hi : Nat) : State :=
  let k := coreOf s w.1
  setCore s w.1 { k with windows := k.windows.map (fun v =>
    if v.op = w.2.op ∧ v.at' = w.2.at' ∧ v.lo = w.2.lo then { v with hits := v.hits ++ [(lo, hi)] } else v) }

/-- The bytes of a range are no longer as a copy has laid them out (08 R189). -/
def dropDests (s : State) (c lo n : Nat) : State :=
  let k := coreOf s c
  if k.dests.all (fun t => decide (lo + n ≤ t.1) || decide (t.2 ≤ lo)) then s
  else setCore s c { k with dests := k.dests.filter (fun t => decide (lo + n ≤ t.1) || decide (t.2 ≤ lo)) }

/-- A store of a lane, or through a window. Where it meets bytes of a copy, they are undefined (05 R125). -/
def chipStore (s : State) (c : Nat) (acc : Bool) (o : Nat) (bs : List Byte) : State :=
  let t := if acc then chipWrite s c acc o bs else dropDests (chipWrite s c acc o bs) c o bs.length
  match winsAt t (fun w => w.at' == .chip c && w.acc == acc) o bs.length with
  | [] => t
  | ws => ws.foldl (fun t w =>
      let lo := max o w.2.lo
      let hi := min (o + bs.length) w.2.hi
      chipPut (noteHit t w lo hi) c acc lo (freeBytes t ((2 * c + b2n acc) * 2 ^ 19 + lo) (hi - lo))) { t with free := t.free + 1 }

/-- Bytes of memory as an access other than those of a pass reads them: free where a quarter operation holds them (08 R197). -/
def seenMem (s : State) (a : Nat) (bs : List Byte) : List Byte :=
  let bs := seenMixed s a bs
  match (memWins s a bs.length).filter (fun w => !w.2.wr) with
  | [] => bs
  | ws => (bs.zipIdx).map (fun p =>
      if ws.any (fun w => decide (w.2.lo ≤ a + p.2) && decide (a + p.2 < w.2.hi)) then Config.freeByte (s.free * 2 ^ 64 + a + p.2) else p.1)

/-- A write of memory that reaches the tensor-id table of a context with work resident leaves the descriptor undefined (05 R108). -/
def noteTable (s : State) (a n : Nat) : State :=
  let hit (c : Nat × Ctx) : List Nat :=
    if a < c.2.table + 2 ^ 18 ∧ c.2.table < a + n ∧ s.cores.any (fun k => k.2.sheets.any (fun h => h.2.ctx == c.1)) then
      (List.range 1024).filter (fun i => decide (a < c.2.table + 256 * i + 256) && decide (c.2.table + 256 * i < a + n) && !c.2.undef.contains i)
    else []
  if s.ctxs.all (fun c => (hit c).isEmpty) then s
  else { s with ctxs := s.ctxs.map (fun c => (c.1, { c.2 with undef := c.2.undef ++ hit c })) }

/-- After a write of `n` bytes of memory at a storage address: where they meet words that a quarter operation holds, they and
its tile are undefined (08 R197); where a store meets bytes of a copy, they are (05 R125). -/
def spoilMem (s : State) (a n : Nat) (store : Bool) : State :=
  let s := noteTable s a n
  match (memWins s a n).filter (fun w => store || !w.2.wr) with
  | [] => s
  | ws => ws.foldl (fun s w =>
      let lo := max a w.2.lo
      let hi := min (a + n) w.2.hi
      let t := if w.2.wr then noteHit s w lo hi else spoilOp s w.1 w.2.op
      coherentWrite t lo (freeBytes t lo (hi - lo))) { s with free := s.free + 1 }

/-- Replaces a 32-bit word of a 64-bit value. -/
def putHalf (v : DWord) (hi : Bool) (w : Word) : DWord :=
  if hi then (v &&& 0xFFFFFFFF) ||| (w.setWidth 64 <<< 32) else (v &&& 0xFFFFFFFF00000000) ||| w.setWidth 64

/-- Writes half of a word of a fault record: the rw bits of RSTAT, and the words whose access the table does not limit (log
entry 18). -/
def putRecWord (r : FaultRec) (o : Nat) (hi : Bool) (w : Word) : FaultRec :=
  let v := putHalf (recWord r o) hi w
  if o = 0 then (if hi then { r with kleaf := w.getLsbD 30, klaunch := w.getLsbD 29 } else r)
  else if o = 8 then { r with pc := v }
  else if o = 0x10 then
    { r with v2 := v.getLsbD 63, cause2 := fld v 55 51, status2 := fld v 47 32, lmask := v.setWidth 32 }
  else if o = 0x18 then { r with replay := v.setWidth 32 }
  else if 0x40 ≤ o ∧ o < 0x80 then { r with bank := tset 0 r.bank ((o - 0x40) / 8) v }
  else if 0x80 ≤ o then { r with addr := tset 0 r.addr ((o - 0x80) / 8) v }
  else r

/-- Writes a 32-bit word of a sheet's state (17 R420). -/
def putSheetWord (h : Sheet) (o : Nat) (w : Word) : Sheet :=
  if o < 0x80 then { h with gen := tset 0 h.gen (o / 4) w }
  else if o < 0x1C0 then
    let i := (o - 0x80) / 20
    let m := tget {} h.slots i
    let m' := match (o - 0x80) % 20 / 4 with
      | 0 => { m with handle := w } | 1 => { m with member := w } | 2 => { m with joining := w }
      | 3 => { m with arrived := w } | _ => { m with owed := w }
    { h with slots := tset {} h.slots i m' }
  else if o < 0x2D0 then
    let i := (o - 0x1C0) / 16
    let e := tget {} h.list i
    let e' := match (o - 0x1C0) % 16 / 4 with
      | 0 => { e with pc := putHalf e.pc false w } | 1 => { e with pc := putHalf e.pc true w }
      | 2 => { e with mask := w } | _ => { e with kind := w.toNat % 256 }
    { h with list := tset {} h.list i e' }
  else if o = 0x2D0 then { h with resumew := putHalf h.resumew false w }
  else if o = 0x2D4 then { h with resumew := putHalf h.resumew true w }
  else h

/-- Writes a 32-bit word of the core-control region. -/
def putCtlWord (s : State) (c o : Nat) (w : Word) : State :=
  let k := coreOf s c
  let bank (b : Tab (BitVec 16)) (i : Nat) : Tab (BitVec 16) := tset 0 (tset 0 b i (w.setWidth 16)) (i + 1) ((w >>> 16).setWidth 16)
  if o < 0x6000 then
    setCore s c { k with recs := tset {} k.recs (o / 384) (putRecWord (tget {} k.recs (o / 384)) (o % 384 / 8 * 8) (o / 4 % 2 == 1) w) }
  else if o < 0xF000 then modSheet s c ((o - 0x6000) / 768) (fun h => putSheetWord h ((o - 0x6000) % 768) w)
  else if o < 0xF200 then setCore s c { k with bank0 := bank k.bank0 ((o - 0xF000) / 2) }
  else if o < 0xF400 then setCore s c { k with bank1 := bank k.bank1 ((o - 0xF200) / 2) }
  else if o = 0xF400 then setCore s c { k with bankSel := w.getLsbD 0 }
  else if o = 0xF408 then setCore s c { k with cecnt := k.cecnt &&& ~~~w }
  else s

/-- A write of registers through a window (04 R102). A store that reaches bytes of a copy leaves them undefined (05 R125). -/
def windowRegs (s : State) (c off : Nat) (words : List Word) (store : Bool) : State :=
  let g := off / 128
  let l0 := off % 128 / 4
  if !regHeld s c g then s
  else
    let put (s : State) (ws : List Word) : State :=
      putPhys s c g (maskOf (fun l => decide (l0 ≤ l) && decide (l < l0 + ws.length))) (fun l => ws[l - l0]?.getD 0)
    let t := put s words
    match if store then winsAt t (fun w => w.at' == .regs c) off (4 * words.length) else [] with
    | [] => t
    | ws =>
      let t := ws.foldl (fun t w => noteHit t w (max off w.2.lo) (min (off + 4 * words.length) w.2.hi)) t
      put { t with free := t.free + 1 } ((List.range words.length).map (fun i => Config.freeWord (t.free * 2 ^ 64 + c * 2 ^ 19 + off + 4 * i)))

/-- The whole words of bytes. -/
def wordList (bs : List Byte) : List Word := (List.range (bs.length / 4)).map (fun i => BitVec.ofNat 32 (leBytes ((bs.drop (4 * i)).take 4)))

/-- A write of a window, by a store of a lane or from outside. -/
def windowWrite (s : State) (c off : Nat) (bs : List Byte) : State :=
  if off < 0x80000 then windowRegs s c off (wordList bs) true
  else if off < 0x120000 then
    let acc := decide (0x100000 ≤ off)
    chipStore s c acc (if acc then off - 0x100000 else off - 0x80000) bs
  else ((wordList bs).zipIdx).foldl (fun s p => putCtlWord s c (off - 0x120000 + 4 * p.2) p.1) s

end Sys2Proof.Machine
end

