-- ==== Sys2Proof/Machine/Access.lean ====
section
/-!
DEFINITION. Accesses of lanes (12 R298 to R307): widths, the operations of atomics, what an access does where it
performs, its result and its late fault (02 R36 steps 4 to 6).
-/
namespace Sys2Proof.Machine

/-- Bytes of a width code (10 R244). -/
def widBytes (w : BitVec 3) : Nat := 2 ^ w.toNat

/-- A value of `n` bytes as the 32-bit words that a register group receives, extended by class (12 R298, R304). -/
def extendWords (cls : BitVec 3) (n v : Nat) : List Nat :=
  if n < 4 then [if cls = 1 then wrapZ 32 (sgnN (8 * n) v) else v % 2 ^ (8 * n)]
  else (List.range (n / 4)).map (fun i => v / 2 ^ (32 * i) % 2 ^ 32)

/-- The float format of an atomic (12 R303). -/
def atomFmt (bytes : Nat) (subop : BitVec 7) : Fmt :=
  if bytes = 4 then .f32 else if subop.getLsbD 4 then .bf16 else .f16

/-- The ADD, MIN and MAX of 03 R74 in a float format. -/
def floatFold (f : Fmt) (op a b : Nat) : Nat :=
  let x := decodeF f a
  let y := decodeF f b
  if op = 0 then (deliver f .rne false (addF .rne x y)).code
  else if isNaN x || isNaN y then canonNaN f
  else if op = 1 then (if ltZ y x then b else a)
  else (if ltZ x y then b else a)

/-- The new value at the location (12 R303): operation, class, bytes, old value, d or n, and c. -/
def atomApply (subop : BitVec 7) (cls : BitVec 3) (bytes old d c : Nat) : Nat :=
  let w := 8 * bytes
  let d := d % 2 ^ w
  let sgn := cls == 1
  let lt (a b : Nat) : Bool := asInt w sgn a < asInt w sgn b
  match subop.toNat % 16 with
  | 0 => (old + d) % 2 ^ w
  | 1 => if lt d old then d else old
  | 2 => if lt old d then d else old
  | 3 => old &&& d
  | 4 => old ||| d
  | 5 => old ^^^ d
  | 6 => d
  | 7 => if old = c % 2 ^ w then d else old
  | 8 => floatFold (atomFmt bytes subop) 0 old d
  | 9 => floatFold (atomFmt bytes subop) 1 old d
  | _ => floatFold (atomFmt bytes subop) 2 old d

/-- The write of an atomic takes place: a `.cas` that fails writes nothing (12 R305). -/
def atomWrites (subop : BitVec 7) (bytes old c : Nat) : Bool := subop.toNat % 16 != 7 || old == c % 2 ^ (8 * bytes)

/-- An access outstanding. -/
def accOf (s : State) (id : Nat) : Option Acc := s.accs.find? (fun a => a.id = id)
/-- Removes an access. -/
def dropAcc (s : State) (id : Nat) : State := { s with accs := s.accs.filter (fun a => a.id ≠ id) }
/-- Changes an access. -/
def modAcc (s : State) (id : Nat) (f : Acc → Acc) : State :=
  { s with accs := s.accs.map (fun a => if a.id = id then f a else a) }

/-- Writes the words of a result that no later write has taken over (10 R239), in the lane's registers. -/
def writeWords (s : State) (a : Acc) (ws : List Nat) : State :=
  match sheetOf s a.core a.slot with
  | none => s
  | some h =>
    (ws.zipIdx).foldl (fun s p =>
      if a.live.getLsbD p.2 then
        putPhys s a.core (h.base + a.dst.toNat + p.2) (BitVec.ofNat 32 (2 ^ a.lane)) (fun _ => BitVec.ofNat 32 p.1)
      else s) s

/-- Combines the record of a parked leaf with a further lane's fault (02 R38). -/
def joinRec (r : FaultRec) (f : LaneFault) (m : Mask) : FaultRec :=
  let old : LaneFault := { lane := 0, cause := r.cause, status := r.status, addr := 0 }
  let bit : Mask := BitVec.ofNat 32 (2 ^ f.lane)
  let r := { r with lmask := m, addr := tset 0 r.addr f.lane (BitVec.ofNat 64 f.addr) }
  if ranksAbove f old then { r with cause := f.cause, status := f.status, lanes := bit }
  else if f.cause = r.cause ∧ f.status = r.status then { r with lanes := r.lanes ||| bit }
  else r

/-- The leaf that lanes of one issue of an instruction have parked in, not yet vectored. -/
def parkedAt (s : State) (c slot issue : Nat) : Option (Nat × Leaf) :=
  (coreOf s c).leaves.find? (fun p => p.2.slot = slot ∧ p.2.st = .parked ∧ p.2.issue = issue)

/-- A lane joins the parked leaf of its instruction. -/
def joinParked (s : State) (c e : Nat) (l : Leaf) (n : Nat) (p : Leaf) (f : LaneFault) : State :=
  let bit : Mask := BitVec.ofNat 32 (2 ^ f.lane)
  let k := coreOf s c
  let m := p.mask ||| bit
  let s := setCore s c { k with recs := tput k.recs n (joinRec (tget {} k.recs n) f m),
                                leaves := tput k.leaves n { p with mask := m } }
  let left := l.mask &&& ~~~bit
  if left = 0 then freeLeaf s c e else setMask s c e left

/-- Parks lanes of a sheet whose accesses, of one issue, faulted late at `pc` (02 R38): by leaf, or with the leaf in which lanes of
that issue are parked already. -/
def parkLate (s : State) (c slot issue : Nat) (pc : DWord) (fs : List LaneFault) : State :=
  let es := (coreOf s c).leaves.filter (fun p => p.2.slot = slot ∧ fs.any (fun f => p.2.mask.has f.lane))
  es.foldl (fun s p =>
    let mine := fs.filter (fun f => p.2.mask.has f.lane)
    match parkedAt s c slot issue with
    | some _ =>
      mine.foldl (fun s f => match parkedAt s c slot issue, leafOfLane s c slot f.lane with
        | some (n, q), some (e, l) => if e = n then s else joinParked s c e l n q f
        | _, _ => s) s
    | none =>
      match leafOfLane s c slot ((mine.head?.map (·.lane)).getD 0) with
      | some (e, _) => match parkLanes s c e pc mine (some issue) with
          | .some' t => t
          | .all t => t
      | none => s) s

/-- The leaf needs a line that it has not fetched (10 R232). -/
def needsFetch (l : Leaf) : Bool :=
  match l.line with
  | some f => f.va != l.pc.toNat / 64 * 64
  | none => true

/-- A fault of the fetch parks the whole leaf (02 R39). -/
def fetchFault (s : State) (c e : Nat) (l : Leaf) (cause status : Nat) : State :=
  match parkLanes s c e l.pc ((laneList l.mask).map (fun i => { lane := i, cause := cause, status := status, addr := l.pc.toNat })) none with
  | .all t => t
  | .some' t => t

/-- A fetched line is in the instruction cache (04 R88, R92): 4 ways of 256 sets, most recent first. R94 gives the victim of the
cluster cache and of L1 and none for this cache: the least recent of the four ways (DESIGN CHOICE, log entry 86). -/
def touchIcache (s : State) (c line : Nat) : State :=
  let k := coreOf s c
  let rest := k.icache.filter (· ≠ line)
  let set := rest.filter (fun i => i % 256 = line % 256)
  let rest := if set.length < 4 then rest else match set.getLast? with | some v => rest.filter (· ≠ v) | none => rest
  setCore s c { k with icache := line :: rest }

/-- What a fetched line gives a leaf (10 R232, R233): its own fault, or the line at hand with the TGT check left to it made. -/
def checkFetched (s : State) (c e : Nat) (l : Leaf) (bs : List Byte) : State :=
  let rec' (cause status : Nat) : FaultRec := { cause := cause, status := status, lanes := l.mask, pc := l.pc }
  if !lineParity bs then trapRec s c e (rec' cFetchParity 1)
  else if lineReserved bs then trapRec s c e (rec' cFetchParity 2)
  else if !pcForm l.pc then trapRec s c e (rec' cControl ctlPcForm)
  else if l.checkTgt && !lineTarget bs (l.pc.toNat % 64 / 12) then trapRec s c e (rec' cControl ctlTarget)
  else setLeaf s c e { l with line := some { va := l.pc.toNat / 64 * 64, bytes := bs }, checkTgt := false }

/-- The leaf that waits for an access of a fetch. -/
def fetcher (s : State) (a : Acc) : Option (Nat × Leaf) :=
  match leafOfLane s a.core a.slot a.lane with
  | some (e, l) => if l.st = .blocked (.results [a.id]) ∧ needsFetch l = true ∧ l.pc.toNat / 64 * 64 = a.va.toNat then some (e, l) else none
  | none => none

/-- The bytes of a fetch reach its leaf (04 R92). -/
def takeFetch (s : State) (a : Acc) (bs : List Byte) : State :=
  match fetcher s a with
  | some (e, l) => checkFetched (touchIcache s a.core (a.pa / 64)) a.core e l bs
  | none => s

/-- The younger accesses of a lane, made afresh when it replays (log entry 17). -/
def dropYounger (s : State) (c slot lane id : Nat) : State :=
  { s with accs := s.accs.filter (fun a => !(a.core = c ∧ a.slot = slot ∧ a.lane = lane ∧ id < a.id)) }

/-- Accesses end in faults found while they were made: they are dropped, and their lanes park at their instructions; a fetch parks
its leaf, and an access that is no program's own has no fault. -/
def faultAccs (s : State) (fs : List (Acc × Nat × Nat)) : State :=
  let fetches := (fs.filter (fun f => f.1.kind == .fetch)).filterMap (fun f => (fetcher s f.1).map (fun p => (f, p)))
  let s := fs.foldl (fun s f => if isHint f.1 then dropAcc s f.1.id else dropYounger (dropAcc s f.1.id) f.1.core f.1.slot f.1.lane f.1.id) s
  let s := fetches.foldl (fun s p => fetchFault s p.1.1.core p.2.1 p.2.2 p.1.2.1 p.1.2.2) s
  let keys := fs.foldl (fun ks f =>
    let k := (f.1.core, f.1.slot, f.1.issue, f.1.pc)
    if ks.contains k then ks else ks ++ [k]) []
  keys.foldl (fun s k =>
    let mine := fs.filter (fun f => f.1.core = k.1 ∧ f.1.slot = k.2.1 ∧ f.1.issue = k.2.2.1 ∧ f.1.pc = k.2.2.2 ∧ !isHint f.1)
    parkLate s k.1 k.2.1 k.2.2.1 k.2.2.2
      (mine.map (fun f => { lane := f.1.lane, cause := f.2.1, status := f.2.2, addr := f.1.va.toNat }))) s

/-- The words of a range are poisoned in a line's marks. -/
def linePoison (pz : BitVec 16) (off n : Nat) : Bool := (wordsOf off n).any (fun w => pz.getLsbD w)

/-- The marks after a store of `n` bytes at `off`: words written whole are clear (04 R107). -/
def clearMarks (pz : BitVec 16) (off n : Nat) : BitVec 16 :=
  (wordsOf off n).foldl (fun p w => if off ≤ 8 * w ∧ 8 * w + 8 ≤ off + n then p &&& ~~~((1 : BitVec 16) <<< w) else p) pz

/-- Replaces bytes of a line. -/
def putAt (bs : List Byte) (off : Nat) (v : List Byte) : List Byte := bs.take off ++ v ++ bs.drop (off + v.length)

/-- The outcome of an access where it performs: its new bytes, if it writes, and its result words; none where it
reads a poisoned word (04 R107). -/
def accEffect (a : Acc) (old : List Byte) (poisoned : Bool) : Option (Option (List Byte) × List Nat) :=
  let v := leBytes old
  match a.kind with
  | .store => some (some (toBytes a.bytes a.d), [])
  | .load => if poisoned then none else some (none, extendWords a.cls a.bytes v)
  | .atom =>
    if poisoned then none
    else some (if atomWrites a.subop a.bytes v a.c then some (toBytes a.bytes (atomApply a.subop a.cls a.bytes v a.d a.c)) else none,
               extendWords a.cls a.bytes v)
  | .red =>
    if poisoned then none else some (some (toBytes a.bytes (atomApply a.subop a.cls a.bytes v a.d a.c)), [])
  | .fetch => if poisoned then none else some (none, [])
  | _ => some (none, [])

/-- The context of an access. -/
def accCtx (s : State) (a : Acc) : Nat := ((sheetOf s a.core a.slot).map (·.ctx)).getD 0

/-- The windows that the bytes of an access meet. -/
def accWins (s : State) (a : Acc) : List (Nat × Window) := memWins s a.pa a.bytes

/-- The bytes of memory that an access sees. -/
def accSeen (s : State) (a : Acc) (bs : List Byte) : List Byte := seenMem s a.pa bs

/-- After a write of an access (08 R197, 05 R125). -/
def accSpoil (s : State) (a : Acc) : State := spoilMem s a.pa a.bytes true

/-- The access writes. -/
def accWrites (a : Acc) : Bool := a.kind == .store || a.kind == .atom || a.kind == .red

/-- The access's page is commutative. -/
def accComm (a : Acc) : Bool := pteCfmt a.pte != 0

/-- A held line serves an access (03 R51, R61, R73): a load any valid copy, a write M or E, a commutative
reduction C. -/
def lineServes (l : CLine) (a : Acc) : Bool :=
  if accComm a && (a.kind == .red) then l.st == .c
  else if accWrites a || a.kind == .prefW || a.kind == .engW then l.st == .m || l.st == .e
  else l.st == .m || l.st == .o || l.st == .e || l.st == .s

/-- Performs an access in its cluster's cache, which holds the line so that it serves: the state after, or the
access's fault POISON. -/
def performHere (s : State) (a : Acc) : Except (Nat × Nat) State :=
  let k := a.core / 4
  let line := lineOf a.pa
  let off := a.pa % 128
  match cacheLine s k line with
  | none => .ok s
  | some l =>
    if regionFlagged s a.pa && !isHint a then .error (cStale, 1)
    else if accComm a && a.kind == .red then
      let w := elemBytes (pteCfmt a.pte)
      let i := off / w
      let old := leBytes ((l.data.drop off).take w)
      let ops := ((accWins s a).filter (fun w => !w.2.wr)).map (fun w => (w.1, w.2.op))
      let s := ops.foldl (fun s o => spoilOp s o.1 o.2) s
      let v := if !ops.isEmpty then leBytes (freeBytes s a.pa w)
        else if bitN l.has i then foldElem (pteCfmt a.pte) (pteCop a.pte) old a.d else a.d % 2 ^ (8 * w)
      let has := if bitN l.has i then l.has else l.has + 2 ^ i
      .ok (touchLine (modLine s k line (fun l => { l with data := putAt l.data off (toBytes w v), has := has })) k line
        (if a.evp = 5 ∨ a.evp = 6 then 0 else a.evp.toNat))
    else
      match accEffect a (accSeen s a ((l.data.drop off).take a.bytes)) (linePoison l.poison off a.bytes) with
      | none => .error (cPoison, 1)
      | some (w, r) =>
        let atomic := a.kind == .atom || a.kind == .red
        let s := match w with
          | some bs => modLine s k line (fun l => { l with data := putAt l.data off bs, st := .m,
                                                           poison := clearMarks l.poison off bs.length })
          | none => if a.kind == .prefW || atomic then modLine s k line (fun l => { l with st := .m }) else s
        let s := if atomic then dropL1 s k line none
          else if a.kind == .store then
            let s := dropL1 s k line (some a.core)
            if (coreOf s a.core).l1.contains line then touchL1 s a.core line a.evp.toNat else s
          else if a.kind == .engR || a.kind == .engW || a.kind == .fetch then s
          else touchL1 s a.core line a.evp.toNat
        let evp := if atomic ∧ (a.evp = 5 ∨ a.evp = 6) then 0 else if a.kind == .store ∧ a.evp = 6 then 4 else a.evp.toNat
        let s := touchLine s k line evp
        let s := if a.kind == .fetch then takeFetch s a (seenMem s a.pa ((l.data.drop off).take a.bytes)) else s
        .ok (writeWords (if w.isSome then accSpoil s a else s) a r)

/-- Performs an access on memory at its home (04 R91, 12 R306), or its fault POISON. -/
def performHome (s : State) (a : Acc) : Except (Nat × Nat) State :=
  if regionFlagged s a.pa && !isHint a then .error (cStale, 1)
  else match accEffect a (accSeen s a (memBytes s a.pa a.bytes)) (memPoison s a.pa a.bytes) with
  | none => .error (cPoison, 1)
  | some (w, r) =>
    let s := if a.kind == .fetch then takeFetch s a (accSeen s a (memBytes s a.pa a.bytes)) else s
    .ok (writeWords (match w with | some bs => accSpoil (storeMem s a.pa bs) a | none => s) a r)

/-- An instance of a scope holds both lanes (09 R206, R207): each by its core, slot and lane. -/
def covers (scope : Nat) (a b : Nat × Nat × Nat) : Bool :=
  match scope with
  | 0 => a == b
  | 1 => a.1 == b.1 && a.2.1 == b.2.1
  | 2 => a.1 == b.1
  | 3 => a.1 / 4 == b.1 / 4
  | 4 => dieOfCore a.1 == dieOfCore b.1
  | _ => true

/-- The release does not keep a reader waiting: it reads other bytes, a scope does not cover both lanes, or every store that the release
is ordered after has performed (09 R213). A relaxed load waits where the release's scope covers it, because a fence may follow (R217). -/
def owedPasses (s : State) (a : Acc) (o : Owed) : Bool :=
  decide (a.pa + a.bytes ≤ o.pa) || decide (o.pa + o.bytes ≤ a.pa) ||
  !covers o.scope.toNat (o.core, o.slot, o.lane) (a.core, a.slot, a.lane) ||
  (a.ord != 0 && !covers a.scope.toNat (o.core, o.slot, o.lane) (a.core, a.slot, a.lane)) || !idsLeft s o.ids

/-- Nothing keeps the access from reading: no release that it would read and that covers it has a store to wait for
(log entry 94). -/
def mayRead (s : State) (a : Acc) : Bool := (a.kind != .load && a.kind != .atom) || s.owed.all (owedPasses s a)

/-- A store still outstanding stands in the way of an acquire fence (09 R217). -/
def owedLeft (s : State) : Bool := s.owed.any (fun o => idsLeft s o.ids)

/-- An access has performed; of a release, the stores that its readers must wait for are kept. -/
def performed (s : State) (a : Acc) : State :=
  let s := dropAcc s a.id
  if idsLeft s a.soft then
    { s with owed := s.owed.filter (fun o => idsLeft s o.ids) ++
        [{ pa := a.pa, bytes := a.bytes, core := a.core, slot := a.slot, lane := a.lane, scope := a.scope, ids := a.soft }] }
  else s

/-- An access that was sent cannot read yet: it is made again. -/
def unsent (s : State) (id : Nat) : State := modAcc s id (fun a => { a with sent := false, msg := 0 })

/-- Ends accesses that have performed or faulted together. -/
def performAll (s : State) (as : List Acc) (f : State → Acc → Except (Nat × Nat) State) : State :=
  let r := as.foldl (fun (r : State × List (Acc × Nat × Nat)) a =>
    if !mayRead r.1 a then (unsent r.1 a.id, r.2)
    else match f r.1 a with
      | .ok t => (performed t a, r.2)
      | .error e => (r.1, r.2 ++ [(a, e.1, e.2)])) (s, [])
  if r.2.isEmpty then r.1 else faultAccs r.1 r.2

/-- Every access that must perform first has done so (09 R208, R212): of the stores that a release need not wait for, each can perform. -/
def depsDone (s : State) (a : Acc) : Bool :=
  !idsLeft s a.deps && mayRead s a && s.accs.all (fun b => !a.soft.contains b.id || !idsLeft s b.deps)

/-- An access to host memory performs as an atomic of the host router (02 R42). -/
def hostAtomic (s : State) (a : Acc) : Bool :=
  (a.kind == .atom || a.kind == .red) && (match placeOf s a.pa with | .host _ => true | _ => false)

end Sys2Proof.Machine
end

