-- ==== Sys2Proof/Machine/Coherence.lean ====
section
/-!
DEFINITION. Sewing trees at work (03 R55 to R81): each event moves one message of one line by one router, or lets the
home, a router or an agent act on it. The order of one link is that of `State.msgs`; homes take one transaction of
a line at a time (R49).
-/
namespace Sys2Proof.Machine

/-- The state of this device's copy of a peer's tile: 0 none, 1 S, 2 E, 3 M (03 R79). -/
def tileState (s : State) (tile : Nat) : Nat := tget 0 s.tiles tile

/-- Where `State.tiles` lists a tile of this device's HBM as granted to a device. -/
def grantKey (dev tile : Nat) : Nat := 2 ^ 64 + dev * 2 ^ 40 + tile

/-- The state in which a tile of this device's HBM stands granted to a device: 0 none, 1 S, 2 E, 3 M (03 R79). -/
def granted (s : State) (dev tile : Nat) : Nat := tget 0 s.tiles (grantKey dev tile)

/-- The tile granule of a line. -/
def tileOf (line : Nat) : Nat := line / 32

/-- A line of peer HBM: its home router is a fabric router in the home's role (03 R79). -/
def peerLine (s : State) (line : Nat) : Bool := 153 ≤ lineHome s line

/-- The home has what it needs from another device before it serves a line: the tile of a peer's line (03 R79). -/
def tileReady (s : State) (line : Nat) (write : Bool) : Bool :=
  let t := tileState s (tileOf line)
  !peerLine s line || (if write then 2 ≤ t else 1 ≤ t)

/-- A request about the line's tile is outstanding. -/
def tileAsked (s : State) (line : Nat) : Bool :=
  s.emsen.any (fun r => match r.use with | .tile l _ _ => tileOf l = tileOf line | _ => false)

/-- Asks the home device of a peer's line for its tile (03 R79, 19 R458). -/
def askTile (s : State) (line : Nat) (write : Bool) (src : Nat) : State :=
  if tileAsked s line || !peerLine s line then s
  else
    let r := fresh s
    let pa := 4096 * tileOf line
    let dl := emsenDeadline s
    let dev := match placeOf s pa with | .peer d _ => fld (rawReg s (.fpeer d)) 11 0 | _ => 0
    emit { r.2 with emsen := r.2.emsen ++ [{ id := r.1, dev := dev, deadline := dl, use := .tile line write src }] }
      (.request r.1 dev pa 4096 write [] dl)

/-- Accesses that a message was sent for. -/
def accsFor (s : State) (id : Nat) : List Acc := s.accs.filter (fun a => a.msg = id ∧ a.sent)

/-- The accesses of a message fault STALE-REVERTED: their region is flagged (03 R70). A tile that a peer has asked for is refused. -/
def staleMsg (s : State) (m : Msg) : State :=
  let mine (f : FabIn) : Bool := f.router == m.src && f.tile.isSome && tileOf f.line == tileOf m.line
  let t := (s.fabIn.filter mine).foldl (fun s f => emit s (.response f.dev false [])) (dropMsg s m.id)
  faultAccs { t with fabIn := t.fabIn.filter (fun f => !mine f) } ((accsFor s m.aux).map (fun a => (a, cStale, 1)))

/-- The region of a line is flagged (03 R70). -/
def lineFlagged (s : State) (line : Nat) : Bool := regionFlagged s (128 * line)

/-- Serves the accesses of a cluster that a held line now serves, in their order. -/
def serveLine (s : State) (k line : Nat) : State :=
  let as := s.accs.filter (fun a => a.core / 4 = k ∧ !a.uncached ∧ lineOf a.pa = line ∧ !hostAtomic s a)
  let r := as.foldl (fun (r : State × List (Acc × Nat × Nat)) a =>
    match cacheLine r.1 k line with
    | none => r
    | some l =>
      if !lineServes l a || !depsDone r.1 a then r
      else match performHere r.1 a with
        | .ok t => (performed t a, r.2)
        | .error e => (r.1, r.2 ++ [(a, e.1, e.2)])) (s, [])
  if r.2.isEmpty then r.1 else faultAccs r.1 r.2

/-- The end of a lease window that begins now. -/
def leaseEnd (s : State) : Nat := s.ticks + leaseTicks s

/-- The copies that a fabric router holds as agent for other devices, each in the cache numbered 200 + device, with the
router in `prot` (03 R79, 25 R468). -/
def fabCopies (s : State) (r line : Nat) : List (Nat × CLine) :=
  (holdersOf s line).filter (fun h => decide (200 ≤ h.1) && h.2.prot == r)

/-- The copy by which a router's local agent answers a read: its own, or one that it holds for another device. -/
def holderAt (s : State) (r line : Nat) : Option (Nat × CLine) :=
  match cacheLine s r line with
  | some l => some (r, l)
  | none => (fabCopies s r line).find? (fun h => h.2.st ≠ .c)

/-- The elements of a partial, with none where it holds no value (25 R468). -/
def elemsOf (cfmt : Nat) (v : PartialLine) : List (Option Word) :=
  let w := elemBytes cfmt
  (List.range (128 / w)).map (fun i => if bitN v.2 i then some (BitVec.ofNat 32 (leBytes ((v.1.drop (w * i)).take w))) else none)

/-- A partial from its elements. -/
def ofElems (cfmt : Nat) (es : List (Option Word)) : PartialLine :=
  let w := elemBytes cfmt
  let es := (es ++ List.replicate (128 / w) none).take (128 / w)
  ((es.map (fun e => toBytes w (e.getD 0).toNat)).flatten, (es.zipIdx.map (fun e => if e.1.isSome then 2 ^ e.2 else 0)).sum)

/-- A partial as bytes on a link: the line, then its markers. -/
def linkBytes (v : PartialLine) : List Byte := v.1 ++ toBytes 8 v.2

/-- The device that a peer's line belongs to. -/
def peerDev (s : State) (line : Nat) : Nat :=
  match placeOf s (128 * line) with
  | .peer d _ => fld (rawReg s (.fpeer d)) 11 0
  | _ => 0

/-- Sends a request about a line to a device, unless one of that use is outstanding. -/
def askLine (s : State) (dev : Nat) (use : EmsenUse) (m : Nat → Nat → EmsenOut) : State :=
  if s.emsen.any (fun r => r.use = use ∧ r.dev = dev) then s
  else
    let r := fresh s
    let dl := emsenDeadline s
    emit { r.2 with emsen := r.2.emsen ++ [{ id := r.1, dev := dev, deadline := dl, use := use }] } (m r.1 dl)

/-- The answer that a request about a line has had. -/
def lineReply (s : State) (use : EmsenUse) : Option (List Byte) := (s.emsen.find? (fun r => r.use = use)).bind (·.reply)
/-- Forgets the requests of a use. -/
def dropAsk (s : State) (use : EmsenUse) : State := { s with emsen := s.emsen.filter (fun r => r.use ≠ use) }

/-- A fold delivery crosses the link (25 R468). -/
def foldAcross (s : State) (line : Nat) (pte : DWord) (v : PartialLine) : State :=
  if v.2 = 0 then s else emit s (.fold (peerDev s line) (128 * line) (elemsOf (pteCfmt pte) v) (emsenDeadline s))

/-- Asks a device for a tile of this device's HBM back (03 R80); `r` is the fabric router that holds it. -/
def recallTile (s : State) (dev line r : Nat) : State :=
  askLine s dev (.tile (32 * tileOf line) true r) (fun _ _ => .tileInval dev (tileOf line))

/-- The devices to which a tile of this device's HBM stands granted. -/
def grantedTo (s : State) (tile : Nat) : List Nat :=
  s.tiles.filterMap (fun t => if 2 ^ 64 ≤ t.1 ∧ (t.1 - 2 ^ 64) % 2 ^ 40 = tile then some ((t.1 - 2 ^ 64) / 2 ^ 40) else none)

/-- The fabric router that holds a tile's lines for a device. -/
def fabOf (s : State) (dev tile : Nat) : Nat :=
  (((clusterOf s (200 + dev)).cache.find? (fun l => tileOf l.line == tile && l.st != .c)).map (·.prot)).getD 153

/-- Every device that holds a line's tile is asked for it (03 R80). -/
def recallLine (s : State) (line : Nat) : State :=
  (grantedTo s (tileOf line)).foldl (fun s d => recallTile s d line (fabOf s d (tileOf line))) s

/-- A request of an agent's router for a line is in flight. -/
def requested (s : State) (k line : Nat) : Bool :=
  s.msgs.any (fun m => m.src = k ∧ m.line = line ∧ (m.kind = .read ∨ m.kind = .readResp ∨ m.kind = .write ∨ m.kind = .grant ∨
    m.kind = .join ∨ m.kind = .joinResp ∨ m.kind = .commRead)) ||
  s.homeTx.any (fun t => t.line = line ∧ t.msg.src = k)

/-- An agent other than a cluster cache asks for a line, once. -/
def askFor (s : State) (r line : Nat) (write : Bool) : State :=
  if requested s r line then s
  else sendMsg (renewLine s r line) (newMsg (if write then .write else .read) line r 0 (lineHome s line) r)

/-- Puts a line in an agent's cache. -/
def putCopy (s : State) (k : Nat) (l : CLine) : State :=
  let c := clusterOf s k
  setCluster s k { c with cache := { l with renewed := s.ticks } :: c.cache.filter (fun x => x.line ≠ l.line) }

/-- A tile that a peer has asked for (03 R79): copies that other devices hold through the same router come back first where they
conflict; each line is obtained through the mesh; with all 32, in M for a write, the tile is granted, in E if all are in E. -/
def tileStep (s : State) (f : FabIn) : State :=
  let k := 200 + f.dev
  let w := f.tile.getD false
  let tile := tileOf f.line
  let lines := (List.range 32).map (32 * tile + ·)
  let have' (c : CLine) : Bool := if w then c.st == .m else c.st != .c
  let clash := (grantedTo s tile).filter (fun d => d != f.dev && fabOf s d tile == f.router && (w || granted s d tile != 1))
  match clash with
  | d :: _ => recallTile s d (32 * tile) f.router
  | [] =>
    let held := lines.filterMap (cacheLine s k)
    if held.length = 32 ∧ held.all have' then
      let st := if w then 3 else if held.all (fun c => c.st == .e) then 2 else 1
      emit { s with tiles := tset 0 s.tiles (grantKey f.dev tile) st, fabIn := s.fabIn.filter (· ≠ f) }
        (.tileGrant f.dev tile st (held.map (·.data)).flatten)
    else lines.foldl (fun s l =>
      match (cacheLine s k l).map have', if w then none else (fabCopies s f.router l).find? (fun h => h.2.st = .s) with
      | some true, _ => s
      | _, some h => putCopy s k h.2
      | _, none => askFor s f.router l w) s

/-- The first tile asked for through a fabric router, of each granule, is taken on. -/
def tileSteps (s : State) (r tile : Nat) : State :=
  match s.fabIn.find? (fun f => f.router = r ∧ f.tile.isSome ∧ tileOf f.line = tile) with
  | some f => tileStep s f
  | none => s

/-- A line reaches the host router or a fabric router: it answers the requests of peers that wait for it (25 R468; a join leaves the
router's agent in C), becomes part of a tile that one has asked for (03 R79), or is the router's own for an access from outside. -/
def agentTakes (s : State) (m : Msg) (st : Moesic) : State :=
  let r := m.src
  let l : CLine := { line := m.line, st := st, data := m.data.getD [], poison := m.poison, prot := r, pte := m.pte }
  let mine (f : FabIn) : Bool := f.router == r && f.tile.isNone && f.line == m.line && f.join == (m.kind == .joinResp)
  match s.fabIn.find? (fun f => f.router = r ∧ f.tile.isSome ∧ tileOf f.line = tileOf m.line) with
  | some f =>
    if (s.fabIn.any mine) || m.uncached then answers s m mine
    else tileStep (putCopy s (200 + f.dev) l) f
  | none => if (s.fabIn.any mine) || m.uncached || st = .c then answers s m mine else putCopy s r l
where
  /-- The answers to the requests about the line itself; a tile's line that came uncached is asked for again. -/
  answers (s : State) (m : Msg) (mine : FabIn → Bool) : State :=
    let s := (s.fabIn.filter mine).foldl (fun (s : State) f =>
      let s := if f.join then putCopy s (200 + f.dev)
          { line := m.line, st := .c, data := List.replicate 128 0, poison := 0, prot := m.src, pte := m.pte } else s
      emit s (.response f.dev true (if f.join then [] else m.data.getD []))) s
    tileSteps { s with fabIn := s.fabIn.filter (fun f => !mine f) } m.src (tileOf m.line)

/-- The local agent's partial, and the agent in I (03 R75); at a fabric router what it holds for other devices, each of
which is asked for the rest (25 R468). -/
def takePartial (s : State) (r line : Nat) : State × PartialLine × DWord :=
  if 153 ≤ r then
    ((fabCopies s r line).filter (fun h => h.2.st = .c)).foldl (fun (a : State × PartialLine × DWord) h =>
      let s := askLine (dropHeld a.1 h.1 line) (h.1 - 200) (.collect line r) (fun id d => .collect id (h.1 - 200) (128 * line) d)
      (s, foldLine (pteCfmt h.2.pte) (pteCop h.2.pte) a.2.1 (h.2.data, h.2.has), h.2.pte)) (s, noPartial, 0)
  else match cacheLine s r line with
  | some l => if l.st = .c then (dropHeld s r line, (l.data, l.has), l.pte) else (s, noPartial, 0)
  | none => (s, noPartial, 0)

/-- A way of a set that no stitch holds, where the router may have one more (03 R63). -/
def freeWayIn (s : State) (r set : Nat) : Option Nat :=
  let taken := (routerOf s r).stitches.filter (fun t => t.set == set)
  if fld (rawReg s (.sclim r)) 13 0 ≤ (routerOf s r).stitches.length then none
  else (List.range 8).find? (fun w => !taken.any (fun t => t.way = w))

/-- A way of the line's set that no stitch holds. -/
def freeWay (s : State) (r line : Nat) : Option Nat := freeWayIn s r (stitchSet line)

/-- The stitches among which room is made in a set (03 R63), most recently used first: the full set, else the cache. -/
def victims (s : State) (r set : Nat) : List Stitch :=
  let all := (routerOf s r).stitches
  let mine := all.filter (fun t => t.set == set)
  if 8 ≤ mine.length then mine else all

/-- Nothing is in flight for the lines of a tile, and no copy of one is asked back. -/
def tileQuiet (s : State) (tile : Nat) : Bool := (List.range 32).all (fun i => quiet s (32 * tile + i)) && !tileAsked s (32 * tile)

/-- The stitch that makes room in a set (03 R63): the least recently used without UNPK. A tile stitch can go while nothing is in
flight for its lines. -/
def stitchVictim (s : State) (r set : Nat) : Option Stitch :=
  ((victims s r set).filter (fun t => !t.unpk && (!t.tile || tileQuiet s (tileOf t.line)))).getLast?

/-- How a message names a stitch. -/
def stitchName (t : Stitch) : Nat := 2 * t.line + b2n t.tile

/-- The stitch that a message has had evicted still stands. -/
def evicting (s : State) (r : Nat) (evict : Option Nat) : Bool :=
  match evict with
  | none => false
  | some n => (routerOf s r).stitches.any (fun t => stitchName t == n && t.unpk)

/-- What a node of a tree has gathered goes on: an acknowledgement through a port, or across the link. -/
def ackThrough (s : State) (r p line : Nat) (u : Unpick) : State :=
  if 153 ≤ r ∧ p = 0 then emit s (.response (peerDev s line) true (linkBytes (u.data.getD (List.replicate 128 0), u.has)))
  else sendPort s r p { newMsg .invalAck line r 0 (lineHome s line) r with
    data := u.data, poison := u.poison, has := u.has, pte := u.pte, lost := u.lost }

/-- Adds a partial to an unpick's. -/
def foldInto (u : Unpick) (pte : DWord) (v : PartialLine) : Unpick :=
  if v.2 = 0 then u
  else
    let old : PartialLine := (u.data.getD (List.replicate 128 0), u.has)
    let n := foldLine (pteCfmt pte) (pteCop pte) old v
    { u with data := some n.1, has := n.2, pte := pte }

/-- The line as memory holds it, with its poison. -/
def memLine (s : State) (line : Nat) : List Byte × BitVec 16 :=
  (memBytes s (128 * line) 128,
   BitVec.ofNat 16 ((List.range 16).foldl (fun a i => a + if tget false s.poison (16 * line + i) then 2 ^ i else 0) 0))

/-- A memory line with a partial folded in, memory first (03 R76); no poisoned word becomes clear (04 R107). -/
def foldMemory (s : State) (line : Nat) (pte : DWord) (v : PartialLine) (pz : BitVec 16) : State :=
  let mem := memLine s line
  if v.2 = 0 then (if pz = 0 then s else writeHome s line mem.1 (mem.2 ||| pz))
  else writeHome s line (foldLine (pteCfmt pte) (pteCop pte) (wholeLine (pteCfmt pte) mem.1) v).1 (mem.2 ||| pz)

/-- Sends the response of the home for a request that reached it by `m` (03 R57, R59): its path begins here. -/
def homeRespond (s : State) (m : Msg) (kind : MsgKind) (st : Moesic) (own : Bool) (d : List Byte × BitVec 16) : State :=
  sendMsg s { m with kind := kind, path := (m.at', m.port) :: m.path, st := st, data := some d.1, poison := d.2,
                     steered := own, aux := m.aux, has := 0, port := 0, evict := none }

/-- The response of a holder (03 R56). `has` counts the routers from the requester up to the catching one. -/
def holderRespond (s : State) (m : Msg) (d : List Byte × BitVec 16) : State :=
  sendMsg s { m with kind := .readResp, path := (m.at', m.port) :: m.path, st := .s, data := some d.1, poison := d.2,
                     uncached := m.reroute || m.ev6, port := 0, evict := none }

/-- Opens a home transaction on a line: UNPK is set and invalidations go through every port (03 R59). -/
def openTx (s : State) (m : Msg) (keep : Option Nat) : State :=
  let r := m.home
  let s := dropMsg s m.id
  let s := { s with homeTx := { line := m.line, msg := m } :: s.homeTx }
  match stitchOf s r m.line with
  | none => setUnpick s { router := r, line := m.line, port := 0, left := 0, why := 2 }
  | some t =>
    let left := clearPort t.mask 0
    let s := modStitch s r m.line (fun t => { t with unpk := true })
    let s := setUnpick s { router := r, line := m.line, port := 0, left := left, keep := keep, why := 2 }
    (portsOf left).foldl (fun s p => sendPort s r p { newMsg .inval m.line r 0 r (keep.getD 999) with aux := 0 }) s

/-- Opens a transaction that collects every partial of a commutative line (03 R75): a gather-start goes back along the path to
the entry router, that of the path which is nearest to the reader and holds a stitch; with none there is nothing to collect. -/
def openGather (s : State) (m : Msg) : State × Bool :=
  let nodes := (m.at', m.port) :: m.path
  let s := { dropMsg s m.id with homeTx := { line := m.line, msg := m } :: s.homeTx }
  match nodes.reverse.find? (fun n => (stitchOf s n.1 m.line).isSome) with
  | none => (s, false)
  | some e => (sendMsg s { newMsg .gatherStart m.line m.home 0 m.home m.src with path := (nodes.takeWhile (· ≠ e)) ++ [e] }, true)

/-- Closes the transaction of a line. -/
def closeTx (s : State) (line : Nat) : State :=
  { s with homeTx := s.homeTx.filter (fun t => t.line ≠ line) }

/-- The flag of a region is set, and every line of it ends, as home transactions where something is in flight for them; dirty
anchors of its lines but the one that was lost write back first (03 R69). -/
def flagRegion (s : State) (line : Nat) : State :=
  let r := line / 32
  let hit := if tget false s.flagged r then [] else s.launches.filter (fun l => l.pages.contains (r / 16))
  let s := hit.foldl (fun s l => killLaunch s l.ctx l.index .flaggedRegion 0 0 0) s
  let s := (List.range 32).foldl (fun s i =>
    let l := 32 * r + i
    let home := lineHome s l
    if quiet s l ∧ grantedTo s r = [] then (if l = line then discard s l else collapse s l)
    else if l = line then sendMsg s { newMsg .branchLoss l home 0 home home with aux := 64 }
    else sendMsg s (newMsg .unpickReq l home 0 home home)) s
  setFlag s r true

/-- The accesses that a home transaction was opened for fault STALE-REVERTED where the region is now flagged (03 R72). -/
def staleTx (s : State) (m : Msg) : State :=
  if m.uncached then faultAccs s ((accOf s m.aux).toList.map (fun a => (a, cStale, 1))) else staleMsg s m

/-- The end of a home transaction whose tree has gone, by the message that opened it (03 R59, R62, R64, R69, R72, R73, R82,
04 R91). -/
def finishTx (s : State) (u : Unpick) : State :=
  match txOf s u.line with
  | none => dropUnpick s u.router u.line
  | some tx =>
    let m := tx.msg
    let own := match stitchOf s u.router u.line with | some t => t.own | none => false
    let s := closeTx (dropUnpick (dropStitch s u.router u.line) u.router u.line) u.line
    let home (s : State) : State := match u.data with
      | some d => writeHome s u.line d u.poison
      | none => s
    let flags := u.lost && own && u.data.isNone
    let s := if flags then flagRegion s u.line else s
    match m.kind with
    | .write =>
      if flags && lineFlagged s u.line then staleTx s m
      else if m.uncached then
        let s := home s
        performAll s ((accOf s m.aux).toList) performHome
      else
        let d := match u.data with
          | some d => (d, u.poison)
          | none => memLine s u.line
        homeRespond s m .grant .m true d
    | .join =>
      let s := home s
      if flags && lineFlagged s u.line then staleTx s m else homeRespond s m .joinResp .c false (memLine s u.line)
    | .branchLoss => s
    | .rangeInv => s
    | _ => home s

/-- The answer to a gather at the home (03 R75): the partials and memory, memory last; the reader gets E. Another transaction that
met partials goes on with memory (log entry 88). -/
def finishGather (s : State) (tx : HomeTx) (pte : DWord) (v : PartialLine) (lost : Bool) : State :=
  let m := tx.msg
  let mem := memLine s m.line
  let s := if v.2 = 0 ∨ lost then s
    else writeHome s m.line (foldLine (pteCfmt pte) (pteCop pte) v (wholeLine (pteCfmt pte) mem.1)).1 mem.2
  let s := closeTx (dropStitch s m.home m.line) m.line
  let s := if lost then flagRegion s m.line else s
  if lost && lineFlagged s m.line then staleTx s m
  else match m.kind with
    | .write => if m.uncached then performAll s ((accOf s m.aux).toList) performHome
                else homeRespond s m .grant .m true (memLine s m.line)
    | .rangeFlush => s
    | _ => homeRespond s { m with kind := .read, has := 0, uncached := m.ev6 || m.reroute } .readResp .e false (memLine s m.line)

/-- A node of a wave of invalidation, unpicking or gathering has nothing left to wait for (03 R59, R64, R75). -/
def finishNode (s : State) (u : Unpick) : State :=
  match u.why with
  | 2 => finishTx s u
  | 1 =>
    let home := lineHome s u.line
    let s := dropUnpick (dropStitch s u.router u.line) u.router u.line
    if u.router = home then (match u.data with
      | some d => if peerLine s u.line then foldAcross s u.line u.pte (d, u.has)
                  else if lineFlagged s u.line then s else foldMemory s u.line u.pte (d, u.has) 0
      | none => s)
    else
      let s := match u.data with
        | some d => if u.has = 0 then s else
            sendPort s u.router u.port { newMsg .foldDelivery u.line u.router 0 home u.router with data := some d, has := u.has, pte := u.pte }
        | none => s
      sendPort s u.router u.port (newMsg .prune u.line u.router 0 home u.router)
  | 4 =>
    let s := dropUnpick (dropStitch s u.router u.line) u.router u.line
    sendMsg s { newMsg .invalAck u.line u.router 0 (lineHome s u.line) u.router with
      data := u.data, has := u.has, pte := u.pte, aux := 1, lost := u.lost }
  | _ => ackThrough (dropUnpick (dropStitch s u.router u.line) u.router u.line) u.router u.port u.line u

/-- Goes on with a node: an invalidation has been sent everywhere at once; a gather asks one port after the other
(03 R75). -/
def advanceNode (s : State) (u : Unpick) (collects : Bool) : State :=
  if u.left = 0 then finishNode (setUnpick s u) u
  else
    let s := setUnpick s u
    if collects then
      match portsOf u.left with
      | 0 :: _ => s
      | p :: _ => sendPort s u.router p (newMsg .collect u.line u.router 0 (lineHome s u.line) u.router)
      | [] => s
    else s

/-- A dirty copy or partial that an operation's CINV discards is counted for its context, up to the top of the counter (03 R82, R83). -/
def countFor (s : State) (op : Nat) (st : Moesic) : State :=
  if st = .m ∨ st = .o ∨ st = .c then
    match (asyncOf s op).bind (fun a => (ctxOf s a.ctx).map (fun c => (a.ctx, c))) with
    | some (i, c) => { s with ctxs := tput s.ctxs i { c with cdisc := BitVec.ofNat 32 (satTo 32 (c.cdisc.toNat + 1)) } }
    | none => s
  else s

/-- A copy ends in the transaction of its line: a CINV counts it (03 R83). -/
def countDiscard (s : State) (line : Nat) (st : Moesic) : State :=
  match txOf s line with
  | some tx => if tx.msg.kind = .rangeInv then countFor s tx.msg.aux st else s
  | none => s

/-- The data of a copy in M or O go with its acknowledgement. -/
def dirtyOf (l : CLine) : Option (List Byte × BitVec 16) := if l.st = .m || l.st = .o then some (l.data, l.poison) else none

/-- Invalidates the local agent of a router (03 R59): an M or O copy returns its data; the writer keeps its own. A fabric router
asks the devices that it has granted the line's tile to for it, and waits (03 R80). -/
def invalLocal (s : State) (r line : Nat) (keep : Option Nat) : State × Option (List Byte × BitVec 16) × Bool :=
  if keep = some r then (s, none, false)
  else
    let own := match cacheLine s r line with
      | some l => (countDiscard (dropHeld s r line) line l.st, dirtyOf l)
      | none => (s, none)
    (fabCopies own.1 r line).foldl (fun (v : State × Option (List Byte × BitVec 16) × Bool) h =>
      if granted v.1 (h.1 - 200) (tileOf line) ≠ 0 ∧ h.2.st ≠ .c then (recallTile v.1 (h.1 - 200) line r, v.2.1, true)
      else (countDiscard (dropHeld v.1 h.1 line) line h.2.st, v.2.1 <|> dirtyOf h.2, v.2.2)) (own.1, own.2, false)

/-- A tile stitch makes room (log entry 88): every copy of the tile's lines ends, and the tile goes back to its home, with its bytes
where this device held it in E or M. -/
def evictTile (s : State) (r : Nat) (t : Stitch) : State :=
  let tile := tileOf t.line
  let st := tileState s tile
  let s := (List.range 32).foldl (fun s i => collapse s (32 * tile + i)) s
  let bs := memBytes s (4096 * tile) 4096
  emit { setStitches s r ((routerOf s r).stitches.filter (fun x => !(x.tile && x.line == t.line))) with
           tiles := tset 0 s.tiles tile 0, mem := s.mem.filter (fun c => c.1 < 4096 * tile || 4096 * tile + 4096 ≤ c.1) }
    (.tileBack (peerDev s (32 * tile)) tile (if st = 1 then [] else bs))

/-- A wave that waits at a fabric router for a tile goes on once no device has a granted copy of the line there (03 R80). -/
def localDone (s : State) (r line : Nat) : State :=
  match unpickOf s r line with
  | some u =>
    if maskBit { set := 0, way := 0, line := 0, mask := u.left, root := 0, home := 0 } 0 &&
        (fabCopies s r line).all (fun h => h.2.st == .c || granted s (h.1 - 200) (tileOf line) == 0) &&
        !s.emsen.any (fun q => q.use = .collect line r) then
      advanceNode s { u with left := clearPort u.left 0 } false
    else s
  | none => s

/-- A granted tile comes back from a device, with its bytes where it was granted in E or M (03 R80): the line that an invalidation
waits for acknowledges with its data, and the others are given up under R62. -/
def tileReturned (s : State) (dev tile r : Nat) (data : List Byte) : State :=
  let k := 200 + dev
  let st := granted s dev tile
  let s := { s with tiles := tset 0 s.tiles (grantKey dev tile) 0 }
  let s := (List.range 32).foldl (fun s i =>
    let line := 32 * tile + i
    let bs := (data.drop (128 * i)).take 128
    match cacheLine s k line with
    | none => localDone s r line
    | some l =>
      if l.st = .c then s
      else
        let l := if 2 ≤ st ∧ bs.length = 128 then { l with data := bs, st := if st = 3 ∨ bs ≠ l.data then .m else l.st } else l
        match unpickOf s r line with
        | none => giveUp s k r l
        | some u =>
          let s := countDiscard (dropHeld s k line) line l.st
          localDone (setUnpick s (match dirtyOf l with
            | some d => { u with data := some d.1, poison := d.2 }
            | none => u)) r line) s
  tileSteps s r tile

/-- A router begins to give up its stitch (03 R64). -/
def evictStitch (s : State) (r : Nat) (t : Stitch) : State :=
  if t.tile then evictTile s r t
  else
    let home := lineHome s t.line
    let s := modStitch s r t.line (fun t => { t with unpk := true })
    if t.comm || t.home == t.root then
      let left := clearPort (clearPort t.mask t.root) 0
      let u : Unpick := { router := r, line := t.line, port := t.root, left := left, why := 1 }
      if t.comm then
        let v := if maskBit t 0 then takePartial s r t.line else (s, noPartial, 0)
        let asked := v.1.emsen.any (fun q => q.use = .collect t.line r)
        advanceNode v.1 (foldInto { u with left := if asked then setPort left 0 else left } v.2.2 v.2.1) true
      else
        let v := if maskBit t 0 then invalLocal s r t.line none else (s, none, false)
        let s := (portsOf left).foldl (fun s p => sendPort s r p (newMsg .inval t.line r 0 home 999)) v.1
        advanceNode s { u with left := if v.2.2 then setPort left 0 else left } false
    else if r = home then sendMsg s (newMsg .unpickReq t.line r 0 home r)
    else sendPort s r t.home (newMsg .unpickReq t.line r 0 home r)

/-- The outcome of asking for a stitch at a router. -/
inductive Stitched where
  /-- it stands, or its bits were added -/
  | done (s : State)
  /-- the router's stitch has UNPK set -/
  | unpk
  /-- an eviction must end first (03 R63): that of the stitch so named -/
  | wait (s : State) (evict : Option Nat)

/-- Makes room for a stitch of a set, once for each message that needs it (03 R63). -/
def makeRoom (s : State) (r set : Nat) (evict : Option Nat) : State × Option Nat :=
  if evicting s r evict then (s, evict)
  else match stitchVictim s r set with
    | some v => (evictStitch s r v, some (stitchName v))
    | none => (s, evict)

/-- Creates a stitch, or adds to the one that stands (03 R56, R57, R63, R470): ports, ROOT and HOME; `reroot` where
the requester becomes the anchor. -/
def makeStitch (s : State) (r : Nat) (m : Msg) (mask : BitVec 5) (root home : Nat) (reroot : Bool) (comm : Option DWord) : Stitched :=
  match stitchOf s r m.line with
  | some t =>
    if t.unpk then .unpk
    else .done (modStitch s r m.line (fun t => { t with mask := t.mask ||| mask, root := if reroot then root else t.root }))
  | none =>
    match freeWay s r m.line with
    | some w =>
      let t : Stitch := { set := stitchSet m.line, way := w, line := m.line, mask := mask, root := root, home := home,
                          comm := comm.isSome, cfmt := BitVec.ofNat 2 ((comm.map pteCfmt).getD 0),
                          cop := BitVec.ofNat 2 ((comm.map pteCop).getD 0), lwin := leaseEnd s, imode := pteImode m.pte }
      .done (setStitches s r (t :: (routerOf s r).stitches))
    | none => let v := makeRoom s r (stitchSet m.line) m.evict; .wait v.1 v.2

/-- The port by which a router's message leaves for a read that it steers (03 R55). -/
def steerPort (t : Stitch) (arrival : Nat) : Option Nat :=
  ([0, 1, 2, 3, 4].filter (fun p => p ≠ arrival ∧ maskBit t p ∧ (p = 0 ∨ p ≠ t.root)) ++
    (if t.root ≠ arrival ∧ (t.root = 0 → maskBit t 0) then [t.root] else [])).head?

/-- The state of a holder after it takes a read (03 R56). -/
def afterRead : Moesic → Moesic
  | .m => .o | .e => .s | x => x

/-- A read at a router (03 R55 to R58). A caught read that was sent homeward finds at the home no port but the one it came
by, and turns back there (DEDUCED, log 27). At the home a commutative tree is gathered for it (R75). -/
def readStep (s : State) (m : Msg) : State :=
  let r := m.at'
  let onward (m : Msg) : State :=
    if r = m.home then putMsg s { m with steered := false, reroute := m.reroute || m.steered }
    else hop s { m with steered := false, reroute := m.reroute || m.steered } (routePort r m.home)
  match stitchOf s r m.line with
  | some t =>
    if t.unpk then (if m.steered then putMsg s { m with steered := false, reroute := true } else s)
    else if t.comm then
      if r = m.home ∧ m.kind = .read ∧ !m.steered then
        (if mustWait s m then s else if lineFlagged s m.line then staleMsg s m
         else
          let v := openGather s m
          if v.2 then v.1 else finishGather v.1 { line := m.line, msg := m } 0 noPartial false)
      else onward m
    else
      let m := if m.has = 0 then { m with has := m.path.length + 1 } else m
      match steerPort t m.port with
      | some 0 =>
        match holderAt s r m.line with
        | some (k, l) =>
          if l.st = .c then onward { m with steered := true }
          else if 200 ≤ k ∧ 2 ≤ granted s (k - 200) (tileOf m.line) then recallLine s m.line
          else
            let s := dropMsg (if m.ev6 then s else modLine s k m.line (fun l => { l with st := afterRead l.st })) m.id
            holderRespond s m (l.data, l.poison)
        | none => onward { m with steered := true }
      | some p => hop s { m with steered := true } p
      | none =>
        if m.port ≠ 0 ∧ maskBit t m.port then hop s { m with steered := true } m.port
        else onward { m with steered := true }
  | none =>
    if r ≠ m.home ∨ m.steered then onward m
    else if m.kind == .commRead || mustWait s m then s
    else if lineFlagged s m.line then staleMsg s m
    else if !tileReady s m.line false then askTile s m.line false m.src
    else if m.ev6 || m.reroute then
      homeRespond (dropMsg s m.id) { m with uncached := true } .readResp .e true (memLine s m.line)
    else
      let st : Moesic := if peerLine s m.line && tileState s (tileOf m.line) == 1 then .s else .e
      homeRespond (dropMsg s m.id) { m with has := 0 } .readResp st true (memLine s m.line)

/-- READ_REQUEST (03 R55). -/
def execReadRequest (msg : Nat) (s : State) : Host.Outcome State Fault Refusal :=
  .next (match arrived s msg with
    | some m => if m.kind = .read ∨ m.kind = .commRead then readStep s m else s
    | none => s)

/-- The stitch that a response leaves at a router (03 R56, R57, R59, R73), by its place on the path: `n` routers are
left, this one included; the response came by `m.port`. -/
def stitchFor (s : State) (m : Msg) (r arrival n : Nat) : Stitched :=
  let grant := m.kind == .grant || m.st == .e || m.has == 0
  let comm := if m.kind = .joinResp then some m.pte else none
  let bits (p q : Nat) : BitVec 5 := setPort (setPort 0 p) q
  if m.kind = .joinResp ∧ m.has = 0 then
    if r = m.home then
      match makeStitch s r m (setPort 0 arrival) 0 0 false comm with
      | .done t => .done t
      | o => o
    else makeStitch s r m (bits arrival m.port) m.port m.port false comm
  else if grant && m.has == 0 then
    if r = m.home then
      match makeStitch s r m (setPort 0 arrival) arrival 0 true none with
      | .done t => .done (modStitch t r m.line (fun t => { t with own := m.steered }))
      | o => o
    else makeStitch s r m (bits arrival m.port) arrival m.port true none
  else if m.has < n then
    match stitchOf s r m.line with
    | some t => if t.unpk then .unpk else .done s
    | none => .unpk
  else if n = m.has then
    match stitchOf s r m.line with
    | some t => if t.unpk then .unpk else .done (modStitch s r m.line (fun t => { t with mask := setPort t.mask arrival }))
    | none => .unpk
  else makeStitch s r m (bits arrival m.port) m.port m.port false comm

/-- The eviction priority of a fill. -/
def fillEvp (as : List Acc) : Nat := ((as.head?.map (fun (a : Acc) => a.evp)).getD 0).toNat

/-- The protection of a filled line (04 R93). -/
def fillProt (evp : Nat) : Nat := if 1 ≤ evp ∧ evp ≤ 3 then evp else 0

/-- The entry of the accesses' page. -/
def fillPte (as : List Acc) : DWord := ((as.head?.map (fun (a : Acc) => a.pte)).getD 0)

/-- A read response reaches its requester: its accesses perform with the data, and the line is installed unless the
response is uncached (03 R56 to R58). -/
def readArrives (s : State) (m : Msg) : State :=
  let k := m.src
  let as := accsFor s m.aux
  let d := m.data.getD []
  if 152 ≤ k then agentTakes (dropMsg s m.id) m m.st
  else if m.uncached then
    let s := dropMsg s m.id
    performAll s as (fun s a =>
      if regionFlagged s a.pa && !isHint a then .error (cStale, 1)
      else if a.kind = .fetch then
        if linePoison m.poison (a.pa % 128) a.bytes then .error (cPoison, 1)
        else .ok (takeFetch s a (accSeen s a ((d.drop (a.pa % 128)).take a.bytes)))
      else if a.kind = .load then
        match accEffect a (accSeen s a ((d.drop (a.pa % 128)).take a.bytes)) (linePoison m.poison (a.pa % 128) a.bytes) with
        | some (_, r) => .ok (writeWords s a r)
        | none => .error (cPoison, 1)
      else .ok s)
  else if !roomFor s k m.line then s
  else
    let evp := fillEvp as
    let l : CLine := { line := m.line, st := m.st, data := d, poison := m.poison, prot := fillProt evp, pte := fillPte as }
    serveLine (fillLine (dropMsg s m.id) k l evp) k m.line

/-- A grant or a join's response reaches its requester: the line enters M, or C with no operand yet (03 R59, R73). -/
def writeArrives (s : State) (m : Msg) : State :=
  let k := m.src
  let as := accsFor s m.aux
  if 152 ≤ k then agentTakes (dropMsg s m.id) m (if m.kind = .joinResp then .c else .m)
  else if !roomFor s k m.line then s
  else
    let evp := fillEvp as
    let s := dropMsg s m.id
    let base : CLine := { line := m.line, st := .m, data := m.data.getD [], poison := m.poison, prot := fillProt evp, pte := fillPte as }
    let l := if m.kind = .joinResp then { base with st := .c, data := List.replicate 128 0, poison := 0, has := 0 }
      else match cacheLine s k m.line with
        | some o => if o.st = .c then base else { o with st := .m }
        | none => base
    serveLine (fillLine s k l evp) k m.line

/-- One router of a response's way back (03 R56 to R59, R73). -/
def responseStep (s : State) (m : Msg) : State :=
  match m.path with
  | [] => s
  | (r, arrival) :: rest =>
    let move (s : State) (m : Msg) : State :=
      match rest with
      | [] => (if m.kind = .readResp then readArrives s else writeArrives s) { m with path := [(r, arrival)] }
      | (n, _) :: _ => moveMsg s { m with path := rest, at' := n, port := opposite arrival }
    if m.uncached then move s m
    else if rest.isEmpty && decide (m.src < 128) && !roomFor s m.src m.line then s
    else match stitchFor s m r arrival m.path.length with
      | .done t => move t m
      | .wait t e => putMsg t { m with evict := e }
      | .unpk => if m.kind = .readResp then move s { m with uncached := true }
                 else if m.kind = .grant then s
                 else modAccsUnsent s m
where
  /-- A join whose response cannot be stitched is made again (03 R58, R73). -/
  modAccsUnsent (s : State) (m : Msg) : State :=
    if 152 ≤ m.src then sendMsg (dropMsg s m.id) { newMsg .join m.line m.src 0 m.home m.src with pte := m.pte }
    else { dropMsg s m.id with accs := s.accs.map (fun a => if a.msg = m.aux then { a with sent := false } else a) }

/-- READ_RESPONSE (03 R56). -/
def execReadResponse (msg : Nat) (s : State) : Host.Outcome State Fault Refusal :=
  .next (match arrived s msg with
    | some m => if m.kind = .readResp ∨ m.kind = .joinResp then responseStep s m else s
    | none => s)

/-- WRITE_GRANT (03 R59). -/
def execWriteGrant (msg : Nat) (s : State) : Host.Outcome State Fault Refusal :=
  .next (match arrived s msg with
    | some m => if m.kind = .grant then responseStep s m else s
    | none => s)

/-- Opens a home transaction and, where no router has to answer, ends it. -/
def runTx (s : State) (m : Msg) (keep : Option Nat) : State :=
  let s := openTx s m keep
  match unpickOf s m.home m.line with
  | some u => if u.left = 0 then finishTx s u else s
  | none => s

/-- WRITE_REQUEST (03 R59): by route to the home, which takes it in turn. Partials of the line are collected first (log entry 88). -/
def execWriteRequest (msg : Nat) (s : State) : Host.Outcome State Fault Refusal :=
  .next (match arrived s msg with
    | some m =>
      if m.kind ≠ .write then s
      else if m.at' ≠ m.home then hop s m (routePort m.at' m.home)
      else if mustWait s m then s
      else if lineFlagged s m.line then staleMsg s m
      else if !tileReady s m.line true then askTile s m.line true m.src
      else
        match stitchOf s m.home m.line with
        | none => runTx s m (if m.uncached then none else some m.src)
        | some t =>
          if t.unpk then s
          else if t.comm then
            let v := openGather (markRenewal s m) m
            if v.2 then v.1 else finishGather v.1 { line := m.line, msg := m } 0 noPartial false
          else runTx (markRenewal s m) m (if m.uncached then none else some m.src)
    | none => s)

/-- INVALIDATION at a router (03 R59, R65). -/
def invalStep (s : State) (m : Msg) : State :=
  let r := m.at'
  let s := dropMsg s m.id
  match stitchOf s r m.line with
  | none => sendPort s r m.port { newMsg .invalAck m.line r 0 m.home r with aux := 0 }
  | some t =>
    match unpickOf s r m.line with
    | some u => setUnpick s { u with port := m.port, why := if u.why = 1 then 0 else u.why }
    | none =>
      let keep := if m.src = 999 then none else some m.src
      let v := if maskBit t 0 then invalLocal s r m.line keep else (s, none, false)
      let left := clearPort (clearPort t.mask 0) m.port
      let s := modStitch v.1 r m.line (fun t => { t with unpk := true })
      let s := (portsOf left).foldl (fun s p => sendPort s r p (newMsg .inval m.line r 0 m.home m.src)) s
      advanceNode s { router := r, line := m.line, port := m.port, left := if v.2.2 then setPort left 0 else left,
                      data := v.2.1.map (·.1), poison := (v.2.1.map (·.2)).getD 0, keep := keep, why := 0 } false

/-- INVALIDATION (03 R59). -/
def execInvalidation (msg : Nat) (s : State) : Host.Outcome State Fault Refusal :=
  .next (match arrived s msg with
    | some m => if m.kind = .inval then invalStep s m else s
    | none => s)

/-- An acknowledgement reaches a router (03 R59, R64), or a gather's result reaches the home (R75). -/
def ackStep (s : State) (m : Msg) : State :=
  if m.aux = 1 then
    if m.at' ≠ m.home then hop s m (routePort m.at' m.home)
    else match txOf s m.line with
      | some tx => finishGather (dropMsg s m.id) tx m.pte (m.data.getD (List.replicate 128 0), m.has) m.lost
      | none => dropMsg s m.id
  else
    let s := dropMsg s m.id
    match unpickOf s m.at' m.line with
    | none => s
    | some u =>
      let u := { u with left := clearPort u.left m.port, lost := u.lost || m.lost }
      let comm := u.why = 3 || u.why = 4 || (match stitchOf s m.at' m.line with | some t => t.comm && u.why != 2 | none => false)
      if comm then
        advanceNode s (match m.data with | some d => foldInto u m.pte (d, m.has) | none => u) true
      else advanceNode s (match m.data with | some d => { u with data := some d, poison := m.poison } | none => u) false

/-- INVALIDATION_ACK (03 R59). -/
def execInvalidationAck (msg : Nat) (s : State) : Host.Outcome State Fault Refusal :=
  .next (match arrived s msg with
    | some m => if m.kind = .invalAck then ackStep s m else s
    | none => s)

/-- PRUNE (03 R54). -/
def execPrune (msg : Nat) (s : State) : Host.Outcome State Fault Refusal :=
  .next (match arrived s msg with
    | some m =>
      if m.kind ≠ .prune then s
      else prune (modStitch (dropMsg s m.id) m.at' m.line (fun t => { t with mask := clearPort t.mask m.port })) m.at' m.line
    | none => s)

/-- A homeward message arrives through a live port (03 R71). -/
def livePort (s : State) (m : Msg) : Bool :=
  match stitchOf s m.at' m.line with
  | some t => maskBit t m.port
  | none => false

/-- LEASE-LOST is answered to the agent that sent a message (03 R71). -/
def answerLost (s : State) (m : Msg) : State :=
  sendMsg (dropMsg s m.id) (newMsg .leaseLost m.line m.at' m.port m.home m.src)

/-- DROP_NOTICE (03 R62). -/
def execDropNotice (msg : Nat) (s : State) : Host.Outcome State Fault Refusal :=
  .next (match arrived s msg with
    | some m =>
      if m.kind ≠ .dropNotice then s
      else if !livePort s m then answerLost s m
      else prune (modStitch (dropMsg s m.id) m.at' m.line (fun t => { t with mask := clearPort t.mask 0 })) m.at' m.line
    | none => s)

/-- Moves a homeward message through the stitch's HOME port. -/
def homeward (s : State) (m : Msg) : State :=
  match stitchOf s m.at' m.line with
  | some t => hop (modStitch s m.at' m.line (fun t => { t with rnwd := setPort t.rnwd m.port })) m t.home
  | none => s

/-- ANCHOR_RELEASE (03 R62): data to memory, the tree invalidated; data that meets an unpick join it, and CINV discards them (R82). -/
def execAnchorRelease (msg : Nat) (s : State) : Host.Outcome State Fault Refusal :=
  .next (match arrived s msg with
    | some m =>
      if m.kind ≠ .anchorRelease then s
      else if !livePort s m then answerLost s m
      else if m.at' ≠ m.home then homeward s m
      else match unpickOf s m.home m.line with
        | some u =>
          let s := dropMsg s m.id
          (match m.data with
           | some d => setUnpick (countDiscard s m.line .m) { u with data := some d, poison := m.poison }
           | none => s)
        | none =>
          if mustWait s m then s
          else
            let s := match m.data with
              | some d => writeHome s m.line d m.poison
              | none => s
            runTx (modStitch s m.home m.line (fun t => { t with own := false })) m none
    | none => s)

/-- FOLD_DELIVERY (03 R62, R76): `steered` marks one that the home has received and that waits its turn. -/
def execFoldDelivery (msg : Nat) (s : State) : Host.Outcome State Fault Refusal :=
  .next (match arrived s msg with
    | some m =>
      if m.kind ≠ .foldDelivery then s
      else if !m.steered && !livePort s m then answerLost s m
      else if m.at' ≠ m.home then
        let s := homeward s m
        if m.port = 0 then prune (modStitch s m.at' m.line (fun t => { t with mask := clearPort t.mask 0 })) m.at' m.line else s
      else if mustWait s m then putMsg s { m with steered := true }
      else
        let s := dropMsg s m.id
        if peerLine s m.line then foldAcross s m.line m.pte (m.data.getD [], m.has)
        else if lineFlagged s m.line then s else foldMemory s m.line m.pte (m.data.getD [], m.has) m.poison
    | none => s)

/-- JOIN_REQUEST (03 R73). -/
def execJoinRequest (msg : Nat) (s : State) : Host.Outcome State Fault Refusal :=
  .next (match arrived s msg with
    | some m =>
      if m.kind ≠ .join then s
      else
        let r := m.at'
        match stitchOf s r m.line with
        | some t =>
          if t.unpk then s
          else if t.comm then
            let m' := { m with has := m.path.length + 1, evict := none }
            sendMsg (dropMsg (markRenewal s m) m.id) { m' with kind := .joinResp, path := (r, m.port) :: m.path, st := .c, port := 0 }
          else if r ≠ m.home then hop s m (routePort r m.home)
          else if mustWait s m then s
          else runTx s m none
        | none =>
          if r ≠ m.home then hop s m (routePort r m.home)
          else if mustWait s m then s
          else if lineFlagged s m.line then staleMsg s m
          else if peerLine s m.line then
            (match lineReply s (.join m.line) with
             | some _ => homeRespond (dropMsg (dropAsk s (.join m.line)) m.id) m .joinResp .c false (List.replicate 128 0, 0)
             | none => askLine s (peerDev s m.line) (.join m.line)
                 (fun id d => .join id (peerDev s m.line) (128 * m.line) (pteCfmt m.pte) (pteCop m.pte) d))
          else homeRespond (dropMsg s m.id) m .joinResp .c false (memLine s m.line)
    | none => s)

/-- COMMUTATIVE_GATHER (03 R75): the home takes a plain load of a commutative line and starts a gather. -/
def execCommutativeGather (msg : Nat) (s : State) : Host.Outcome State Fault Refusal :=
  .next (match arrived s msg with
    | some m =>
      let free := match stitchOf s m.home m.line with
        | some t => t.comm && !t.unpk
        | none => true
      if m.kind ≠ .commRead ∨ m.at' ≠ m.home ∨ !free ∨ mustWait s m then s
      else if lineFlagged s m.line then staleMsg s m
      else if peerLine s m.line then
        (match lineReply s (.commLoad m.line) with
         | some bs => homeRespond (dropMsg (dropAsk s (.commLoad m.line)) m.id) { m with uncached := true } .readResp .e false (bs, 0)
         | none => askLine s (peerDev s m.line) (.commLoad m.line) (fun id d => .commLoad id (peerDev s m.line) (128 * m.line) d))
      else
        let v := openGather s m
        if v.2 then v.1 else finishGather v.1 { line := m.line, msg := m } 0 noPartial false
    | none => s)

/-- A node of a gather: its local partial, then its other ports in order (03 R75). Of a gather-start or a collect that reaches a
router whose own unpick or gather of the line is in progress the spec is silent: that one goes on, and answers through the new
message's port and for its purpose, so the branch it was collecting for gets its answer when the new one has its own (DESIGN
CHOICE, log entry 89). -/
def gatherNode (s : State) (r line port why : Nat) : State :=
  match stitchOf s r line with
  | none => if why = 4 then finishNode s { router := r, line := line, port := port, left := 0, why := 4 }
            else ackThrough s r port line { router := r, line := line, port := port, left := 0, why := 3 }
  | some t =>
    match unpickOf s r line with
    | some u => setUnpick s { u with port := port, why := why }
    | none =>
      let s := modStitch s r line (fun t => { t with unpk := true })
      let v := if maskBit t 0 then takePartial s r line else (s, noPartial, 0)
      let asked := v.1.emsen.any (fun q => q.use = .collect line r)
      let left := clearPort (if asked then setPort t.mask 0 else clearPort t.mask 0) (if port = 0 ∧ asked then 5 else port)
      advanceNode v.1 (foldInto { router := r, line := line, port := port, left := left, why := why, pte := v.2.2 } v.2.2 v.2.1) true

/-- GATHER_START (03 R75): it goes back to the entry router, which begins. -/
def execGatherStart (msg : Nat) (s : State) : Host.Outcome State Fault Refusal :=
  .next (match arrived s msg with
    | some m =>
      if m.kind ≠ .gatherStart then s
      else match m.path with
        | [(r, a)] => gatherNode (dropMsg s m.id) r m.line a 4
        | (_, a) :: (n, b) :: t => moveMsg s { m with path := (n, b) :: t, at' := n, port := opposite a }
        | [] => dropMsg s m.id
    | none => s)

/-- COLLECT (03 R64, R75). -/
def execCollect (msg : Nat) (s : State) : Host.Outcome State Fault Refusal :=
  .next (match arrived s msg with
    | some m => if m.kind = .collect then gatherNode (dropMsg s m.id) m.at' m.line m.port 3 else s
    | none => s)

/-- UNPICK_REQUEST (03 R64): the home invalidates the whole tree, once no transaction is open on the line. -/
def execUnpickRequest (msg : Nat) (s : State) : Host.Outcome State Fault Refusal :=
  .next (match arrived s msg with
    | some m =>
      if m.kind ≠ .unpickReq then s
      else if m.at' ≠ m.home then hop s m (routePort m.at' m.home)
      else if (txOf s m.line).isSome then s
      else match stitchOf s m.home m.line with
        | none => dropMsg s m.id
        | some t =>
          if t.comm then
            if t.unpk then s
            else
              let v := openGather s { m with kind := .rangeFlush, path := [], port := 0 }
              if v.2 then v.1 else closeTx v.1 m.line
          else runTx s m none
    | none => s)

/-- The launch of an access must first have its page copied to the snapshot area (17 R431). -/
def snapNeeded (s : State) (a : Acc) : Bool :=
  match sheetOf s a.core a.slot with
  | none => false
  | some h =>
    match launchOf s h.ctx h.launch with
    | none => false
    | some l =>
      accWrites a && recFld l.rec' 174 174 == 1 && !pteSnex a.pte && l.unrecoverable.isNone &&
        (match placeOf s a.pa with | .hbm _ => true | _ => false) && !l.pages.contains (a.pa / 2 ^ 16)

/-- Where an access is made (02 R21, R42, 04 R91, 09 R215). -/
inductive Reach where
  /-- in the cluster cache; at the home; by the host router as an atomic -/
  | cache | home | hostAtom
  /-- on-chip storage; a control register; a peer by a plain Emsen request -/
  | chip (core off : Nat) | ctl (off : Nat) | emsen (dev : Nat)
  deriving DecidableEq, Repr

/-- How an access reaches its place. -/
def reachOf (s : State) (a : Acc) : Reach :=
  let dev (d : Nat) : Nat := fld (rawReg s (.fpeer d)) 11 0
  match placeOf s a.pa with
  | .win c o => .chip c o
  | .ctl o => .ctl o
  | .peerMap d _ => .emsen (dev d)
  | .peer d _ =>
    if a.ord = 3 ∧ 6 ≤ a.scope.toNat ∧ (a.kind = .load ∨ a.kind = .store) ∧ !accComm a then .emsen (dev d)
    else if a.uncached then .home else .cache
  | .host _ => if a.kind = .atom ∨ a.kind = .red then .hostAtom else if a.uncached then .home else .cache
  | _ => if a.uncached then .home else .cache

/-- The access is made at its home. -/
def atHome (s : State) (a : Acc) : Bool := reachOf s a == .home

/-- UNCACHED_ACCESS (04 R91): at the home in turn, any tree of the line invalidated first, or its partials collected. -/
def execUncachedAccess (acc : Nat) (s : State) : Host.Outcome State Fault Refusal :=
  .next (match accOf s acc with
    | some a =>
      let line := lineOf a.pa
      let home := lineHome s line
      if !a.uncached ∨ a.fail ≠ 0 ∨ !atHome s a ∨ !depsDone s a ∨ snapNeeded s a ∨ homeBusy s line ∨
          s.msgs.any (fun x => x.line == line && x.at' == home && isRequest x) then s
      else if lineFlagged s line then faultAccs s [(a, cStale, 1)]
      else if !tileReady s line (accWrites a) then askTile s line (accWrites a) (a.core / 4)
      else match stitchOf s home line with
        | some t =>
          if t.unpk then s
          else
            let m := { newMsg .write line home 0 home 999 with uncached := true, aux := acc, id := s.nextId }
            let s := { s with nextId := s.nextId + 1 }
            if t.comm then
              let v := openGather s m
              if v.2 then v.1 else finishGather v.1 { line := line, msg := m } 0 noPartial false
            else runTx s m none
        | none => performAll s [a] performHome
    | none => s)

/-- The lines of a cache count as renewed now. -/
def renewAll (s : State) (k : Nat) (p : CLine → Bool) : State :=
  let c := clusterOf s k
  setCluster s k { c with cache := c.cache.map (fun l => if p l then { l with renewed := s.ticks } else l) }

/-- RENEWAL_SEND (03 R67): an agent's cache renews each line that it holds. -/
def execRenewalSend (cluster : Nat) (s : State) : Host.Outcome State Fault Refusal :=
  .next (renewAll ((clusterOf s cluster).cache.foldl (fun s l =>
    sendMsg s (newMsg .renewal l.line cluster 0 (lineHome s l.line) cluster)) s) cluster (fun _ => true))

/-- RENEWAL (03 R67, R71): RNWD of its port, and onward once for each window. -/
def execRenewal (msg : Nat) (s : State) : Host.Outcome State Fault Refusal :=
  .next (match arrived s msg with
    | some m =>
      if m.kind ≠ .renewal then s
      else match stitchOf s m.at' m.line with
        | some t =>
          if !maskBit t m.port then answerLost s m
          else
            let s' := modStitch s m.at' m.line (fun t => { t with rnwd := setPort t.rnwd m.port })
            if m.at' = m.home ∨ t.rnwd ≠ 0 then dropMsg s' m.id else hop s' m t.home
        | none => answerLost s m
    | none => s)

/-- LEASE_LOST (03 R71): the agent invalidates the line; dirty data and partials are discarded. A fabric router also recalls a granted
tile of it, whose data for the line find no copy. -/
def execLeaseLost (msg : Nat) (s : State) : Host.Outcome State Fault Refusal :=
  .next (match arrived s msg with
    | some m =>
      if m.kind ≠ .leaseLost then s
      else
        let s := dropMsg s m.id
        if 152 ≤ m.src then
          (fabCopies s m.src m.line).foldl (fun s h =>
            dropHeld (if granted s (h.1 - 200) (tileOf m.line) ≠ 0 ∧ h.2.st ≠ .c then recallTile s (h.1 - 200) m.line m.src else s) h.1 m.line)
            (dropHeld s m.src m.line)
        else dropHeld s m.src m.line
    | none => s)

/-- The branch that a loss report names: `aux` has bits 2:0 the port, 3 rootward, 4 COMM, and 6 for the tree of a region that has been
flagged. -/
def lossRoot (m : Msg) : Bool := m.aux / 8 % 2 == 1
/-- COMM of a loss report. -/
def lossComm (m : Msg) : Bool := m.aux / 16 % 2 == 1

/-- BRANCH_LOSS_REPORT (03 R69): in turn at the home. -/
def execBranchLossReport (msg : Nat) (s : State) : Host.Outcome State Fault Refusal :=
  .next (match arrived s msg with
    | some m =>
      if m.kind ≠ .branchLoss then s
      else if m.at' ≠ m.home then hop s m (routePort m.at' m.home)
      else if mustWait s m then s
      else if m.aux = 64 then runTx s m none
      else
        let own := match stitchOf s m.home m.line with | some t => t.own | none => false
        if lossComm m then flagRegion (dropMsg s m.id) m.line
        else if !lossRoot m then dropMsg s m.id
        else if own then flagRegion (dropMsg s m.id) m.line
        else if (stitchOf s m.home m.line).isNone then dropMsg s m.id
        else runTx s m none
    | none => s)

/-- The ports of a stitch that have expired at the end of its window (03 R68). -/
def expired (t : Stitch) : List Nat :=
  (portsOf t.mask).filter (fun p => !t.rnwd.getLsbD p && p != t.home)

/-- Branches of a line at a router are lost (03 R68, R72): they are cut and reported homeward, one at L to the controllers too. A wave that
waits for one takes it as acknowledged, and carries the loss of the anchor's branch, or of a partial's, to the home itself. -/
def cutBranches (s : State) (router line : Nat) (t : Stitch) (dead : List Nat) (link : Bool) : State :=
  let home := lineHome s line
  let s := modStitch s router line (fun t => { t with mask := dead.foldl clearPort t.mask })
  let wave := (unpickOf s router line).filter (fun u => u.why ≠ 1)
  let carried (p : Nat) : Bool := match wave with | some u => maskBit { t with mask := u.left } p | none => false
  let s := dead.foldl (fun s p =>
    let arg := 8 * b2n (p == t.root) + 16 * b2n t.comm
    let s := if carried p then s else sendMsg s { newMsg .branchLoss line router 0 home router with aux := p + arg }
    if p = 0 then
      let s := postRecord s { fn := 0, kind := 2, unit := router, addr := 128 * line, arg0 := arg + 32 * b2n link }
      if router < 128 then gatherLeaseLost s router
      else (fabCopies s router line).foldl (fun s h => gatherPathLost s (h.1 - 200)) s
    else s) s
  match unpickOf s router line with
  | some u =>
    let left := dead.foldl clearPort u.left
    let lost := u.lost || (u.why != 1 && dead.any (fun p => carried p && (p == t.root || t.comm)))
    if left = u.left then s else advanceNode s { u with left := left, lost := lost } (u.why = 3 || u.why = 4 || t.comm)
  | none => prune s router line

/-- LEASE_WINDOW_END (03 R68, R72): expired branches are cut and reported, and an unpick that waits for one goes on. -/
def execLeaseWindowEnd (router line : Nat) (s : State) : Host.Outcome State Fault Refusal :=
  .next (match stitchOf s router line with
    | none => s
    | some t =>
      if s.ticks < t.lwin then s
      else cutBranches (modStitch s router line (fun t => { t with rnwd := 0, lwin := t.lwin + leaseTicks s })) router line t (expired t) false)

/-- SCLIM falls below the number of stitches: the router evicts (03 R85). -/
def trimStitches (s : State) (r : Nat) : Nat → State
  | 0 => s
  | n + 1 =>
    let live := (routerOf s r).stitches.filter (fun t => !t.unpk)
    if live.length ≤ fld (rawReg s (.sclim r)) 13 0 then s
    else match (live.filter (fun t => !t.tile || tileQuiet s (tileOf t.line))).getLast? with
      | some v => trimStitches (evictStitch s r v) r n
      | none => s

/-- An access that has not been sent: what its cluster must send for it (03 R55, R59, R73, R75). -/
def requestKind (a : Acc) : MsgKind :=
  if accComm a then (if a.kind = .red then .join else .commRead)
  else if accWrites a || a.kind = .prefW || a.kind = .engW then .write
  else .read

/-- Sends the request of an access; every access of the cluster that it serves goes with it. -/
def request (s : State) (a : Acc) : State :=
  let k := a.core / 4
  let line := lineOf a.pa
  let kind := requestKind a
  let id := s.nextId
  let ev6 := (kind == .read || kind == .commRead) && a.evp == 6
  let m := { newMsg kind line k 0 (lineHome s line) k with ev6 := ev6, pte := a.pte, aux := id }
  let s := sendMsg (renewLine (markRenewal s m) k line) m
  { s with accs := s.accs.map (fun b =>
      if b.core / 4 = k ∧ !b.uncached ∧ lineOf b.pa = line ∧ requestKind b = kind ∧ (kind = .write ∨ kind = .join ∨ (b.pc = a.pc ∧ b.slot = a.slot ∧ b.core = a.core)) ∧
          depsDone s b ∧ !hostAtomic s b then
        { b with sent := true, msg := id } else b) }

end Sys2Proof.Machine
end

