-- ==== Sys2Proof/Machine/Memory.lean ====
section
/-!
DEFINITION. The memory instructions of lanes (12 R297 to R308), their checks (02 R36, R244), page walks (02 R34) and
host atomics (02 R42 to R46).
-/
namespace Sys2Proof.Machine

/-- The function whose interface freezes a register (19 R453), if one does. -/
def frozenFn (s : State) (r : CReg) : Option Nat :=
  let f := match r with
    | .part f k => if k ≤ 4 then f else 0
    | .qctl q => ownerFn s 2 q
    | .cbudget c => ownerFn s 0 c
    | .gquota f => f
    | .cquota n => ownerFn s 3 n
    | .ctrap n => ownerFn s 3 n
    | _ => 0
  if f ≠ 0 ∧ (tget {} s.fns f).tdisp ≠ .configUnlocked then some f else none

/-- The row that a write to the control range is (02 R471). -/
def regRow (s : State) (w : RegWr) : Instr :=
  match regOf (w.off / 8 * 8) with
  | none => .registerWrite w
  | some r =>
    if (frozenFn s r).isSome then .frozenRegisterWrite w
    else match r with
      | .sclim _ => .sclimWrite w
      | .clease => .cleaseWrite w
      | .preq => .preqWrite w
      | .tokpool => .tokpoolWrite w
      | .cbudget _ => .cbudgetWrite w
      | .ctr _ _ => .counterBankWrite w
      | .cxpend _ => .cxpendClear w
      | .part _ k => if k ≤ 4 then .partitionRegisterWrite w else .evctlWrite w
      | .mbtail => .mbtailWrite w
      | .fabcfg => .fabricRegisterWrite w
      | .fport _ => .fabricRegisterWrite w
      | .fpeer _ => .fabricRegisterWrite w
      | .froute _ => .fabricRegisterWrite w
      | .cfabj _ => .fabricRegisterWrite w
      | _ => .registerWrite w

/-- An agenda entry that writes a register. -/
def isRegWrite : Agendum → Bool
  | .event (.sclimWrite _) | .event (.cleaseWrite _) | .event (.preqWrite _) | .event (.tokpoolWrite _)
  | .event (.cbudgetWrite _) | .event (.counterBankWrite _) | .event (.cxpendClear _)
  | .event (.partitionRegisterWrite _) | .event (.evctlWrite _) | .event (.mbtailWrite _)
  | .event (.fabricRegisterWrite _) | .event (.registerWrite _) | .event (.frozenRegisterWrite _) => true
  | _ => false

/-- A register write happens next, after those already posted. -/
def postRegWrite (s : State) (w : RegWr) : State :=
  { s with agenda := s.agenda.takeWhile isRegWrite ++ [.event (regRow s w)] ++ s.agenda.dropWhile isRegWrite }

/-- The part of a register that an access of 4 or 8 bytes reaches. -/
def partOf (off n : Nat) : Part := if n = 8 then .full else if off % 8 = 4 then .high else .low

/-- The effective address of a lane (10 R244). -/
def memAddr (s : State) (x : Iss) (f : FmtM) (l : Nat) : Nat :=
  let b : Int := readOpd s x .i64 f.base.toNat l
  let i := sgnN 32 (readOpd s x .i32 f.index.toNat l)
  let base := if f.asp = 5 then recFld (launchRec s x.sheet) 127 64 else 0
  wrapZ 64 (b + i + sgnN 24 f.off.toNat + base)

/-- The entry under which a host-physical access is made (10 R244): read and write, not cached (log entry 19). -/
def hphysPte : DWord := 0x63

/-- What the checks of one lane's access give (02 R36 steps 1 to 3). -/
inductive LaneOut where
  | ok (pte : DWord) (pa : Nat)
  | fault (cause status : Nat)
  | miss (va : Nat)
  deriving DecidableEq, Repr

/-- A reduction matches a commutative page (12 R307). -/
def redMatches (pte : DWord) (bytes : Nat) (cls : BitVec 3) (subop : BitVec 7) : Bool :=
  let op := subop.toNat % 16
  let int := bytes == 4 && (cls == 1 || cls == 2)
  match pteCfmt pte with
  | 1 => if pteCop pte = 0 then int && op == 0 else bytes == 4 && cls == 1 && op == (if pteCop pte = 1 then 2 else 1)
  | 2 => bytes == 4 && cls == 4 && op == (if pteCop pte = 0 then 8 else if pteCop pte = 1 then 10 else 9)
  | 3 => bytes == 2 && cls == 4 && subop.getLsbD 4 && op == (if pteCop pte = 0 then 8 else if pteCop pte = 1 then 10 else 9)
  | _ => true

/-- The checks of a physical address (02 R36, R471, 12 R306, 04 R103, R105), reached through an entry or, with `direct`, without a
page: the width first, for it belongs to step 1. -/
def placeCheck (s : State) (ctx : Nat) (priv direct : Bool) (kind bytes : Nat) (glb : Bool) (pte : DWord) (pa : Nat) : LaneOut :=
  let narrow := match placeOf s pa with
    | .ctl _ => bytes != 4 && bytes != 8
    | .win _ o => windowNarrow o bytes
    | _ => false
  let far := decide (pa / 2 ^ 48 = 0xD ∨ pa / 2 ^ 48 = 0xE ∨ pa / 2 ^ 48 = 0xF)
  if narrow then .fault cMisalign 1
  else match frameCheck s (pteImode pte) pa with
  | 0 =>
    let win := match placeOf s pa with
      | .win c o => windowCheck s ctx priv (direct || pteP pte) c o bytes
      | _ => (0, 0)
    if glb && far then .fault cPage stPhysHole
    else if win.1 = cPage then .fault cPage win.2
    else if far && decide (2 ≤ kind) then .fault cProt (if pteP pte && !priv then 4 else 2)
    else match permCheck s ctx priv kind pte pa with
      | 0 => if win.1 = 0 then .ok pte pa else .fault win.1 win.2
      | st => .fault cProt st
  | st => .fault cPage st

/-- A walk of this leaf that faulted for a page (02 R33). -/
def walkFaultFor (s : State) (core entry ctx va : Nat) : Option Nat :=
  ((coreOf s core).walkFaults.find? (fun w => w.entry = entry ∧ w.ctx = ctx ∧ w.page = va / 2 ^ 16)).map (·.status)

/-- The checks of an access of `bytes` at `addr` in an address space. `kind` is as in `permCheck`. -/
def laneCheck (s : State) (x : Iss) (asp kind bytes : Nat) (cls : BitVec 3) (subop : BitVec 7) (addr : Nat) : LaneOut :=
  let ctx := x.sheet.ctx
  let priv := x.leaf.priv
  if addr % bytes ≠ 0 then .fault cMisalign 1
  else if asp = 2 ∨ asp = 3 then
    let k := if asp = 3 then addr / 0x80000 else 0
    let o := if asp = 3 then addr % 0x80000 else addr
    let t := sheetTask s x.sheet
    if (asp = 3 ∧ 4 ≤ k) ∨ scratchSize (launchRec s x.sheet) < o + bytes then .fault cProt 8
    else
      let core := if asp = 3 then x.core / 4 * 4 + k else x.core
      .ok hphysPte (0xF000000000000 + core * 0x400000 + 0x80000 + t.scr + o)
  else if asp = 4 then
    if 2 ^ 31 ≤ addr then .fault cPage stPhysHole
    else placeCheck s ctx priv true kind bytes false hphysPte (0xF000000000000 + addr)
  else if asp = 6 then
    if 2 ^ 50 ≤ addr then .fault cPage stPhysHole
    else placeCheck s ctx priv true kind bytes false hphysPte (0x8000000000000 + addr)
  else if !canonical addr then .fault cPage stNonCanonical
  else match tlbLookup s x.core ctx addr with
    | none => (match walkFaultFor s x.core x.entry ctx addr with
      | some st => .fault cPage st
      | none => .miss addr)
    | some e =>
      let pa := paUnder e.pte e.size addr
      let kind := if kind = 4 ∧ !redMatches e.pte bytes cls subop then 5 else kind
      placeCheck s ctx priv false kind bytes (asp == 1) e.pte pa

/-- Queues a walk for a leaf, or joins one in flight for the page; a full miss queue takes none (02 R34). -/
def queueWalk (s : State) (core entry ctx va : Nat) : State :=
  let d := dieOfCore core
  let die := tget {} s.dies d
  let page := va / 2 ^ 16
  let same (w : Walk) : Bool := w.ctx == ctx && w.page == page
  let join (w : Walk) : Walk := if same w && !w.waiters.contains (core, entry) then { w with waiters := w.waiters ++ [(core, entry)] } else w
  if die.active.any same || die.missed.any same then
    { s with dies := tput s.dies d { die with active := die.active.map join, missed := die.missed.map join } }
  else if 128 ≤ die.missed.length then s
  else
    { s with nextId := s.nextId + 1,
             dies := tput s.dies d { die with missed := die.missed ++
               [{ id := s.nextId, ctx := ctx, page := page, level := 4, table := 0, cluster := core / 4, waiters := [(core, entry)] }] } }

/-- The walks of a leaf's walk faults have been used. -/
def dropWalkFaults (s : State) (core entry : Nat) : State :=
  let k := coreOf s core
  if k.walkFaults.isEmpty then s else setCore s core { k with walkFaults := k.walkFaults.filter (fun w => w.entry ≠ entry) }

/-- A walk for a page is in flight or queued. -/
def walkQueued (s : State) (core ctx va : Nat) : Bool :=
  let die := tget {} s.dies (dieOfCore core)
  (die.active ++ die.missed).any (fun w => w.ctx == ctx && w.page == va / 2 ^ 16)

/-- The leaf waits for the walks of its lanes that missed; where the miss queue took one of them no more, for room in it. -/
def waitWalks (s : State) (x : Iss) (vas : List Nat) : State :=
  let t := vas.foldl (fun s va => queueWalk s x.core x.entry x.sheet.ctx va) s
  blockLeaf t x.core x.entry (if vas.all (walkQueued t x.core x.sheet.ctx) then .walks else .walkRoom)

/-- The core's memory pipeline stalls: a leaf of it waits for room in the full miss queue (02 R34). -/
def memStalled (s : State) (c : Nat) : Bool :=
  (coreOf s c).leaves.any (fun p => p.2.st == .blocked .walkRoom) && decide (128 ≤ (tget {} s.dies (dieOfCore c)).missed.length)

/-- A miss brings its translation to the core's TLB from the cluster's (02 R32). -/
def tlbTouch (s : State) (x : Iss) (va : Nat) : State :=
  match tlbLookup s x.core x.sheet.ctx va with
  | some e => if (coreOf s x.core).tlb.contains e then s else tlbFill s x.core e
  | none => s

/-- The 64-bit or wider window of bytes that a host atomic names (02 R43). -/
def enclosing (bytes : Nat) : Nat := if bytes ≤ 4 then 4 else bytes

/-- Accesses overlap: by bytes, or by enclosing words where both are host atomics (02 R44). -/
def overlaps (s : State) (a b : Acc) : Bool :=
  let g (c : Acc) : Nat × Nat :=
    if reachOf s c == .hostAtom then (c.pa / enclosing c.bytes * enclosing c.bytes, enclosing c.bytes) else (c.pa, c.bytes)
  let p := g a
  let q := g b
  decide (p.1 < q.1 + q.2) && decide (q.1 < p.1 + p.2)

/-- The accesses of an operation that a lane makes, `STT`'s stores and `XLATE`'s reads: lane, storage address, bytes, and whether
it writes. -/
def asyncAccs (s : State) (q : Async) : List (Nat × Nat × Nat × Bool) :=
  let at' (lane va n : Nat) (w : Bool) : List (Nat × Nat × Nat × Bool) :=
    match translateNow s q.core q.ctx va with
    | .ok (pte, pa) => [(lane, storeOf s pte pa, n, w)]
    | .error _ => []
  match q.kind with
  | .stt ws _ _ _ => (ws.map (fun w => at' w.lane w.va.toNat w.bytes true)).flatten
  | .xlate _ _ _ items => (items.map (fun i => at' i.1 i.2.1 8 false)).flatten
  | _ => []

/-- The earlier accesses that must perform before a new one: those of its lane where one of the two is ordered (09 R212), those
that merges have put before it (06 R151, 09 R219), and those of its lane, or of its leaf where one writes, to the same bytes (R208). -/
def depsOf (s : State) (x : Iss) (a : Acc) : List Nat :=
  let release := (a.ord == 2 || a.ord == 3) && a.kind != .load
  (s.accs.filter (fun b =>
    !isHint b && b.core == a.core && b.slot == a.slot && !(b.part && b.issue == a.issue && b.lane == a.lane && b.pc == a.pc) &&
      ((b.lane == a.lane && (release || b.ord == 1 || b.ord == 3)) || x.leaf.before.contains b.id ||
       ((b.lane == a.lane || (x.leaf.mask.has b.lane && (accWrites a || accWrites b))) && overlaps s a b)))).map (·.id) ++
  (s.asyncs.filter (fun q => q.core == a.core && q.slot == a.slot &&
    (match asyncAccs s q with
     | [] => false
     | ps => (q.mask.has a.lane && release) || x.leaf.before.contains q.id ||
        ps.any (fun p => (p.1 == a.lane || (x.leaf.mask.has p.1 && (accWrites a || p.2.2.2))) &&
          decide (p.2.1 < a.pa + a.bytes) && decide (a.pa < p.2.1 + p.2.2.1))))).map (·.id)

/-- An access of a lane that an operation makes, as `depsOf` takes it, or none where the address does not translate. -/
def probeAcc (s : State) (x : Iss) (kind : AccKind) (ord : BitVec 2) (lane va n : Nat) : Option Acc :=
  match translateNow s x.core x.sheet.ctx va with
  | .ok (pte, pa) => some
    { id := 0, kind := kind, core := x.core, slot := x.leaf.slot, lane := lane, pc := x.leaf.pc, pa := storeOf s pte pa,
      va := BitVec.ofNat 64 va, bytes := n, pte := pte, uncached := false, ord := ord, scope := 5, evp := 0, subop := 0, cls := 0,
      dst := 0, live := 0, d := 0, c := 0, deps := [] }
  | .error _ => none

/-- What stands before accesses of lanes that an operation makes (09 R208, R212): lane, address and bytes of each. -/
def depsAll (s : State) (x : Iss) (kind : AccKind) (ord : BitVec 2) (ps : List (Nat × Nat × Nat)) : List Nat :=
  ((ps.filterMap (fun p => probeAcc s x kind ord p.1 p.2.1 p.2.2)).map (depsOf s x)).flatten.eraseDups

/-- The access is one of local HBM at device scope or below. -/
def nearStore (s : State) (a : Acc) : Bool :=
  accWrites a && a.scope.toNat ≤ 5 && (match placeOf s a.pa with | .hbm _ => true | _ => false)

/-- Of what a release is ordered after, the plain stores that it need not wait for: its readers do (09 R212, R213; log entry 94). -/
def softOf (s : State) (x : Iss) (a : Acc) : List Nat :=
  if a.ord != 2 || !nearStore s a then []
  else
    let hard := depsOf s x { a with ord := 0 }
    (s.accs.filter (fun b => (depsOf s x a).contains b.id && !hard.contains b.id && b.kind == .store && (b.ord == 0 || b.ord == 2) &&
      nearStore s b)).map (·.id)

/-- Lists an access as outstanding. -/
def addAcc (s : State) (x : Iss) (a : Acc) : State :=
  let a := { a with id := s.nextId }
  let soft := softOf s x a
  { s with nextId := s.nextId + 1, accs := s.accs ++ [{ a with deps := (depsOf s x a).filter (fun i => !soft.contains i), soft := soft }] }

/-- An access to on-chip storage performs (04 R98, R102, 12 R306): its state, or POISON with status WINDOW (17 R416). -/
def performChip (s : State) (a : Acc) : Except (Nat × Nat) State :=
  match placeOf s a.pa with
  | .win c o =>
    match accEffect a ((windowRead s c o a.bytes).getD []) (windowRead s c o a.bytes).isNone with
    | none => .error (cPoison, if o < 0x80000 then 2 else 1)
    | some (w, r) => .ok (writeWords (match w with | some bs => windowWrite s c o bs | none => s) a r)
  | .ctl o =>
    if a.kind = .store then
      .ok (postRegWrite s { off := o, part := partOf o a.bytes, val := BitVec.ofNat 64 (a.d % 2 ^ (8 * a.bytes)) })
    else
      let v := readCtl s (o / 8 * 8)
      .ok (writeWords s a (extendWords a.cls a.bytes (if partOf o a.bytes = .high then v.toNat / 2 ^ 32 else v.toNat % 2 ^ (8 * a.bytes))))
  | _ => .ok s

/-- A DEVX atomic: the host router reads and writes the enclosing word under its lock (02 R46). -/
def performDevx (s : State) (a : Acc) : State :=
  performAll (collapse s (lineOf a.pa)) [a] performHome

/-- The AtomicOp of an access: 1 FetchAdd, 2 Swap, 3 CAS, or 0 for the loop of R43 (02 R42). -/
def atomicOpOf (a : Acc) : Nat :=
  let op := a.subop.toNat % 16
  if op = 0 ∧ 4 ≤ a.bytes then 1 else if op = 6 ∧ 4 ≤ a.bytes then 2 else if op = 7 then 3 else 0

/-- A host atomic ends in HOST-ATOMIC: it waits, failed, until the leaf's other accesses are done (02 R45). -/
def failAcc (s : State) (id status : Nat) : State := modAcc s id (fun a => { a with fail := status, sent := true })

/-- The failed accesses of the leaf that holds an access, with that leaf, where no other access of it is
outstanding. -/
def hostFailed (s : State) (a : Acc) : Option (Nat × Leaf × List Acc) :=
  match leafOfLane s a.core a.slot a.lane with
  | none => none
  | some (e, l) =>
    let mine := s.accs.filter (fun b => b.core = a.core ∧ b.slot = a.slot ∧ l.mask.has b.lane ∧ !isHint b)
    if mine.all (fun b => b.fail ≠ 0) then some (e, l, mine.filter (fun b => b.pc = a.pc)) else none

/-- HOST-ATOMIC is taken (02 R45): at the instruction, for the lanes that did not perform. -/
def raiseHostAtomic (s : State) (a : Acc) : State :=
  match hostFailed s a with
  | none => s
  | some (e, _, fs) =>
    let m := maskOf (fun l => fs.any (fun b => b.lane = l))
    let st := fs.foldl (fun n b => if n = 0 ∨ b.fail < n then b.fail else n) 0
    let s := fs.foldl (fun s b => dropAcc s b.id) s
    trapRec s a.core e { cause := cHostAtomic, status := st, lanes := m, pc := a.pc }

/-- The host router takes a host atomic (02 R42 to R46). -/
def sendHostAtomic (s : State) (a : Acc) : State :=
  if pteDevx a.pte then performDevx s a
  else if !s.atomicOpEnable then failAcc s a.id 1
  else
    let s := modAcc (collapse s (lineOf a.pa)) a.id (fun a => { a with sent := true })
    match atomicOpOf a with
    | 0 =>
      let n := enclosing a.bytes
      { s with hostOut := s.hostOut ++ [.readReq a.id (a.pa / n * n) n] }
    | 3 => { s with hostOut := s.hostOut ++ [.atomicOp a.id a.pa 3 a.bytes a.c a.d] }
    | op => { s with hostOut := s.hostOut ++ [.atomicOp a.id a.pa op a.bytes a.d 0] }

/-- A plain Emsen request for an access (09 R215, 19 R458). -/
def sendEmsen (s : State) (a : Acc) (dev : Nat) : State :=
  let r := fresh s
  let dl := emsenDeadline s
  let s := modAcc r.2 a.id (fun a => { a with sent := true, deadline := dl })
  emit { s with emsen := s.emsen ++ [{ id := r.1, dev := dev, deadline := dl, use := .access a.id }] }
    (.request r.1 dev a.pa a.bytes (a.kind == .store) (if a.kind = .store then toBytes a.bytes a.d else []) dl)

/-- LOAD_DATA_RETURN (12 R300, 10 R239): an access whose earlier accesses have performed is sent, or performs where it
can at once. -/
def execLoadDataReturn (acc : Nat) (s : State) : Host.Outcome State Fault Refusal :=
  .next (match accOf s acc with
    | none => s
    | some a =>
      let line := lineOf a.pa
      if a.fail ≠ 0 ∨ !depsDone s a ∨ snapNeeded s a then s
      else match reachOf s a with
        | .home => s
        | .chip _ _ => performAll s [a] performChip
        | .ctl _ => performAll s [a] performChip
        | .emsen d => if a.sent then s else sendEmsen s a d
        | .hostAtom => if a.sent ∨ !quiet s line then s else sendHostAtomic s a
        | .cache =>
          match (cacheLine s (a.core / 4) line).map (fun l => lineServes l a) with
          | some true => performAll s [a] performHere
          | _ => if requested s (a.core / 4) line then s else request s a)

/-- An access, not a part of one, can perform as soon as it is made: on-chip, in a line that its cluster holds, or a host atomic that ends at once. -/
def atOnce (s : State) (a : Acc) : Bool :=
  !a.part && match reachOf s a with
  | .chip _ _ => true
  | .ctl _ => true
  | .cache => (match (cacheLine s (a.core / 4) (lineOf a.pa)).map (fun l => lineServes l a) with
    | some b => b
    | none => false)
  | .hostAtom => (pteDevx a.pte || !s.atomicOpEnable) && quiet s (lineOf a.pa)
  | _ => false

/-- The accesses just listed that can perform at once do so, in their order. -/
def performReady (s : State) (ids : List Nat) : State :=
  ids.foldl (fun s id =>
    match accOf s id with
    | none => s
    | some a =>
      if atOnce s a then (match execLoadDataReturn id s with
        | .next t => t
        | _ => s) else s) s

/-- The numbers, from `lo`, of the accesses for which `p` holds. -/
def numbered (as : List Acc) (lo : Nat) (p : Acc → Bool) : List Nat := (as.zipIdx.filter (fun a => p a.1)).map (fun a => lo + a.2)

/-- A write reaches host or peer memory: the launch can no longer be rolled back (17 R431). -/
def noteOutside (s : State) (x : Iss) (as : List Acc) : State :=
  if as.any (fun a => accWrites a && (match placeOf s a.pa with | .host _ => true | .peer _ _ => true | .peerMap _ _ => true | .ctl _ => true | _ => false)) then
    modLaunch s x.sheet.ctx x.sheet.launch (fun l => if l.unrecoverable.isNone then { l with unrecoverable := some 5 } else l)
  else s

/-- A register that a full-mask write of loaded data forms anew is clear of poison (06 R140, 12 R300). -/
def freshReg (s : State) (x : Iss) (c : Nat) : State :=
  let k := coreOf s x.core
  if tget false k.regPoison (x.sheet.base + c) then setCore s x.core { k with regPoison := tset false k.regPoison (x.sheet.base + c) false } else s

/-- The accesses of the lanes that passed are made in lane order, and the leaf goes on (12 R300, R301, R305). -/
def makeAccs (s : State) (x : Iss) (h : Hdr) (as : List Acc) (dst : List Nat) : State :=
  let m := maskOf (fun l => as.any (fun a => a.lane = l))
  let s := dst.foldl (fun s c => dropPending s x c m) (if m = BitVec.allOnes 32 then dst.foldl (fun s c => freshReg s x c) s else s)
  let lo := s.nextId
  let s := noteOutside s x as
  let now := numbered as lo (atOnce s)
  let held := numbered as lo (fun a => reachOf s a == .hostAtom)
  let s := performReady (doneOp (dropWalkFaults (as.foldl (fun s a => addAcc s x a) s) x.core x.entry) x h) now
  let host := s.accs.filter (fun a => held.contains a.id)
  match host with
  | [] => s
  | a :: _ =>
    if host.all (fun a => a.fail ≠ 0) && (hostFailed s a).isSome then raiseHostAtomic s a
    else match leafOfLane s x.core x.leaf.slot a.lane with
      | some (e, _) => blockLeaf s x.core e (.results (host.map (·.id)))
      | none => s

/-- The widths that are single-copy atomic at an access's place (09 R210, 04 R102). -/
def atomicWidth (s : State) (a : Acc) : Nat :=
  match placeOf s a.pa with
  | .host _ => 8
  | .win _ o => if o < 0x80000 then 4 else 8
  | _ => 16

/-- The parts of a load or store, each of which performs on its own (09 R210). -/
def accParts (s : State) (a : Acc) : List Acc :=
  let w := atomicWidth s a
  if a.bytes ≤ w ∨ (a.kind ≠ .load ∧ a.kind ≠ .store) then [a]
  else (List.range (a.bytes / w)).map (fun i =>
    { a with pa := a.pa + w * i, bytes := w, d := a.d / 2 ^ (8 * w * i), dst := a.dst + BitVec.ofNat 9 (w * i / 4), part := true,
             live := a.live &&& BitVec.ofNat 8 (2 ^ (w / 4) - 1) })

/-- A memory instruction of lanes: the checks of every active lane, walks for those that miss, parking of those that
fault, and the accesses of the rest (12 R299, 02 R38). -/
def memOp (s : State) (x : Iss) (h : Hdr) (act : Mask) (drop : Bool) (check : Nat → LaneOut) (mk : Nat → DWord → Nat → Acc)
    (addr : Nat → Nat) (dst : List Nat) : State :=
  let outs := (laneList act).map (fun l => (l, check l))
  let misses := outs.filterMap (fun o => match o.2 with | .miss va => some va | _ => none)
  if memStalled s x.core then blockLeaf s x.core x.entry .walkRoom
  else if !misses.isEmpty then waitWalks s x misses
  else
    let s := (laneList act).foldl (fun s l => tlbTouch s x (addr l)) s
    let oks := (outs.filterMap (fun o => match o.2 with | .ok pte pa => some (accParts s (mk o.1 pte pa)) | _ => none)).flatten
    let fs := outs.filterMap (fun o => match o.2 with
      | .fault c st => some ({ lane := o.1, cause := c, status := st, addr := addr o.1 } : LaneFault)
      | _ => none)
    if fs.isEmpty || drop then makeAccs s x h oks dst
    else match parkLanes s x.core x.entry x.leaf.pc fs none with
      | .all t => dropWalkFaults t x.core x.entry
      | .some' t => makeAccs t (reload t x) h oks dst

/-- An access of the issuing leaf's lane, before its place is known. -/
def accOfLane (s : State) (x : Iss) (f : FmtM) (kind : AccKind) (bytes l addr : Nat) (pte : DWord) (pa words d c : Nat) : Acc :=
  let comm := pteCfmt pte != 0
  { id := 0, kind := kind, core := x.core, slot := x.leaf.slot, lane := l, pc := x.leaf.pc, pa := storeOf s pte pa,
    va := BitVec.ofNat 64 addr, bytes := bytes, pte := pte,
    uncached := (!pteC pte || (f.ord == 3 && decide (6 ≤ f.scope.toNat))) && !comm,
    ord := f.ord, scope := f.scope, evp := f.evp, subop := f.subop, cls := f.h.cls, dst := f.data,
    live := BitVec.ofNat 8 (2 ^ words - 1), d := d, c := c, deps := [], issue := issueNo s x.core x.entry }

/-- Registers of a data group of `n` bytes. -/
def dataRegs (n : Nat) : Nat := max 1 (n / 4)

/-- The type of a load or store (12 R298). -/
def memType (f : FmtM) : Bool :=
  let c := f.h.cls.toNat
  match f.wid.toNat with
  | 0 => c == 1 || c == 2
  | 1 => c == 1 || c == 2
  | 2 => c == 1 || c == 2 || c == 3
  | 3 => c == 1 || c == 2 || c == 3
  | 4 => c == 3
  | 5 => c == 3
  | _ => false

/-- The uses of a memory instruction. -/
def memUses (f : FmtM) (data : Role) : List (Opd × Role) := [(f.data, data), (f.base, .src .i64), (f.index, .src .i32)]

/-- The value of a data group from register `c` in a lane. -/
def groupVal (s : State) (x : Iss) (c n l : Nat) : Nat :=
  if isV c then (List.range n).foldl (fun v i => v + readElem s x (c + i) l * 2 ^ (32 * i)) 0
  else if isS c then readElem s x c l else 0

/-- The fields, operands and privilege that `execLd` asks for (10 R237). -/
def sigLd (f : FmtM) : Sig :=
  let n := widBytes f.wid
  { ok := memType f && f.subop == 0 && f.ord != 2 && f.asp.toNat < 7, uses := memUses f (.grpDst (dataRegs n)), priv := f.asp == 6 }

/-- LD (12 R300). -/
def execLd (f : FmtM) (s : State) : Host.Outcome State Fault Refusal :=
  let n := widBytes f.wid
  issueOp s f.h (sigLd f)
    (fun s x act =>
      if act = 0 then doneOp s x f.h
      else
        let addr (l : Nat) : Nat := memAddr s x f l
        memOp s x f.h act false (fun l => laneCheck s x f.asp.toNat 0 n f.h.cls f.subop (addr l))
          (fun l pte pa => accOfLane s x f .load n l (addr l) pte pa (dataRegs n) 0 0) addr
          ((List.range (dataRegs n)).map (· + f.data.toNat)))

/-- The fields, operands and privilege that `execSt` asks for (10 R237). -/
def sigSt (f : FmtM) : Sig :=
  let n := widBytes f.wid
  { ok := memType f && f.subop == 0 && f.ord != 1 && f.asp.toNat < 7 && f.asp != 5, uses := memUses f (.stData (dataRegs n)),
    priv := f.asp == 6 }

/-- ST (12 R301). -/
def execSt (f : FmtM) (s : State) : Host.Outcome State Fault Refusal :=
  let n := widBytes f.wid
  issueOp s f.h (sigSt f)
    (fun s x act =>
      if act = 0 then doneOp s x f.h
      else
        let addr (l : Nat) : Nat := memAddr s x f l
        memOp s x f.h act false (fun l => laneCheck s x f.asp.toNat 1 n f.h.cls f.subop (addr l))
          (fun l pte pa => accOfLane s x f .store n l (addr l) pte pa 0 (groupVal s x f.data.toNat (dataRegs n) l) 0) addr [])

/-- The operation and type of an atomic are legal (12 R303). -/
def atomType (f : FmtM) (red : Bool) : Bool :=
  let op := f.subop.toNat % 16
  let c := f.h.cls.toNat
  let w := f.wid.toNat
  let bf := f.subop.getLsbD 4
  f.subop.toNat < 32 && (!bf || (c == 4 && w == 1 && decide (8 ≤ op))) &&
  (if op ≤ 5 then decide (w ≤ 3) && (c == 1 || c == 2)
   else if op = 6 then !red && c == 3 && (w == 2 || w == 3)
   else if op = 7 then !red && c == 3 && (w == 2 || w == 3 || (w == 4 && f.asp != 2 && f.asp != 3))
   else if op ≤ 10 then c == 4 && (w == 2 || w == 1)
   else false)

/-- The fields, operands and privilege that `atomOp` asks for (10 R237). -/
def sigAtomOp (f : FmtM) (red : Bool) : Sig :=
  let n := widBytes f.wid
  let cas := f.subop.toNat % 16 == 7
  let regs := dataRegs n
  let g := if cas then 2 * regs else regs
  let aspOk := f.asp.toNat ≤ 3 || f.asp == 6
  { ok := atomType f red && aspOk && !(red && f.ord == 1),
    uses := memUses f (if red then .grpSrc g else .grpBoth g), priv := f.asp == 6 }

/-- ATOM and RED (12 R305). -/
def atomOp (f : FmtM) (red : Bool) (s : State) : Host.Outcome State Fault Refusal :=
  let n := widBytes f.wid
  let cas := f.subop.toNat % 16 == 7
  let regs := dataRegs n
  issueOp s f.h (sigAtomOp f red)
    (fun s x act =>
      if act = 0 then doneOp s x f.h
      else
        let addr (l : Nat) : Nat := memAddr s x f l
        let c := f.data.toNat
        memOp s x f.h act false (fun l => laneCheck s x f.asp.toNat (if red then 4 else 2) n f.h.cls f.subop (addr l))
          (fun l pte pa => accOfLane s x f (if red then .red else .atom) n l (addr l) pte pa (if red then 0 else regs)
            (groupVal s x (if cas then c + regs else c) regs l) (if cas then groupVal s x c regs l else 0)) addr
          (if red then [] else (List.range regs).map (· + c)))

/-- ATOM (12 R305). -/
def execAtom (f : FmtM) (s : State) : Host.Outcome State Fault Refusal := atomOp f false s
/-- RED (12 R305). -/
def execRed (f : FmtM) (s : State) : Host.Outcome State Fault Refusal := atomOp f true s

/-- The fields, operands and privilege that `execPref` asks for (10 R237). -/
def sigPref (f : FmtM) : Sig :=
  { ok := noType f.h && f.wid == 0 && f.subop.toNat < 2 && f.ord == 0 && (f.asp.toNat < 2 || f.asp == 5), uses := memUses f .unused }

/-- PREF (12 R308): lanes that would fault, whose page is commutative, or whose place is never cached are dropped. -/
def execPref (f : FmtM) (s : State) : Host.Outcome State Fault Refusal :=
  let w := f.subop == 1
  issueOp s f.h (sigPref f)
    (fun s x act =>
      if act = 0 then doneOp s x f.h
      else
        let addr (l : Nat) : Nat := memAddr s x f l
        let check (l : Nat) : LaneOut :=
          match laneCheck s x f.asp.toNat (if w then 1 else 0) 1 f.h.cls f.subop (addr l) with
          | .ok pte pa =>
            if pteCfmt pte ≠ 0 ∨ !pteC pte ∨ 0xD ≤ pa / 2 ^ 48 then .fault cProt 0 else .ok pte pa
          | o => o
        memOp s x f.h act true check
          (fun l pte pa => accOfLane s x f (if w then .prefW else .prefR) 1 l (addr l) pte pa 0 0 0) addr [])

/-- Host memory holds a word, as its completion tells (02 R42, R43). -/
def hostHolds (s : State) (pa n v : Nat) : State := storeMem s pa (toBytes n v)

/-- A host atomic performs over the value that its completion returns (02 R42, R43): host memory holds the result, and an `ATOM`'s
lane the old value. -/
def hostPerform (s : State) (a : Acc) (old : Nat) : State :=
  let s := accSpoil (hostHolds s a.pa a.bytes (atomApply a.subop a.cls a.bytes old a.d a.c)) a
  writeWords (dropAcc s a.id) a (if a.kind = .atom then extendWords a.cls a.bytes old else [])

/-- A host atomic has failed; HOST-ATOMIC is taken as soon as the leaf's other accesses are done (02 R45). -/
def hostFail (s : State) (a : Acc) (status : Nat) : State := raiseHostAtomic (failAcc s a.id status) a

/-- ATOMICOP_COMPLETION (02 R42, R45). An access that has failed raises HOST-ATOMIC when its leaf is ready for it. -/
def execAtomicopCompletion (acc : Nat) (refused : Bool) (old : BitVec 128) (s : State) : Host.Outcome State Fault Refusal :=
  .next (match accOf s acc with
    | none => s
    | some a =>
      if a.fail ≠ 0 then raiseHostAtomic s a
      else if !a.sent ∨ reachOf s a ≠ .hostAtom ∨ atomicOpOf a = 0 then s
      else if refused then hostFail s a 2
      else hostPerform s a (old.toNat % 2 ^ (8 * a.bytes)))

/-- The compare-and-swap of one attempt (02 R43). -/
def sendCas (s : State) (a : Acc) (seen attempt : Nat) : State :=
  let n := enclosing a.bytes
  let sh := 8 * (a.pa % n)
  let old := seen / 2 ^ sh % 2 ^ (8 * a.bytes)
  let new := putSlice seen (sh + 8 * a.bytes - 1) sh (atomApply a.subop a.cls a.bytes old a.d a.c)
  let s := modAcc s a.id (fun a => { a with seen := seen, attempt := attempt })
  { s with hostOut := s.hostOut ++ [.atomicOp a.id (a.pa / n * n) 3 n seen new] }

/-- HOST_READ_COMPLETION (02 R43): the first attempt. -/
def execHostReadCompletion (acc : Nat) (data : BitVec 128) (s : State) : Host.Outcome State Fault Refusal :=
  .next (match accOf s acc with
    | none => s
    | some a =>
      if !a.sent ∨ a.fail ≠ 0 ∨ a.attempt ≠ 0 ∨ reachOf s a ≠ .hostAtom ∨ atomicOpOf a ≠ 0 then s
      else
        let v := data.toNat % 2 ^ (8 * enclosing a.bytes)
        sendCas (hostHolds s (a.pa / enclosing a.bytes * enclosing a.bytes) (enclosing a.bytes) v) a v 1)

/-- HOST_CAS_COMPLETION (02 R43): the atomic performs where the word was as read; else the next attempt, 256 at most. -/
def execHostCasCompletion (acc : Nat) (refused : Bool) (seen : BitVec 128) (s : State) : Host.Outcome State Fault Refusal :=
  .next (match accOf s acc with
    | none => s
    | some a =>
      let v := seen.toNat % 2 ^ (8 * enclosing a.bytes)
      let held := hostHolds s (a.pa / enclosing a.bytes * enclosing a.bytes) (enclosing a.bytes) v
      if a.attempt = 0 ∨ a.fail ≠ 0 then s
      else if refused then hostFail s a 2
      else if v = a.seen then hostPerform held a (v / 2 ^ (8 * (a.pa % enclosing a.bytes)) % 2 ^ (8 * a.bytes))
      else if 256 ≤ a.attempt then hostFail held a 3
      else sendCas held a v (a.attempt + 1))

/-- The walk of a die with an id. -/
def walkOf (s : State) (d id : Nat) : Option Walk := (tget {} s.dies d).active.find? (fun w => w.id = id)

/-- A walk ends: its waiters may issue again. -/
def endWalk (s : State) (d id : Nat) : State :=
  let die := tget {} s.dies d
  { s with dies := tput s.dies d { die with active := die.active.filter (fun w => w.id ≠ id) } }

/-- A walk faults for every leaf that waits on it (02 R34). -/
def faultWalk (s : State) (d : Nat) (w : Walk) (status : Nat) : State :=
  w.waiters.foldl (fun s p =>
    let k := coreOf s p.1
    setCore s p.1 { k with walkFaults := k.walkFaults ++ [{ entry := p.2, ctx := w.ctx, page := w.page, status := status }] })
    (endWalk s d w.id)

/-- TLB_MISS_WALK (02 R34): the oldest miss takes a free walker, which starts at the context's root. -/
def execTlbMissWalk (die : Nat) (s : State) : Host.Outcome State Fault Refusal :=
  .next (
    let d := tget {} s.dies die
    match d.missed with
    | [] => s
    | w :: rest =>
      if 32 ≤ d.active.length then s
      else
        let w := { w with table := ((ctxOf s w.ctx).map (·.root)).getD 0, level := 4 }
        let s := { s with dies := tput s.dies die { d with missed := rest, active := d.active ++ [w] } }
        if (ctxOf s w.ctx).isNone then faultWalk s die w stNotPresent else s)

/-- The line of the entry that a walk reads next. -/
def walkLine (w : Walk) : Nat := lineOf (entryAddr w.table w.level (w.page * 2 ^ 16))

/-- WALK_READ_RETURN (02 R34): the entry of one level, from the walk cache or as a coherent read. -/
def execWalkReadReturn (die walk : Nat) (s : State) : Host.Outcome State Fault Refusal :=
  .next (match walkOf s die walk with
    | none => s
    | some w =>
      let d := tget {} s.dies die
      let a := entryAddr w.table w.level (w.page * 2 ^ 16)
      let hit := (d.walkCache.find? (fun p => p.1 = a)).map (·.2)
      if hit.isNone && !quiet s (lineOf a) then s
      else
        let r := coherentRead s a 8
        let e := hit.getD (BitVec.ofNat 64 (leBytes r.1))
        match walkEntry s w.ctx w.level e (hit.isNone && r.2) with
        | .next t =>
          let die' := { d with
            active := d.active.map (fun v => if v.id = walk then { v with table := t, level := v.level - 1 } else v),
            walkCache := ((a, e) :: d.walkCache.filter (fun p => p.1 ≠ a)).take 256 }
          { s with dies := tput s.dies die die' }
        | .leaf e =>
          let t := tlbEntryOf w.ctx (w.page * 2 ^ 16) w.level e
          let st := frameCheck s (pteImode e) (paUnder e t.size (w.page * 2 ^ 16))
          if st ≠ 0 then faultWalk s die w st
          else w.waiters.foldl (fun s p => tlbFill s p.1 t) (endWalk s die walk)
        | .fault st => faultWalk s die w st)

end Sys2Proof.Machine
end

