-- ==== Sys2Proof/Machine/Range.lean ====
section
/-!
DEFINITION. Range flush and invalidate (03 R82, R83, 12 R309 to R311), fences (09 R217, R218, 12 R312), and the fetch
of a line (10 R230 to R233, 02 R39).
-/
namespace Sys2Proof.Machine

/-- Starts an operation of the leader lane: its lane's earlier accesses stand before it (09 R221). -/
def startOp (s : State) (x : Iss) (act : Mask) (tag : Nat) (scope : BitVec 3) (k : AsyncKind) : State :=
  let lead := maskOf (fun l => lowLane act == some l)
  let deps := accsOfLanes s x lead
  let r := startAsync s x act tag scope k
  modAsync r.2 r.1 (fun a => { a with deps := deps })

/-- The accesses that an operation waits for have performed. -/
def opReady (s : State) (a : Async) : Bool := !idsLeft s a.deps

/-- A part of a range inside one 4 KiB row: its storage address and length. -/
abbrev Chunk := Nat × Nat

/-- The 4 KiB rows of `n` bytes at an address. -/
def rowsOf (a n : Nat) : List (Nat × Nat) :=
  if n = 0 then []
  else (List.range ((a + n - 1) / 4096 + 1 - a / 4096)).map (fun i =>
    let lo := max a ((a / 4096 + i) * 4096)
    let hi := min (a + n) ((a / 4096 + i + 1) * 4096)
    (lo, hi - lo))

/-- The storage addresses and lengths of a context's memory that translate now, in local HBM and host memory. -/
def memRanges (s : State) (core ctx va n : Nat) : List (Nat × Nat) :=
  (rowsOf va n).filterMap (fun r => match translateNow s core ctx (r.1 % 2 ^ 64) with
    | .ok (pte, pa) => (match placeOf s pa with
      | .hbm _ => some (storeOf s pte pa, r.2)
      | .host _ => some (pa, r.2)
      | _ => none)
    | .error _ => none)

/-- What the engine finds of one row of its range (12 R310). -/
inductive RowOut where
  | ok (pte : DWord) (chunk : Chunk)
  | bad (cause status : Nat) (va : Nat)
  deriving DecidableEq, Repr

/-- The check of a page of a range operation (12 R310): P, then R for a flush and W for an invalidate. -/
def rangePerm (s : State) (ctx : Nat) (priv inv : Bool) (pte : DWord) (pa : Nat) : Nat :=
  if pteP pte && !priv then 4
  else if !inv && !pteR pte then 1
  else if inv && !(pteW pte || pteRdup pte || pteCfmt pte != 0) then 2
  else if partitionOk s ctx pa then 0 else 0xA

/-- One row of a range under an operation's context. -/
def rowOut (s : State) (core ctx : Nat) (priv inv : Bool) (asp : Nat) (r : Nat × Nat) : RowOut :=
  let tr : Except Nat (DWord × Nat) :=
    if asp = 6 then (if 2 ^ 50 ≤ r.1 then .error stPhysHole else .ok (hphysPte, 0x8000000000000 + r.1))
    else translateNow s core ctx r.1
  match tr with
  | .error st => .bad cPage st r.1
  | .ok (pte, pa) =>
    if asp = 1 ∧ 0xD ≤ pa / 2 ^ 48 then .bad cPage stPhysHole r.1
    else match rangePerm s ctx priv inv pte pa with
      | 0 => .ok pte (storeOf s pte pa, r.2)
      | st => .bad cProt st r.1

/-- The lines of a chunk that some agent holds, some router has stitched, or something in flight is about. -/
def heldLines (s : State) (c : Chunk) : List Nat :=
  let inside (l : Nat) : Bool := decide (lineOf c.1 ≤ l) && decide (l ≤ lineOf (c.1 + c.2 - 1))
  let a := (s.clusters.map (fun k => (k.2.cache.map (·.line)).filter inside)).flatten
  let b := (s.routers.map (fun r => ((r.2.stitches.filter (fun t => !t.tile)).map (·.line)).filter inside)).flatten
  (a ++ b ++ (s.msgs.map (·.line)).filter inside ++ (s.homeTx.map (·.line)).filter inside).eraseDups

/-- CFLUSH of a line with no partial (03 R82): the dirty copy, or dirty bytes on their way, are written to memory. -/
def flushLine (s : State) (line : Nat) : State :=
  match (holdersOf s line).find? (fun h => h.2.st = .m || h.2.st = .o) with
  | some h =>
    let s := writeHome s line h.2.data h.2.poison
    let s := modLine s h.1 line (fun l => { l with st := if l.st = .m then .e else .s })
    if h.2.st = .o then modStitch s (lineHome s line) line (fun t => { t with own := false }) else s
  | none => match movingLine s line with
    | some d => writeHome s line d.1 d.2
    | none => s

/-- A message of a range operation. -/
def ofRange (op : Nat) (m : Msg) : Bool := (m.kind == .rangeFlush || m.kind == .rangeInv) && m.aux == op

/-- A range operation's turn at a line's home (03 R49, R82): CINV invalidates the whole tree; CFLUSH collects partials, recalls a tile
that another device holds in E or M, and writes a dirty copy home. -/
def rangeTurn (s : State) (m : Msg) : State :=
  if mustWait s m then s
  else match stitchOf s m.home m.line with
    | none =>
      let s := dropMsg s m.id
      if m.kind = .rangeInv then discard ((holdersOf s m.line).foldl (fun s h => countFor s m.aux h.2.st) s) m.line else flushLine s m.line
    | some t =>
      if t.unpk then s
      else if m.kind = .rangeInv then runTx s m none
      else if t.comm then
        let v := openGather s m
        if v.2 then v.1 else closeTx v.1 m.line
      else if (grantedTo s (tileOf m.line)).any (fun d => decide (2 ≤ granted s d (tileOf m.line))) then recallLine s m.line
      else flushLine (dropMsg s m.id) m.line

/-- The rows of a range operation. -/
def rangeRows (s : State) (core ctx : Nat) (priv inv : Bool) (asp va len : Nat) : List RowOut :=
  (rowsOf va len).map (rowOut s core ctx priv inv asp)

/-- A range operation is taken up: each line of its pages becomes a home transaction (03 R82). An unprivileged CINV that meets a fault
acts on no line (12 R310). -/
def rangeStart (s : State) (a : Async) (inv : Bool) (asp : Nat) (va : DWord) (len : Nat) : State :=
  let rows := rangeRows s a.core a.ctx a.priv inv asp va.toNat len
  let bads := rows.filterMap (fun r => match r with | .bad c st v => some (c, st, v) | _ => none)
  let chunks := if inv ∧ !a.priv ∧ !bads.isEmpty then [] else rows.filterMap (fun r => match r with | .ok _ c => some c | _ => none)
  let found := (bads.foldl (fun n b => worse n (tsOfCause b.1)) 0, ((bads.head?).map (fun b => BitVec.ofNat 64 b.2.2)).getD 0)
  let lines := ((chunks.map (heldLines s)).flatten).eraseDups
  let s := modAsync s a.id (fun a => { a with kind := .range inv asp va len (some found) })
  lines.foldl (fun s l =>
    sendMsg s { newMsg (if inv then .rangeInv else .rangeFlush) l (lineHome s l) 0 (lineHome s l) (lineHome s l) with aux := a.id }) s

/-- RANGE_OP_COMPLETE (12 R310): each line of each page is acted on in its turn, and the tag completes with the worst status. -/
def execRangeOpComplete (op : Nat) (s : State) : Host.Outcome State Fault Refusal :=
  .next (match asyncOf s op with
    | none => s
    | some a =>
      match a.kind with
      | .range inv asp va len found =>
        if a.cancelled then completeTag (dropAsync s op) a.core a.tag tsCancelled 0
        else if !opReady s a then s
        else match found with
          | none => rangeStart s a inv asp va len
          | some f =>
            let ms := s.msgs.filter (ofRange op)
            if ms.isEmpty && s.homeTx.all (fun t => !ofRange op t.msg) then completeTag (dropAsync s op) a.core a.tag f.1 f.2
            else match ms.find? (fun m => rangeTurn s m != s) with
              | some m => rangeTurn s m
              | none => s
      | _ => s)

/-- The fields, operands and privilege that `rangeOp` asks for (10 R237). -/
def sigRangeOp (f : FmtM) : Sig :=
  { ok := noType f.h && f.wid == 0 && f.subop == 0 && f.ord == 0 && decide (5 ≤ f.scope.toNat) && f.evp == 0 &&
      (f.asp.toNat < 2 || f.asp == 6),
    uses := [(f.data, .tagDst), (f.base, .uni64), (f.index, .src .i32)], priv := f.asp == 6 }

/-- CFLUSH and CINV (12 R309, R311). -/
def rangeOp (inv : Bool) (f : FmtM) (s : State) : Host.Outcome State Fault Refusal :=
  issueOp s f.h (sigRangeOp f)
    (fun s x act =>
      if act = 0 then doneOp s x f.h
      else
        let va := wrapZ 64 ((uniOpd s x act .i64 f.base.toNat : Nat) + sgnN 24 f.off.toNat)
        let len := uniOpd s x act .i32 f.index.toNat
        let rows := rangeRows s x.core x.sheet.ctx x.leaf.priv inv f.asp.toNat va len
        let kept (r : RowOut) : Bool :=
          match r with
          | .ok pte _ => !pteDisc pte
          | .bad c _ v =>
            if c = cPage then false
            else match translateNow s x.core x.sheet.ctx v with
              | .ok (pte, _) => !pteDisc pte
              | .error _ => false
        if inv && !x.leaf.priv && rows.any kept then sheetTrap s x cPriv 0
        else withTag s x f.data (fun n =>
          if len = 0 then doneOp (completeTag (pendTag s x.core n .other) x.core n 0 0) x f.h
          else doneOp (startOp (pendTag s x.core n .other) x act n f.scope (.range inv f.asp.toNat (BitVec.ofNat 64 va) len none)) x f.h))

/-- CFLUSH (12 R309). -/
def execCflush (f : FmtM) (s : State) : Host.Outcome State Fault Refusal := rangeOp false f s
/-- CINV (12 R309, R311). -/
def execCinv (f : FmtM) (s : State) : Host.Outcome State Fault Refusal := rangeOp true f s

/-- The fields, operands and privilege that `execFence` asks for (10 R237). -/
def sigFence (f : FmtM) : Sig :=
  { ok := noType f.h && f.wid == 0 && f.subop == 0 && f.ord != 0 && f.evp == 0 && f.asp == 0 && f.off == 0,
    uses := [(f.data, .tagDst), (f.base, .unused), (f.index, .unused)] }

/-- FENCE (09 R217, R218, 12 R312): with no active lane, at lane scope, or with nothing to cover its tag completes at once. -/
def execFence (f : FmtM) (s : State) : Host.Outcome State Fault Refusal :=
  issueOp s f.h (sigFence f)
    (fun s x act => withTag s x f.data (fun n =>
      let ids := accsOfLanes s x act
      let s := pendTag s x.core n .other
      if f.scope = 0 ∨ act = 0 ∨ (ids.isEmpty ∧ (f.ord = 2 ∨ !owedLeft s)) then doneOp (completeTag s x.core n 0 0) x f.h
      else doneOp (startAsync s x act n f.scope (.fence f.ord ids)).2 x f.h))

/-- FENCE_COMPLETE (09 R217): every covered access has performed; for an acquire, with what the releases that its loads read are ordered after. -/
def execFenceComplete (op : Nat) (s : State) : Host.Outcome State Fault Refusal :=
  .next (match asyncOf s op with
    | none => s
    | some a =>
      match a.kind with
      | .fence ord ids => if idsLeft s ids || (ord != 2 && owedLeft s) then s else completeTag (dropAsync s op) a.core a.tag 0 0
      | _ => s)

/-- The access of a fetch: relaxed, with ev0 (04 R92, R93). -/
def fetchAcc (s : State) (core : Nat) (l : Leaf) (pte : DWord) (a va : Nat) : Acc :=
  { id := s.nextId, kind := .fetch, core := core, slot := l.slot, lane := (laneList l.mask).headD 0, pc := l.pc, pa := a,
    va := BitVec.ofNat 64 va, bytes := 64, pte := pte, uncached := !pteC pte, ord := 0, scope := 0, evp := 0, subop := 0, cls := 0,
    dst := 0, live := 0, d := 0, c := 0, deps := [] }

/-- A fetch misses: its access goes out, and the leaf waits for it. -/
def startFetch (s : State) (core entry : Nat) (a : Acc) : State :=
  blockLeaf { s with nextId := s.nextId + 1, accs := s.accs ++ [a] } core entry (.results [a.id])

/-- FETCH_LINE (10 R232, R233, 02 R39, 04 R92): the line comes from the cluster cache, which gets it where it does not hold it. It is
checked, and the TGT check left to it is made. Of an unprivileged fetch from a page with P = 1 R39 names only PROT with status
EXEC, and R36 and R37 give PRIV: the status is PRIV (DEDUCED, log entry 87). -/
def execFetchLine (core entry : Nat) (s : State) : Host.Outcome State Fault Refusal :=
  .next (match leafOf s core entry with
    | none => s
    | some l =>
      match sheetOf s core l.slot with
      | none => s
      | some h =>
        let va := l.pc.toNat / 64 * 64
        if !needsFetch l then s
        else if !canonical va then fetchFault s core entry l cPage stNonCanonical
        else match tlbLookup s core h.ctx va with
          | none => (match walkFaultFor s core entry h.ctx va with
            | some st => fetchFault (dropWalkFaults s core entry) core entry l cPage st
            | none => waitWalks s { core := core, entry := entry, leaf := l, sheet := h } [va])
          | some t =>
            let pa := paUnder t.pte t.size va
            match frameCheck s (pteImode t.pte) pa, permCheck s h.ctx l.priv 3 t.pte pa with
            | 0, 0 =>
              let a := storeOf s t.pte pa
              if frameLocal s pa && regionFlagged s a then fetchFault s core entry l cStale 1
              else match (cacheLine s (core / 4) (lineOf a)).map (fun c => (c, fetchAcc s core l t.pte a va)) with
                | some (c, f) =>
                  if lineServes c f && pteC t.pte then
                    if linePoison c.poison (a % 128) 64 then fetchFault s core entry l cPoison 1
                    else
                      let bs := seenMem s a ((c.data.drop (a % 128)).take 64)
                      let s := if (coreOf s core).icache.contains (a / 64) then s else touchLine s (core / 4) (lineOf a) 0
                      checkFetched (touchIcache s core (a / 64)) core entry l bs
                  else startFetch s core entry f
                | none => startFetch s core entry (fetchAcc s core l t.pte a va)
            | 0, st => fetchFault s core entry l cProt st
            | st, _ => fetchFault s core entry l cPage st)

end Sys2Proof.Machine
end

