-- ==== Sys2Proof/Machine/Tensor.lean ====
section
/-!
DEFINITION. Tensor descriptors (05 R108 to R118): their fields and checks, element and scale addresses, element values
(07 R160 to R168), and what a write-back does to one value (07 R181, R183). With them the accesses that an engine
makes for a context, each in one event (log entry 10).
-/
namespace Sys2Proof.Machine

/-- A descriptor image: 32 words of 64 bits. -/
abbrev Img := List DWord

/-- FMT. -/
def tFmt (d : Img) : Nat := recFld d 127 124
/-- RANK. -/
def tRank (d : Img) : Nat := recFld d 123 121
/-- SWZC. -/
def tSwzc (d : Img) : Nat := recFld d 120 118
/-- PL. -/
def tPl (d : Img) : Bool := recFld d 114 114 == 1
/-- BLK. -/
def tBlk (d : Img) : Nat := recFld d 113 111
/-- SCF. -/
def tScf (d : Img) : Nat := recFld d 110 109
/-- SPN. -/
def tSpn (d : Img) : Nat := recFld d 107 106
/-- BACT. -/
def tBact (d : Img) : Nat := recFld d 103 102
/-- CFMT. -/
def tCfmt (d : Img) : Nat := recFld d 101 100
/-- COP. -/
def tCop (d : Img) : Nat := recFld d 99 98
/-- KVB. -/
def tKvb (d : Img) : Nat := recFld d 97 96
/-- UTHR. -/
def tUthr (d : Img) : Nat := recFld d 95 88
/-- The row pitch in bytes: 16 × SPITCH. -/
def tPitch (d : Img) : Nat := 16 * recFld d 83 72
/-- DIMi. -/
def tDim (d : Img) (i : Nat) : Nat := recFld d (159 + 32 * i) (128 + 32 * i)
/-- TILEi. -/
def tTile (d : Img) (i : Nat) : Nat := recFld d (303 + 16 * i) (288 + 16 * i)
/-- STRIDEi, i from 1. -/
def tStride (d : Img) (i : Nat) : Nat := recFld d (367 + 64 * i) (320 + 64 * i)
/-- BASE. -/
def tBase (d : Img) : Nat := recFld d 63 0
/-- SBASE. -/
def tSbase (d : Img) : Nat := recFld d 703 640
/-- MBASE. -/
def tMbase (d : Img) : Nat := recFld d 767 704
/-- The tile extent of a dimension, 1 from RANK on. -/
def tileN (d : Img) (i : Nat) : Nat := if i < tRank d then tTile d i else 1

/-- Element bits of a format (05 R112). -/
def eltBits (fmt : Nat) : Nat := ([8, 4, 32, 32, 16, 16, 8, 8, 4, 16][fmt]?).getD 8
/-- Planes of a format, or 0 (05 R112). -/
def eltPlanes (fmt : Nat) : Nat := ([8, 4, 0, 0, 17, 17, 9, 9, 5, 0][fmt]?).getD 0
/-- The floating format of an element format. -/
def eltFloat (fmt : Nat) : Option Fmt :=
  match fmt with
  | 3 => some .f32 | 4 => some .f16 | 5 => some .bf16 | 6 => some .e4m3 | 7 => some .e5m2 | 8 => some .e2m1 | _ => none
/-- The block size in elements, or 0 (05 R111). -/
def blockSize (d : Img) : Nat := if tBlk d = 0 then 0 else 4 * 2 ^ tBlk d
/-- Stored elements of a sparse group of 64. -/
def sparseN (d : Img) : Nat := if tSpn d = 1 then 32 else 16
/-- Bytes of a swizzle chunk. -/
def chunkBytes (d : Img) : Nat := 8 * 2 ^ tSwzc d
/-- Bytes of a row of the tile (05 R116). -/
def rowBytes (d : Img) : Nat := if tPl d then eltPlanes (tFmt d) * tTile d 0 / 8 else tTile d 0 * eltBits (tFmt d) / 8
/-- Rows of the tile. -/
def tileRows (d : Img) : Nat := tileN d 1 * tileN d 2 * tileN d 3 * tileN d 4
/-- The tile's footprint in scratchpad (05 R116). -/
def footprint (d : Img) : Nat := tPitch d * tileRows d

/-- A power of two. -/
def isPow2 (n : Nat) : Bool := n != 0 && 2 ^ n.log2 == n

/-- The lower bound is not above the upper, and neither is a NaN (05 R116). -/
def boundsOk (d : Img) : Bool :=
  let lo := recFld d 927 896
  let hi := recFld d 959 928
  if tFmt d < 3 then decide (sgnN 32 lo ≤ sgnN 32 hi)
  else !isNaN (decodeF .f32 lo) && !isNaN (decodeF .f32 hi) && !ltF (decodeF .f32 hi) (decodeF .f32 lo)

/-- The checks of `TDSET` in their order: the first status that fails (05 R116). -/
def imageCheck (d : Img) : Option Nat :=
  let fmt := tFmt d
  let rank := tRank d
  let dims := List.range 5
  let pitch := tPitch d
  let rsv := (List.range 16).any (fun i => d[i + 16]?.getD 0 != 0) || recFld d 1023 960 != 0 || recFld d 895 864 != 0 ||
    recFld d 575 560 != 0 || recFld d 511 496 != 0 || recFld d 447 432 != 0 || recFld d 383 368 != 0 || recFld d 87 84 != 0 ||
    recFld d 71 64 != 0
  let sw := tSwzc d
  if 10 ≤ fmt ∨ 4 < sw ∨ 5 < tBlk d ∨ tSpn d = 3 ∨ recFld d 105 104 = 3 ∨ tCop d = 3 ∨ 1 < tKvb d ∨ rsv ∨
      (recFld d 108 108 = 0 ∧ recFld d 863 848 ≠ 0) ∨ (tPl d ∧ eltPlanes fmt = 0) ∨
      (tBlk d ≠ 0 ∧ 2 ≤ fmt ∧ fmt ≤ 5) ∨ (tSpn d ≠ 0 ∧ (fmt = 2 ∨ fmt = 3 ∨ fmt = 9)) ∨
      (tKvb d = 1 ∧ !(4 ≤ fmt && fmt ≤ 7)) then some 1
  else if rank = 0 ∨ 5 < rank then some 2
  else if dims.any (fun i => if i < rank then tDim d i == 0 || tTile d i == 0
      else tDim d i != 0 || tTile d i != 0 || (i != 0 && tStride d i != 0)) || (tKvb d == 1 && recFld d 639 624 == 0) then some 3
  else if tBase d % max 1 (eltBits fmt / 8) ≠ 0 ||
      dims.any (fun i => 1 ≤ i && i < rank && tStride d i % (if sw = 0 then 16 else chunkBytes d) != 0) ||
      (tBlk d != 0 && tSbase d % (scaleW (tScf d) / 8) != 0) || (tSpn d != 0 && tMbase d % 8 != 0) ||
      (tKvb d == 1 && recFld d 831 768 % 8 != 0) then some 4
  else if tTile d 0 * eltBits fmt % 8 ≠ 0 ∨ (tPl d ∧ tTile d 0 % 8 ≠ 0) ∨ pitch < rowBytes d ∨ 0x80000 < footprint d then some 5
  else if sw ≠ 0 ∧ !((isPow2 pitch && 2 * chunkBytes d ≤ pitch && pitch ≤ 2048) || (pitch != 0 && pitch % 2048 == 0)) then some 6
  else if (tBlk d ≠ 0 ∧ (if fmt = 9 then 8 * tTile d 0 else tTile d 0) % blockSize d ≠ 0) ∨ (tSpn d ≠ 0 ∧ tTile d 0 % sparseN d ≠ 0) then some 7
  else if tBact d ≠ 0 ∧ !boundsOk d then some 8
  else none

/-- The stored image of a descriptor of a context (05 R108); an id past the table reads as unset (R116). One that was changed by
other means than `TDSET` while work was resident is undefined. -/
def descOf (s : State) (ctx id : Nat) : Img :=
  match ctxOf s ctx with
  | some c =>
    if 1023 < id then List.replicate 32 0
    else if c.undef.contains id then
      (List.range 32).map (fun i => BitVec.ofNat 64 (leBytes (freeBytes s (2 ^ 61 + 2 ^ 18 * ctx + 256 * id + 8 * i) 8)))
    else
      let a := c.table + 256 * id
      let bs := (coherentLine s (lineOf a)).1 ++ (coherentLine s (lineOf a + 1)).1
      (List.range 32).map (fun i => BitVec.ofNat 64 (leBytes ((bs.drop (8 * i)).take 8)))
  | none => List.replicate 32 0

/-- Writes a descriptor of a context. -/
def putDesc (s : State) (ctx id : Nat) (d : Img) : State :=
  match ctxOf s ctx with
  | some c =>
    let a := c.table + 256 * id
    let bs := (d.map (fun w => toBytes 8 w.toNat)).flatten
    let s := { s with ctxs := tput s.ctxs ctx { c with undef := c.undef.filter (· ≠ id) } }
    coherentWrite (coherentWrite s a (bs.take 128)) (a + 128) (bs.drop 128)
  | none => s

/-- The byte address of an element and, for a 4-bit format, which nibble it is (05 R113). -/
def eltAddr (d : Img) (is : List Nat) : Nat × Option Bool :=
  let i0 := is.headD 0
  let b := eltBits (tFmt d)
  let rest := ((is.drop 1).zipIdx).foldl (fun a p => if p.2 + 1 < tRank d then a + p.1 * tStride d (p.2 + 1) else a) 0
  ((tBase d + i0 * b / 8 + rest) % 2 ^ 64, if b = 4 then some (i0 % 2 == 1) else none)

/-- The index of an element in a dense row-major array whose first extent is `n0` (05 R113). -/
def denseIdx (d : Img) (n0 i0 : Nat) (is : List Nat) : Nat :=
  let up := (List.range 4).foldr (fun k a => if k + 1 < tRank d then (is[k + 1]?.getD 0) + tDim d (k + 1) * a else a) 0
  i0 + n0 * up

/-- The address of the block scale of position `p` along dimension 0: an element, or a weight of a lattice code (05
R113, R114). -/
def scaleAddr (d : Img) (p : Nat) (is : List Nat) : Nat :=
  let n := if tFmt d = 9 then 8 * tDim d 0 else tDim d 0
  let nb := (n + blockSize d - 1) / blockSize d
  (tSbase d + scaleW (tScf d) / 8 * denseIdx d nb (p / blockSize d) is) % 2 ^ 64

/-- The tensor scale (07 R168). -/
def tauOf (d : Img) : FVal :=
  let t := recFld d 863 832
  if tBlk d = 0 ∧ t = 0 then .fin false 1 0
  else if recFld d 108 108 = 1 then decodeF .f32 t else decodeF .bf16 (t % 2 ^ 16)

/-- The events of reading the tensor scale (07 R184). -/
def tauEvents (d : Img) : List Event :=
  if tBlk d = 0 ∧ recFld d 863 832 = 0 then [] else readEvents (if recFld d 108 108 = 1 then 3 else 5) (tauOf d)

/-- The value of an element code of an integer or floating format (07 R160, R164). -/
def eltVal (fmt code : Nat) : FVal :=
  match eltFloat fmt with
  | some f => decodeF f code
  | none =>
    let x := sgnN (eltBits fmt) code
    .fin (decide (x < 0)) x.natAbs 0

/-- The eight weights of a lattice code, as twice their value (07 R165). -/
def latticeWeights (entry : BitVec 16) (c : Nat) : List Int :=
  let neg := ((List.range 7).filter (fun j => bitN c (j + 1))).length
  (List.range 8).map (fun j =>
    let m : Int := 2 * (slice entry.toNat (2 * j + 1) (2 * j)) + c % 2
    if (if j < 7 then bitN c (j + 1) else neg % 2 == 1) then -m else m)

/-- An entry of a codebook bank. -/
def bankEntry (k : Core) (b i : Nat) : BitVec 16 := tget 0 (if b = 0 then k.bank0 else k.bank1) i

/-- The bank that an operation captures: CBK, or the bank selected now (07 R166). -/
def captureBank (k : Core) (d : Img) : Nat :=
  match recFld d 105 104 with
  | 1 => 0
  | 2 => 1
  | _ => b2n k.bankSel

/-- Who an engine acts for. -/
structure Eng where
  core : Nat
  ctx : Nat
  priv : Bool
  op : Nat
  deriving DecidableEq, Repr

/-- An engine's operation. -/
def engOf (a : Async) : Eng := { core := a.core, ctx := a.ctx, priv := a.priv, op := a.id }

/-- The translation and protection of an engine's access (05 R118): cause and status, or the entry and address. -/
def engAddr (s : State) (g : Eng) (va : Nat) (kind : Nat) : Except (Nat × Nat) (DWord × Nat) :=
  match translateNow s g.core g.ctx va with
  | .error st => .error (cPage, st)
  | .ok (pte, pa) =>
    match permCheck s g.ctx g.priv kind pte pa with
    | 0 => if frameLocal s pa && regionFlagged s (storeOf s pte pa) then .error (cStale, 1) else .ok (pte, pa)
    | st => .error (cProt, st)

/-- The answer to an operation's request about bytes of a peer, or the tag status of its failure as a cause (05 R128): free
bytes where none was asked for. -/
def peerReply (s : State) (op pa n : Nat) (write : Bool) : Except (Nat × Nat) (List Byte) :=
  match s.emsen.find? (fun r => r.use = .copy op ∧ r.write = write ∧ r.addr ≤ pa ∧ pa + n ≤ r.addr + r.len ∧ r.reply.isSome) with
  | some r => if r.fail ≠ 0 then .error (32 + r.fail, 0) else .ok (((r.reply.getD []).drop (pa - r.addr)).take n)
  | none => .ok (freeBytes s pa n)

/-- An engine reads `n` bytes inside one line: cause and status of a failure, or the bytes. -/
def engRead (s : State) (g : Eng) (va n : Nat) : Except (Nat × Nat) (List Byte) :=
  match engAddr s g va 0 with
  | .error e => .error e
  | .ok (pte, pa) =>
    match placeOf s pa with
    | .win c o =>
      (match windowCheck s g.ctx g.priv (pteP pte) c o n, windowRead s c (o / 4 * 4) (roundUp (n + o % 4) 4) with
       | (0, _), some bs => .ok ((bs.drop (o % 4)).take n)
       | (0, _), none => .error (cPoison, 1)
       | e, _ => .error e)
    | .ctl o => .ok (ctlBytes s o n)
    | .peer _ _ => peerReply s g.op pa n false
    | .peerMap _ _ => peerReply s g.op pa n false
    | _ =>
      let r := coherentRead s (storeOf s pte pa) n
      let pass := (coreOf s g.core).queue.any (fun q => q.id == g.op)
      if r.2 then .error (cPoison, 1) else .ok (if pass then r.1 else seenMem s (storeOf s pte pa) r.1)

/-- An engine's write through a window, which is no store (05 R125): whole words of registers, merged with what stands (04
R102), and the words of core control that it covers whole (log entry 82). -/
def engWindow (s : State) (c o : Nat) (bs : List Byte) : State :=
  if o < 0x80000 then
    let lo := o / 4 * 4
    let n := roundUp (o - lo + bs.length) 4
    let old := (windowRead s c lo n).getD (List.replicate n 0)
    windowRegs s c lo (wordList (putAt old (o - lo) bs)) false
  else if o < 0x120000 then
    let acc := decide (0x100000 ≤ o)
    chipWrite s c acc (if acc then o - 0x100000 else o - 0x80000) bs
  else
    let skip := roundUp o 4 - o
    windowWrite s c (o + skip) ((bs.drop skip).take ((bs.length - skip) / 4 * 4))

/-- Writes bytes of a line that the core's cluster holds alone, in its cache (04 R90); of any other line, at its home once every copy has
ended (03 R59). -/
def cacheWrite (s : State) (core a : Nat) (bs : List Byte) : State :=
  let k := core / 4
  match cacheLine s k (lineOf a) with
  | some l =>
    if l.st = .m ∨ l.st = .e then
      dropL1 (modLine s k (lineOf a) (fun l => { l with data := putAt l.data (a % 128) bs, st := .m,
                                                        poison := clearMarks l.poison (a % 128) bs.length })) k (lineOf a) none
    else coherentWrite s a bs
  | none => coherentWrite s a bs

/-- An engine writes bytes inside one line: the state, or cause and status of a failure. A peer's bytes go out by the
operation's own requests. The spec does not say what a run of another width than 4 or 8 bytes, or one that is not aligned,
does in the control range (02 R471, 05 R118): it is dropped, and counts as delivered (log entry 82). -/
def engWrite (s : State) (g : Eng) (va : Nat) (bs : List Byte) : Except (Nat × Nat) State :=
  match engAddr s g va 1 with
  | .error e => .error e
  | .ok (pte, pa) =>
    match placeOf s pa with
    | .win c o =>
      (match windowCheck s g.ctx g.priv (pteP pte) c o bs.length with
       | (0, _) => .ok (engWindow s c o bs)
       | e => .error e)
    | .ctl o => .ok (if (bs.length = 4 ∨ bs.length = 8) ∧ o % bs.length = 0 then
        postRegWrite s { off := o, part := partOf o bs.length, val := BitVec.ofNat 64 (leBytes bs) } else s)
    | .peer _ _ => (peerReply s g.op pa bs.length true).map (fun _ => s)
    | .peerMap _ _ => (peerReply s g.op pa bs.length true).map (fun _ => s)
    | _ => .ok (spoilMem (cacheWrite s g.core (storeOf s pte pa) bs) (storeOf s pte pa) bs.length false)

/-- An engine's read, change and write of bytes of memory in one event, a peer's under the tile that it holds for writing (03
R79). -/
def engModify (s : State) (g : Eng) (pte : DWord) (pa n : Nat) (f : List Byte → List Byte) : Except (Nat × Nat) State :=
  match placeOf s pa, peerReply s g.op pa n true with
  | .peer _ _, .error e => .error e
  | _, _ =>
    let a := storeOf s pte pa
    let r := coherentRead s a n
    if r.2 then .error (cPoison, 1) else .ok (spoilMem (cacheWrite s g.core a (f r.1)) a n false)

/-- An engine's reduction of one element (05 R120, 12 R324). -/
def engRed (s : State) (g : Eng) (va cfmt cop code : Nat) : Except (Nat × Nat) State :=
  let n := elemBytes cfmt
  match translateNow s g.core g.ctx va with
  | .error st => .error (cPage, st)
  | .ok (pte, pa) =>
    let same := pteCfmt pte = 0 ∨ (pteCfmt pte = cfmt ∧ pteCop pte = cop)
    match permCheck s g.ctx g.priv (if same then 4 else 5) pte pa with
    | 0 =>
      if frameLocal s pa && regionFlagged s (storeOf s pte pa) then .error (cStale, 1)
      else if 0xD ≤ pa / 2 ^ 48 then .error (cProt, 2)
      else engModify s g pte pa n (fun old => toBytes n (foldElem cfmt cop (leBytes old) code))
    | st => .error (cProt, st)

/-- A block's scale and whether its read failed: 1 with BLK = 0 (07 R168). -/
def blockScale (s : State) (g : Eng) (d : Img) (p : Nat) (is : List Nat) : Except (Nat × Nat) (Nat × FVal) :=
  if tBlk d = 0 then .ok (0, .fin false 1 0)
  else match engRead s g (scaleAddr d p is) (scaleW (tScf d) / 8) with
    | .ok bs => .ok (leBytes bs, scaleVal (tScf d) (leBytes bs))
    | .error e => .error e

/-- A value lies outside the descriptor's bounds (07 R183). -/
def outOfBounds (d : Img) (v : FVal) : Bool :=
  let lo := recFld d 927 896
  let hi := recFld d 959 928
  let b (x : Nat) : FVal := if tFmt d < 3 then eltVal 2 x else decodeF .f32 x
  isNaN v || ltF v (b lo) || ltF (b hi) v

/-- The nearer bound of a value out of range (07 R183). -/
def nearBound (d : Img) (v : FVal) : FVal :=
  let lo := recFld d 927 896
  let hi := recFld d 959 928
  let b (x : Nat) : FVal := if tFmt d < 3 then eltVal 2 x else decodeF .f32 x
  if ltF (b hi) v then b hi else b lo

/-- The code of a value in the descriptor's format, with its events (07 R181, R170, R171): a block whose scale product is
zero, infinite or a NaN is written as code zero. Without `.sat` an integer value that leaves an integer format wraps
(log entry 20). -/
def convCode (d : Img) (mode : RMode) (sat isInt : Bool) (v k : FVal) : Nat × List Event :=
  if badScale k then (0, [])
  else match eltFloat (tFmt d) with
    | some f => let o := convertF f mode sat (divF v k); (o.code, o.events)
    | none =>
      let w := eltBits (tFmt d)
      let r := toIntTy w true mode (divF v k)
      if r.2.2 && isInt && !sat then
        let x := toIntTy 64 true mode (divF v k)
        (x.1 % 2 ^ w, [])
      else (r.1, (if r.2.2 then [(tFmt d, 2)] else []) ++ toZero (tFmt d) (divF v k) r)

/-- The value that a write-back converts in the place of `v` (07 R183). -/
def bounded (d : Img) (v : FVal) : FVal := if tBact d = 2 ∧ outOfBounds d v = true then nearBound d v else v

/-- What a write-back makes of one value (07 R183): its code or none if it is not written, a tag status, events, and
whether it is out of range. -/
def boundConv (d : Img) (mode : RMode) (sat isInt : Bool) (v k : FVal) : Option Nat × Nat × List Event × Bool :=
  let nanK := if isNaN k then tsScaleNan else 0
  let bad := tBact d != 0 && outOfBounds d v
  if !bad then
    let c := convCode d mode sat isInt v k
    (some c.1, nanK, c.2, false)
  else if tBact d = 1 then
    let c := convCode d mode sat isInt v k
    (some c.1, worse nanK tsBounded, c.2, true)
  else if tBact d = 2 then
    let c := convCode d mode sat isInt (nearBound d v) k
    (some c.1, worse nanK tsBounded, c.2, true)
  else (none, tsBounds, [], true)

/-- A byte with one of its nibbles replaced. -/
def mergeNibble (hi : Bool) (old : Byte) (code : Nat) : Byte :=
  BitVec.ofNat 8 (if hi then old.toNat % 16 + 16 * (code % 16) else old.toNat / 16 * 16 + code % 16)

/-- Writes one element through an engine, a nibble merged into its byte (12 R318). -/
def engElem (s : State) (g : Eng) (e : ElemWrite) : Except (Nat × Nat) State :=
  match e.nibble with
  | none => engWrite s g e.va.toNat (toBytes e.bytes e.code)
  | some hi =>
    match engAddr s g e.va.toNat 1 with
    | .error x => .error x
    | .ok (pte, pa) =>
      match placeOf s pa with
      | .win c o => engWrite s g e.va.toNat [mergeNibble hi ((((windowRead s c (o / 4 * 4) 4).getD [])[o % 4]?).getD 0) e.code]
      | .ctl _ => .ok s
      | .peerMap _ _ => engWrite s g e.va.toNat [0]
      | _ => engModify s g pte pa 1 (fun old => [mergeNibble hi (old.headD 0) e.code])

/-- Writes elements through an engine: the bytes that pass are written, and the status and first failing address of
those that fail (05 R118, R124). -/
def engElems (s : State) (g : Eng) (es : List ElemWrite) : State × Nat × DWord :=
  es.foldl (fun (r : State × Nat × DWord) e =>
    match engElem r.1 g e with
    | .ok t => (t, r.2)
    | .error (c, _) => (r.1, worse r.2.1 (tsOfCause c), if r.2.1 < 3 then e.va else r.2.2)) (s, 0, 0)

/-- The lines of an engine's access are at rest: no message or transaction is in flight for them. -/
def engQuiet (s : State) (g : Eng) (va n : Nat) : Bool :=
  match translateNow s g.core g.ctx va with
  | .error _ => true
  | .ok (pte, pa) =>
    match placeOf s pa with
    | .hbm _ => quietRange s (storeOf s pte pa) n
    | .host _ => quietRange s pa n
    | _ => true

end Sys2Proof.Machine
end

