-- ==== Sys2Proof/Machine/Copy.lean ====
section
/-!
DEFINITION. Descriptors, copies, rings and tags: `TDSET`, `TDGET`, `CPY`, `CPYR`, the rings, the `WAIT` family, and
the events of the copy engines (05 R119 to R131, 12 R321 to R332).
-/
namespace Sys2Proof.Machine

/-- DESCRIPTOR statuses of 05 R116. -/
def dsUnset : Nat := 9
/-- COORD-RANGE -/
def dsCoordRange : Nat := 10
/-- COORD-ALIGN -/
def dsCoordAlign : Nat := 11
/-- DEST-RANGE -/
def dsDestRange : Nat := 12
/-- RING -/
def dsRing : Nat := 13
/-- OPERAND -/
def dsOperand : Nat := 15

/-- An A-format instruction's header and unused fields (12 R313). -/
def fmtAOk (f : FmtA) (sub : Nat) (sc : Bool) : Bool :=
  noType f.h && f.sub.toNat == sub && (sc || (f.scope == 0 && f.evp == 0))

/-- The scope that engines take: codes 0 and 1 act as core (05 R123). -/
def engScope (sc : BitVec 3) : BitVec 3 := if sc.toNat < 2 then 2 else sc

/-- The physical row segments of a virtual range that lie in a peer: address and length. -/
def peerParts (s : State) (g : Eng) (va n kind : Nat) : List (Nat × Nat × Nat) :=
  (rowsOf va n).filterMap (fun r =>
    match engAddr s g r.1 kind with
    | .ok (_, pa) => (match placeOf s pa with
      | .peer d _ => some (fld (rawReg s (.fpeer d)) 11 0, pa, r.2)
      | .peerMap d _ => some (fld (rawReg s (.fpeer d)) 11 0, pa, r.2)
      | _ => none)
    | .error _ => none)

/-- Requests of an operation to a peer (19 R458). -/
def askPeer (s : State) (op : Nat) (write : Bool) (data : Nat → Nat → List Byte) (parts : List (Nat × Nat × Nat)) : State :=
  parts.foldl (fun s p =>
    let r := fresh s
    let dl := emsenDeadline s
    emit { r.2 with emsen := r.2.emsen ++
      [{ id := r.1, dev := p.1, deadline := dl, use := .copy op, addr := p.2.1, len := p.2.2, write := write }] }
      (.request r.1 p.1 p.2.1 p.2.2 write (data p.2.1 p.2.2) dl)) s

/-- The requests of an operation that have no answer yet. -/
def opWaits (s : State) (op : Nat) : Bool := s.emsen.any (fun r => r.use = .copy op ∧ r.reply.isNone)

/-- The requests of an operation, with their answers, are forgotten. -/
def dropReqs (s : State) (op : Nat) : State := { s with emsen := s.emsen.filter (fun r => r.use ≠ .copy op) }

/-- The number under which an issuing leaf's own requests to peers stand. -/
def leafReqs (core entry : Nat) : Nat := 2 ^ 64 + 64 * core + entry

/-- The issuing leaf reads memory as an engine whose requests to peers are the leaf's own. -/
def leafEng (x : Iss) : Eng := { core := x.core, ctx := x.sheet.ctx, priv := x.leaf.priv, op := leafReqs x.core x.entry }

/-- A request of an operation names these bytes of a peer. -/
def asked (s : State) (op : Nat) (p : Nat × Nat × Nat) : Bool :=
  s.emsen.any (fun r => r.use = .copy op ∧ r.addr ≤ p.2.1 ∧ p.2.1 + p.2.2 ≤ r.addr + r.len)

/-- Goes on once a peer has answered for every byte that an issuing instruction reads there (19 R458); the answers then go. -/
def withPeers (s : State) (x : Iss) (rs : List (Nat × Nat)) (f : State → State) : State :=
  let op := leafReqs x.core x.entry
  match (rs.map (fun r => peerParts s (leafEng x) r.1 r.2 0)).flatten with
  | [] => f s
  | ps =>
    match ps.filter (fun p => !asked s op p) with
    | [] =>
      if opWaits s op then blockLeaf s x.core x.entry (.link op)
      else
        let t := f s
        { t with emsen := t.emsen.filter (fun r => r.use ≠ .copy op) }
    | need => blockLeaf (askPeer s op false (fun _ _ => []) need) x.core x.entry (.link op)

/-- The lane fault that stands for a request to a peer that failed (02 R37, 19 R458). -/
def lanesFault (e : Nat × Nat) : Nat × Nat :=
  if e.1 = 32 + tsTimeout then (cPage, stPeerTimeout) else if e.1 = 32 + tsProt then (cProt, 10)
  else if 32 ≤ e.1 then (cPage, stPeerAbsent) else e

/-- A leader-lane read of `n` bytes that must lie in whole lines: the bytes, or the leader lane's fault (12 R321). -/
def leaderRead (s : State) (x : Iss) (va n : Nat) : Except (Nat × Nat) (List Byte) :=
  (List.range (n / 128)).foldl (fun r i => match r with
    | .error e => .error e
    | .ok bs => match engRead s (leafEng x) (va + 128 * i) 128 with
      | .ok b => .ok (bs ++ b)
      | .error e => .error (lanesFault e)) (.ok [])

/-- Goes on where nothing stands before a relaxed load of the leader lane (09 R208, R212), with what peers answer for it. -/
def withLoad (s : State) (x : Iss) (act : Mask) (va n : Nat) (f : State → State) : State :=
  match lowLane act with
  | none => f s
  | some l =>
    match depsAll s x .load 0 [(l, va, n)] with
    | [] => withPeers s x [(va, n)] f
    | w => blockLeaf s x.core x.entry (.results w)

/-- A lane fault of the leader lane: it parks and the leaf's other lanes go on (12 R321, R367). -/
def leaderFault (s : State) (x : Iss) (h : Hdr) (act : Mask) (cause status va : Nat) : State :=
  match lowLane act with
  | none => doneOp s x h
  | some l =>
    match parkLanes s x.core x.entry x.leaf.pc [{ lane := l, cause := cause, status := status, addr := va }] none with
    | .all t => t
    | .some' t => doneOp t (reload t x) h

/-- The fields, operands and privilege that `execTdset` asks for (10 R237). -/
def sigTdset (f : FmtA) : Sig :=
  let clr := f.mod.getLsbD 0
  { ok := fmtAOk f 0 false && f.mod.toNat < 2,
    uses := [(f.dst, .tagDst), (f.opa, .src .i32), (f.opb, if clr then .unused else .uni64), (f.opc, .unused), (f.opd, .unused)] }

/-- TDSET (12 R321, 05 R116). -/
def execTdset (f : FmtA) (s : State) : Host.Outcome State Fault Refusal :=
  let clr := f.mod.getLsbD 0
  issueOp s f.h (sigTdset f)
    (fun s x act =>
      if act = 0 then doneOp s x f.h
      else
        let id := uniOpd s x act .i32 f.opa.toNat
        let va := uniOpd s x act .i64 f.opb.toNat
        withTag s x f.dst (fun n =>
          let go (s : State) (img : Img) : State :=
            let k := coreOf s x.core
            let ops := (k.windows.filter (fun w => w.ids.contains (x.sheet.ctx * 1024 + id))).map (·.op)
            let s := ops.foldl (fun s q => spoilOp s x.core q) s
            doneOp (startOp (pendTag s x.core n .other) x act n 5 (.tdset id img)) x f.h
          if clr then (if 1023 < id then sheetTrap s x cDescriptor dsUnset else go s (List.replicate 32 0))
          else if va % 256 ≠ 0 then leaderFault s x f.h act cMisalign 1 va
          else withLoad s x act va 256 (fun s => match leaderRead s x va 256 with
            | .error e => leaderFault s x f.h act e.1 e.2 va
            | .ok bs =>
              let img := (List.range 32).map (fun i => BitVec.ofNat 64 (leBytes ((bs.drop (8 * i)).take 8)))
              match imageCheck img with
              | some st => sheetTrap s x cDescriptor st
              | none => if 1023 < id then sheetTrap s x cDescriptor dsUnset else go s img)))

/-- The table entry of a descriptor is at rest. -/
def tableQuiet (s : State) (ctx id : Nat) : Bool :=
  match ctxOf s ctx with
  | some c => quietRange s (c.table + 256 * id) 256
  | none => true

/-- DESCRIPTOR_WRITE_COMPLETE (05 R110). -/
def execDescriptorWriteComplete (op : Nat) (s : State) : Host.Outcome State Fault Refusal :=
  .next (match asyncOf s op with
    | none => s
    | some a =>
      match a.kind with
      | .tdset id img =>
        if !opReady s a || !tableQuiet s a.ctx id then s
        else completeTag (putDesc (dropAsync s op) a.ctx id img) a.core a.tag 0 0
      | _ => s)

/-- The fields, operands and privilege that `execTdget` asks for (10 R237). -/
def sigTdget (f : FmtA) : Sig :=
  { ok := fmtAOk f 1 true && f.mod == 0,
    uses := [(f.dst, .tagDst), (f.opa, .src .i32), (f.opb, .uni64), (f.opc, .unused), (f.opd, .unused)] }

/-- TDGET (12 R322). -/
def execTdget (f : FmtA) (s : State) : Host.Outcome State Fault Refusal :=
  issueOp s f.h (sigTdget f)
    (fun s x act =>
      if act = 0 then doneOp s x f.h
      else
        let id := uniOpd s x act .i32 f.opa.toNat
        let va := uniOpd s x act .i64 f.opb.toNat
        withTag s x f.dst (fun n =>
          if 1023 < id then sheetTrap s x cDescriptor dsUnset
          else doneOp (startOp (pendTag s x.core n .tdget) x act n (engScope f.scope) (.tdget id (BitVec.ofNat 64 va))) x f.h))

/-- The coordinates of a copy: the low 32 bits of consecutive registers in the leader lane (12 R323). -/
def copyCoords (s : State) (x : Iss) (act : Mask) (c rank : Nat) : List Nat :=
  (List.range rank).map (fun d => uniOpd s x act .i32 (c + d))

/-- The first of the checks of 05 R117 on the descriptor and coordinates that fails, or 0. -/
def copyCheck (d : Img) (id : Nat) (cs : List Nat) : Nat :=
  if 1023 < id ∨ tRank d = 0 then dsUnset
  else if (cs.zipIdx).any (fun c => decide (tDim d c.2 ≤ c.1)) then dsCoordRange
  else if (cs.zipIdx).any (fun c => c.1 % max 1 (tTile d c.2) != 0) then dsCoordAlign
  else 0

/-- A scratch-block destination or source of a tile is in place (05 R116 0xC). -/
def destOk (d : Img) (size dest : Nat) : Bool :=
  (if tSwzc d = 0 then dest % 16 == 0 else dest % min (tPitch d) 2048 == 0) && decide (dest + footprint d ≤ size)

/-- Copies that hold an entry of a cluster's queue (05 R122). -/
def copyQueue (s : State) (k : Nat) : List Async :=
  s.asyncs.filter (fun a => a.core / 4 == k && (match a.kind with | .copy _ => true | _ => false))

/-- The outermost coordinates of a tile row (05 R120). -/
def rowCoords (d : Img) (r : Nat) : List Nat :=
  let n1 := tileN d 1
  let n2 := tileN d 2
  let n3 := tileN d 3
  [r % n1, r / n1 % n2, r / (n1 * n2) % n3, r / (n1 * n2 * n3)]

/-- The tensor coordinates of element `i` of row `r` of a tile, and whether the tensor holds it. -/
def eltCoords (d : Img) (cs : List Nat) (r i : Nat) : List Nat × Bool :=
  let t := i :: rowCoords d r
  let is := (List.range (tRank d)).map (fun k => (cs[k]?.getD 0) + (t[k]?.getD 0))
  (is, (is.zipIdx).all (fun p => decide (p.1 < tDim d p.2)))

/-- The bytes from the first to the last of a row in the scratchpad layout: a swizzle moves bytes within a pitch (05 R120). -/
def rowSpan (d : Img) : Nat := if tSwzc d = 0 then rowBytes d else tPitch d

/-- The cores whose scratchpads an In copy fills: its own, its ring's, or those of a multicast (13 R348). -/
def coresOf (core : Nat) (c : CopyArgs) : List Nat :=
  if c.cores = 0 then [core] else ((List.range 4).filter (fun k => c.cores.getLsbD k)).map (· + core / 4 * 4)

/-- The memory that the rows of a copy's tile take in its tensor. -/
def tensorRows (c : CopyArgs) : List (Nat × Nat) :=
  let d := c.img
  (List.range (tileRows d)).filterMap (fun r =>
    let n := ((List.range (tTile d 0)).filter (fun i => (eltCoords d c.coords r i).2)).length
    if n = 0 then none else some ((eltAddr d (eltCoords d c.coords r 0).1).1, (n * eltBits (tFmt d) + 7) / 8))

/-- The memory that a copy writes. -/
def copyWrites (c : CopyArgs) : List (Nat × Nat) :=
  if c.kind = 3 then tensorRows c
  else if c.kind = 2 then (List.range (tileRows c.img)).map (fun r => (c.dest.toNat + tPitch c.img * r, rowBytes c.img))
  else []

/-- A range of the on-chip map as windows of the storage that it names. -/
def mapWindows (base : Window) (a n : Nat) : List Window :=
  let c := a / 0x400000
  let o := a % 0x400000
  if o < 0x80000 then [{ base with lo := o, hi := o + n, at' := .regs c }]
  else if o < 0x100000 then [{ base with lo := o - 0x80000, hi := o - 0x80000 + n, at' := .chip c }]
  else if o < 0x120000 then [{ base with lo := o - 0x100000, hi := o - 0x100000 + n, acc := true, at' := .chip c }]
  else []

/-- The scratch base of a task. -/
def taskScr (s : State) (ctx launch task : Nat) : Nat := ((taskOf s ctx launch task).map (·.scr)).getD 0

/-- The scratch base of the block that a copy's offsets count in: its ring's owner's (05 R129), else its own task's. -/
def copyScr (s : State) (ctx launch task : Nat) (c : CopyArgs) : Nat :=
  match c.owner with
  | some o => taskScr s o.1 o.2.1 o.2.2
  | none => taskScr s ctx launch task

/-- The bytes that no store may reach until a copy's completion is acquired: its destination, and the scratchpad source of an
Out copy (05 R125). -/
def copyWindows (s : State) (x : Iss) (tag op : Nat) (c : CopyArgs) : List Window :=
  let base : Window := { tag := tag, op := op, acc := false, lo := 0, hi := 0, wr := true, slot := x.leaf.slot, ring := c.ring }
  let lo := copyScr s x.sheet.ctx x.sheet.launch x.sheet.task c + c.dest.toNat
  let scr (k : Nat) : Window := { base with lo := lo, hi := lo + footprint c.img, at' := .chip k }
  let d := c.img
  (if c.kind = 2 then []
   else if c.kind = 1 then
     (if 2 ^ 31 ≤ c.dest.toNat then [] else ((List.range (tileRows d)).map (fun r => mapWindows base (c.dest.toNat + tPitch d * r) (rowSpan d))).flatten)
   else (coresOf x.core c).map scr) ++
    ((copyWrites c).map (fun r => (memRanges s x.core x.sheet.ctx r.1 r.2).map (fun p =>
      { base with lo := p.1, hi := p.1 + p.2, at' := .mem }))).flatten

/-- Issues a copy (05 R119, R122): its earlier accesses stand before it. -/
def issueCopy (s : State) (x : Iss) (act : Mask) (tag : Nat) (scope : BitVec 3) (a : CopyArgs) : State :=
  let t := startOp s x act tag (engScope scope) (.copy a)
  let k := coreOf t x.core
  setCore t x.core { k with windows := k.windows ++ copyWindows s x tag s.nextId a }

/-- The rank of the descriptor that a copy's leader lane names, for the check of its coordinate registers. -/
def rankFor (s : State) (x : Iss) (act : Mask) (opa : Opd) : Nat :=
  let id := uniOpd s x act .i32 opa.toNat
  if 1023 < id then 0 else tRank (descOf s x.sheet.ctx id)

/-- Goes on where further registers that an operand names can be read, as those that the instruction declares (10 R239, R240, 06
R141). -/
def withReads (s : State) (x : Iss) (codes : List Nat) (act : Mask) (f : State) : State :=
  if x.sheet.chk && tooEarly s x codes act then sheetTrap s x cStallShort 0
  else
    let w := pendingOn s x codes act
    if !w.isEmpty then blockLeaf s x.core x.entry (.results w)
    else if act ≠ 0 ∧ poisonedAny s x codes then killLaunch s x.sheet.ctx x.sheet.launch .poisonedRegister 0 0 x.leaf.pc
    else f

/-- Goes on where the coordinate registers are legal and readable (12 R323). -/
def withCoords (s : State) (x : Iss) (act : Mask) (c rank : Nat) (f : State) : State :=
  if !opdLegal x.sheet (.coords (max 1 rank)) c then sheetTrap s x cIllegal 0
  else withReads s x ((List.range rank).map (· + c)) act f

/-- The fields, operands and privilege that `execCpy` asks for (10 R237). -/
def sigCpy (f : FmtA) : Sig :=
  let kind := f.mod.toNat
  { ok := fmtAOk f 0 true && kind < 4,
    uses := [(f.dst, .tagDst), (f.opa, .src .i32), (f.opb, .coords 1),
             (f.opc, if kind = 1 ∨ kind = 2 then .uni64 else .src .i32), (f.opd, .unused)] }

/-- CPY (12 R323, R324). The spec does not order TAG-PENDING (R315) against the DESCRIPTOR checks (05 R117): TAG-PENDING is found
first (log entry 83). -/
def execCpy (f : FmtA) (s : State) : Host.Outcome State Fault Refusal :=
  let kind := f.mod.toNat
  issueOp s f.h (sigCpy f)
    (fun s x act =>
      if act = 0 then doneOp s x f.h
      else
        let id := uniOpd s x act .i32 f.opa.toNat
        let rank := rankFor s x act f.opa
        withCoords s x act f.opb.toNat rank (withTag s x f.dst (fun n =>
          let d := descOf s x.sheet.ctx id
          let cs := copyCoords s x act f.opb.toNat rank
          let dest := uniOpd s x act (if kind = 1 ∨ kind = 2 then .i64 else .i32) f.opc.toNat
          match copyCheck d id cs with
          | 0 =>
            if (kind = 0 ∨ kind = 3) ∧ !destOk d (scratchSize (launchRec s x.sheet)) dest then sheetTrap s x cDescriptor dsDestRange
            else if 128 ≤ (copyQueue s (x.core / 4)).length then blockLeaf s x.core x.entry .copyRoom
            else doneOp (issueCopy (pendTag s x.core n .copy) x act n f.scope
              { kind := kind, img := d, coords := cs, dest := BitVec.ofNat 64 dest, evp := f.evp,
                bank := captureBank (coreOf s x.core) d }) x f.h
          | st => sheetTrap s x cDescriptor st)))

/-- A ring of a cluster. -/
def ringOf (s : State) (k r : Nat) : Ring := tget {} (clusterOf s k).rings r
/-- Replaces a ring. -/
def setRing (s : State) (k r : Nat) (g : Ring) : State :=
  let c := clusterOf s k
  setCluster s k { c with rings := tset {} c.rings r g }
/-- V of a ring. -/
def rgV (g : Ring) : Bool := g.w0.getLsbD 63
/-- A field of a ring's first word (05 R129). -/
def rgF (g : Ring) (h l : Nat) : Nat := fld g.w0 h l
/-- Slots of a ring. -/
def rgS (g : Ring) : Nat := rgF g 38 35 + 1
/-- Bytes of a slot. -/
def rgZ (g : Ring) : Nat := 128 * rgF g 48 39
/-- The ring with new pointers and counts. -/
def rgSet (g : Ring) (clm wp rp nclm nful : Nat) : Ring :=
  { g with w0 := BitVec.ofNat 64 (putSlice g.w0.toNat 34 13 (nful + 32 * (nclm + 32 * (rp + 16 * (wp + 16 * clm))))) }
/-- The status of a slot. -/
def rgStatus (g : Ring) (i : Nat) : Nat := fld g.w1 (4 * i + 3) (4 * i)
/-- Writes a slot's status. -/
def rgPutStatus (g : Ring) (i st : Nat) : Ring := { g with w1 := BitVec.ofNat 64 (putSlice g.w1.toNat (4 * i + 3) (4 * i) st) }

/-- WP passes every slot that has completed, in claim order (05 R130). -/
def rgAdvance (g : Ring) : Nat → Ring
  | 0 => g
  | n + 1 =>
    let wp := rgF g 30 27
    if g.finished.contains wp then
      rgAdvance { rgSet g (rgF g 34 31) ((wp + 1) % rgS g) (rgF g 26 23) (rgF g 22 18) (rgF g 17 13 + 1) with
        finished := g.finished.filter (· ≠ wp) } n
    else g

/-- The completion of a slot's copy is acquired, or the slot is claimed anew: stores may reach it (05 R125, R130). -/
def acquireSlot (s : State) (k r i : Nat) : State :=
  (List.range 4).foldl (fun s j =>
    let c := coreOf s (4 * k + j)
    if c.windows.any (fun w => w.ring == some (r, i)) then
      setCore s (4 * k + j) { c with windows := c.windows.filter (fun w => w.ring != some (r, i)) }
    else s) s

/-- The fields, operands and privilege that `execCpyr` asks for (10 R237). -/
def sigCpyr (f : FmtA) : Sig :=
  { ok := fmtAOk f 0 true && f.mod == 0,
    uses := [(f.dst, .unused), (f.opa, .src .i32), (f.opb, .coords 1), (f.opc, .unused), (f.opd, .src .i32)] }

/-- The slot that a copy claims next is a destination in place in the scratch block of the ring's owner (05 R116 0xC, R117, 12 R325). -/
def ringSlotOk (s : State) (d : Img) (g : Ring) : Bool :=
  match g.owner.bind (fun o => launchOf s o.1 o.2.1) with
  | some l => destOk d (scratchSize l.rec') (128 * rgF g 60 49 + rgF g 34 31 * rgZ g)
  | none => true

/-- CPYR (12 R325, 05 R130). Of a ring that is not valid or belongs to another context no slot is checked: RING is the first to fail. -/
def execCpyr (f : FmtA) (s : State) : Host.Outcome State Fault Refusal :=
  issueOp s f.h (sigCpyr f)
    (fun s x act =>
      if act = 0 then doneOp s x f.h
      else
        let id := uniOpd s x act .i32 f.opa.toNat
        let rank := rankFor s x act f.opa
        let r := uniOpd s x act .i32 f.opd.toNat
        withCoords s x act f.opb.toNat rank (
          let d := descOf s x.sheet.ctx id
          let cs := copyCoords s x act f.opb.toNat rank
          let k := x.core / 4
          let g := ringOf s k r
          match copyCheck d id cs with
          | 0 =>
            if r ≤ 31 ∧ rgV g ∧ rgF g 12 1 = x.sheet.ctx ∧ !ringSlotOk s d g then sheetTrap s x cDescriptor dsDestRange
            else if 31 < r ∨ !rgV g ∨ rgF g 12 1 ≠ x.sheet.ctx ∨ rgZ g < footprint d then
              sheetTrap s x cDescriptor dsRing
            else if rgF g 22 18 = rgS g then blockLeaf s x.core x.entry (.ringRoom r)
            else if 128 ≤ (copyQueue s k).length then blockLeaf s x.core x.entry .copyRoom
            else
              let slot := rgF g 34 31
              let s := acquireSlot s k r slot
              let s := setRing s k r (rgSet g ((slot + 1) % rgS g) (rgF g 30 27) (rgF g 26 23) (rgF g 22 18 + 1) (rgF g 17 13))
              doneOp (issueCopy s x act 64 f.scope
                { kind := 0, img := d, coords := cs, dest := BitVec.ofNat 64 (128 * rgF g 60 49 + slot * rgZ g),
                  cores := BitVec.ofNat 4 (2 ^ rgF g 62 61), ring := some (r, slot), owner := g.owner, evp := f.evp }) x f.h
          | st => sheetTrap s x cDescriptor st))

/-- The fields, operands and privilege that `execRinit` asks for (10 R237). -/
def sigRinit (f : FmtA) : Sig :=
  { ok := fmtAOk f 0 false && f.mod == 0,
    uses := [(f.dst, .unused), (f.opa, .src .i32), (f.opb, .uni64), (f.opc, .unused), (f.opd, .unused)] }

/-- RINIT (12 R326). -/
def execRinit (f : FmtA) (s : State) : Host.Outcome State Fault Refusal :=
  issueOp s f.h (sigRinit f)
    (fun s x act =>
      if act = 0 then doneOp s x f.h
      else
        let r := uniOpd s x act .i32 f.opa.toNat
        let w : DWord := BitVec.ofNat 64 (uniOpd s x act .i64 f.opb.toNat)
        let k := x.core / 4
        let g := ringOf s k r
        let n : Ring := { w0 := w }
        if 31 < r then sheetTrap s x cControl ctlRingInvalid
        else if rgV g ∧ rgF g 12 1 ≠ x.sheet.ctx then sheetTrap s x cControl ctlRingOwner
        else if rgF g 22 18 ≠ rgF g 17 13 then sheetTrap s x cControl ctlRingBusy
        else if !w.getLsbD 63 then doneOp (setRing s k r {}) x f.h
        else if rgF n 38 35 = 0 ∨ rgF n 48 39 = 0 ∨ 512 < rgF n 48 39 ∨ fld w 34 0 ≠ 0 ∨
            scratchSize (launchRec s x.sheet) < 128 * rgF n 60 49 + rgS n * rgZ n then sheetTrap s x cControl ctlRingGeom
        else doneOp (setRing s k r { w0 := w ||| BitVec.ofNat 64 (2 * x.sheet.ctx),
                                     owner := some (x.sheet.ctx, x.sheet.launch, x.sheet.task) }) x f.h)

/-- The ring that `RWAIT` and `RREL` use, or the CONTROL status of 05 R130. -/
def useRing (s : State) (x : Iss) (r : Nat) : Except Nat Ring :=
  let g := ringOf s (x.core / 4) r
  if 31 < r ∨ !rgV g then .error ctlRingInvalid
  else if rgF g 12 1 ≠ x.sheet.ctx then .error ctlRingOwner
  else .ok g

/-- The fields, operands and privilege that `execRwait` asks for (10 R237). -/
def sigRwait (f : FmtA) : Sig :=
  { ok := fmtAOk f 1 false && f.mod == 0,
    uses := [(f.dst, .dstReg false), (f.opa, .src .i32), (f.opb, .src .i32), (f.opc, .unused), (f.opd, .unused)] }

/-- RWAIT (12 R327). -/
def execRwait (f : FmtA) (s : State) : Host.Outcome State Fault Refusal :=
  issueOp s f.h (sigRwait f)
    (fun s x act =>
      if act = 0 then doneOp s x f.h
      else
        let r := uniOpd s x act .i32 f.opa.toNat
        let j := uniOpd s x act .i32 f.opb.toNat
        match useRing s x r with
        | .error st => sheetTrap s x cControl st
        | .ok g =>
          if rgS g ≤ j then sheetTrap s x cControl ctlRingAhead
          else if rgF g 17 13 ≤ j then blockLeaf s x.core x.entry (.ringSlot r j)
          else
            let i := (rgF g 26 23 + j) % rgS g
            doneOp (writeOpd (acquireSlot s (x.core / 4) r i) x act f.dst.toNat false false 0
              (fun _ => (128 * rgF g 60 49 + i * rgZ g) % 2 ^ 19 + rgStatus g i * 2 ^ 28)) x f.h)

/-- The fields, operands and privilege that `execRrel` asks for (10 R237). -/
def sigRrel (f : FmtA) : Sig :=
  { ok := fmtAOk f 2 false && f.mod == 0,
    uses := [(f.dst, .unused), (f.opa, .src .i32), (f.opb, .unused), (f.opc, .unused), (f.opd, .unused)] }

/-- RREL (12 R328). -/
def execRrel (f : FmtA) (s : State) : Host.Outcome State Fault Refusal :=
  issueOp s f.h (sigRrel f)
    (fun s x act =>
      if act = 0 then doneOp s x f.h
      else
        let r := uniOpd s x act .i32 f.opa.toNat
        match useRing s x r with
        | .error st => sheetTrap s x cControl st
        | .ok g =>
          if rgF g 17 13 = 0 then sheetTrap s x cControl ctlRingEmpty
          else
            let w := accsOfLanes s x act
            if !w.isEmpty then blockLeaf s x.core x.entry (.results w)
            else doneOp (setRing s (x.core / 4) r
              (rgSet g (rgF g 34 31) (rgF g 30 27) ((rgF g 26 23 + 1) % rgS g) (rgF g 22 18 - 1) (rgF g 17 13 - 1))) x f.h)

/-- The tags of the core that a mask operand names for a sheet's task (05 R126, 12 R329). -/
def namedTags (s : State) (x : Iss) (m : DWord) (made : Bool) : List Nat :=
  (List.range 64).filter (fun n => m.getLsbD n &&
    (coreOf s x.core).sheets.any (fun h => h.2.ctx == x.sheet.ctx && h.2.launch == x.sheet.launch && h.2.task == x.sheet.task &&
      decide (h.2.tbase ≤ n) && decide (n < h.2.tbase + h.2.ntags)) &&
    (!made || (tagOf s x.core n).op != .none))

/-- The tags are consumed with a result, or BOUNDS is raised at the consumer (05 R127). -/
def consume (s : State) (x : Iss) (h : Hdr) (act : Mask) (ts : List Nat) (dst v : Nat) : State :=
  if ts.any (fun n => (tagSeen s x.core n).status == 0xB) then sheetTrap s x cBounds 0
  else doneOp (writeOpd (ts.foldl (fun s n => consumeTag s x.core n) s) x act dst false false 0 (fun _ => v)) x h

/-- A tag reported ready is acquired, not consumed: stores may reach the bytes of its copy (09 R222, 05 R125). -/
def acquireTag (s : State) (c n : Nat) : State :=
  let k := coreOf s c
  if k.windows.any (fun w => w.wr && w.tag == n) && !(s.couple && (tagOf s c n).wasAt == now s c + 1) then
    setCore s c { k with windows := k.windows.filter (fun w => !(w.wr && w.tag == n)) }
  else s

/-- The uses of a form that takes a mask. -/
def maskUses (f : FmtA) : List (Opd × Role) :=
  [(f.dst, .dst false), (f.opa, .unused), (f.opb, .unused), (f.opc, .unused), (f.opd, .uni64)]

/-- The fields, operands and privilege that `execWait` asks for (10 R237). -/
def sigWait (f : FmtA) : Sig :=
  { ok := fmtAOk f 0 false && f.mod == 0,
    uses := [(f.dst, .dst false), (f.opa, .tagRead), (f.opb, .unused), (f.opc, .unused), (f.opd, .unused)] }

/-- WAIT (12 R330). -/
def execWait (f : FmtA) (s : State) : Host.Outcome State Fault Refusal :=
  issueOp s f.h (sigWait f)
    (fun s x act =>
      if act = 0 then doneOp s x f.h
      else
        let n := tagNo x.sheet f.opa.toNat
        let t := tagSeen s x.core n
        if !t.ready then blockLeaf s x.core x.entry (.tag n)
        else consume s x f.h act [n] f.dst.toNat t.status.toNat)

/-- The fields, operands and privilege that `execWaitany` asks for (10 R237). -/
def sigWaitany (f : FmtA) : Sig :=
  { ok := fmtAOk f 1 false && f.mod == 0, uses := maskUses f }

/-- WAITANY (12 R330). -/
def execWaitany (f : FmtA) (s : State) : Host.Outcome State Fault Refusal :=
  issueOp s f.h (sigWaitany f)
    (fun s x act =>
      if act = 0 then doneOp s x f.h
      else
        let m : DWord := BitVec.ofNat 64 (uniOpd s x act .i64 f.opd.toNat)
        let ts := namedTags s x m true
        let rd := ts.filter (fun n => (tagSeen s x.core n).ready)
        match ts, rd with
        | [], _ => consume s x f.h act [] f.dst.toNat 64
        | _, [] => blockLeaf s x.core x.entry (.tagAny m)
        | _, n :: _ => consume s x f.h act rd f.dst.toNat n)

/-- The fields, operands and privilege that `execWaitall` asks for (10 R237). -/
def sigWaitall (f : FmtA) : Sig :=
  { ok := fmtAOk f 2 false && f.mod == 0, uses := maskUses f }

/-- WAITALL (12 R330). -/
def execWaitall (f : FmtA) (s : State) : Host.Outcome State Fault Refusal :=
  issueOp s f.h (sigWaitall f)
    (fun s x act =>
      if act = 0 then doneOp s x f.h
      else
        let m : DWord := BitVec.ofNat 64 (uniOpd s x act .i64 f.opd.toNat)
        let ts := namedTags s x m true
        if ts.any (fun n => !(tagSeen s x.core n).ready) then blockLeaf s x.core x.entry (.tagAll m)
        else consume s x f.h act ts f.dst.toNat (ts.foldl (fun a n => worse a (tagSeen s x.core n).status.toNat) 0))

/-- The fields, operands and privilege that `execTfirst` asks for (10 R237). -/
def sigTfirst (f : FmtA) : Sig :=
  { ok := fmtAOk f 3 false && f.mod == 0, uses := maskUses f }

/-- TFIRST (12 R330). -/
def execTfirst (f : FmtA) (s : State) : Host.Outcome State Fault Refusal :=
  issueOp s f.h (sigTfirst f)
    (fun s x act =>
      if act = 0 then doneOp s x f.h
      else
        let ts := namedTags s x (BitVec.ofNat 64 (uniOpd s x act .i64 f.opd.toNat)) true
        let v := ((ts.filter (fun n => (tagSeen s x.core n).ready)).head?).getD 64
        doneOp (writeOpd (acquireTag s x.core v) x act f.dst.toNat false false 0 (fun _ => v)) x f.h)

/-- The fields, operands and privilege that `execTtest` asks for (10 R237). -/
def sigTtest (f : FmtA) : Sig :=
  { ok := fmtAOk f 4 false && f.mod == 0,
    uses := [(f.dst, .dst false), (f.opa, .tagRead), (f.opb, .unused), (f.opc, .unused), (f.opd, .dst true)] }

/-- TTEST (12 R330). -/
def execTtest (f : FmtA) (s : State) : Host.Outcome State Fault Refusal :=
  issueOp s f.h (sigTtest f)
    (fun s x act =>
      if act = 0 then doneOp s x f.h
      else
        let t := tagSeen s x.core (tagNo x.sheet f.opa.toNat)
        let bad := t.ready && decide (3 ≤ t.status.toNat) && decide (t.status.toNat ≤ 6)
        let s := if t.ready then acquireTag s x.core (tagNo x.sheet f.opa.toNat) else s
        let s := writeOpd s x act f.dst.toNat false false 0 (fun _ => if t.ready then 2 ^ 31 + t.status.toNat else 0)
        doneOp (writeOpd s x act f.opd.toNat true false 0 (fun _ => if bad then t.va.toNat else 0)) x f.h)

/-- The fields, operands and privilege that `execTcancel` asks for (10 R237). -/
def sigTcancel (f : FmtA) : Sig :=
  { ok := fmtAOk f 5 false && f.mod == 0,
    uses := [(f.dst, .unused), (f.opa, .unused), (f.opb, .unused), (f.opc, .unused), (f.opd, .uni64)] }

/-- TCANCEL (12 R331): the named pending copies and `TDGET`s are to end CANCELLED. -/
def execTcancel (f : FmtA) (s : State) : Host.Outcome State Fault Refusal :=
  issueOp s f.h (sigTcancel f)
    (fun s x act =>
      if act = 0 then doneOp s x f.h
      else
        let ts := namedTags s x (BitVec.ofNat 64 (uniOpd s x act .i64 f.opd.toNat)) false
        doneOp { s with asyncs := s.asyncs.map (fun a =>
          match a.kind with
          | .copy c => if a.core = x.core ∧ ts.contains a.tag ∧ c.ring.isNone ∧ c.kind ≠ 4 then { a with cancelled := true } else a
          | .tdget _ _ => if a.core = x.core ∧ ts.contains a.tag then { a with cancelled := true } else a
          | _ => a) } x f.h)

/-- The scratchpad offset of byte `x` of row `r` from `dest` (05 R120). -/
def layoutOff (d : Img) (dest r x : Nat) : Nat :=
  let a := dest + tPitch d * r + x
  if tSwzc d = 0 then a
  else
    let w := 3 + tSwzc d
    let q := (min (tPitch d) 2048).log2
    a ^^^ ((r >>> recFld d 117 115) % 2 ^ (q - w) * 2 ^ w)

/-- Adds a byte to runs of consecutive bytes, none across a 128-byte boundary; the last run stands first. -/
def addRun (runs : List (Nat × List Byte)) (a : Nat) (b : Byte) : List (Nat × List Byte) :=
  match runs with
  | (p, bs) :: t => if p + bs.length = a ∧ a % 128 ≠ 0 then (p, bs ++ [b]) :: t else (a, [b]) :: runs
  | [] => [(a, [b])]

/-- Bytes with their addresses as runs, in order. -/
def runsOf (bs : List (Nat × Byte)) : List (Nat × List Byte) := (bs.foldl (fun r p => addRun r p.1 p.2) []).reverse

/-- The bits of a code as its planes hold them (05 R121). -/
def planeBits (fmt code : Nat) : List Bool :=
  match eltFloat fmt with
  | none => (List.range (eltBits fmt)).map (bitN code)
  | some f =>
    let m := fmtM f
    let e := slice code (m + fmtE f - 1) m
    (List.range m).map (bitN code) ++ [e != 0] ++ (List.range (fmtE f)).map (bitN e) ++ [bitN code (fmtW f - 1)]

/-- The code that planes hold; the implicit bit is ignored (05 R121). -/
def planeCode (fmt : Nat) (bits : List Bool) : Nat :=
  let num (bs : List Bool) : Nat := bs.foldr (fun b a => b2n b + 2 * a) 0
  match eltFloat fmt with
  | none => num (bits.take (eltBits fmt))
  | some f =>
    let m := fmtM f
    num (bits.take m) + 2 ^ m * num ((bits.drop (m + 1)).take (fmtE f)) + 2 ^ (fmtW f - 1) * b2n (bits[m + 1 + fmtE f]?.getD false)

/-- The bytes of a row from its codes; a code that could not be read leaves its bytes out (05 R118, R121, R124). -/
def rowOf (fmt : Nat) (pl : Bool) (codes : List (Option Nat)) : List (Option Byte) :=
  let n := codes.length
  let all8 (cs : List (Option Nat)) (f : List Nat → Nat) : Option Byte :=
    if cs.all (·.isSome) then some (BitVec.ofNat 8 (f (cs.map (fun c => c.getD 0)))) else none
  if pl then
    ((List.range (eltPlanes fmt)).map (fun j => (List.range (n / 8)).map (fun g =>
      all8 ((codes.drop (8 * g)).take 8) (fun cs => (cs.zipIdx).foldl (fun a p =>
        a + if (planeBits fmt p.1)[j]?.getD false then 2 ^ p.2 else 0) 0)))).flatten
  else if eltBits fmt = 4 then
    (List.range (n / 2)).map (fun g => all8 ((codes.drop (2 * g)).take 2) (fun cs => cs.headD 0 + 16 * (cs[1]?.getD 0)))
  else
    (codes.map (fun c => (List.range (eltBits fmt / 8)).map (fun i => c.map (fun v => BitVec.ofNat 8 (v / 256 ^ i))))).flatten

/-- The code of element `i` of a row's bytes. -/
def codeOf (fmt : Nat) (pl : Bool) (n : Nat) (row : List Byte) (i : Nat) : Nat :=
  let byte (k : Nat) : Nat := (row[k]?.getD 0).toNat
  if pl then planeCode fmt ((List.range (eltPlanes fmt)).map (fun j => bitN (byte (j * (n / 8) + i / 8)) (i % 8)))
  else if eltBits fmt = 4 then byte (i / 2) / 16 ^ (i % 2) % 16
  else leBytes ((row.drop (eltBits fmt / 8 * i)).take (eltBits fmt / 8))

/-- What a copy has found and written so far: status, first failing address, events. -/
structure CopyRes where
  s : State
  status : Nat := 0
  va : DWord := 0
  events : List Event := []
  bounds : Nat := 0
  stop : Bool := false
  /-- the scale last counted as read -/
  scaleAt : Option Nat := none
  /-- runs of bytes for the on-chip map, still to be written -/
  runs : List (Nat × List Byte) := []

/-- Notes a failure at an address. -/
def CopyRes.fail (r : CopyRes) (cause va : Nat) : CopyRes :=
  { r with status := worse r.status (tsOfCause cause), va := if r.status < 3 then BitVec.ofNat 64 va else r.va }

/-- The cores that receive an In copy to scratchpad. -/
def copyCores (a : Async) (c : CopyArgs) : List Nat := coresOf a.core c

/-- The scratch base of a copy's offsets. -/
def opScratch (s : State) (a : Async) (c : CopyArgs) : Nat := copyScr s a.ctx a.launch a.task c

/-- Writes the bytes of a row of an In copy at its destination (05 R120); those for the on-chip map are kept. -/
def putRow (a : Async) (c : CopyArgs) (r : Nat) (res : CopyRes) (row : List (Option Byte)) : CopyRes :=
  let d := c.img
  let dest := c.dest.toNat
  let place (x : Nat) : Nat := if c.kind = 2 then dest + tPitch d * r + x else layoutOff d dest r x
  let bs := (row.zipIdx).filterMap (fun p => p.1.map (fun b => (place p.2, b)))
  if c.kind = 1 then { res with runs := res.runs ++ runsOf bs }
  else (runsOf bs).foldl (fun res run =>
    if c.kind = 2 then
      match engWrite res.s (engOf a) (run.1 % 2 ^ 64) run.2 with
      | .ok t => { res with s := t }
      | .error e => res.fail e.1 run.1
    else { res with s := (copyCores a c).foldl (fun s k => chipWrite s k false (opScratch s a c + run.1) run.2) res.s }) res

/-- The bytes of a range that runs write. -/
def runsIn (runs : List (Nat × List Byte)) (lo n : Nat) : Nat :=
  (runs.map (fun r => min (r.1 + r.2.length) (lo + n) - max r.1 lo)).sum

/-- The poisoned registers that runs for the on-chip map write whole are formed anew (04 R102). -/
def clearRegs (s : State) (runs : List (Nat × List Byte)) : State :=
  ((runs.map (fun r => r.1 / 0x400000)).eraseDups).foldl (fun s c =>
    let k := coreOf s c
    let gs := (k.regPoison.filter (fun p => p.2 && runsIn runs (c * 0x400000 + 128 * p.1) 128 == 128)).map (·.1)
    if gs.isEmpty then s else setCore s c { k with regPoison := gs.foldl (fun t g => tset false t g false) k.regPoison }) s

/-- Writes what a copy has for the on-chip map, checked under R105 without a page (05 R120, 12 R324). -/
def putRuns (a : Async) (res : CopyRes) : CopyRes :=
  let check (run : Nat × List Byte) : Nat × Nat :=
    match placeOf res.s (0xF000000000000 + run.1) with
    | .win _ _ => if 2 ^ 31 ≤ run.1 then (cPage, 0) else windowCheck res.s a.ctx a.priv true (run.1 / 0x400000) (run.1 % 0x400000) run.2.length
    | _ => (cPage, 0)
  let out := res.runs.map (fun run => (run, check run))
  let good := (out.filter (fun o => o.2.1 == 0)).map (·.1)
  let res := out.foldl (fun res o => if o.2.1 = 0 then res else res.fail o.2.1 o.1.1) res
  { res with s := good.foldl (fun s run => engWindow s (run.1 / 0x400000) (run.1 % 0x400000) run.2) (clearRegs res.s good), runs := [] }

/-- The events of a floating element that a copy reads (07 R184). -/
def eltEvents (fmt code : Nat) : List Event :=
  match eltFloat fmt with
  | some f => readEvents (fmtIdx f) (decodeF f code)
  | none => []

/-- One row of an In copy: read, and written (05 R120). -/
def inRow (a : Async) (c : CopyArgs) (res : CopyRes) (r : Nat) : CopyRes :=
  let d := c.img
  let fmt := tFmt d
  let n := max 1 (eltBits fmt / 8)
  let out := (List.range (tTile d 0)).foldl (fun (p : CopyRes × List (Option Nat)) i =>
    let e := eltCoords d c.coords r i
    if !e.2 then (p.1, p.2 ++ [some 0])
    else
      let ad := eltAddr d e.1
      match engRead p.1.s (engOf a) ad.1 n with
      | .error x => (p.1.fail x.1 ad.1, p.2 ++ [none])
      | .ok bs =>
        let v := leBytes bs
        let code := match ad.2 with | some true => v / 16 | some false => v % 16 | none => v
        ({ p.1 with events := p.1.events ++ eltEvents fmt code }, p.2 ++ [some code])) (res, [])
  putRow a c r out.1 (rowOf fmt (tPl d && c.kind != 2) out.2)

/-- A lattice code's weights against the bounds (07 R183, 05 R114): how many lie out of range, and whether a scale was a
NaN or could not be read, with the cause and the address. -/
def latticeBounds (s : State) (a : Async) (d : Img) (bank : Nat) (is : List Nat) (code : Nat) : Nat × Nat × Option (Nat × Nat) :=
  let ws := latticeWeights (bankEntry (coreOf s a.core) bank (code / 256)) code
  (ws.zipIdx).foldl (fun r w =>
    match blockScale s (engOf a) d (8 * is.headD 0 + w.2) is with
    | .error e => (r.1, r.2.1, some (e.1, scaleAddr d (8 * is.headD 0 + w.2) is))
    | .ok (_, sg) =>
      let k := prodF sg (tauOf d)
      let v := prodF (.fin (decide (w.1 < (0 : Int))) w.1.natAbs (-1)) k
      (r.1 + b2n (outOfBounds d v), worse r.2.1 (if isNaN k then tsScaleNan else 0), r.2.2)) (0, 0, none)

/-- What an Out copy makes of one element, its block's scale counted as one read (07 R184): its code, or none where it is not written (07 R183). A lattice code that
would be clamped has no stated code: a free one (log entry 21). -/
def outElem (a : Async) (c : CopyArgs) (is : List Nat) (res : CopyRes) (code : Nat) : CopyRes × Option Nat :=
  let d := c.img
  let fmt := tFmt d
  let res := { res with events := res.events ++ eltEvents fmt code }
  if tBact d = 0 then (res, some code)
  else
    let note (res : CopyRes) (n st : Nat) : CopyRes := { res with bounds := res.bounds + n, status := worse res.status st }
    if fmt = 9 then
      match latticeBounds res.s a d c.bank is code with
      | (_, _, some e) => (res.fail e.1 e.2, none)
      | (0, st, none) => (note res 0 st, some code)
      | (n, st, none) =>
        if tBact d = 1 then (note res n (worse st tsBounded), some code)
        else if tBact d = 2 then (note res n (worse st tsBounded), some ((Config.freeWord (res.s.free * 2 ^ 64 + (eltAddr d is).1)).toNat % 2 ^ 16))
        else ({ note res n (worse st tsBounds) with stop := true }, none)
    else match blockScale res.s (engOf a) d (is.headD 0) is with
      | .error e => (res.fail e.1 (scaleAddr d (is.headD 0) is), none)
      | .ok (sc, sg) =>
        let at' := scaleAddr d (is.headD 0) is
        let ev := if tBlk d = 0 ∨ res.scaleAt = some at' then [] else readEvents (scaleIdx (tScf d)) (scaleVal (tScf d) sc)
        let res := { res with events := res.events ++ ev, scaleAt := some at' }
        let k := prodF sg (tauOf d)
        let nanK := if isNaN k then tsScaleNan else 0
        let v := prodF (eltVal fmt code) k
        if !outOfBounds d v then (note res 0 nanK, some code)
        else if tBact d = 1 then (note res 1 (worse nanK tsBounded), some code)
        else if tBact d = 2 then
          let c := convCode d .rne false (decide (fmt < 3)) (nearBound d v) k
          ({ note res 1 (worse nanK tsBounded) with events := res.events ++ c.2 }, some c.1)
        else ({ note res 1 (worse nanK tsBounds) with stop := true }, none)

/-- One row of an Out copy as the elements that it writes. -/
def outRow (a : Async) (c : CopyArgs) (p : CopyRes × List ElemWrite) (r : Nat) : CopyRes × List ElemWrite :=
  let d := c.img
  let fmt := tFmt d
  let n := rowBytes d
  let offs := (List.range n).map (fun x => opScratch p.1.s a c + layoutOff d c.dest.toNat r x)
  let row := offs.map (fun o => (chipRead p.1.s a.core false o 1).headD 0)
  let poisoned (i : Nat) : Bool :=
    let bits := eltBits fmt
    let xs := if tPl d then (List.range (eltPlanes fmt)).map (fun j => j * (tTile d 0 / 8) + i / 8)
      else (List.range (max 1 (bits / 8))).map (fun k => i * bits / 8 + k)
    xs.any (fun x => chipPoison p.1.s a.core false (offs[x]?.getD 0) 1)
  (List.range (tTile d 0)).foldl (fun p i =>
    let e := eltCoords d c.coords r i
    if p.1.stop || !e.2 then p
    else
      let ad := eltAddr d e.1
      if poisoned i then (p.1.fail cPoison ad.1, p.2)
      else match outElem a c e.1 p.1 (codeOf fmt (tPl d) (tTile d 0) row i) with
        | (res, none) => (res, p.2)
        | (res, some code) =>
          (res, p.2 ++ [{ va := BitVec.ofNat 64 ad.1, bytes := max 1 (eltBits fmt / 8), nibble := ad.2, code := code }])) p

/-- Elements to be written, two nibbles of one byte together. -/
def joinNibbles : List ElemWrite → List ElemWrite
  | x :: y :: t =>
    if x.nibble = some false ∧ y.nibble = some true ∧ x.va = y.va then
      { x with nibble := none, code := x.code % 16 + 16 * (y.code % 16) } :: joinNibbles t
    else if x.nibble = some true ∧ y.nibble = some false ∧ x.va = y.va then
      { x with nibble := none, code := y.code % 16 + 16 * (x.code % 16) } :: joinNibbles t
    else x :: joinNibbles (y :: t)
  | t => t

/-- Writes elements in their order: whole ones next to one another together, so that words written whole are clear of poison (04
R107). -/
def writeElems (s : State) (g : Eng) (es : List ElemWrite) : State × Nat × DWord :=
  ((joinNibbles es).splitBy (fun x y => x.nibble.isNone == y.nibble.isNone)).foldl (fun (r : State × Nat × DWord) part =>
    if part.any (fun e => e.nibble.isSome) then
      let q := engElems r.1 g part
      (q.1, worse r.2.1 q.2.1, if r.2.1 < 3 then q.2.2 else r.2.2)
    else
      let bs := (part.map (fun e => (toBytes e.bytes e.code).zipIdx.map (fun p => (e.va.toNat + p.2, p.1)))).flatten
      (runsOf bs).foldl (fun (r : State × Nat × DWord) run =>
        match engWrite r.1 g run.1 run.2 with
        | .ok t => (t, r.2)
        | .error e => (r.1, worse r.2.1 (tsOfCause e.1), if r.2.1 < 3 then BitVec.ofNat 64 run.1 else r.2.2)) r) (s, 0, 0)

/-- The memory that a copy reads. -/
def copyReads (c : CopyArgs) : List (Nat × Nat) := if c.kind = 3 then [] else tensorRows c

/-- The lines of ranges are at rest, but for tiles that another device holds. -/
def rangesQuiet (s : State) (g : Eng) (rs : List (Nat × Nat)) : Bool :=
  rs.all (fun r => (rowsOf r.1 r.2).all (fun q => engQuiet s g q.1 q.2))

/-- Goes on with an operation once peers have answered for what it reads there (19 R458), and the lines that it reads are at rest. -/
def withAnswers (s : State) (a : Async) (rs : List (Nat × Nat)) (f : State) : State :=
  match ((rs.map (fun r => peerParts s (engOf a) r.1 r.2 0)).flatten).filter (fun p => !asked s a.id p) with
  | [] => if opWaits s a.id ∨ !rangesQuiet s (engOf a) rs then s else f
  | need => askPeer s a.id false (fun _ _ => []) need

/-- A line of the ranges whose tile another device holds (03 R80). -/
def heldTile (s : State) (g : Eng) (rs : List (Nat × Nat)) : Option Nat :=
  rs.findSome? (fun r => (rowsOf r.1 r.2).findSome? (fun q =>
    match translateNow s g.core g.ctx q.1 with
    | .ok (pte, pa) => (match placeOf s pa with
      | .hbm _ => let l := lineOf (storeOf s pte pa); if (grantedTo s (tileOf l)).isEmpty then none else some l
      | _ => none)
    | .error _ => none))

/-- The lines of ranges that a copy brings to its cluster's cache (04 R90): storage line and entry, of cacheable pages of local HBM
and host memory that are not commutative. -/
def copyLines (s : State) (g : Eng) (kind : Nat) (rs : List (Nat × Nat)) : List (Nat × DWord) :=
  ((rs.map (fun r => ((rowsOf r.1 r.2).map (fun q =>
    match engAddr s g q.1 kind with
    | .ok (pte, pa) =>
      if !pteC pte || pteCfmt pte != 0 then []
      else (match placeOf s pa with
        | .hbm _ => (reqLines (storeOf s pte pa) q.2).map (fun l => (l, pte))
        | .host _ => (reqLines pa q.2).map (fun l => (l, pte))
        | _ => [])
    | .error _ => [])).flatten)).flatten).eraseDups

/-- The accesses that bring a copy's lines to the cluster cache, with its eviction priority (04 R90, R93). -/
def pullLines (s : State) (a : Async) (kind : AccKind) (evp : BitVec 3) (ls : List (Nat × DWord)) : State :=
  ls.foldl (fun s l =>
    let id := s.nextId
    modAsync { s with nextId := id + 1, accs := s.accs ++
      [{ id := id, kind := kind, core := a.core, slot := a.slot, lane := 0, pc := 0, pa := 128 * l.1, va := 0, bytes := 128,
         pte := l.2, uncached := false, ord := 0, scope := a.scope, evp := evp, subop := 0, cls := 0, dst := 0, live := 0, d := 0, c := 0,
         deps := [] }] } a.id (fun q => { q with deps := q.deps ++ [id] })) s

/-- COPY_START (05 R122): one of the cluster's two engines takes the oldest waiting copy, brings its lines to the cluster cache (04
R90), and asks peers for the bytes that it reads there. -/
def execCopyStart (op : Nat) (s : State) : Host.Outcome State Fault Refusal :=
  .next (match asyncOf s op with
    | none => s
    | some a =>
      match a.kind with
      | .copy c =>
        if a.started ∨ !opReady s a ∨ overQuota s a.ctx ∨ 2 ≤ ((copyQueue s (a.core / 4)).filter (·.started)).length then s
        else
          let s := modAsync s op (fun a => { a with started := true, deps := [] })
          let ws := copyLines s (engOf a) 1 (copyWrites c)
          let s := pullLines s a .engW c.evp ws
          let s := pullLines s a .engR c.evp ((copyLines s (engOf a) 0 (copyReads c)).filter (fun l => !ws.contains l))
          askPeer s op false (fun _ _ => []) (((copyReads c).map (fun r => peerParts s (engOf a) r.1 r.2 0)).flatten)
      | _ => s)

/-- An operation ends: its tag or ring slot is completed, its requests forgotten (05 R127, R130). -/
def endOp (s : State) (a : Async) (status : Nat) (va : DWord) : State :=
  let s := dropReqs (dropAsync s a.id) a.id
  match a.kind with
  | .copy { ring := some (r, slot), owner := o, .. } =>
    let g := ringOf s (a.core / 4) r
    if rgV g ∧ g.owner = o then
      setRing s (a.core / 4) r (rgAdvance { rgPutStatus g slot status with finished := slot :: g.finished } 16)
    else s
  | _ => completeTag s a.core a.tag status va

/-- The nibbles of elements that lie alone in a byte of a peer's window: the device and address of the byte. -/
def farNibbles (s : State) (g : Eng) (es : List ElemWrite) : List (ElemWrite × Nat × Nat) :=
  ((joinNibbles es).filter (fun e => e.nibble.isSome)).filterMap (fun e =>
    match engAddr s g e.va.toNat 1 with
    | .ok (_, pa) => (match placeOf s pa with
      | .peerMap d _ => some (e, fld (rawReg s (.fpeer d)) 11 0, pa)
      | _ => none)
    | .error _ => none)

/-- The reads of such bytes that have still to be asked for. -/
def nibbleReads (s : State) (g : Eng) (es : List ElemWrite) : List (Nat × Nat × Nat) :=
  ((farNibbles s g es).map (fun e => (e.2.1, e.2.2, 1))).eraseDups.filter (fun p =>
    !s.emsen.any (fun r => r.use = .copy g.op ∧ !r.write ∧ r.addr ≤ p.2.1 ∧ p.2.1 < r.addr + r.len))

/-- The writes that an operation makes, as runs of bytes at physical addresses of a peer. -/
def remoteRuns (s : State) (g : Eng) (es : List ElemWrite) : List (Nat × Nat × List Byte) :=
  let whole := (joinNibbles es).filter (fun e => e.nibble.isNone)
  let bs := (whole.map (fun e => (toBytes e.bytes e.code).zipIdx.map (fun p => (e.va.toNat + p.2, p.1)))).flatten
  ((runsOf bs).filterMap (fun run => match peerParts s g run.1 run.2.length 1 with
    | [(dev, pa, _)] => some (dev, pa, run.2)
    | _ => none)) ++
  (farNibbles s g es).filterMap (fun e => match peerReply s g.op e.2.2 1 false with
    | .ok old => some (e.2.1, e.2.2, [mergeNibble (e.1.nibble.getD false) (old.headD 0) e.1.code])
    | .error _ => none)

/-- The requests for an operation's writes have been sent. -/
def writesSent (s : State) (op : Nat) : Bool := s.emsen.any (fun r => r.use = .copy op ∧ r.write ∧ r.len < 4096)

/-- A line of a peer of which elements are changed in place, by reductions or as single nibbles, and whose tile this device does
not hold for writing (03 R79). -/
def wantTile (s : State) (g : Eng) (red : Bool) (es : List ElemWrite) : Option Nat :=
  ((joinNibbles es).filter (fun e => red || e.nibble.isSome)).findSome? (fun e =>
    match translateNow s g.core g.ctx e.va.toNat with
    | .ok (_, pa) => (match placeOf s pa, peerReply s g.op pa 1 true with
      | .peer _ _, .ok _ => if tileReady s (lineOf pa) true then none else some (lineOf pa)
      | _, _ => none)
    | .error _ => none)

/-- The pages of local HBM that an operation's writes meet and that its launch must snapshot first (17 R431). -/
def snapPages (s : State) (a : Async) (rs : List (Nat × Nat)) : List Nat :=
  match launchOf s a.ctx a.launch with
  | none => []
  | some l =>
    if recFld l.rec' 174 174 = 0 ∨ l.unrecoverable.isSome then []
    else ((rs.map (fun r => (rowsOf r.1 r.2).filterMap (fun q =>
      match engAddr s (engOf a) q.1 1 with
      | .ok (pte, pa) => (match placeOf s pa with
        | .hbm _ => let p := storeOf s pte pa / 2 ^ 16; if pteSnex pte || l.pages.contains p then none else some p
        | _ => none)
      | .error _ => none))).flatten).eraseDups

/-- A launch with a snapshot that writes host or peer memory or the control range cannot be recovered (17 R431). -/
def noteEngineOut (s : State) (a : Async) (rs : List (Nat × Nat)) : State :=
  let out := rs.any (fun r => match engAddr s (engOf a) r.1 1 with
    | .ok (_, pa) => (match placeOf s pa with | .host _ => true | .peer _ _ => true | .peerMap _ _ => true | .ctl _ => true | _ => false)
    | .error _ => false)
  if out then modLaunch s a.ctx a.launch (fun l => if l.unrecoverable.isNone then { l with unrecoverable := some 5 } else l) else s

/-- Asks for the copies of pages that an operation's writes wait for. -/
def askSnap (s : State) (a : Async) (ps : List Nat) : State :=
  ps.foldl (fun s p => postWork s (.snapshotPageCopy a.ctx a.launch p)) s

/-- Sends the writes of an operation that go to a peer. -/
def sendWrites (s : State) (op : Nat) (runs : List (Nat × Nat × List Byte)) : State :=
  runs.foldl (fun s r => askPeer s op true (fun _ _ => r.2.2) [(r.1, r.2.1, r.2.2.length)]) s

/-- The rows of an In copy to memory as the elements that it would write at a peer. -/
def packedRows (s : State) (a : Async) (c : CopyArgs) : List ElemWrite :=
  if c.kind ≠ 2 then []
  else
    ((List.range (tileRows c.img)).map (fun r =>
      let d := c.img
      let codes := (List.range (tTile d 0)).map (fun i =>
        let e := eltCoords d c.coords r i
        if !e.2 then some 0 else match engRead s (engOf a) (eltAddr d e.1).1 (max 1 (eltBits (tFmt d) / 8)) with
          | .ok bs => some (match (eltAddr d e.1).2 with | some true => leBytes bs / 16 | some false => leBytes bs % 16 | none => leBytes bs)
          | .error _ => none)
      ((rowOf (tFmt d) false codes).zipIdx).filterMap (fun p => p.1.map (fun b =>
        ({ va := c.dest + BitVec.ofNat 64 (tPitch d * r + p.2), bytes := 1, nibble := none, code := b.toNat } : ElemWrite))))).flatten

/-- Writes the elements of an Out copy: plainly, or each as a reduction (05 R120, 12 R324). -/
def writeOut (a : Async) (c : CopyArgs) (res : CopyRes) (es : List ElemWrite) : CopyRes :=
  if tCfmt c.img = 0 then
    let w := writeElems res.s (engOf a) es
    { res with s := w.1, status := worse res.status w.2.1, va := if res.status < 3 then w.2.2 else res.va }
  else es.foldl (fun res e =>
    match engRed res.s (engOf a) e.va.toNat (tCfmt c.img) (tCop c.img) e.code with
    | .ok t => { res with s := t }
    | .error x => res.fail x.1 e.va.toNat) res

/-- The bytes of a finished copy that stores have reached, as `old` notes, are undefined (05 R125). -/
def freeHits (old s : State) (a : Async) : State :=
  ((coreOf old a.core).windows.filter (fun w => w.op = a.id ∧ !w.hits.isEmpty)).foldl (fun s w =>
    w.hits.foldl (fun (s : State) (h : Nat × Nat) =>
      match w.at' with
      | .chip c => chipPut s c w.acc h.1 (freeBytes s ((2 * c + b2n w.acc) * 2 ^ 19 + h.1) (h.2 - h.1))
      | .regs c => windowRegs s c h.1 (wordList (freeBytes s (c * 2 ^ 22 + h.1) (h.2 - h.1))) false
      | .mem => coherentWrite s h.1 (freeBytes s h.1 (h.2 - h.1))
      | _ => s) s) s

/-- Bytes of which each has been written in part, and is undefined, or is unchanged, by a free choice (05 R124). -/
def partly (s : State) (o n : Nat) : List (Nat × Byte) :=
  (List.range n).filterMap (fun i =>
    if Config.freeBool (s.free * 2 ^ 64 + o + i) then some (i, Config.freeByte (s.free * 2 ^ 64 + o + i)) else none)

/-- Bytes of which each may have been written in part, and is then undefined (05 R124). -/
def partBytes (s : State) (o : Nat) (old : List Byte) : List Byte :=
  (old.zipIdx).map (fun p => if Config.freeBool (s.free * 2 ^ 64 + o + p.2) then Config.freeByte (s.free * 2 ^ 64 + o + p.2) else p.1)

/-- A copy that ends early (05 R124): one that has started may have written some of its bytes, and of the writes to peers any may
have gone out. -/
def leavePart (s : State) (a : Async) (c : CopyArgs) : State :=
  let rs := copyReads c ++ copyWrites c
  if !a.started ∨ (heldTile s (engOf a) rs).isSome ∨ !(snapPages s a (copyWrites c)).isEmpty ∨ !rangesQuiet s (engOf a) rs then s
  else
    let s := noteEngineOut s a (copyWrites c)
    let rows := if c.kind = 0 ∨ c.kind = 1 ∨ c.kind = 4 then List.range (tileRows c.img) else []
    let t := rows.foldl (fun (s : State) r =>
      let offs := (List.range (rowBytes c.img)).map (fun x => (layoutOff c.img c.dest.toNat r x, (0 : Byte)))
      (runsOf offs).foldl (fun s run =>
        let n := run.2.length
        if c.kind = 1 then
          let k := run.1 / 0x400000
          let o := run.1 % 0x400000
          match placeOf s (0xF000000000000 + run.1), windowCheck s a.ctx a.priv true k o n, windowRead s k (o / 4 * 4) (roundUp (n + o % 4) 4) with
          | .win _ _, (0, _), some bs => engWindow s k o (partBytes s (k * 2 ^ 22 + o) ((bs.drop (o % 4)).take n))
          | _, _, _ => s
        else (copyCores a c).foldl (fun s k =>
          let o := opScratch s a c + run.1
          chipPut s k false o (partBytes s (2 * k * 2 ^ 19 + o) (chipRead s k false o n))) s) s) s
    let t := (copyWrites c).foldl (fun (t : State) w => (rowsOf w.1 w.2).foldl (fun t r =>
      match engAddr t (engOf a) r.1 1 with
      | .ok (pte, pa) => (match placeOf t pa with
        | .hbm _ => (partly t r.1 r.2).foldl (fun t p => coherentWrite t (storeOf t pte pa + p.1) [p.2]) t
        | .host _ => (partly t r.1 r.2).foldl (fun t p => coherentWrite t (storeOf t pte pa + p.1) [p.2]) t
        | _ => t)
      | .error _ => t) t) t
    let far := (remoteRuns s (engOf a) (packedRows s a c)).filter (fun r => Config.freeBool (s.free * 2 ^ 64 + r.2.1))
    { (if writesSent s a.id then t else sendWrites t a.id far) with free := t.free + 1 }

/-- Ends an operation early: a copy may leave bytes written. -/
def endEarly (s : State) (a : Async) : State :=
  match a.kind with
  | .copy c => endOp (leavePart s a c) a tsCancelled 0
  | _ => endOp s a tsCancelled 0

/-- What the elements of an operation still ask of peers: tiles for those changed in place, bytes for single nibbles, and then the
writes; `red` where each is a reduction. -/
def farWrites (s : State) (a : Async) (red : Bool) (es : List ElemWrite) : Option State :=
  let g := engOf a
  match wantTile s g red es, if red then [] else nibbleReads s g es with
  | some l, _ => some (askTile s l true (a.core / 4))
  | none, p :: ps => some (askPeer s a.id false (fun _ _ => []) (p :: ps))
  | none, [] =>
    match if red || writesSent s a.id then [] else remoteRuns s g es with
    | [] => none
    | far => some (sendWrites s a.id far)

/-- A copy has filled rows of the scratchpads of its cores from its destination (08 R189). -/
def noteDests (s : State) (a : Async) (c : CopyArgs) : State :=
  let n := tPitch c.img * tileRows c.img
  let put (s : State) (k lo : Nat) : State :=
    let s := dropDests s k lo n
    setCore s k { coreOf s k with dests := (coreOf s k).dests ++ [(lo, lo + n)] }
  let o := c.dest.toNat % 0x400000
  if c.kind = 0 ∨ c.kind = 4 then (copyCores a c).foldl (fun s k => put s k (opScratch s a c + c.dest.toNat)) s
  else if c.kind = 1 ∧ 0x80000 ≤ o ∧ o < 0x100000 then put s (c.dest.toNat / 0x400000) (o - 0x80000)
  else s

/-- COPY_COMPLETE (05 R120, R124): the copy's bytes move, its events are counted and its tag or slot completes. Writes to
a peer are sent first and must be answered. -/
def execCopyComplete (op : Nat) (s : State) : Host.Outcome State Fault Refusal :=
  .next (match asyncOf s op with
    | none => s
    | some a =>
      match a.kind with
      | .copy c =>
        if a.cancelled then endEarly s a
        else if !a.started ∨ opWaits s op ∨ !opReady s a then s
        else
          let rs := copyReads c ++ copyWrites c
          match heldTile s (engOf a) rs, snapPages s a (copyWrites c) with
          | some l, _ => recallLine s l
          | none, p :: ps => askSnap s a (p :: ps)
          | none, [] =>
            if !rangesQuiet s (engOf a) rs then s
            else
              let old := s
              let s := noteEngineOut s a (copyWrites c)
              let rows := List.range (tileRows c.img)
              let outs := if c.kind = 3 then rows.foldl (fun p r => outRow a c p r)
                  (({ s := s, events := if tBact c.img = 0 then [] else tauEvents c.img } : CopyRes), []) else ({ s := s }, [])
              match farWrites s a (c.kind == 3 && tCfmt c.img != 0) (if c.kind = 3 then outs.2 else packedRows s a c) with
              | some t => t
              | none =>
                let res := if c.kind = 3 then writeOut a c outs.1 outs.2
                  else putRuns a (rows.foldl (fun res r => inRow a c res r) { s := s })
                let s := countTimes (countEvents (noteDests res.s a c) a.ctx a.launch res.events) a.ctx a.launch boundCounter res.bounds
                endOp { freeHits old s a with free := s.free + 1 } a res.status res.va
      | _ => s)

/-- What must come before an engine's elements can be written: a tile of another device, messages in flight, requests to a
peer and their answers. -/
def beforeWrite (s : State) (a : Async) (ws : List ElemWrite) : Option State :=
  let rs := ws.map (fun w => (w.va.toNat, w.bytes))
  if opWaits s a.id then some s
  else match heldTile s (engOf a) rs, snapPages s a rs with
    | some l, _ => some (recallLine s l)
    | none, p :: ps => some (askSnap s a (p :: ps))
    | none, [] =>
      if !rangesQuiet s (engOf a) rs then some s
      else
        farWrites s a false ws

/-- The store of an element has reached bytes of a copy (05 R125). -/
def engStored (s : State) (g : Eng) (va n : Nat) : State :=
  (memRanges s g.core g.ctx va n).foldl (fun s r => spoilMem s r.1 r.2 true) s

/-- TAG_COMPLETE (05 R127): a `TDGET` or an `STT` has written what it writes. A failure of `TDGET`'s alignment has no
stated status: PAGE or PROT, by a free choice (log entry 22). -/
def execTagComplete (op : Nat) (s : State) : Host.Outcome State Fault Refusal :=
  .next (match asyncOf s op with
    | none => s
    | some a =>
      match a.kind with
      | .tdget id va =>
        if a.cancelled then endOp s a tsCancelled 0
        else if !opReady s a || !tableQuiet s a.ctx id then s
        else if va.toNat % 256 ≠ 0 then endOp { s with free := s.free + 1 } a (if Config.freeBool s.free then tsPage else tsProt) va
        else
          let bs := ((descOf s a.ctx id).map (fun w => toBytes 8 w.toNat)).flatten
          let ws : List ElemWrite := (bs.zipIdx).map (fun p =>
            { va := va + BitVec.ofNat 64 p.2, bytes := 1, nibble := none, code := p.1.toNat })
          match beforeWrite s a ws with
          | some t => t
          | none =>
            let w := writeElems (noteEngineOut s a [(va.toNat, 256)]) (engOf a) ws
            endOp w.1 a w.2.1 w.2.2
      | .stt ws status pa _ =>
        if a.cancelled then endOp s a tsCancelled 0
        else if !opReady s a then s
        else match beforeWrite s a ws with
          | some t => t
          | none =>
            let w := writeElems (noteEngineOut s a (ws.map (fun e => (e.va.toNat, e.bytes)))) (engOf a) ws
            let w := (ws.foldl (fun t e => engStored t (engOf a) e.va.toNat e.bytes) w.1, w.2)
            endOp w.1 a (worse status w.2.1) (if status < 3 then w.2.2 else pa)
      | _ => s)

end Sys2Proof.Machine
end

