-- ==== Sys2Proof/Machine/Element.lean ====
section
/-!
DEFINITION. Stores through a tensor id, `STT` (12 R318 to R320), and paged translation, `XLATE` (12 R316, R317).
-/
namespace Sys2Proof.Machine

/-- What `STT` finds for a lane. -/
inductive SttLane where
  /-- its coordinate lies outside the tensor -/
  | out
  | fault (cause status va : Nat)
  | miss (va : Nat)
  | ok (va : Nat) (nibble : Option Bool) (is : List Nat)
  deriving DecidableEq, Repr

/-- The element of a lane and the checks of its access (12 R318, R319, 02 R36). -/
def sttLane (s : State) (x : Iss) (d : Img) (is : List Nat) : SttLane :=
  if (is.zipIdx).any (fun p => decide (tDim d p.2 ≤ p.1)) then .out
  else
    let a := eltAddr d is
    let n := max 1 (eltBits (tFmt d) / 8)
    match laneCheck s x 0 1 n 0 0 a.1 with
    | .miss va => .miss va
    | .fault c st => .fault c st a.1
    | .ok pte pa =>
      if frameLocal s pa && regionFlagged s (storeOf s pte pa) then .fault cStale 1 a.1 else .ok a.1 a.2 is

/-- What has been converted so far. -/
structure SttAcc where
  ws : List ElemWrite := []
  status : Nat := 0
  va : DWord := 0
  events : List Event := []
  bounds : Nat := 0
  stop : Bool := false

/-- One lane's value becomes an element (12 R318, 07 R181, R183). -/
def sttConv (s : State) (x : Iss) (f : FmtA) (d : Img) (g : Eng) (p : SttAcc) (l va : Nat) (nib : Option Bool) (is : List Nat) : SttAcc :=
  if p.stop then p
  else
    let isInt := decide (tFmt d < 3)
    let v := if isInt then eltVal 2 (readOpd s x .i32 f.opb.toNat l) else decodeF .f32 (readOpd s x (.fl .f32) f.opb.toNat l)
    match blockScale s g d (is.headD 0) is with
    | .error e => { p with status := worse p.status (tsOfCause e.1), va := if p.status < 3 then BitVec.ofNat 64 (scaleAddr d (is.headD 0) is) else p.va }
    | .ok (sc, sg) =>
      let ev := (if isInt then [] else readEvents 3 v) ++
        (if tBlk d = 0 then [] else readEvents (scaleIdx (tScf d)) (scaleVal (tScf d) sc))
      let gen := (genNext ((sheetOf s x.core x.leaf.slot).getD x.sheet) l).toNat
      let mode := if f.mod.getLsbD 2 then RMode.sr gen else rmode (BitVec.ofNat 2 (f.mod.toNat % 4))
      let r := boundConv d mode (f.mod.getLsbD 3) isInt v (prodF sg (tauOf d))
      let p := { p with status := worse p.status r.2.1, events := p.events ++ ev ++ r.2.2.1, bounds := p.bounds + b2n r.2.2.2 }
      match r.1 with
      | some code => { p with ws := p.ws ++ [{ va := BitVec.ofNat 64 va, bytes := max 1 (eltBits (tFmt d) / 8), nibble := nib, code := code, lane := l }] }
      | none => { p with stop := true }

/-- The tag is held by the part of this `STT` that performed, and the leaf replays the part that parked (12 R320): an earlier issue of
other lanes at the same PC, in whose record the leaf stands. -/
def sttReplay (s : State) (x : Iss) (n : Nat) : Bool :=
  x.leaf.issue != 0 && s.asyncs.any (fun a => a.core == x.core && a.slot == x.leaf.slot && a.tag == n && (a.mask &&& x.leaf.mask) == 0 &&
    (match a.kind with | .stt _ _ _ issue => issue == x.leaf.issue | _ => false))

/-- The scales that lanes of an `STT` read (12 R318). -/
def sttScales (d : Img) (oks : List (Nat × SttLane)) : List (Nat × Nat) :=
  if tBlk d = 0 then []
  else oks.filterMap (fun o => match o.2 with
    | .ok _ _ is => some (scaleAddr d (is.headD 0) is, scaleW (tScf d) / 8)
    | _ => none)

/-- The lanes that passed are converted, their stores begin, and the leaf goes on. -/
def sttGo (s : State) (x : Iss) (f : FmtA) (d : Img) (n : Nat) (oks : List (Nat × SttLane)) : State :=
  let m := maskOf (fun l => oks.any (fun o => o.1 = l))
  let g := leafEng x
  let p := oks.foldl (fun p o => match o.2 with
    | .ok va nib is => sttConv s x f d g p o.1 va nib is
    | _ => p) ({ events := tauEvents d } : SttAcc)
  let adv (l : Nat) : Bool := f.mod.getLsbD 2 && p.ws.any (fun w => w.lane = l) &&
    (match bounded d (decodeF .f32 (readOpd s x (.fl .f32) f.opb.toNat l)) with | .fin .. => true | _ => false)
  let advs := lanes.map adv
  let s := dropWalkFaults s x.core x.entry
  let s := advanceGen s x.core x.leaf.slot (fun l => advs[l]?.getD false)
  let s := countTimes (countEvents s x.sheet.ctx x.sheet.launch p.events) x.sheet.ctx x.sheet.launch boundCounter p.bounds
  let deps := depsAll s x .store (BitVec.ofNat 2 (f.mod.toNat / 16)) (p.ws.map (fun w => (w.lane, w.va.toNat, w.bytes)))
  let r := startAsync (pendTag s x.core n .other) x m n (engScope f.scope) (.stt p.ws p.status p.va (issueNo s x.core x.entry))
  doneOp (modAsync r.2 r.1 (fun a => { a with deps := deps })) x f.h

/-- The fields, operands and privilege that `execStt` asks for (10 R237). -/
def sigStt (f : FmtA) : Sig :=
  { ok := fmtAOk f 0 true && f.mod.toNat < 64 && f.mod.toNat / 16 % 4 != 1,
    uses := [(f.dst, .tagDst), (f.opa, .src .i32), (f.opb, .src .i32), (f.opc, .vcoords 1), (f.opd, .unused)] }

/-- STT (12 R318 to R320). -/
def execStt (f : FmtA) (s : State) : Host.Outcome State Fault Refusal :=
  issueOp s f.h (sigStt f)
    (fun s x act =>
      if act = 0 then doneOp s x f.h
      else
        let id := uniOpd s x act .i32 f.opa.toNat
        let d := descOf s x.sheet.ctx id
        let rank := tRank d
        let regs := (List.range rank).map (· + f.opc.toNat)
        if 1023 < id ∨ rank = 0 then sheetTrap s x cDescriptor dsUnset
        else if tFmt d = 9 ∨ tSpn d ≠ 0 ∨ (f.mod.getLsbD 2 ∧ !(6 ≤ tFmt d && tFmt d ≤ 8)) then sheetTrap s x cDescriptor dsOperand
        else if !opdLegal x.sheet (.vcoords rank) f.opc.toNat then sheetTrap s x cIllegal 0
        else withReads s x regs act (
          let n := tagNo x.sheet f.dst.toNat
          if !(tagOf s x.core n).ready && sttReplay s x n then blockLeaf s x.core x.entry (.tag n)
          else withTag s x f.dst (fun n =>
            let outs := (laneList act).map (fun l => (l, sttLane s x d (regs.map (fun c => readElem s x c l))))
            let misses := outs.filterMap (fun o => match o.2 with | .miss va => some va | _ => none)
            if memStalled s x.core then blockLeaf s x.core x.entry .walkRoom
            else if !misses.isEmpty then waitWalks s x misses
            else
              let fs := outs.filterMap (fun o => match o.2 with
                | .fault c st va => some ({ lane := o.1, cause := c, status := st, addr := va } : LaneFault)
                | _ => none)
              let oks := outs.filter (fun o => match o.2 with | .fault _ _ _ => false | _ => true)
              withPeers s x (sttScales d oks) (fun s =>
              if fs.isEmpty then sttGo s x f d n oks
              else match parkLanes s x.core x.entry x.leaf.pc fs none with
                | .all t => dropWalkFaults t x.core x.entry
                | .some' t => sttGo t (reload t x) f d n oks))))

/-- The address of the table entry for a lane of `XLATE`, or none where its block lies past the row (12 R316). -/
def kvEntry (d : Img) (q pos : Nat) : Option Nat :=
  let row := recFld d 639 624
  if row ≤ pos / 16 then none else some ((recFld d 831 768 + 8 * (q * row + pos / 16)) % 2 ^ 64)

/-- An address of a table entry that names none: the lane misses. -/
def kvNone : Nat := 2 ^ 64

/-- The fields, operands and privilege that `execXlate` asks for (10 R237). -/
def sigXlate (f : FmtA) : Sig :=
  { ok := fmtAOk f 0 true && f.mod == 0,
    uses := [(f.dst, .dstPair), (f.opa, .src .i32), (f.opb, .src .i32), (f.opc, .src .i32), (f.opd, .dstP6)] }

/-- XLATE (12 R316, R317). -/
def execXlate (f : FmtA) (s : State) : Host.Outcome State Fault Refusal :=
  issueOp s f.h (sigXlate f)
    (fun s x act =>
      if act = 0 then doneOp s x f.h
      else
        let id := uniOpd s x act .i32 f.opa.toNat
        let d := descOf s x.sheet.ctx id
        if 1023 < id ∨ tRank d = 0 then sheetTrap s x cDescriptor dsUnset
        else if tKvb d ≠ 1 then sheetTrap s x cDescriptor dsOperand
        else
          let items := (laneList act).map (fun l =>
            let pos := readOpd s x .i32 f.opc.toNat l
            (l, (kvEntry d (readOpd s x .i32 f.opb.toNat l) pos).getD kvNone, pos % 16))
          let s := [f.dst.toNat, f.dst.toNat + 1].foldl (fun s c => dropPending s x c act) s
          let deps := depsAll s x .load 0 ((items.filter (fun i => i.2.1 ≠ kvNone)).map (fun i => (i.1, i.2.1, 8)))
          let r := startAsync s x act 64 (engScope f.scope) (.xlate f.dst f.opd d items)
          doneOp (modAsync r.2 r.1 (fun a => { a with deps := deps })) x f.h)

/-- XLATE_READ_RETURN (12 R316, R317): the entries are read and every lane gets its address or its miss. -/
def execXlateReadReturn (op : Nat) (s : State) : Host.Outcome State Fault Refusal :=
  .next (match asyncOf s op with
    | none => s
    | some a =>
      match a.kind, sheetOf s a.core a.slot with
      | .xlate dst opd d items, some h =>
        let g := engOf a
        let rs := ((items.filter (fun i => i.2.1 ≠ kvNone)).map (fun i => (i.2.1, 8))).eraseDups
        if !opReady s a then s
        else withAnswers s a rs (
          let res := items.map (fun i =>
            if i.2.1 = kvNone then (i.1, none)
            else match engRead s g i.2.1 8 with
              | .ok bs =>
                let e := leBytes bs
                if e % 2 = 0 then (i.1, none) else (i.1, some ((e / 128 * 128 + i.2.2 * tStride d 1) % 2 ^ 64))
              | .error _ => (i.1, none))
          let val (l : Nat) : Nat := ((res.find? (fun r => r.1 = l)).bind (·.2)).getD 0
          let hit := maskOf (fun l => res.any (fun r => r.1 = l ∧ r.2.isSome))
          let miss := maskOf (fun l => res.any (fun r => r.1 = l ∧ r.2.isNone))
          let s := dropAsync (dropReqs s op) op
          let s := if hit = 0 then s else
            putPhys (putPhys s a.core (h.base + dst.toNat) hit (fun l => BitVec.ofNat 32 (val l)))
              a.core (h.base + dst.toNat + 1) hit (fun l => BitVec.ofNat 32 (val l / 2 ^ 32))
          modSheet s a.core a.slot (fun h =>
            let i := opd.toNat - 0x190
            { h with preds := tset 0 h.preds i ((tget 0 h.preds i &&& ~~~hit) ||| miss) }))
      | .xlate _ _ _ _, none => dropAsync s op
      | _, _ => s)

end Sys2Proof.Machine
end

