-- ==== Sys2Proof/Machine/Matrix.lean ====
section
/-!
DEFINITION. The matrix array (08 R187 to R204, 07 R177 to R179): quarter operations, the pass queue, passes and power
tokens, and the instructions `MXA`, `MXSP`, `MXRDY`, `MXLD`, `MXZERO` (13 R333 to R342).
-/
namespace Sys2Proof.Machine

/-- ACC-RANGE of 08 R191. -/
def dsAccRange : Nat := 14
/-- IMAGE-VERSION of 05 R116. -/
def dsImage : Nat := 16

/-- The unused modifiers of an X-format instruction (13 R333). -/
def fmtXOk (f : FmtX) (sub : Nat) : Bool :=
  noType f.h && f.sub.toNat == sub && f.rnd == 0 && !f.sat && !f.sr && !f.asc

/-- The quarters that hold an active lane, with their lowest lane (13 R334). -/
def activeQuarters (act : Mask) : List (Nat × Nat) :=
  (List.range 4).filterMap (fun q => (lowLane (act &&& quarterMask q)).map (fun l => (q, l)))

/-- The accumulator tiles of a sheet's task: how many, and the first (04 R100). -/
def tilesOf (s : State) (h : Sheet) : Nat × Nat := (acctOf (launchRec s h), (sheetTask s h).tile)

/-- The offset of a tile in the accumulator memory. -/
def tileOff (base j : Nat) : Nat := 0x800 * (base + j)

/-- An element's code in a tile. -/
def tileWord (bs : List Byte) (m n : Nat) : Nat := leBytes ((bs.drop (4 * (32 * m + n))).take 4)

/-- The exact sum of two values; infinities of both signs give a NaN (07 R177, R179). -/
def addX (a b : FVal) : FVal :=
  match a, b with
  | .nan s, _ => .nan s
  | _, .nan s => .nan s
  | .inf p, .inf q => if p = q then .inf p else .nan false
  | .inf p, _ => .inf p
  | _, .inf q => .inf q
  | .fin p m e, .fin q n f =>
    let k := min e f
    let x := scaled p m e k + scaled q n f k
    .fin (decide (x < 0)) x.natAbs k

/-- The value of an element from its plane bits: the implicit plane counts as it stands (08 R187). -/
def planeVal (fmt : Nat) (bits : List Bool) : FVal :=
  match eltFloat fmt with
  | none => eltVal fmt (planeCode fmt bits)
  | some f =>
    match decodeF f (planeCode fmt bits) with
    | .fin _ _ _ =>
      let m := fmtM f
      let num (bs : List Bool) : Nat := bs.foldr (fun b a => b2n b + 2 * a) 0
      let e := num ((bits.drop (m + 1)).take (fmtE f))
      .fin (bits[m + 1 + fmtE f]?.getD false) (num (bits.take (m + 1)))
        ((if e = 0 then 1 else (e : Int)) - (fmtBias f : Int) - (m : Int))
    | v => v

/-- The scratchpad offsets of the bytes of an operand row (08 R189). -/
def operandOffs (d : Img) (x r : Nat) : List Nat := (List.range (rowBytes d)).map (fun b => layoutOff d x r b)

/-- X names an operand as R189 asks (08 R189): the destination of the copy that filled the bytes there, or rows of it in phase. Bytes
that no copy has placed were laid out by stores from X itself, which must be a legal destination (DEDUCED, log entry 42). -/
def inPhase (k : Core) (d : Img) (scr x : Nat) : Bool :=
  let p := tPitch d
  match k.dests.find? (fun t => decide (t.1 ≤ scr + x) && decide (scr + x < t.2)) with
  | some t =>
    let off := scr + x - t.1
    off == 0 || (off % p == 0 && (tSwzc d == 0 || off / p % 2 ^ (recFld d 117 115 + (min p 2048).log2 - (3 + tSwzc d)) == 0))
  | none => tSwzc d == 0 || x % min p 2048 == 0

/-- The values of an operand row from its bytes (08 R187). -/
def operandRow (k : Core) (d : Img) (bank : Nat) (bs : List Byte) : List FVal :=
  let fmt := tFmt d
  if fmt = 9 then
    ((List.range (tTile d 0)).map (fun i =>
      let c := leBytes ((bs.drop (2 * i)).take 2)
      (latticeWeights (bankEntry k bank (c / 256)) c).map (fun w => FVal.fin (decide (w < (0 : Int))) w.natAbs (-1)))).flatten
  else
    let n := tTile d 0
    (List.range n).map (fun i => planeVal fmt ((List.range (eltPlanes fmt)).map (fun j =>
      bitN (bs[j * (n / 8) + i / 8]?.getD 0).toNat (i % 8))))

/-- A scale along a row: the block's key, its value, and its code where one is read (13 R339). `pos` is the position in
elements or weights, `row` the dimension-1 index. -/
def operandScale (s : State) (g : Eng) (d : Img) (pos row : Nat) : Except (Nat × Nat) (Option Nat × FVal × List Event) :=
  let dim0 := if tFmt d = 9 then 8 * tDim d 0 else tDim d 0
  if tBlk d = 0 ∨ dim0 ≤ pos ∨ tDim d 1 ≤ row then .ok (none, .fin false 1 0, [])
  else match blockScale s g d pos [pos, row] with
    | .ok (_, v) => .ok (some (pos / blockSize d), v, readEvents (scaleIdx (tScf d)) v)
    | .error e => .error e

/-- The set bits of a mask word, in order. -/
def setBits (w : Nat) : List Nat := (List.range 64).filter (bitN w)

/-- The worst of what several parts give, or their lists in order. -/
def joinParts (rs : List (Except Nat (List (Option Nat)))) : Except Nat (List (Option Nat)) :=
  match rs.filterMap (fun r => match r with | .error e => some e | .ok _ => none) with
  | [] => .ok (rs.map (fun r => match r with | .ok ks => ks | .error _ => [])).flatten
  | e :: es => .error (es.foldl worse e)

/-- The logical positions along K of the stored values of a column of B, or the worst status of its mask words (13 R339, 07
R167, 08 R195). None is a stored value of a group that contributes nothing. -/
def columnK (s : State) (g : Eng) (d : Img) (sparse : Bool) (k0 kap n : Nat) : Except Nat (List (Option Nat)) :=
  if !sparse then .ok ((List.range 64).map some)
  else
    let N := sparseN d
    joinParts ((List.range (64 / N)).map (fun gi =>
      if tDim d 1 ≤ n then .ok ((List.range N).map (fun i => some (64 * gi + i)))
      else if tDim d 0 ≤ kap + gi * N then .ok (List.replicate N none)
      else
        let G := (tDim d 0 + N - 1) / N
        match engRead s g ((tMbase d + 8 * (k0 / 64 + gi + G * n)) % 2 ^ 64) 8 with
        | .error e => .error (tsOfCause e.1)
        | .ok bs =>
          let b := setBits (leBytes bs)
          if b.length ≠ N then .error tsMaskCount else .ok (b.map (fun i => some (64 * gi + i)))))

/-- A product's terms of one K-block: the keys of its blocks and their scale, and the sum of its products. -/
abbrev BlockSum := (Option Nat × Option Nat) × FVal × FVal

/-- Adds a product to its K-block. -/
def addTerm (bs : List BlockSum) (key : Option Nat × Option Nat) (scale p : FVal) : List BlockSum :=
  match bs with
  | [] => [(key, scale, p)]
  | b :: t => if b.1 = key then (b.1, b.2.1, addX b.2.2 p) :: t else b :: addTerm t key scale p

/-- A zero that is +0. -/
def plusZero (v : FVal) : FVal := if isZeroF v then .fin false 0 0 else v

/-- One output of a pass (07 R177 to R179): its new code and the events that its results count under FP32. -/
def passOut (blocks : List BlockSum) (tau : FVal) (readNaN : Bool) (d : Nat) : Nat × List Event :=
  let t := blocks.foldl (fun t b => addX t (prodF b.2.2 b.2.1)) (.fin false 0 0)
  let tv := plusZero (prodF t tau)
  let r := deliver .f32 .rne false (exOf tv)
  let dv := decodeF .f32 d
  let sum := deliver .f32 .rne false (addF .rne dv (decodeF .f32 r.code))
  let made := isNaN tv && !readNaN
  let both := isNaN (decodeF .f32 sum.code) && !isNaN dv && !isNaN (decodeF .f32 r.code)
  (sum.code, r.events ++ sum.events ++ (if made || both then [(3, 0)] else []))

/-- What a quarter operation computes: the tile's codes or a status, and its events. An operand at an X that R189 forbids has free
values. -/
def quarterOut (s : State) (c : Nat) (q : QOp) (scr tile : Nat) : Except Nat (List Nat × Nat × List Event) :=
  let k := coreOf s c
  let g : Eng := { core := c, ctx := q.ctx, priv := false, op := q.id }
  let dA := q.imgA
  let dB := q.imgB
  let rowBytesOf (d : Img) (x r : Nat) : Option (List Byte) :=
    let os := (operandOffs d x r).map (· + scr)
    if os.any (fun o => tget false k.scrPoison (o / 8)) then none else some (os.map (chipByte k false))
  let kap := if q.sparse then q.k0 * sparseN dB / 64 else q.k0
  let rowsA := (List.range 16).map (rowBytesOf dA q.xa)
  let rowsB := (List.range 32).map (rowBytesOf dB q.xb)
  let tOff := tileOff tile q.tile
  if rowsA.any (·.isNone) || rowsB.any (·.isNone) || chipPoison s c true tOff 0x800 then .error tsPoison
  else
    let vals (d : Img) (bank x : Nat) (rows : List (Option (List Byte))) : List (List FVal) :=
      (rows.zipIdx).map (fun r => operandRow k d bank
        (if inPhase k d scr x then r.1.getD [] else freeBytes s (2 ^ 62 + c * 2 ^ 20 + x + 2 ^ 12 * r.2) (rowBytes d)))
    let valsA := vals dA q.bankA q.xa rowsA
    let valsB := vals dB q.bankB q.xb rowsB
    let colK := (List.range 32).map (fun n => columnK s g dB q.sparse q.k0 kap (q.n0 + n))
    let scA := (List.range 16).map (fun m => (List.range (valsA.headD []).length).map (fun i => operandScale s g dA (q.k0 + i) (q.m0 + m)))
    let scB := (List.range 32).map (fun n => (List.range 64).map (fun i => operandScale s g dB (kap + i) (q.n0 + n)))
    let bad := colK.filterMap (fun r => match r with | .error e => some e | _ => none) ++
      (scA.flatten ++ scB.flatten).filterMap (fun r => match r with | .error e => some (tsOfCause e.1) | _ => none)
    match bad with
    | e :: es => .error (es.foldl worse e)
    | [] =>
      let sc (r : Except (Nat × Nat) (Option Nat × FVal × List Event)) : Option Nat × FVal × List Event :=
        match r with | .ok v => v | .error _ => (none, .fin false 1 0, [])
      let sA := scA.map (·.map sc)
      let sB := scB.map (·.map sc)
      let ks := colK.map (fun r => match r with | .ok v => v | .error _ => [])
      let tau := prodF (tauOf dA) (tauOf dB)
      let nanTau := isNaN (tauOf dA) || isNaN (tauOf dB)
      let nanScale := (sA.flatten ++ sB.flatten).any (fun v => isNaN v.2.1) || nanTau
      let elt (d : Img) (vs : List (List FVal)) : List Event := match eltFloat (tFmt d) with
        | some f => (vs.flatten.map (readEvents (fmtIdx f))).flatten
        | none => []
      let evs := tauEvents dA ++ tauEvents dB ++ elt dA valsA ++ elt dB valsB ++ ((sA.flatten ++ sB.flatten).map (·.2.2)).flatten
      let old := chipRaw s c true tOff 0x800
      let outs := ((List.range 16).map (fun m => (List.range 32).map (fun n =>
        let a := valsA[m]?.getD []
        let am := sA[m]?.getD []
        let terms := ((valsB[n]?.getD []).zip ((sB[n]?.getD []).zip (ks[n]?.getD []))).filterMap (fun t =>
          t.2.2.map (fun kk => (a[kk]?.getD (.fin false 0 0), am[kk]?.getD (none, .fin false 1 0, []), t.1, t.2.1)))
        let blocks := terms.foldl (fun bs t => addTerm bs (t.2.1.1, t.2.2.2.1) (prodF t.2.1.2.1 t.2.2.2.2.1) (prodF t.1 t.2.2.1)) []
        let readNaN := nanTau || terms.any (fun t => isNaN t.1 || isNaN t.2.2.1 || isNaN t.2.1.2.1 || isNaN t.2.2.2.2.1)
        passOut blocks tau readNaN (tileWord old m n)))).flatten
      .ok (outs.map (·.1), if nanScale then tsScaleNan else 0, (evs ++ (outs.map (·.2)).flatten).eraseDups)

/-- The lines that a quarter operation reads from memory are at rest. -/
def quarterQuiet (s : State) (c : Nat) (q : QOp) : Bool :=
  let g : Eng := { core := c, ctx := q.ctx, priv := false, op := q.id }
  let rows (d : Img) (n row0 : Nat) : List (Nat × Nat) :=
    if tBlk d = 0 then [] else (List.range n).map (fun r => (scaleAddr d q.k0 [q.k0, row0 + r], 256))
  let masks := if q.sparse then [(tMbase q.imgB, 8)] else []
  rangesQuiet s g (rows q.imgA 16 q.m0 ++ rows q.imgB 32 q.n0 ++ masks)

/-- Steps of a pass, by B's format (08 R187). -/
def passSteps (d : Img) : Nat :=
  match tFmt d with
  | 0 => 8 | 1 => 4 | 4 => 11 | 5 => 8 | 6 => 4 | 7 => 3 | 8 => 2 | _ => 3

/-- The core needs a token: it asks for one where its queue is not empty and it holds none (08 R198). -/
def askToken (s : State) (c : Nat) : State :=
  let k := coreOf s c
  if k.token ∨ k.queue.isEmpty ∨ s.tokenWait.contains c then s else { s with tokenWait := s.tokenWait ++ [c] }

/-- The queue has become empty now, or it has not. -/
def noteEmpty (s : State) (c : Nat) : State :=
  let k := coreOf s c
  if k.queue.isEmpty then setCore { s with tokenWait := s.tokenWait.filter (· ≠ c) } c { k with emptyAt := k.cycles } else s

/-- Enqueues operations; a head that enters an idle array waits for partners from now (08 R192). -/
def enqueue (s : State) (c : Nat) (qs : List QOp) : State :=
  let k := coreOf s c
  let idle := k.queue.isEmpty && k.pass.isNone
  askToken (setCore s c { k with queue := k.queue ++ qs, headAt := if idle then k.cycles + 1 else k.headAt }) c

/-- The byte spans of an operand's rows, as undefined windows (08 R197). -/
def rowWindows (d : Img) (x n scr tag op : Nat) : List Window :=
  ((List.range n).map (fun r =>
    let offs := (operandOffs d x r).map (fun o => (o + scr, (0 : Byte)))
    (runsOf offs).map (fun run => { tag := tag, op := op, acc := false, lo := run.1, hi := run.1 + run.2.length }))).flatten

/-- The memory of the scale words of an operand's rows and, for a sparse B, of its mask words (08 R179, R197). -/
def operandWords (d : Img) (sparse : Bool) (p0 n0 n len k0 kap : Nat) : List (Nat × Nat) :=
  let dim0 := if tFmt d = 9 then 8 * tDim d 0 else tDim d 0
  let rows := (List.range n).map (· + n0)
  let scales := if tBlk d = 0 then [] else (rows.map (fun r =>
    (((List.range len).filter (fun i => decide (p0 + i < dim0 ∧ r < tDim d 1))).map (fun i => scaleAddr d (p0 + i) [p0 + i, r])).eraseDups.map
      (fun a => (a, scaleW (tScf d) / 8)))).flatten
  let N := sparseN d
  let masks := if !sparse then [] else (rows.map (fun r =>
    ((List.range (64 / N)).filter (fun gi => decide (r < tDim d 1 ∧ kap + gi * N < tDim d 0))).map (fun gi =>
      ((tMbase d + 8 * (k0 / 64 + gi + (tDim d 0 + N - 1) / N * r)) % 2 ^ 64, 8)))).flatten
  scales ++ masks

/-- The windows of a quarter operation on a core (08 R197), its scale and mask words by storage address. -/
def opWindows (s : State) (core : Nat) (q : QOp) (scr tile : Nat) : List Window :=
  let lo := tileOff tile q.tile
  let kap := if q.sparse then q.k0 * sparseN q.imgB / 64 else q.k0
  let lenA := tTile q.imgA 0 * (if tFmt q.imgA = 9 then 8 else 1)
  let words := operandWords q.imgA false q.k0 q.m0 16 lenA q.k0 q.k0 ++ operandWords q.imgB q.sparse kap q.n0 32 64 q.k0 kap
  let held (w : Nat × Nat) : Window := { tag := q.tag, op := q.id, acc := false, lo := w.1, hi := w.1 + w.2, at' := .mem }
  { tag := q.tag, op := q.id, acc := true, lo := lo, hi := lo + 0x800, ids := [q.ctx * 1024 + q.idA, q.ctx * 1024 + q.idB] } ::
    (rowWindows q.imgA q.xa 16 scr q.tag q.id ++ rowWindows q.imgB q.xb 32 scr q.tag q.id ++
      (words.map (fun w => (memRanges s core q.ctx w.1 w.2).map held)).flatten)

/-- A format that a pass takes (08 R188). -/
def passFmt (d : Img) : Bool := tFmt d ≤ 1 || (4 ≤ tFmt d && tFmt d ≤ 9)

/-- The rows of an operand lie in the scratch block, from a 16-byte aligned offset (08 R191). -/
def rowsIn (d : Img) (x n size : Nat) : Bool :=
  x % 16 == 0 && (List.range n).all (fun r => (operandOffs d x r).all (fun o => decide (o < size)))

/-- The operands of one quarter as read: the operand words, k0 and j. -/
structure QuarterOpds where
  q : Nat
  aw : Nat
  bw : Nat
  k0 : Nat
  j : Nat
  deriving DecidableEq, Repr

/-- A field of an operand word (13 R336). -/
def owTid (w : Nat) : Nat := slice w 28 19
/-- X of an operand word. -/
def owX (w : Nat) : Nat := slice w 18 0
/-- C1 of an operand word. -/
def owC1 (w : Nat) : Nat := slice w 63 32

/-- The checks of a quarter operation: its operand words (13 R336), R191 and R338; the first DESCRIPTOR status, or 0. -/
def quarterCheck (s : State) (x : Iss) (sparse : Bool) (o : QuarterOpds) : Nat :=
  let dA := descOf s x.sheet.ctx (owTid o.aw)
  let dB := descOf s x.sheet.ctx (owTid o.bw)
  let size := scratchSize (launchRec s x.sheet)
  let N := if sparse then sparseN dB else 64
  let lat (d : Img) (n : Nat) : Nat := if tFmt d = 9 then n / 8 else n
  let kap := if sparse then o.k0 * N / 64 else if tFmt dB = 9 then o.k0 / 8 else o.k0
  let dim (d : Img) (i : Nat) : Nat := if i < tRank d then tDim d i else 1
  if slice o.aw 31 29 ≠ 0 ∨ slice o.bw 31 29 ≠ 0 then dsOperand
  else if tRank dA = 0 ∨ tRank dB = 0 then dsUnset
  else if !rowsIn dA (owX o.aw) 16 size || !rowsIn dB (owX o.bw) 32 size then dsDestRange
  else if (tilesOf s x.sheet).1 ≤ o.j then dsAccRange
  else if !passFmt dA || !passFmt dB || (tFmt dA != 9 && !tPl dA) || (tFmt dB != 9 && !tPl dB) ||
      tTile dA 0 != lat dA (64 * 64 / N) || tTile dB 0 != lat dB 64 || tSpn dA != 0 || (sparse && tSpn dB == 0) ||
      (!sparse && tSpn dB != 0) then dsOperand
  else if dim dA 0 ≤ lat dA o.k0 ∨ dim dA 1 ≤ owC1 o.aw ∨ dim dB 0 ≤ kap ∨ dim dB 1 ≤ owC1 o.bw then dsCoordRange
  else if owC1 o.aw % 16 ≠ 0 ∨ owC1 o.bw % 32 ≠ 0 ∨ o.k0 % (64 * 64 / N) ≠ 0 then dsCoordAlign
  else 0

/-- A CBSET is pending on a bank of a core. -/
def bankPending (s : State) (c b : Nat) : Bool :=
  s.asyncs.any (fun a => a.core == c && (match a.kind with | .cbset k _ _ _ => k == b | _ => false))

/-- The bank that an operand captures, or 2 for one that decodes no lattice code. -/
def bankFor (k : Core) (d : Img) : Nat := if tFmt d = 9 then captureBank k d else 2

/-- The fields, operands and privilege that `matrixOp` asks for (10 R237). -/
def sigMatrixOp (f : FmtX) : Sig :=
  { ok := fmtXOk f 0 && f.mod == 0,
    uses := [(f.dst, .tagDst), (f.opa, .src .i64), (f.opb, .src .i64), (f.opc, .src .i32), (f.opd, .src .i32)] }

/-- MXA and MXSP (13 R337): the checks of R191 come before TAG-PENDING (log entry 83). -/
def matrixOp (sparse : Bool) (f : FmtX) (s : State) : Host.Outcome State Fault Refusal :=
  issueOp s f.h (sigMatrixOp f)
    (fun s x act =>
      if act = 0 then doneOp s x f.h
      else
        let os := (activeQuarters act).map (fun p =>
          ({ q := p.1, aw := readOpd s x .i64 f.opa.toNat p.2, bw := readOpd s x .i64 f.opb.toNat p.2,
             k0 := readOpd s x .i32 f.opc.toNat p.2, j := readOpd s x .i32 f.opd.toNat p.2 } : QuarterOpds))
        match (os.map (quarterCheck s x sparse)).find? (· ≠ 0) with
        | some st => sheetTrap s x cDescriptor st
        | none => withTag s x f.dst (fun n =>
          let k := coreOf s x.core
          let t := sheetTask s x.sheet
          let mk (i : Nat) (o : QuarterOpds) : QOp :=
            let dA := descOf s x.sheet.ctx (owTid o.aw)
            let dB := descOf s x.sheet.ctx (owTid o.bw)
            { id := i, ctx := x.sheet.ctx, launch := x.sheet.launch, task := x.sheet.task, sheet := x.sheet.index,
              slot := x.leaf.slot, quarter := o.q, sparse := sparse, imgA := dA, imgB := dB, idB := owTid o.bw,
              bankA := bankFor k dA, bankB := bankFor k dB, xa := owX o.aw, xb := owX o.bw, k0 := o.k0,
              m0 := owC1 o.aw, n0 := owC1 o.bw, tile := o.j, tag := n, group := s.nextId, idA := owTid o.aw }
          let qs := (os.zipIdx).map (fun p => mk (s.nextId + p.2) p.1)
          match (qs.map (fun q => [q.bankA, q.bankB])).flatten.find? (fun b => bankPending s x.core b) with
          | some b => blockLeaf s x.core x.entry (.bank b)
          | none =>
            if 8 < k.queue.length + qs.length then blockLeaf s x.core x.entry (.passRoom qs.length)
            else
              let s := pendTag { s with nextId := s.nextId + qs.length } x.core n .other
              let k := coreOf s x.core
              let ws := (qs.map (fun q => opWindows s x.core q t.scr t.tile)).flatten
              let lo (q : QOp) := tileOff t.tile q.tile
              let old := qs.foldl (fun ws q => withoutMarks ws (lo q) (lo q + 0x800)) k.windows
              let qs := qs.map (fun q => { q with spoiled := lostIn k (lo q) (lo q + 0x800) })
              let s := setCore s x.core { k with windows := old ++ ws }
              doneOp (enqueue s x.core qs) x f.h))

/-- MXA (13 R337). -/
def execMxa (f : FmtX) (s : State) : Host.Outcome State Fault Refusal := matrixOp false f s
/-- MXSP (13 R337). -/
def execMxsp (f : FmtX) (s : State) : Host.Outcome State Fault Refusal := matrixOp true f s

/-- The queued operations that fuse with the head (08 R192): they are of one task, so that they name one scratch block, and none is of a
pass that goes on from a saved step. -/
def fused (k : Core) : List QOp :=
  match k.queue with
  | [] => []
  | h :: t =>
    let same (q : QOp) : Bool :=
      q.ctx == h.ctx && q.launch == h.launch && q.task == h.task && q.sparse == h.sparse && q.xb == h.xb && q.idB == h.idB &&
      q.bankB == h.bankB && q.n0 == h.n0 && q.k0 == h.k0 && q.imgB == h.imgB
    (t.foldl (fun (p : List QOp × List QOp) q =>
      let ok := same q && !k.resume.any (fun r => r.ops.contains q.id) && p.1.all (fun r => r.quarter != q.quarter && r.tile != q.tile) &&
        p.2.all (fun r => r.tile != q.tile || r.task != q.task || r.launch != q.launch || r.ctx != q.ctx)
      (if ok then p.1 ++ [q] else p.1, p.2 ++ [q])) ([h], [h])).1

/-- The requests of a quarter operation to peers, for the scale and mask words that it reads there (08 R190, 19 R458). -/
def askWords (s : State) (c : Nat) (q : QOp) : State :=
  let g : Eng := { core := c, ctx := q.ctx, priv := false, op := q.id }
  let kap := if q.sparse then q.k0 * sparseN q.imgB / 64 else q.k0
  let lenA := tTile q.imgA 0 * (if tFmt q.imgA = 9 then 8 else 1)
  let words := operandWords q.imgA false q.k0 q.m0 16 lenA q.k0 q.k0 ++ operandWords q.imgB q.sparse kap q.n0 32 64 q.k0 kap
  askPeer s q.id false (fun _ _ => []) (words.map (fun w => peerParts s g w.1 w.2 0)).flatten.eraseDups

/-- PASS_START (08 R192, R198, 16 R410, 18 R441): the array is free, holds a token, and the head has its partners or has waited for them.
A pass that `MXREST` placed goes on from its step (R202). -/
def execPassStart (core : Nat) (s : State) : Host.Outcome State Fault Refusal :=
  .next (
    let k := coreOf s core
    let start (p : Pass) : State :=
      (k.queue.filter (fun q => p.ops.contains q.id)).foldl (fun s q => askWords s core q)
        (setCore s core { k with pass := some { p with since := k.cycles }, resume := k.resume.filter (· ≠ p), headAt := 0 })
    match k.queue with
    | [] => s
    | h :: _ =>
      if k.pass.isSome ∨ !k.frozen.isEmpty ∨ !k.token ∨ s.thermalStop ∨ overQuota s h.ctx then s
      else match k.resume.find? (fun p => p.ops.contains h.id) with
        | some p => start p
        | none =>
          let fs := fused k
          if fs.length < 4 ∧ k.headAt ≠ 0 then s
          else start { ops := fs.map (·.id), step := 0 })

/-- FUSION_WAIT_EXPIRY (08 R192): the head has waited 4 ac for partners. -/
def execFusionWaitExpiry (core : Nat) (s : State) : Host.Outcome State Fault Refusal :=
  .next (
    let k := coreOf s core
    if k.headAt ≠ 0 ∧ k.pass.isNone ∧ !k.queue.isEmpty ∧ k.headAt + 3 ≤ k.cycles then setCore s core { k with headAt := 0 } else s)

/-- A quarter operation ends with a status: it leaves the queue, and its tag completes with the last of its instruction
(08 R193). -/
def endQuarter (s : State) (c : Nat) (q : QOp) (status : Nat) : State :=
  let k := coreOf s c
  let s := dropReqs (setCore s c { k with queue := k.queue.filter (fun r => r.id ≠ q.id) }) q.id
  let t := tagOf s c q.tag
  let st := worse (worse t.status.toNat q.prior) status
  if (coreOf s c).queue.any (fun r => r.group = q.group ∧ r.tag = q.tag) then setTag s c q.tag { t with status := BitVec.ofNat 4 st }
  else completeTag s c q.tag st 0

/-- The scratch base and first tile of a task on its cluster. -/
def taskPlace (s : State) (ctx launch task : Nat) : Nat × Nat :=
  match taskOf s ctx launch task with
  | some t => (t.scr, t.tile)
  | none => (0, 0)

/-- One quarter operation of a pass writes its tile and ends. A tile left undefined takes free values (08 R197). -/
def finishQuarter (s : State) (c : Nat) (q : QOp) : State × List Event :=
  let p := taskPlace s q.ctx q.launch q.task
  let lo := tileOff p.2 q.tile
  match quarterOut s c q p.1 p.2 with
  | .error st =>
    let s := endQuarter s c q st
    (if st = tsPoison then killLaunch s q.ctx q.launch .passPoison cPoison 1 0 else s, [])
  | .ok (codes, st, es) =>
    let s := if inPhase (coreOf s c) q.imgA p.1 q.xa && inPhase (coreOf s c) q.imgB p.1 q.xb then s else { s with free := s.free + 1 }
    let bs := if q.spoiled then freeBytes s (c * 2 ^ 20 + lo) 0x800 else (codes.map (toBytes 4)).flatten
    let s := if q.spoiled then { s with free := s.free + 1 } else s
    (endQuarter (chipPut s c true lo bs) c q st, es)

/-- PASS_COMPLETE (07 R177): after its last step each operation of the pass writes its tile; each event is counted once. -/
def execPassComplete (core : Nat) (s : State) : Host.Outcome State Fault Refusal :=
  .next (
    let k := coreOf s core
    match k.pass with
    | none => s
    | some p =>
      let qs := k.queue.filter (fun q => p.ops.contains q.id)
      let steps := match qs with | q :: _ => passSteps q.imgB | [] => 0
      if !k.frozen.isEmpty ∨ k.cycles < p.since + (steps - p.step) ∨ !qs.all (quarterQuiet s core) ∨ qs.any (fun q => opWaits s q.id) then s
      else
        let s := setCore s core { k with pass := none }
        let r := qs.foldl (fun (r : State × List Event) q => let t := finishQuarter r.1 core q; (t.1, r.2 ++ t.2)) (s, [])
        let s := match qs with
          | q :: _ => countEvents r.1 q.ctx q.launch r.2.eraseDups
          | [] => r.1
        noteEmpty s core)

/-- The array stands at its next step boundary for the tasks for which it is to freeze (08 R199). -/
def freezeNow (k : Core) : Core :=
  if k.freezing.isEmpty then k
  else
    let steps := ((k.pass.bind (fun p => k.queue.find? (fun q => p.ops.contains q.id))).map (fun q => passSteps q.imgB)).getD 0
    { k with frozen := k.frozen ++ k.freezing, freezing := [],
             pass := if k.frozen.isEmpty then k.pass.map (fun p => { p with step := min (p.step + (k.cycles - p.since)) steps }) else k.pass }

/-- ARRAY_FREEZE (08 R199). -/
def execArrayFreeze (core : Nat) (s : State) : Host.Outcome State Fault Refusal :=
  .next (if (coreOf s core).freezing.isEmpty then s else setCore s core (freezeNow (coreOf s core)))

/-- TOKEN_GRANT (08 R198, 18 R438, R439): the oldest request, while fewer tokens are held than the pool has and no bar
stands. -/
def execTokenGrant (s : State) : Host.Outcome State Fault Refusal :=
  .next (match s.tokenWait with
    | c :: t =>
      if s.tokenBar ∨ fld (rawReg s .tokpool) 9 0 ≤ tokensHeld s then s
      else setCore { s with tokenWait := t } c { coreOf s c with token := true }
    | [] => s)

/-- TOKEN_RETURN (08 R198): the queue has been empty for 256 ac. -/
def execTokenReturn (core : Nat) (s : State) : Host.Outcome State Fault Refusal :=
  .next (
    let k := coreOf s core
    if k.token ∧ k.queue.isEmpty ∧ k.emptyAt + 256 ≤ k.cycles then setCore s core { k with token := false } else s)

/-- The fields, operands and privilege that `execMxrdy` asks for (10 R237). -/
def sigMxrdy (f : FmtX) : Sig :=
  { ok := fmtXOk f 0 && f.mod == 0,
    uses := [(f.dst, .tagDst), (f.opa, .unused), (f.opb, .unused), (f.opc, .unused), (f.opd, .unused)] }

/-- MXRDY (13 R340, 08 R196): it waits for the sheet's earlier accesses to scratchpad. -/
def execMxrdy (f : FmtX) (s : State) : Host.Outcome State Fault Refusal :=
  issueOp s f.h (sigMxrdy f)
    (fun s x act =>
      if act = 0 then doneOp s x f.h
      else withTag s x f.dst (fun n =>
        let ids := (s.accs.filter (fun a => a.core = x.core ∧ a.slot = x.leaf.slot ∧ accWrites a)).map (·.id)
        doneOp (startAsync (pendTag s x.core n .other) x act n 2 (.mxrdy ids)).2 x f.h))

/-- MXRDY_COMPLETE (08 R196). -/
def execMxrdyComplete (op : Nat) (s : State) : Host.Outcome State Fault Refusal :=
  .next (match asyncOf s op with
    | none => s
    | some a =>
      match a.kind with
      | .mxrdy ids => if idsLeft s ids then s else endOp s a 0 0
      | _ => s)

/-- The fields, operands and privilege that `execMxld` asks for (10 R237). -/
def sigMxld (f : FmtX) : Sig :=
  let rho := 2 ^ f.mod.toNat
  { ok := fmtXOk f 0 && f.mod.toNat < 4,
    uses := [(f.dst, .grpDst (4 * rho)), (f.opa, .src .i32), (f.opb, .src .i32), (f.opc, .unused), (f.opd, .unused)] }

/-- MXLD (13 R341). -/
def execMxld (f : FmtX) (s : State) : Host.Outcome State Fault Refusal :=
  let rho := 2 ^ f.mod.toNat
  issueOp s f.h (sigMxld f)
    (fun s x act =>
      if act = 0 then doneOp s x f.h
      else
        let t := tilesOf s x.sheet
        let qs := (activeQuarters act).map (fun p => (p.1, readOpd s x .i32 f.opa.toNat p.2, readOpd s x .i32 f.opb.toNat p.2))
        if qs.any (fun q => decide (t.1 ≤ q.2.1) || decide (16 < q.2.2 + rho) || q.2.2 % rho != 0) then
          sheetTrap s x cDescriptor dsAccRange
        else
          let off (l i c : Nat) : Nat :=
            match qs.find? (fun q => q.1 = l / 8) with
            | some q => tileOff t.2 q.2.1 + (32 * (q.2.2 + i) + 4 * (l % 8) + c) * 4
            | none => 0
          let bad (l : Nat) : Bool := (List.range (4 * rho)).any (fun r => chipPoison s x.core true (off l (r / 4) (r % 4)) 4)
          let bads := (laneList act).filter bad
          let vals := (List.range (4 * rho)).map (fun r => lanes.map (fun l =>
            if act.has l then leBytes (chipRead s x.core true (off l (r / 4) (r % 4)) 4) else 0))
          let go (s : State) (x : Iss) (m : Mask) : State :=
            doneOp ((vals.zipIdx).foldl (fun s p => writeOpd s x m (f.dst.toNat + p.2) false false 0 (fun l => p.1[l]?.getD 0)) s) x f.h
          if bads.isEmpty then go s x act
          else match parkLanes s x.core x.entry x.leaf.pc (bads.map (fun l => { lane := l, cause := cPoison, status := 1, addr := 0 })) none with
            | .all t => t
            | .some' t => go t (reload t x) (maskOf (fun l => act.has l && !bads.contains l)))

/-- The fields, operands and privilege that `execMxzero` asks for (10 R237). -/
def sigMxzero (f : FmtX) : Sig :=
  { ok := fmtXOk f 0 && f.mod == 0,
    uses := [(f.dst, .unused), (f.opa, .src .i32), (f.opb, .unused), (f.opc, .unused), (f.opd, .unused)] }

/-- Zeroes a tile; an undefined one of 08 R200 is defined again. -/
def zeroTile (s : State) (c o : Nat) : State :=
  let k := coreOf s c
  let s := if lostIn k o (o + 0x800) then setCore s c { k with windows := withoutMarks k.windows o (o + 0x800) } else s
  chipWrite s c true o (List.replicate 0x800 0)

/-- MXZERO (13 R342). -/
def execMxzero (f : FmtX) (s : State) : Host.Outcome State Fault Refusal :=
  issueOp s f.h (sigMxzero f)
    (fun s x act =>
      if act = 0 then doneOp s x f.h
      else
        let t := tilesOf s x.sheet
        let js := (activeQuarters act).map (fun p => readOpd s x .i32 f.opa.toNat p.2)
        if js.any (fun j => decide (t.1 ≤ j)) then sheetTrap s x cDescriptor dsAccRange
        else doneOp (js.foldl (fun s j => zeroTile s x.core (tileOff t.2 j)) s) x f.h)

end Sys2Proof.Machine
end

