-- ==== Sys2Proof/Machine/Array.lean ====
section
/-!
DEFINITION. Write-back, save and restore of the matrix array, the codebook, key intervals, multicast and the cluster merge:
`MXST`, `MXSAVE`, `MXREST`, `CBSET`, `CBSWAP`, `TMASK`, `MCAST`, `CRED` (13 R343 to R352, 08 R200 to R203).
-/
namespace Sys2Proof.Machine

/-- What `MXST` has converted so far; `gens` are the generators of lanes 0 to 31 (13 R344). -/
structure StoreAcc where
  ws : List ElemWrite := []
  status : Nat := 0
  va : DWord := 0
  events : List Event := []
  bounds : Nat := 0
  stop : Bool := false
  gens : List Word := []

/-- Notes a failure of `MXST` at an address (05 R128). -/
def StoreAcc.fail (p : StoreAcc) (st va : Nat) : StoreAcc :=
  { p with status := worse p.status st, va := if p.status < 3 ∧ 3 ≤ st then BitVec.ofNat 64 va else p.va }

/-- The operands of one quarter of `MXST`. -/
structure StoreOpds where
  q : Nat
  id : Nat
  j : Nat
  n0 : Nat
  m0 : Nat
  deriving DecidableEq, Repr

/-- The checks of `MXST` on one quarter (13 R343): the first DESCRIPTOR status, or 0. -/
def storeCheck (s : State) (x : Iss) (f : FmtX) (o : StoreOpds) : Nat :=
  let d := descOf s x.sheet.ctx o.id
  let narrow := 6 ≤ tFmt d && tFmt d ≤ 8
  if 1023 < o.id ∨ tRank d = 0 then dsUnset
  else if (tilesOf s x.sheet).1 ≤ o.j then dsAccRange
  else if tFmt d = 9 || tSpn d != 0 || tPl d || decide (tRank d < 2) || tTile d 0 != 32 || tTile d 1 != 16 ||
      [2, 3, 4].any (fun i => tileN d i != 1) || (f.sr && !narrow) || (f.asc && (tBlk d == 0 || !narrow)) then dsOperand
  else if tDim d 0 ≤ o.n0 ∨ tDim d 1 ≤ o.m0 then dsCoordRange
  else if o.n0 % 32 ≠ 0 ∨ o.m0 % 16 ≠ 0 then dsCoordAlign
  else 0

/-- The value is finite. -/
def finF : FVal → Bool
  | .fin _ _ _ => true
  | _ => false

/-- One element of a tile of `MXST`: its value and code's fate (07 R181, R183). -/
def storeElem (f : FmtX) (d : Img) (k : FVal) (is : List Nat) (gen : Word) (p : StoreAcc) (v : FVal) : StoreAcc × Option Nat × Bool :=
  let mode := if f.sr then RMode.sr gen.toNat else rmode f.rnd
  let r := boundConv d mode f.sat false v k
  let p := { p with status := worse p.status r.2.1, events := p.events ++ readEvents 3 v ++ r.2.2.1, bounds := p.bounds + b2n r.2.2.2 }
  match r.1 with
  | some code =>
    let a := eltAddr d is
    ({ p with ws := p.ws ++ [{ va := BitVec.ofNat 64 a.1, bytes := max 1 (eltBits (tFmt d) / 8), nibble := a.2, code := code }] },
      some code, finF v && r.2.2.1.any (fun e => e.2 == 2))
  | none => ({ p with stop := true }, none, false)

/-- One block of a tile row of `MXST`, elements `lo` to `lo + len - 1` (13 R344, 07 R182). -/
def storeBlock (s : State) (g : Eng) (f : FmtX) (d : Img) (o : StoreOpds) (bad : Nat → Nat → Bool) (val : Nat → Nat → FVal)
    (m : Nat) (xs : List Word) (p : StoreAcc) (lo len : Nat) : StoreAcc :=
  let is (n : Nat) : List Nat := [o.n0 + n, o.m0 + m]
  let ns := ((List.range len).map (· + lo)).filter (fun n => decide (o.n0 + n < tDim d 0) && decide (o.m0 + m < tDim d 1))
  if ns.isEmpty || p.stop then p
  else match blockScale s g d (o.n0 + lo) (is lo) with
    | .error e => p.fail (tsOfCause e.1) (scaleAddr d (o.n0 + lo) (is lo))
    | .ok (sc, sg) =>
      let k := prodF sg (tauOf d)
      let p := { p with events := p.events ++ (if tBlk d = 0 then [] else readEvents (scaleIdx (tScf d)) (scaleVal (tScf d) sc)) }
      let r := ns.foldl (fun (r : StoreAcc × Nat × Bool) n =>
        if r.1.stop then r
        else if bad m n then (r.1.fail tsPoison (eltAddr d (is n)).1, r.2)
        else
          let e := storeElem f d k (is n) (xs[n]?.getD 0) r.1 (val m n)
          let w := eltBits (tFmt d)
          let lost := match e.2.1 with | some c => nonzeroF (val m n) && c % 2 ^ (w - 1) == 0 | none => false
          (e.1, r.2.1 + b2n lost, r.2.2 || e.2.2)) (p, 0, false)
      match f.asc, eltFloat (tFmt d) with
      | true, some fm =>
        let vs := (ns.filter (fun n => !bad m n)).map (val m)
        let c := nextScale (tScf d) fm (rmode f.rnd) (tauOf d) vs sc r.2.1 (tUthr d) r.2.2
        let e : ElemWrite := { va := BitVec.ofNat 64 (scaleAddr d (o.n0 + lo) (is lo)), bytes := scaleW (tScf d) / 8, nibble := none, code := c }
        { r.1 with ws := r.1.ws ++ [e], events := r.1.events ++ List.replicate r.2.1 (tFmt d, 3) }
      | _, _ => r.1

/-- One quarter of `MXST`: rows in increasing m, each row block by block; with SR every lane's generator advances for each
element (13 R344) whose value, bounded, is finite (07 R172; DEDUCED, log entry 30). -/
def storeQuarter (s : State) (x : Iss) (f : FmtX) (g : Eng) (p : StoreAcc) (o : StoreOpds) : StoreAcc :=
  let d := descOf s x.sheet.ctx o.id
  let off := tileOff (tilesOf s x.sheet).2 o.j
  let bs := chipRead s x.core true off 0x800
  let bad (m n : Nat) : Bool := chipPoison s x.core true (off + 4 * (32 * m + n)) 4
  let val (m n : Nat) : FVal := decodeF .f32 (tileWord bs m n)
  let len := if tBlk d = 0 then 32 else min 32 (blockSize d)
  (List.range 16).foldl (fun p m =>
    let xs := if f.sr then p.gens.zipIdx.map (fun (w : Word × Nat) => if finF (bounded d (val m w.2)) then xorshift w.1 else w.1) else p.gens
    let p := (List.range (32 / len)).foldl (fun p b => storeBlock s g f d o bad val m xs p (b * len) len) p
    { p with gens := xs }) { p with stop := false, events := p.events ++ tauEvents d }

/-- The block scales that one quarter of `MXST` reads (13 R344). -/
def storeScales (s : State) (x : Iss) (o : StoreOpds) : List (Nat × Nat) :=
  let d := descOf s x.sheet.ctx o.id
  let len := min 32 (blockSize d)
  if tBlk d = 0 then []
  else ((List.range 16).map (fun m => (List.range (32 / len)).filterMap (fun b =>
    if o.n0 + b * len < tDim d 0 ∧ o.m0 + m < tDim d 1 then
      some (scaleAddr d (o.n0 + b * len) [o.n0 + b * len, o.m0 + m], scaleW (tScf d) / 8) else none))).flatten

/-- The fields, operands and privilege that `execMxst` asks for (10 R237). -/
def sigMxst (f : FmtX) : Sig :=
  { ok := noType f.h && f.sub == 0 && f.mod.toNat < 8,
    uses := [(f.dst, .tagDst), (f.opa, .src .i32), (f.opb, .src .i32), (f.opc, .src .i64), (f.opd, .unused)] }

/-- MXST (13 R343, R344). -/
def execMxst (f : FmtX) (s : State) : Host.Outcome State Fault Refusal :=
  issueOp s f.h (sigMxst f)
    (fun s x act =>
      if act = 0 then doneOp s x f.h
      else
        let os := (activeQuarters act).map (fun p =>
          let w := readOpd s x .i64 f.opc.toNat p.2
          ({ q := p.1, id := readOpd s x .i32 f.opa.toNat p.2, j := readOpd s x .i32 f.opb.toNat p.2,
             n0 := w % 2 ^ 32, m0 := w / 2 ^ 32 } : StoreOpds))
        match (os.map (storeCheck s x f)).find? (· ≠ 0) with
        | some st => sheetTrap s x cDescriptor st
        | none => withTag s x f.dst (fun n => withPeers s x (os.map (storeScales s x)).flatten (fun s =>
          let g := leafEng x
          let h := (sheetOf s x.core x.leaf.slot).getD x.sheet
          let p := os.foldl (storeQuarter s x f g) { gens := lanes.map (fun l => tget 0 h.gen l) }
          let s := if f.sr then modSheet s x.core x.leaf.slot (fun h => { h with
              gen := (p.gens.zipIdx).foldl (fun t w => tset 0 t w.2 w.1) h.gen }) else s
          let s := countTimes (countEvents s x.sheet.ctx x.sheet.launch p.events) x.sheet.ctx x.sheet.launch boundCounter p.bounds
          doneOp (startOp (pendTag s x.core n .other) x act n (engScope (BitVec.ofNat 3 f.mod.toNat)) (.mxst p.ws p.status p.va)) x f.h)))

/-- WRITE_BACK_COMPLETE (13 R344): the elements of `MXST` are written and its tag completes. -/
def execWriteBackComplete (op : Nat) (s : State) : Host.Outcome State Fault Refusal :=
  .next (match asyncOf s op with
    | none => s
    | some a =>
      match a.kind with
      | .mxst ws status pa =>
        if a.cancelled then endOp s a tsCancelled 0
        else if !opReady s a then s
        else match beforeWrite s a ws with
          | some t => t
          | none =>
            let w := writeElems (noteEngineOut s a (ws.map (fun e => (e.va.toNat, e.bytes)))) (engOf a) ws
            endOp w.1 a (worse status w.2.1) (if status < 3 then w.2.2 else pa)
      | _ => s)

/-- Bytes of an array image. -/
def imageLen : Nat := 0x4000

/-- The header word of an array image (08 R201). -/
def imageHead (i : ArrayImage) : Nat :=
  (Config.imageCheck i.id).toNat * 2 ^ 32 + 1 * 2 ^ 16 + i.ops.length * 2 ^ 8 + b2n (!i.runs.isEmpty) * 2 ^ 7

/-- The 16 KiB of an array image: its header, and opaque bytes. -/
def imageBytes (i : ArrayImage) : List Byte :=
  toBytes 8 (imageHead i) ++ (List.range (imageLen - 8)).map (fun k => Config.imageByte i.id (k + 8))

/-- The checks of the image's 16 KiB for its leader lane (13 R345): alignment, translation and permission. `kind` is 0 a
read, 1 a write. -/
def imageFault (s : State) (x : Iss) (va kind : Nat) : Option (Nat × Nat) :=
  if va % imageLen ≠ 0 then some (cMisalign, 1)
  else match translateNow s x.core x.sheet.ctx va with
    | .error st => some (cPage, st)
    | .ok (pte, pa) =>
      match permCheck s x.sheet.ctx x.leaf.priv kind pte pa with
      | 0 => none
      | st => some (cProt, st)

/-- An operation belongs to the task of a sheet. -/
def opOfTask (h : Sheet) (q : QOp) : Bool := q.ctx == h.ctx && q.launch == h.launch && q.task == h.task

/-- The operations that `MXSAVE` takes: those of the task, but for a pass that runs on (08 R200). -/
def savedOps (k : Core) (h : Sheet) : List QOp :=
  k.queue.filter (fun q => opOfTask h q && (!k.frozen.isEmpty || !(match k.pass with | some p => p.ops.contains q.id | none => false)))

/-- The first tag of a sheet of a task on a core, and its tags. -/
def sheetTags (k : Core) (h : Sheet) (index : Nat) : Option (Nat × Sheet) :=
  k.sheets.find? (fun p => p.2.ctx = h.ctx ∧ p.2.launch = h.launch ∧ p.2.task = h.task ∧ p.2.index = index)

/-- The image of the operations taken, and the state without them (08 R200): their tags are CANCELLED, the array is not
frozen, and their bytes are no longer undefined (log entry 23). -/
def takeImage (s : State) (x : Iss) : ArrayImage × State :=
  let k := freezeNow (coreOf s x.core)
  let qs := savedOps k x.sheet
  let ids := qs.map (·.id)
  let hit (p : Pass) : Bool := p.ops.any (fun i => ids.contains i)
  let rel (q : QOp) : Nat := match sheetTags k x.sheet q.sheet with | some p => q.tag - p.2.tbase | none => q.tag
  let img : ArrayImage :=
    { id := s.nextId, runs := k.pass.toList.filter hit ++ k.resume.filter hit,
      ops := qs.map (fun q => { q with slot := 0, tag := rel q, prior := worse q.prior (tagOf s x.core q.tag).status.toNat }),
      tiles := qs.map (fun q => chipRaw s x.core true (tileOff (sheetTask s x.sheet).tile q.tile) 0x800) }
  let k := thaw { k with pass := k.pass.filter (fun p => !hit p), resume := k.resume.filter (fun p => !hit p) }
    (· == (x.sheet.ctx, x.sheet.launch, x.sheet.task))
  let k' := { k with queue := k.queue.filter (fun q => !ids.contains q.id),
                     windows := k.windows.filter (fun w => !ids.contains w.op) ++ qs.map (fun q =>
                       let lo := tileOff (sheetTask s x.sheet).tile q.tile
                       { tag := q.tag, op := q.id, acc := true, lo := lo, hi := lo + 0x800, at' := .saved }) }
  let s := setCore { s with nextId := s.nextId + 1, images := s.images ++ [img] } x.core k'
  (img, noteEmpty (qs.foldl (fun s q => completeTag (dropReqs s q.id) x.core q.tag tsCancelled 0) s) x.core)

/-- The fields, operands and privilege that `execMxsave` asks for (10 R237). -/
def sigMxsave (f : FmtX) : Sig :=
  { ok := fmtXOk f 0 && f.mod == 0, priv := true,
    uses := [(f.dst, .tagDst), (f.opa, .uni64), (f.opb, .unused), (f.opc, .unused), (f.opd, .unused)] }

/-- MXSAVE (13 R345, 08 R200). -/
def execMxsave (f : FmtX) (s : State) : Host.Outcome State Fault Refusal :=
  issueOp s f.h (sigMxsave f)
    (fun s x act =>
      if act = 0 then doneOp s x f.h
      else
        let va := uniOpd s x act .i64 f.opa.toNat
        match imageFault s x va 1 with
        | some e => leaderFault s x f.h act e.1 e.2 va
        | none => withTag s x f.dst (fun n =>
          let r := takeImage s x
          doneOp (startOp (pendTag r.2 x.core n .other) x act n 2 (.mxsave (BitVec.ofNat 64 va) r.1.id)) x f.h))

/-- Bytes as the elements that an engine writes. -/
def byteWrites (va : DWord) (bs : List Byte) : List ElemWrite :=
  (bs.zipIdx).map (fun p => { va := va + BitVec.ofNat 64 p.2, bytes := 1, nibble := none, code := p.1.toNat })

/-- Bytes written by an operation that ends with its status. -/
def writeAndEnd (s : State) (a : Async) (va : DWord) (bs : List Byte) : State :=
  match beforeWrite s a (byteWrites va bs) with
  | some t => t
  | none =>
    let w := writeElems (noteEngineOut s a [(va.toNat, bs.length)]) (engOf a) (byteWrites va bs)
    endOp w.1 a w.2.1 w.2.2

/-- MXSAVE_COMPLETE (08 R200): the image is in memory. -/
def execMxsaveComplete (op : Nat) (s : State) : Host.Outcome State Fault Refusal :=
  .next (match asyncOf s op with
    | none => s
    | some a =>
      match a.kind with
      | .mxsave va image =>
        if a.cancelled then endOp s a tsCancelled 0
        else if !opReady s a then s
        else match s.images.find? (fun i => i.id = image) with
          | some i => writeAndEnd s a va (imageBytes i)
          | none => endOp s a 0 0
      | _ => s)

/-- The saved operations as they stand in a core's queue again. The tile of one that has not been restored to what it held at
`MXSAVE` is undefined (08 R202). -/
def placedOps (s : State) (c : Nat) (h : Sheet) (i : ArrayImage) : List QOp :=
  let restored (j : Nat) (q : QOp) : Bool := match i.tiles[j]? with
    | some bs =>
      let lo := tileOff (sheetTask s h).tile q.tile
      chipRaw s c true lo 0x800 == bs && !lostIn (coreOf s c) lo (lo + 0x800)
    | none => true
  (i.ops.zipIdx).map (fun p =>
    let t := sheetTags (coreOf s c) h p.1.sheet
    { p.1 with id := s.nextId + p.2, ctx := h.ctx, launch := h.launch, task := h.task,
               spoiled := p.1.spoiled || !restored p.2 p.1, slot := (t.map (·.1)).getD 0, tag := ((t.map (·.2.tbase)).getD 0) + p.1.tag,
               group := s.nextId + i.ops.findIdx (fun q => q.group == p.1.group) })

/-- Places an image at the head of the queue, its tags pending again (08 R202). -/
def placeImage (s : State) (x : Iss) (i : ArrayImage) : State :=
  let qs := placedOps s x.core x.sheet i
  let runs := i.runs.map (fun r => { r with ops := ((i.ops.zip qs).filter (fun p => r.ops.contains p.1.id)).map (·.2.id) })
  let t := sheetTask s x.sheet
  let s := { s with nextId := s.nextId + qs.length }
  let s := qs.foldl (fun s q => pendTag s x.core q.tag .other) s
  let k := coreOf s x.core
  let s := setCore s x.core { k with
    queue := qs ++ k.queue,
    windows := qs.foldl (fun ws q => withoutMarks ws (tileOff t.tile q.tile) (tileOff t.tile q.tile + 0x800)) k.windows ++ (qs.map (fun q => opWindows s x.core q t.scr t.tile)).flatten,
    resume := runs ++ k.resume }
  if qs.isEmpty then s else askToken s x.core

/-- The fields, operands and privilege that `execMxrest` asks for (10 R237). -/
def sigMxrest (f : FmtX) : Sig :=
  { ok := fmtXOk f 1 && f.mod == 0, priv := true,
    uses := [(f.dst, .tagDst), (f.opa, .uni64), (f.opb, .unused), (f.opc, .unused), (f.opd, .unused)] }

/-- MXREST (13 R345, 08 R202). -/
def execMxrest (f : FmtX) (s : State) : Host.Outcome State Fault Refusal :=
  issueOp s f.h (sigMxrest f)
    (fun s x act =>
      if act = 0 then doneOp s x f.h
      else
        let va := uniOpd s x act .i64 f.opa.toNat
        match imageFault s x va 0 with
        | some e => leaderFault s x f.h act e.1 e.2 va
        | none =>
          withLoad s x act va imageLen (fun s => match leaderRead s x va imageLen with
          | .error e => leaderFault s x f.h act e.1 e.2 va
          | .ok bs =>
            let k := coreOf s x.core
            let ok (q : QOp) : Bool := match sheetTags k x.sheet q.sheet with | some p => decide (q.tag < p.2.ntags) | none => false
            match s.images.find? (fun i => leBytes (bs.take 8) == imageHead i && bs == imageBytes i) with
            | none => sheetTrap s x cDescriptor dsImage
            | some i =>
              if !i.ops.all ok then sheetTrap s x cDescriptor dsImage
              else if (placedOps s x.core x.sheet i).any (fun q => !(tagOf s x.core q.tag).ready) then
                sheetTrap s x cControl ctlTagPending
              else if 8 < k.queue.length + i.ops.length then blockLeaf s x.core x.entry (.passRoom i.ops.length)
              else withTag s x f.dst (fun n =>
                doneOp (startOp (pendTag (placeImage s x i) x.core n .other) x act n 2 (.mxrest (BitVec.ofNat 64 va))) x f.h)))

/-- MXREST_COMPLETE (08 R202): the image has been placed. -/
def execMxrestComplete (op : Nat) (s : State) : Host.Outcome State Fault Refusal :=
  .next (match asyncOf s op with
    | none => s
    | some a =>
      match a.kind with
      | .mxrest _ => endOp s a (if a.cancelled then tsCancelled else 0) 0
      | _ => s)

/-- Some quarter operation of a core has captured a codebook bank (13 R346). -/
def bankHeld (k : Core) (b : Nat) : Bool := k.queue.any (fun q => q.bankA == b || q.bankB == b)

/-- The fields, operands and privilege that `execCbset` asks for (10 R237). -/
def sigCbset (f : FmtX) : Sig :=
  { ok := fmtXOk f 0 && f.mod == 0,
    uses := [(f.dst, .tagDst), (f.opa, .uni64), (f.opb, .src .i32), (f.opc, .src .i32), (f.opd, .unused)] }

/-- CBSET (13 R346). -/
def execCbset (f : FmtX) (s : State) : Host.Outcome State Fault Refusal :=
  issueOp s f.h (sigCbset f)
    (fun s x act =>
      if act = 0 then doneOp s x f.h
      else
        let va := uniOpd s x act .i64 f.opa.toNat
        let first := uniOpd s x act .i32 f.opb.toNat
        let count := uniOpd s x act .i32 f.opc.toNat
        let k := coreOf s x.core
        let b := b2n (!k.bankSel)
        if count = 0 ∨ 256 < first + count then sheetTrap s x cControl ctlCbRange
        else if va % 2 ≠ 0 then leaderFault s x f.h act cMisalign 1 va
        else withTag s x f.dst (fun n =>
          if bankPending s x.core b then blockLeaf s x.core x.entry (.bank b)
          else if bankHeld k b then blockLeaf s x.core x.entry (.bankUse b)
          else doneOp (startOp (pendTag s x.core n .other) x act n 5 (.cbset b (BitVec.ofNat 64 va) first count)) x f.h))

/-- Writes an entry of a codebook bank. -/
def putBank (s : State) (c b i : Nat) (v : BitVec 16) : State :=
  let k := coreOf s c
  setCore s c (if b = 0 then { k with bank0 := tset 0 k.bank0 i v } else { k with bank1 := tset 0 k.bank1 i v })

/-- CBSET_COMPLETE (13 R346): each entry is written, or left where its read fails. -/
def execCbsetComplete (op : Nat) (s : State) : Host.Outcome State Fault Refusal :=
  .next (match asyncOf s op with
    | none => s
    | some a =>
      match a.kind with
      | .cbset b va first count =>
        if a.cancelled then endOp s a tsCancelled 0
        else if !opReady s a then s
        else withAnswers s a [(va.toNat, 2 * count)] (
          let r := (List.range count).foldl (fun (r : State × Nat × DWord) i =>
            match engRead r.1 (engOf a) ((va.toNat + 2 * i) % 2 ^ 64) 2 with
            | .ok bs => (putBank r.1 a.core b (first + i) (BitVec.ofNat 16 (leBytes bs)), r.2)
            | .error e => (r.1, worse r.2.1 (tsOfCause e.1), if r.2.1 < 3 then BitVec.ofNat 64 (va.toNat + 2 * i) else r.2.2)) (s, 0, 0)
          endOp r.1 a r.2.1 r.2.2)
      | _ => s)

/-- The fields, operands and privilege that `execCbswap` asks for (10 R237). -/
def sigCbswap (f : FmtX) : Sig :=
  { ok := fmtXOk f 1 && f.mod == 0,
    uses := [(f.dst, .unused), (f.opa, .unused), (f.opb, .unused), (f.opc, .unused), (f.opd, .unused)] }

/-- CBSWAP (13 R347). -/
def execCbswap (f : FmtX) (s : State) : Host.Outcome State Fault Refusal :=
  issueOp s f.h (sigCbswap f)
    (fun s x act =>
      if act = 0 then doneOp s x f.h
      else match [0, 1].find? (bankPending s x.core) with
        | some b => blockLeaf s x.core x.entry (.bank b)
        | none =>
          let k := coreOf s x.core
          doneOp (setCore s x.core { k with bankSel := !k.bankSel }) x f.h)

/-- An interval word holds key κ for query q (13 R349). -/
def inInterval (w q κ : Nat) : Bool :=
  decide (slice w 30 0 + b2n (bitN w 31) * q ≤ κ) && decide (κ < slice w 62 32 + b2n (bitN w 63) * q)

/-- The mask of one row of the score tile. -/
def rowMask (ws : List Nat) (k0 q : Nat) : Nat :=
  (List.range 32).foldl (fun m n => if ws.any (fun w => inInterval w q (k0 + n)) then m + 2 ^ n else m) 0

/-- The fields, operands and privilege that `execTmask` asks for (10 R237). -/
def sigTmask (f : FmtX) : Sig :=
  let c := f.opa.toNat
  let masks := f.opd.toNat ≠ 0x1FF
  { ok := fmtXOk f 0 && f.mod.toNat < 5 && (!isS c || c % 4 == 0),
    uses := [(f.dst, .dstReg false), (f.opa, if isS c then .coords 4 else .grpSrc 8), (f.opb, .src .i64), (f.opc, .unused),
             (f.opd, if masks then .dstPair else .unused)] }

/-- TMASK (13 R349). -/
def execTmask (f : FmtX) (s : State) : Host.Outcome State Fault Refusal :=
  let c := f.opa.toNat
  let masks := f.opd.toNat ≠ 0x1FF
  issueOp s f.h (sigTmask f)
    (fun s x act =>
      if act = 0 then doneOp s x f.h
      else
        let qs := (activeQuarters act).map (fun p =>
          let ws := (List.range f.mod.toNat).map (fun i => readOpd s x .i64 (c + (if isS c then i else 2 * i)) p.2)
          let b := readOpd s x .i64 f.opb.toNat p.2
          (p.1, (List.range 16).map (fun r => rowMask ws (b % 2 ^ 32) (b / 2 ^ 32 + r))))
        let rows (l : Nat) : List Nat := ((qs.find? (fun q => q.1 = l / 8)).map (·.2)).getD []
        let cls (l : Nat) : Nat :=
          if (rows l).all (· == 2 ^ 32 - 1) then 2 else if (rows l).all (· == 0) then 0 else 1
        let s := writeOpd s x act f.dst.toNat false false 0 cls
        let s := if masks then writeOpd s x act f.opd.toNat true false 0
            (fun l => ((rows l)[2 * (l % 8)]?.getD 0) + ((rows l)[2 * (l % 8) + 1]?.getD 0) * 2 ^ 32) else s
        doneOp s x f.h)

/-- The fields, operands and privilege that `execMcast` asks for (10 R237). -/
def sigMcast (f : FmtX) : Sig :=
  { ok := fmtXOk f 0 && f.mod != 0,
    uses := [(f.dst, .tagDst), (f.opa, .src .i32), (f.opb, .coords 1), (f.opc, .src .i32), (f.opd, .unused)] }

/-- MCAST (13 R348). -/
def execMcast (f : FmtX) (s : State) : Host.Outcome State Fault Refusal :=
  issueOp s f.h (sigMcast f)
    (fun s x act =>
      if act = 0 then doneOp s x f.h
      else
        let id := uniOpd s x act .i32 f.opa.toNat
        let rank := rankFor s x act f.opa
        withCoords s x act f.opb.toNat rank (withTag s x f.dst (fun n =>
          let d := descOf s x.sheet.ctx id
          let cs := copyCoords s x act f.opb.toNat rank
          let dest := uniOpd s x act .i32 f.opc.toNat
          match copyCheck d id cs with
          | 0 =>
            if !destOk d (scratchSize (launchRec s x.sheet)) dest then sheetTrap s x cDescriptor dsDestRange
            else if 128 ≤ (copyQueue s (x.core / 4)).length then blockLeaf s x.core x.entry .copyRoom
            else doneOp (issueCopy (pendTag s x.core n .other) x act n 3
              { kind := 4, img := d, coords := cs, dest := BitVec.ofNat 64 dest, cores := f.mod }) x f.h
          | st => sheetTrap s x cDescriptor st)))

/-- The fixed-point unit of the merge's 2^x, and ln 2 in it. -/
def redOne : Nat := 2 ^ 240
/-- ln 2 to 240 bits. -/
def redLn2 : Nat := 0xB17217F7D1CF79ABC9E3B39803F2F6AF40F343267298B62D8A0D175B8BAA

/-- e^-y by its series from term `n`, in fixed point. -/
def expNegSeries : Nat → Nat → Int → Nat → Int
  | 0, _, _, _ => 0
  | k + 1, n, t, y => t + expNegSeries k (n + 1) (-(t * y) / ((redOne * (n + 1) : Nat) : Int)) y

/-- 2^-(n/d) to 240 bits, or 0 where it rounds to zero (13 R351). -/
def exp2Neg (n d : Nat) : Ex :=
  let i := n / d
  let y := n % d * redLn2 / d
  if 151 ≤ i then .zero false
  else if n % d = 0 then .num false 1 (2 ^ i)
  else .num false (expNegSeries 60 0 redOne y).toNat (redOne * 2 ^ i)

/-- f_c: the factor of a contributor with maximum `m` where the largest is `mx` (13 R351). -/
def redFactor (m mx : Nat) : Nat :=
  let a := decodeF .f32 m
  let b := decodeF .f32 mx
  if a = .inf true then 0
  else if isNaN a || isNaN b || (a == .inf false && b == .inf false) then canonNaN .f32
  else match b with
    | .inf _ => 0
    | _ => match addF .rne b (negF a) with
      | .num _ n d => rneF32 (exp2Neg n d)
      | _ => 0x3F800000

/-- The largest of the maxima; a NaN gives the canonical NaN. -/
def redMax (ms : List Nat) : Nat :=
  if ms.any (fun m => isNaN (decodeF .f32 m)) then canonNaN .f32
  else match ms with
    | [] => 0
    | m :: t => t.foldl (fun a b => (fMinMax true false .rne false .f32 a b 0).code) m

/-- The sum of scaled values in order of core (13 R351). -/
def redSum (vs : List (Nat × Nat)) : Nat :=
  match vs with
  | [] => 0
  | v :: t => t.foldl (fun a p => rneF32 (fmaF .rne (decodeF .f32 p.1) (decodeF .f32 p.2) (decodeF .f32 a)))
      (rneF32 (mulF (decodeF .f32 v.1) (decodeF .f32 v.2)))

/-- One row of a completed round: mx, l and o (13 R351). -/
def redRow (ps : List Contribution) (r : Nat) : Nat × Nat × List Nat :=
  let m (p : Contribution) : Nat := (p.m[r]?.getD 0).toNat
  let mx := redMax (ps.map m)
  let fs := ps.map (fun p => redFactor (m p) mx)
  let sum (g : Contribution → Word) : Nat := redSum ((ps.map (fun p => (g p).toNat)).zip fs)
  (mx, sum (fun p => p.l[r]?.getD 0), (List.range 32).map (fun n => sum (fun p => (p.o[r]?.getD [])[n]?.getD 0)))

/-- A contribution's tag completes, or waits for the other rounds of its instruction with the status so far. -/
def endPart (s : State) (p : Contribution) (status : Nat) : State :=
  let t := tagOf s p.core p.tag
  let st := worse t.status.toNat status
  if (clusterOf s (p.core / 4)).rounds.any (fun r => r.parts.any (fun q => q.core = p.core ∧ q.tag = p.tag)) then
    setTag s p.core p.tag { t with status := BitVec.ofNat 4 st }
  else completeTag s p.core p.tag st 0

/-- A round ends with a status in every contributor. -/
def endRound (s : State) (k : Nat) (r : Round) (status : Nat) : State :=
  let u := clusterOf s k
  let s := setCluster s k { u with rounds := u.rounds.filter (fun q => q.id ≠ r.id) }
  r.parts.foldl (fun s p => endPart s p status) s

/-- Every incomplete round of a task ends with CANCELLED (13 R352). -/
def cancelRounds (s : State) (k ctx launch task : Nat) : State :=
  ((clusterOf s k).rounds.filter (fun r => r.ctx = ctx ∧ r.launch = launch ∧ r.task = task)).foldl
    (fun s r => endRound s k r tsCancelled) s

/-- The operands of one quarter of `CRED`. -/
structure RedOpds where
  q : Nat
  j : Nat
  j2 : Nat
  w : Nat
  deriving DecidableEq, Repr

/-- A round of the issuing task by its number. -/
def roundOf (s : State) (x : Iss) (number : Nat) : Option Round :=
  (clusterOf s (x.core / 4)).rounds.find? (fun r =>
    r.ctx = x.sheet.ctx ∧ r.launch = x.sheet.launch ∧ r.task = x.sheet.task ∧ r.number = number)

/-- The CRED-MISMATCH check of a quarter (13 R350). -/
def redMismatch (s : State) (x : Iss) (os : List RedOpds) (o : RedOpds) : Bool :=
  slice o.w 31 10 != 0 || !bitN o.w (x.core % 4) ||
  os.any (fun p => p.q != o.q && slice p.w 9 4 == slice o.w 9 4) ||
  (match roundOf s x (slice o.w 9 4) with
   | some r => r.mask.toNat != slice o.w 3 0 || r.parts.any (fun p => p.core == x.core)
   | none => false)

/-- Adds a quarter's contribution to its round. -/
def addPart (s : State) (x : Iss) (tag : Nat) (o : RedOpds) : State :=
  let t := tilesOf s x.sheet
  let a := tileOff t.2 o.j
  let b := tileOff t.2 o.j2
  let oBytes := chipRead s x.core true a 0x800
  let sBytes := chipRead s x.core true b 0x800
  let word (bs : List Byte) (m n : Nat) : Word := BitVec.ofNat 32 (tileWord bs m n)
  let stat (n : Nat) : Bool := (List.range 16).any (fun m => chipPoison s x.core true (b + 4 * (32 * m + n)) 4)
  let r := fresh s
  let p : Contribution :=
    { core := x.core, j := o.j, j2 := o.j2, tag := tag, slot := x.leaf.slot, op := r.1,
      o := (List.range 16).map (fun m => (List.range 32).map (word oBytes m)),
      m := (List.range 16).map (fun m => word sBytes m 0), l := (List.range 16).map (fun m => word sBytes m 1),
      poisoned := chipPoison s x.core true a 0x800 || stat 0 || stat 1 }
  let k := coreOf r.2 x.core
  let win (lo : Nat) : Window := { tag := tag, op := r.1, acc := true, lo := lo, hi := lo + 0x800 }
  let s := setCore r.2 x.core { k with windows := k.windows ++ [win a, win b] }
  let c := x.core / 4
  let u := clusterOf s c
  match roundOf s x (slice o.w 9 4) with
  | some q => setCluster s c { u with rounds := u.rounds.map (fun w => if w.id = q.id then { w with parts := w.parts ++ [p] } else w) }
  | none =>
    let i := fresh s
    setCluster i.2 c { u with rounds := u.rounds ++
      [{ id := i.1, ctx := x.sheet.ctx, launch := x.sheet.launch, task := x.sheet.task, number := slice o.w 9 4,
         mask := BitVec.ofNat 4 (slice o.w 3 0), parts := [p] }] }

/-- The fields, operands and privilege that `execCred` asks for (10 R237). -/
def sigCred (f : FmtX) : Sig :=
  { ok := fmtXOk f 0 && f.mod == 0,
    uses := [(f.dst, .tagDst), (f.opa, .src .i32), (f.opb, .src .i32), (f.opc, .src .i64), (f.opd, .unused)] }

/-- CRED (13 R350). -/
def execCred (f : FmtX) (s : State) : Host.Outcome State Fault Refusal :=
  issueOp s f.h (sigCred f)
    (fun s x act =>
      if act = 0 then doneOp s x f.h
      else
        let os := (activeQuarters act).map (fun p =>
          ({ q := p.1, j := readOpd s x .i32 f.opa.toNat p.2, j2 := readOpd s x .i32 f.opb.toNat p.2,
             w := readOpd s x .i64 f.opc.toNat p.2 } : RedOpds))
        let tiles := (tilesOf s x.sheet).1
        let bad (o : RedOpds) : Option (Nat × Nat) :=
          if tiles ≤ o.j ∨ tiles ≤ o.j2 ∨ o.j = o.j2 then some (cDescriptor, dsAccRange)
          else if redMismatch s x os o then some (cControl, ctlCredMismatch)
          else none
        match os.findSome? bad with
        | some e => sheetTrap s x e.1 e.2
        | none => withTag s x f.dst (fun n =>
          let new := (os.filter (fun o => (roundOf s x (slice o.w 9 4)).isNone)).length
          if new ≠ 0 ∧ 8 < (clusterOf s (x.core / 4)).rounds.length + new then blockLeaf s x.core x.entry .roundRoom
          else doneOp (os.foldl (fun s o => addPart s x n o) (pendTag s x.core n .other)) x f.h))

/-- Every core of a round's mask has contributed. -/
def roundFull (r : Round) : Bool :=
  (List.range 4).all (fun k => !r.mask.getLsbD k || r.parts.any (fun p => p.core % 4 == k))

/-- CRED_ROUND_COMPLETE (13 R351, R352): the merged rows go to every contributor, or its poison kills the launch. -/
def execCredRoundComplete (cluster round : Nat) (s : State) : Host.Outcome State Fault Refusal :=
  .next (match (clusterOf s cluster).rounds.find? (fun r => r.id = round) with
    | none => s
    | some r =>
      if !roundFull r then s
      else if r.parts.any (·.poisoned) then
        killLaunch (endRound s cluster r tsPoison) r.ctx r.launch .passPoison cPoison 1 0
      else
        let ps := (List.range 4).filterMap (fun k => r.parts.find? (fun p => p.core % 4 = k))
        let rows := (List.range 16).map (redRow ps)
        let tile := (taskPlace s r.ctx r.launch r.task).2
        let put (s : State) (p : Contribution) : State :=
          let a := tileOff tile p.j
          let b := tileOff tile p.j2
          let at0 := p.core * 2 ^ 20
          if p.spoiled then chipPut (chipPut { s with free := s.free + 1 } p.core true a (freeBytes s (at0 + a) 0x800)) p.core true b
            (freeBytes s (at0 + b) 0x800)
          else (rows.zipIdx).foldl (fun s w =>
            chipPut (chipPut s p.core true (b + 128 * w.2) (toBytes 4 w.1.1 ++ toBytes 4 w.1.2.1)) p.core true (a + 128 * w.2)
              ((w.1.2.2.map (toBytes 4)).flatten)) s
        endRound (r.parts.foldl put s) cluster r tsOk)

end Sys2Proof.Machine
end

