-- ==== Sys2Proof/Machine/Levels.lean ====
section
/-!
DEFINITION. Launch records, the levels of work and their counters (16 R399 to R404, 06 R157), making sheets resident
(06 R134, R143, R144, 04 R96, R100), freeing them, and ending a task's operations (05 R124, 08 R204, 13 R352).
-/
namespace Sys2Proof.Machine

/-- Tasks of a launch record (16 R399). -/
def lrTasks (r : List DWord) : Nat := recFld r 141 128
/-- NSHEET. -/
def lrSheets (r : List DWord) : Nat := recFld r 148 142
/-- REGS. -/
def lrRegs (r : List DWord) : Nat := recFld r 157 149
/-- TAGS. -/
def lrTags (r : List DWord) : Nat := recFld r 164 158
/-- ENERGY. -/
def lrEnergy (r : List DWord) : Nat := recFld r 271 256
/-- PEAK. -/
def lrPeak (r : List DWord) : Nat := recFld r 287 272
/-- GRAPH. -/
def lrGraph (r : List DWord) : Nat := recFld r 299 288
/-- PHASE. -/
def lrPhase (r : List DWord) : Nat := recFld r 311 300
/-- SNAP. -/
def lrSnap (r : List DWord) : Bool := recFld r 174 174 == 1
/-- The counter ids of the dependences in use. -/
def lrDeps (r : List DWord) : List Nat := (List.range (recFld r 314 312)).map (fun i => recFld r (351 + 32 * i) (320 + 32 * i))

/-- The level of a counter id (14 R366). -/
def cidLevel (cid : Nat) : Nat := cid / 2 ^ 29
/-- The index of a counter id. -/
def cidIndex (cid : Nat) : Nat := cid % 2 ^ 29
/-- The counter id of a graph. -/
def graphCid (g : Nat) : Nat := 2 * 2 ^ 29 + g
/-- The counter id of a phase. -/
def phaseCid (p : Nat) : Nat := 3 * 2 ^ 29 + p
/-- The counter id of a context's job. -/
def jobCid : Nat := 4 * 2 ^ 29

/-- Changes a context that exists. -/
def modCtx (s : State) (ctx : Nat) (f : Ctx → Ctx) : State :=
  match ctxOf s ctx with
  | some c => { s with ctxs := tput s.ctxs ctx (f c) }
  | none => s

/-- A level's counter. -/
def levelOf (s : State) (ctx cid : Nat) : Level := ((ctxOf s ctx).map (fun c => tget {} c.levels cid)).getD {}
/-- Changes a level's counter. -/
def modLevel (s : State) (ctx cid : Nat) (f : Level → Level) : State :=
  modCtx s ctx (fun c => { c with levels := tput c.levels cid (f (tget {} c.levels cid)) })

/-- A counter of a context that exists (14 R366, 16 R401): for a launch `members` is its task count. -/
def counterAt (s : State) (ctx cid : Nat) : Option Level :=
  match ctxOf s ctx with
  | none => none
  | some c =>
    let i := cidIndex cid
    match cidLevel cid with
    | 0 => (tfind c.levels (launchCid (i / 8192))).bind (fun l => if i % 8192 < l.members then some (tget {} c.levels cid) else none)
    | 1 => tfind c.levels cid
    | 2 => tfind c.levels cid
    | 3 => tfind c.levels cid
    | 4 => if i = 0 then some (tget {} c.levels cid) else none
    | 5 => if i < 1024 then some { value := tget 0 c.events i } else none
    | _ => none

/-- A launch's task lies within a level (06 R157). -/
def inLevel (cid : Nat) (l : Launch) (task : Nat) : Bool :=
  let i := cidIndex cid
  match cidLevel cid with
  | 0 => i == taskCid l.index task
  | 1 => i == l.index
  | 2 => i == lrGraph l.rec'
  | 3 => i == lrPhase l.rec'
  | _ => true

/-- A cancel of a level that holds the task has started (16 R412). -/
def cancelling (s : State) (l : Launch) (task : Nat) : Bool :=
  [taskCid l.index task, launchCid l.index, graphCid (lrGraph l.rec'), phaseCid (lrPhase l.rec'), jobCid].any
    (fun cid => (levelOf s l.ctx cid).cancelling)

/-- A counter completes (16 R404, R412). -/
def endLevel (s : State) (ctx cid : Nat) (cancelled : Bool) : State :=
  modLevel s ctx cid (fun v => if v.done then v else { v with done := true, cancelled := cancelled, cancelling := false })

/-- Counts one more, and completes at `n` unless a cancel has started (16 R404, R413). -/
def countUp (s : State) (ctx cid n : Nat) (cancelled : Bool) : State :=
  modLevel s ctx cid (fun v =>
    let v := { v with value := v.value + 1 }
    if v.value.toNat = n ∧ !cancelled ∧ !v.done then { v with done := true } else v)

/-- A graph completes; its phase counts it where it completed with OK, and completes with its closing graph and every earlier-accepted one
(16 R404). A group with a cancelled member completes with CANCELLED (DESIGN CHOICE, log entry 96). -/
def graphDone (s : State) (ctx g : Nat) (cancelled : Bool) : State :=
  let s := endLevel s ctx (graphCid g) cancelled
  let p := (levelOf s ctx (graphCid g)).up
  let s := modLevel s ctx p (fun v => { v with value := if cancelled then v.value else v.value + 1,
                                               parts := v.parts.filter (· ≠ graphCid g), spoilt := v.spoilt || cancelled })
  let v := levelOf s ctx p
  if v.closed ∧ v.parts.isEmpty ∧ !v.done ∧ !v.cancelling then endLevel s ctx p v.spoilt else s

/-- A launch has ended: it leaves the graph store; its graph, phase and job count it where it completed with OK (16 R404). -/
def dropLaunch (s : State) (l : Launch) (ok : Bool) : State :=
  let s := { s with launches := s.launches.filter (fun q => !(q.ctx == l.ctx && q.index == l.index)) }
  let s := if lrSnap l.rec' then
      let r : CReg := .qsnapc (l.queue % 256)
      let q := rawReg s r
      setReg s r (BitVec.ofNat 64 (putSlice q.toNat 44 32 0))
    else s
  let g := lrGraph l.rec'
  let up (v : Level) : Level := if ok then { v with value := v.value + 1 } else v
  let s := modLevel (modLevel s l.ctx (graphCid g) (fun v => { up v with spoilt := v.spoilt || !ok })) l.ctx jobCid up
  let v := levelOf s l.ctx (graphCid g)
  let left := s.launches.any (fun q => q.ctx == l.ctx && lrGraph q.rec' == g && !q.late)
  if v.closed ∧ !left ∧ !v.done ∧ !v.cancelling then graphDone s l.ctx g v.spoilt else s

/-- The counters of a launch and of its tasks complete with CANCELLED, and it leaves the store. -/
def cancelLaunch (s : State) (l : Launch) : State :=
  let s := (List.range (lrTasks l.rec')).foldl (fun s t => endLevel s l.ctx (taskCid l.index t) true) s
  dropLaunch (endLevel s l.ctx (launchCid l.index) true) l false

/-- Some dependence of a launch has completed with CANCELLED (16 R403). -/
def depCancelled (s : State) (l : Launch) : Bool :=
  (lrDeps l.rec').any (fun d => let v := levelOf s l.ctx d; v.done && v.cancelled)

/-- Every dependence has completed with OK. -/
def depsMet (s : State) (l : Launch) : Bool :=
  (lrDeps l.rec').all (fun d => let v := levelOf s l.ctx d; v.done && !v.cancelled)

/-- No other snapshot launch of the queue stands before this one (17 R431). -/
def snapFree (s : State) (l : Launch) : Bool :=
  !lrSnap l.rec' || !(s.launches.takeWhile (fun q => !(q.ctx == l.ctx && q.index == l.index))).any
    (fun q => q.queue == l.queue && lrSnap q.rec')

/-- Waiting launches become eligible where they may (16 R403, 17 R431); their tasks wait from now. -/
def makeEligible (s : State) : State :=
  { s with launches := s.launches.map (fun l =>
      if l.st = .waiting ∧ depsMet s l ∧ snapFree s l then
        { l with st := .eligible, tasks := l.tasks.map (fun t => (t.1, { t.2 with waitSince := s.ticks })) }
      else l) }

/-- Launches that depend on a cancelled level are cancelled, and so in turn are theirs (16 R403). -/
def cascade (s : State) : Nat → State
  | 0 => s
  | n + 1 =>
    match s.launches.find? (fun l => l.st = .waiting ∧ depCancelled s l) with
    | some l => cascade (cancelLaunch s l) n
    | none => s

/-- The graph store after a level has completed or a launch has been accepted. -/
def settleStore (s : State) : State := makeEligible (cascade s s.launches.length)

/-- A launch all of whose tasks have completed, some with CANCELLED, completes with CANCELLED (16 R404, R412; DESIGN CHOICE, log
entry 96). -/
def settleLaunch (s : State) (ctx launch : Nat) : State :=
  match launchOf s ctx launch with
  | none => s
  | some l =>
    let v := levelOf s ctx (launchCid launch)
    if v.done ∨ v.cancelling ∨ !l.tasks.all (fun t => (levelOf s ctx (taskCid launch t.1)).done) then s
    else settleStore (cancelLaunch s l)

/-- The registers of a core that a sheet of n registers can take, in blocks of 8 (06 R143). -/
def freeRegs (k : Core) (n : Nat) : Option Nat :=
  ((List.range 512).map (· * 8)).find? (fun b => decide (b + roundUp n 8 ≤ 4096) &&
    k.sheets.all (fun h => decide (b + roundUp n 8 ≤ h.2.base) || decide (h.2.base + roundUp h.2.nregs 8 ≤ b)))

/-- The first of n free tags of a core (05 R126). -/
def freeTags (k : Core) (n : Nat) : Option Nat :=
  (List.range 65).find? (fun b => decide (b + n ≤ 64) &&
    (n == 0 || k.sheets.all (fun h => decide (b + n ≤ h.2.tbase) || decide (h.2.tbase + h.2.ntags ≤ b))))

/-- Makes a sheet resident with its state of 06 R134, without a leaf: the core and slot, or none. -/
def makeSheet (s : State) (l : Launch) (task index cluster : Nat) : Option (State × Nat × Nat) :=
  let c := 4 * cluster + index % 4
  let k := coreOf s c
  let r := l.rec'
  match (List.range 48).find? (fun n => (tfind k.sheets n).isNone), freeRegs k (lrRegs r), freeTags k (lrTags r) with
  | some slot, some base, some tb =>
    let lo := 32 * base
    let hi := lo + 32 * lrRegs r
    let pre := (List.range (recFld r 963 960)).foldl (fun t i => tset 0 t i (r[7 + i]?.getD 0)) []
    let gen := lanes.foldl (fun t i => tset 0 t i (genSeed (recFld r 255 224) task index i)) []
    let h : Sheet := { ctx := l.ctx, launch := l.index, task := task, index := index, base := base, nregs := lrRegs r,
                       tbase := tb, ntags := lrTags r, ftz := recFld r 172 172 == 1, chk := recFld r 173 173 == 1, s := pre, gen := gen }
    let k := { k with
      sheets := tput k.sheets slot h,
      regs := k.regs.filter (fun e => decide (e.1 < lo) || decide (hi ≤ e.1)),
      regPoison := k.regPoison.filter (fun e => decide (e.1 < base) || decide (base + lrRegs r ≤ e.1)),
      tags := k.tags.filter (fun e => decide (e.1 < tb) || decide (tb + lrTags r ≤ e.1)) }
    some (setCore s c k, c, slot)
  | _, _, _ => none

/-- The base of a scratch block of a cluster (04 R96). -/
def freeScratch (s : State) (cluster size : Nat) : Option Nat :=
  ((List.range 257).map (· * 2048)).find? (fun b => decide (b + size ≤ 0x80000) && (size == 0 ||
    (placed s cluster).all (fun p => decide (b + size ≤ p.2.scr) || decide (p.2.scr + scratchSize p.1.rec' ≤ b))))

/-- The first of n accumulator tiles of a cluster's cores (04 R100). -/
def freeTiles (s : State) (cluster n : Nat) : Option Nat :=
  (List.range 65).find? (fun b => decide (b + n ≤ 64) && (n == 0 ||
    (placed s cluster).all (fun p => decide (b + n ≤ p.2.tile) || decide (p.2.tile + acctOf p.1.rec' ≤ b))))

/-- Zeroes the scratch block and the tiles of a task on a core, and clears their poison. -/
def zeroBlock (s : State) (c scr size tile n : Nat) : State :=
  let k := coreOf s c
  let outS (lo hi : Nat) (i : Nat) : Bool := decide (i < lo) || decide (hi ≤ i)
  let a := tileOff tile 0
  let b := a + 0x800 * n
  setCore s c { k with
    scr := k.scr.filter (fun e => outS scr (scr + size) e.1),
    scrPoison := k.scrPoison.filter (fun e => outS (scr / 8) ((scr + size) / 8) e.1),
    acc := k.acc.filter (fun e => outS a b e.1),
    accPoison := k.accPoison.filter (fun e => outS (a / 8) (b / 8) e.1) }

/-- Places a task on a cluster where everything fits (16 R406, R407): the state with every sheet resident and its core and
slot, without leaves. -/
def placeTask (s : State) (l : Launch) (t : Task) (indices : List Nat) (cluster prio : Nat) : Option (State × List (Nat × Nat × Nat)) :=
  let u := clusterOf s cluster
  let size := scratchSize l.rec'
  if u.energy < lrEnergy l.rec' ∨ u.current < lrPeak l.rec' then none
  else match freeScratch s cluster size, freeTiles s cluster (acctOf l.rec') with
    | some scr, some tile =>
      let s := setCluster s cluster { u with energy := u.energy - lrEnergy l.rec', current := u.current - lrPeak l.rec' }
      let s := (List.range 4).foldl (fun s i => zeroBlock s (4 * cluster + i) scr size tile (acctOf l.rec')) s
      let s := modLaunch s l.ctx l.index (fun q => { q with
        lastCluster := cluster,
        tasks := tput q.tasks t.index { t with st := 1, cluster := cluster, prio := prio, scr := scr, tile := tile,
                                               barred := false, halted := false } })
      indices.foldl (fun r i => match r with
        | none => none
        | some (s, ps) => (makeSheet s l t.index i cluster).map (fun p => (p.1, ps ++ [(i, p.2.1, p.2.2)]))) (some (s, []))
    | _, _ => none

/-- A resident sheet leaves its core: its leaves, accesses, walks and windows go with it. Of an access that a kill finds issued and not
yet performed 06 R155 says that it may perform or not: here it never does (DESIGN CHOICE, log entry 92). -/
def dropSheet (s : State) (c slot : Nat) : State :=
  let k := coreOf s c
  match tfind k.sheets slot with
  | none => s
  | some h =>
    let es := (k.leaves.filter (fun l => l.2.slot = slot)).map (·.1)
    let keep (w : Walk) : Walk := { w with waiters := w.waiters.filter (fun p => !(p.1 == c && es.contains p.2)) }
    let s := setCore s c { k with
      leaves := k.leaves.filter (fun l => l.2.slot ≠ slot), sheets := tdel k.sheets slot,
      walkFaults := k.walkFaults.filter (fun w => !es.contains w.entry),
      windows := k.windows.filter (fun w =>
        (decide (w.tag < h.tbase) || decide (h.tbase + h.ntags ≤ w.tag)) && !(w.ring.isSome && w.slot == slot)) }
    wakeStalled { s with
      accs := s.accs.filter (fun a => !(a.core == c && a.slot == slot)),
      dies := s.dies.map (fun d => (d.1, { d.2 with active := d.2.active.map keep, missed := d.2.missed.map keep })) } c

/-- The resident sheets, as core, slot and sheet, that satisfy a predicate. -/
def sheetsWhere (s : State) (p : Sheet → Bool) : List (Nat × Nat × Sheet) :=
  (s.cores.map (fun k => (k.2.sheets.filter (fun h => p h.2)).map (fun h => (k.1, h.1, h.2)))).flatten

/-- A sheet belongs to a task. -/
def ofTask (ctx launch task : Nat) (h : Sheet) : Bool := h.ctx == ctx && h.launch == launch && h.task == task

/-- The operations that a cancel of their level ends: copies, write-backs and range operations (05 R124, 12 R311, R320, 13 R344). -/
def copyLike (a : Async) : Bool :=
  match a.kind with
  | .copy _ => true
  | .stt _ _ _ _ => true
  | .mxst _ _ _ => true
  | .range _ _ _ _ _ => true
  | _ => false

/-- Ends with CANCELLED the quarter operations and rounds of tasks, and with `all` every other operation; without it their copies and
write-backs are to end. -/
def endOps (s : State) (p : Nat → Nat → Nat → Bool) (all : Bool) : State :=
  let s := if all then (s.asyncs.filter (fun a => p a.ctx a.launch a.task)).foldl endEarly s
    else { s with asyncs := s.asyncs.map (fun a => if p a.ctx a.launch a.task && copyLike a then { a with cancelled := true } else a) }
  let s := s.cores.foldl (fun (s : State) (e : Nat × Core) =>
    let qs := e.2.queue.filter (fun q => p q.ctx q.launch q.task)
    let hit (r : Pass) : Bool := r.ops.any (fun i => qs.any (fun q => q.id = i))
    let k := coreOf s e.1
    let mine (f : Nat × Nat × Nat) : Bool := p f.1 f.2.1 f.2.2
    if qs.isEmpty ∧ !(k.frozen ++ k.freezing).any mine then s
    else
      let s := setCore s e.1 (thaw { k with pass := k.pass.filter (fun r => !hit r), resume := k.resume.filter (fun r => !hit r) } mine)
      noteEmpty (qs.foldl (fun s q => endQuarter s e.1 q tsCancelled) s) e.1) s
  s.clusters.foldl (fun (s : State) (u : Nat × Cluster) => (u.2.rounds.filter (fun r => p r.ctx r.launch r.task)).foldl
    (fun s r => endRound s u.1 r tsCancelled) s) s

/-- The rings of tasks are freed, both words zero (12 R326). -/
def freeRings (s : State) (p : Nat → Nat → Nat → Bool) : State :=
  let mine (g : Ring) : Bool := match g.owner with | some o => p o.1 o.2.1 o.2.2 | none => false
  if s.clusters.any (fun u => u.2.rings.any (fun g => mine g.2)) then
    { s with clusters := s.clusters.map (fun u => (u.1, { u.2 with rings := u.2.rings.filter (fun g => !mine g.2) })) }
  else s

/-- The tiles of a task are undefined on its cores (08 R204, 00 R3). -/
def spoilTiles (s : State) (l : Launch) (t : Task) : State :=
  if t.st ≠ 1 then s
  else (List.range 4).foldl (fun s i =>
    let lo := tileOff t.tile 0
    let c := 4 * t.cluster + i
    chipPut s c true lo (freeBytes s (c * 2 ^ 20 + lo) (0x800 * acctOf l.rec'))) { s with free := s.free + 1 }

end Sys2Proof.Machine
end

