-- ==== Sys2Proof/Machine/Sched.lean ====
section
/-!
DEFINITION. Scheduling (16 R403 to R414): distribution, completion of sheets, tasks and launches, energy quotas, cancel.
-/
namespace Sys2Proof.Machine

/-- The highest priority that a queue's tasks take (16 R402, 19 R447). -/
def queuePrio (s : State) (q fn : Nat) : Nat := min (fld (rawReg s (.qctl q)) 20 16) (fld (rawReg s (.part fn 4)) 4 0)

/-- Nothing of a function's partition is launched or distributed: its reset runs, or its interface is in ERROR (19 R451, R454). -/
def fnBlocked (s : State) (fn : Nat) : Bool := (tget {} s.fns fn).resetting || (tget {} s.fns fn).tdisp == .error

/-- A task that may be distributed: its launch's place in acceptance order, its launch, itself, its function and priority. -/
structure Candidate where
  pos : Nat
  launch : Launch
  task : Task
  fn : Nat
  prio : Nat
  deriving DecidableEq, Repr

/-- The undistributed tasks of eligible launches, and yielded tasks to be placed again (16 R406, 17 R427). -/
def waitingTasks (s : State) : List Candidate :=
  ((s.launches.zipIdx).map (fun p =>
    let l := p.1
    let fn := ctxFn s l.ctx
    if l.st ≠ .eligible then []
    else (l.tasks.filter (fun t => (t.2.st = 0 ∨ t.2.st = 2) ∧ !cancelling s l t.1)).map (fun t =>
      { pos := p.2, launch := l, task := t.2, fn := fn, prio := queuePrio s l.queue fn }))).flatten

/-- A task that has waited 1 ms stands before every later-accepted one of no higher priority (16 R406). -/
def barredBy (cs : List Candidate) (c : Candidate) : Bool :=
  cs.any (fun b => b.task.barred && b.fn == c.fn && decide (b.pos < c.pos) && decide (c.prio ≤ b.prio))

/-- The tasks that may be placed, in the order in which they are considered (16 R406, R410, 19 R451). -/
def ranked (s : State) : List Candidate :=
  let cs := waitingTasks s
  let may (c : Candidate) : Bool := !overQuota s c.launch.ctx && !fnBlocked s c.fn && !barredBy cs c
  (((List.range 32).reverse).map (fun p => cs.filter (fun c => c.prio = p && may c))).flatten

/-- The sheets of a task that are to be resident: all, or those that yielded. -/
def sheetsOf (c : Candidate) : List Nat :=
  if c.task.st = 2 then c.task.resume.map (·.1) else List.range (lrSheets c.launch.rec')

/-- The first cluster of the partition that takes a task, from the one after the launch's last (16 R406). -/
def tryClusters (s : State) (c : Candidate) : Option (State × List (Nat × Nat × Nat)) :=
  (((List.range 128).map (fun i => (c.launch.lastCluster + 1 + i) % 128)).filter (fun k => clusterPresent s k && ownerFn s 0 k == c.fn)).findSome?
    (fun k => placeTask s c.launch (if c.task.st = 2 then c.task else { c.task with left := lrSheets c.launch.rec' }) (sheetsOf c) k c.prio)

/-- The next task to be placed, the state after it, and its sheets by index, core and slot. -/
def nextTask (s : State) : Option (Candidate × State × List (Nat × Nat × Nat)) :=
  (ranked s).findSome? (fun c => (tryClusters s c).map (fun r => (c, r.1, r.2)))

/-- TASK_DISTRIBUTION (16 R405, R406): the next task is placed and its sheets' first leaves start at the entry point. -/
def execTaskDistribution (s : State) : Host.Outcome State Fault Refusal :=
  .next (match nextTask s with
    | some (c, t, ps) =>
      if c.task.st ≠ 0 then s
      else ps.foldl (fun t p =>
        let k := now t p.2.1
        setLeaf t p.2.1 p.2.2 { slot := p.2.2, pc := BitVec.ofNat 64 (recFld c.launch.rec' 63 0), mask := BitVec.allOnes 32,
                                age := k, since := k, checkTgt := true }) t
    | none => s)

/-- DISTRIBUTION_WAIT_LIMIT (16 R406): a task has waited 1 ms undistributed. -/
def execDistributionWaitLimit (ctx launch task : Nat) (s : State) : Host.Outcome State Fault Refusal :=
  .next (match launchOf s ctx launch, taskOf s ctx launch task with
    | some l, some t =>
      if l.st = .eligible ∧ (t.st = 0 ∨ t.st = 2) ∧ t.waitSince + 1000 * usTicks ≤ s.ticks then
        modTask s ctx launch task (fun t => { t with barred := true })
      else s
    | _, _ => s)

/-- A launch's counter counts a completed task, and completes at NTASK or with its last task (16 R404). -/
def taskDone (s : State) (l : Launch) : State :=
  let stop := (levelOf s l.ctx (launchCid l.index)).cancelling
  let s := countUp s l.ctx (launchCid l.index) (lrTasks l.rec') stop
  if (levelOf s l.ctx (launchCid l.index)).done then
    settleStore (dropLaunch s ((launchOf s l.ctx l.index).getD l) true)
  else settleLaunch s l.ctx l.index

/-- A sheet of a task has completed: its task counts it, and completes with the last (16 R404, R413). -/
def sheetDone (s : State) (l : Launch) (task : Nat) : State :=
  let stop := cancelling s l task
  let s := countUp s l.ctx (taskCid l.index task) (lrSheets l.rec') stop
  let s := modTask s l.ctx l.index task (fun t => { t with left := t.left - 1 })
  match taskOf s l.ctx l.index task with
  | none => s
  | some t =>
    if t.left ≠ 0 then s
    else
    let s := freeRings s (fun c i k => c == l.ctx && i == l.index && k == task)
    if stop then modTask s l.ctx l.index task (fun t => { t with st := 4 })
    else taskDone (modTask s l.ctx l.index task (fun t => { t with st := 3 })) l

/-- A sheet's last lane has left, its tags are ready, and every operation of its own has completed (11 R294, 09 R223). -/
def sheetOver (s : State) (c slot : Nat) : Bool :=
  match sheetOf s c slot with
  | none => false
  | some h =>
    let k := coreOf s c
    k.leaves.all (fun l => l.2.slot != slot) &&
    (List.range h.ntags).all (fun i => (tagOf s c (h.tbase + i)).ready) &&
    s.accs.all (fun a => !(a.core == c && a.slot == slot)) && s.asyncs.all (fun a => !(a.core == c && a.slot == slot))

/-- A task with no resident sheet left after a cancel or a preemption has left its cluster, and its rings are freed (12 R326). -/
def taskGone (s : State) (h : Sheet) (st : Nat) : State :=
  if (sheetsWhere s (ofTask h.ctx h.launch h.task)).isEmpty then
    modTask (freeRings s (fun c l k => ofTask c l k h)) h.ctx h.launch h.task (fun t => { t with st := st, waitSince := s.ticks })
  else s

/-- SHEET_COMPLETE (11 R294, 16 R404, 17 R427): the residency frees and the task counts the sheet; where its others have left residency,
the task has. -/
def execSheetComplete (core slot : Nat) (s : State) : Host.Outcome State Fault Refusal :=
  .next (match sheetOf s core slot with
    | none => s
    | some h =>
      if !sheetOver s core slot then s
      else
        let s := dropSheet s core slot
        match launchOf s h.ctx h.launch with
        | some l =>
          let s := sheetDone s l h.task
          (match taskOf s h.ctx h.launch h.task with
           | some t => if t.st = 1 ∧ t.left ≠ 0 then taskGone s h (if cancelling s l h.task then 4 else 2) else s
           | none => s)
        | none => s)

/-- QUOTA_REPORT (16 R409): a cluster reports a context's energy; at QUOTA - DEBT the context is over quota. -/
def execQuotaReport (cluster ctx : Nat) (s : State) : Host.Outcome State Fault Refusal :=
  .next (
    let s := modCtx { s with free := s.free + 1 } ctx (fun c => { c with use := c.use + Config.meter s.free (4096 * cluster + ctx) })
    let q := rawReg s (.cquota ctx)
    let quota := fld q 31 0
    modCtx s ctx (fun c => if quota ≠ 0 ∧ quota - fld q 63 32 ≤ c.use then { c with overQuota := true } else c))

/-- A task of a launch is within a cancel's level, by its launch's numbers. -/
def levelHas (s : State) (ctx cid : Nat) (c l t : Nat) : Bool :=
  c == ctx && (match launchOf s c l with | some x => inLevel cid x t | none => false)

/-- A cancel of a level starts (16 R412): its undistributed tasks are never placed, its resident sheets are to take PREEMPT,
its copies, quarter operations and rounds end. -/
def startCancel (s : State) (ctx cid : Nat) : State :=
  let mark (s : State) (cid : Nat) : State := modLevel s ctx cid (fun v => if v.done then v else { v with cancelling := true })
  let p (c l t : Nat) : Bool := levelHas s ctx cid c l t
  let ls := s.launches.filter (fun l => l.ctx == ctx && l.tasks.any (fun t => inLevel cid l t.1))
  let s' := mark s cid
  let s' := if cidLevel cid = 0 then s' else ls.foldl (fun s l => mark s (launchCid l.index)) s'
  let s' := departAway s' (fun a => p a.ctx a.launch a.task)
  let s' := ls.foldl (fun s l => l.tasks.foldl (fun s t =>
    if !inLevel cid l t.1 then s
    else
      let s := spoilTiles s l t.2
      if t.2.st = 0 ∨ t.2.st = 2 then modTask s ctx l.index t.1 (fun t => { t with st := 4 }) else s) s) s'
  let s' := (sheetsWhere s' (fun h => p h.ctx h.launch h.task)).foldl (fun s h =>
    modSheet s h.1 h.2.1 (fun x => { x with preempt := 2, preemptAt := s.ticks })) s'
  endOps s' p false

/-- Every sheet of a cancelled level has left residency and every operation of it has ended (16 R412). -/
def cancelReady (s : State) (ctx cid : Nat) : Bool :=
  let p (c l t : Nat) : Bool := levelHas s ctx cid c l t
  let v := levelOf s ctx cid
  v.cancelling && !v.done && (sheetsWhere s (fun h => p h.ctx h.launch h.task)).isEmpty &&
    s.asyncs.all (fun a => !p a.ctx a.launch a.task) && s.cores.all (fun k => k.2.queue.all (fun q => !p q.ctx q.launch q.task)) &&
    s.clusters.all (fun u => u.2.rounds.all (fun r => !p r.ctx r.launch r.task))

/-- CANCEL_COMPLETE (16 R412): every counter of the level completes with CANCELLED. -/
def execCancelComplete (ctx cid : Nat) (s : State) : Host.Outcome State Fault Refusal :=
  .next (
    if !cancelReady s ctx cid then s
    else
      let lv := cidLevel cid
      let ls := s.launches.filter (fun l => l.ctx == ctx && lv != 0 && inLevel cid l 0)
      let open' := ((ctxOf s ctx).map (fun c => c.levels.filter (fun v => !v.2.done))).getD []
      let within (v : Nat × Level) : Bool := (3 ≤ lv && cidLevel v.1 == 2 && (lv == 4 || v.2.up == cid)) || (lv == 4 && cidLevel v.1 == 3)
      let s := if lv = 2 then graphDone s ctx (cidIndex cid) true else endLevel s ctx cid true
      let s := (open'.filter within).foldl (fun s v => endLevel s ctx v.1 true) s
      let s := settleStore (ls.foldl cancelLaunch s)
      if lv = 0 then settleLaunch s ctx (cidIndex cid / 8192) else s)

/-- A sheet of a cancelled level is killed: its lanes depart, its operations end, its residency frees (16 R412). -/
def killSheet (s : State) (c slot : Nat) : State :=
  match sheetOf s c slot with
  | none => s
  | some h =>
    let s := departAll s c slot (BitVec.allOnes 32) true
    let s := (s.asyncs.filter (fun a => a.core == c && a.slot == slot)).foldl endEarly s
    let k := coreOf s c
    let qs := k.queue.filter (fun q => q.slot == slot && ofTask q.ctx q.launch q.task h)
    let s := if qs.any (fun q => match k.pass with | some p => p.ops.contains q.id | none => false) then
        setCore s c { k with pass := k.pass.bind (fun p =>
          let left := p.ops.filter (fun i => !qs.any (fun q => q.id = i))
          if left.isEmpty then none else some { p with ops := left }) } else s
    let s := noteEmpty (qs.foldl (fun s q => endQuarter s c q tsCancelled) s) c
    let s := cancelRounds s (c / 4) h.ctx h.launch h.task
    dropSheet s c slot

/-- CANCEL_KILL_TIMEOUT (16 R412): CKILL µs after its PREEMPT was asked for (DESIGN CHOICE, log entry 97), the sheet is killed. -/
def execCancelKillTimeout (core slot : Nat) (s : State) : Host.Outcome State Fault Refusal :=
  .next (match sheetOf s core slot with
    | none => s
    | some h =>
      if h.preempt = 2 ∧ h.preemptAt + fld (rawReg s .sched) 15 0 * usTicks ≤ s.ticks then taskGone (killSheet s core slot) h 4 else s)

end Sys2Proof.Machine
end

