-- ==== Sys2Proof/Machine/Preempt.lean ====
section
/-!
DEFINITION. Pre-emption and resumption (17 R421, R425 to R428), kills, snapshots and rollback (17 R430 to R432).
-/
namespace Sys2Proof.Machine

/-- A leaf that stands in a handler entered for PREEMPT. -/
def inPreempt (l : Leaf) : Bool := l.priv && l.handler == cPreempt

/-- A leaf that can be vectored now: it is between runs and its accesses have performed (09 R227). -/
def atRest (s : State) (c : Nat) (l : Leaf) : Bool := !l.inRun && (outstanding s c l).isEmpty

/-- A leaf may take PREEMPT now (17 R425, 06 R155). -/
def preemptDue (s : State) (c e : Nat) : Bool :=
  match leafOf s c e with
  | none => false
  | some l =>
    match sheetOf s c l.slot with
    | none => false
    | some h => h.preempt != 0 && e != l.slot && !l.priv && l.st != .parked && atRest s c l

/-- The sheet takes PREEMPT: its gathering tags are HELD and its task's incomplete rounds end (14 R362, 13 R352). -/
def notePreempt (s : State) (c : Nat) (h : Sheet) : State := cancelRounds (holdTags s c h) (c / 4) h.ctx h.launch h.task

/-- PREEMPT_DELIVERY (17 R425). -/
def execPreemptDelivery (core entry : Nat) (s : State) : Host.Outcome State Fault Refusal :=
  .next (
    if !preemptDue s core entry then s
    else match leafOf s core entry with
      | none => s
      | some l =>
        match sheetOf s core l.slot with
        | none => s
        | some h => trapRec (notePreempt s core h) core entry { cause := cPreempt, status := h.preempt, lanes := l.mask, pc := l.pc })

/-- The principal may take PREEMPT: every other leaf of its sheet is in a PREEMPT handler or parked (17 R426). -/
def principalDue (s : State) (c slot : Nat) : Bool :=
  match leafOf s c slot, sheetOf s c slot with
  | some l, some h =>
    h.preempt != 0 && l.slot == slot && !l.priv && l.st != .parked && atRest s c l &&
      (coreOf s c).leaves.all (fun q => q.2.slot != slot || q.1 == slot || inPreempt q.2 || q.2.st == .parked)
  | _, _ => false

/-- The leaf list that the device writes before it delivers to the principal (17 R420, R426). -/
def leafList (s : State) (c slot : Nat) : Tab ListEntry :=
  let ls := (coreOf s c).leaves.filter (fun q => q.2.slot = slot)
  (ls.zipIdx).foldl (fun t p =>
    let l := p.1.2
    let pc := if inPreempt l then (tget {} (coreOf s c).recs p.1.1).pc else l.pc
    tput t p.2 { pc := pc, mask := l.mask, kind := if l.st = .parked then 2 else 1 }) []

/-- PRINCIPAL_DELIVERY (17 R426). -/
def execPrincipalDelivery (core slot : Nat) (s : State) : Host.Outcome State Fault Refusal :=
  .next (
    if !principalDue s core slot then s
    else match leafOf s core slot, sheetOf s core slot with
      | some l, some h =>
        let s := modSheet (notePreempt s core h) core slot (fun x => { x with list := leafList s core slot })
        trapRec s core slot { prin := true, cause := cPreempt, status := h.preempt, lanes := l.mask, pc := l.pc }
      | _, _ => s)

/-- PARKED_LEAF_VECTOR (17 R421, 06 R150): a parked leaf is vectored with the record of its fault. -/
def execParkedLeafVector (core entry : Nat) (s : State) : Host.Outcome State Fault Refusal :=
  .next (match leafOf s core entry with
    | none => s
    | some l =>
      if l.st ≠ .parked ∨ !atRest s core l then s
      else match sheetOf s core l.slot with
        | none => s
        | some h => enterHandler s core entry l h (tget {} (coreOf s core).recs entry))

/-- Every leaf of a sheet waits at `YIELD` or is parked, its tags are ready and its accesses have performed (17 R427, 05
R131, 09 R228). -/
def leaveDue (s : State) (c slot : Nat) : Bool :=
  match sheetOf s c slot with
  | none => false
  | some h =>
    let ls := (coreOf s c).leaves.filter (fun q => q.2.slot = slot)
    ls.any (fun q => q.2.st == .blocked .yielded) && ls.all (fun q => q.2.st == .blocked .yielded || q.2.st == .parked) &&
    (List.range h.ntags).all (fun i => (tagOf s c (h.tbase + i)).ready) &&
    s.accs.all (fun a => !(a.core == c && a.slot == slot)) && s.asyncs.all (fun a => !(a.core == c && a.slot == slot))

/-- SHEET_LEAVE_RESIDENCY (17 R427): RESUMEW is kept with the task; under a cancel the lanes depart. -/
def execSheetLeaveResidency (core slot : Nat) (s : State) : Host.Outcome State Fault Refusal :=
  .next (
    if !leaveDue s core slot then s
    else match sheetOf s core slot with
      | none => s
      | some h =>
        let dead := match launchOf s h.ctx h.launch with | some l => h.preempt = 2 || cancelling s l h.task | none => true
        if dead then taskGone (dropSheet (departAll s core slot (BitVec.allOnes 32) true) core slot) h 4
        else
          let s := dropSheet (sheetAway s h) core slot
          taskGone (modTask s h.ctx h.launch h.task (fun t => { t with resume := tput t.resume h.index h.resumew })) h 2)

/-- TASK_RESUME (17 R427): the task is placed again; each sheet's s0 takes RESUMEW and one privileged leaf starts at the RESUME
entry of the trap table. -/
def execTaskResume (ctx launch task : Nat) (s : State) : Host.Outcome State Fault Refusal :=
  .next (match nextTask s with
    | some (c, t, ps) =>
      if c.launch.ctx ≠ ctx ∨ c.launch.index ≠ launch ∨ c.task.index ≠ task ∨ c.task.st ≠ 2 then s
      else
        let t := modTask t ctx launch task (fun x => { x with resume := [] })
        ps.foldl (fun t p =>
          let core := p.2.1
          let slot := p.2.2
          let t := modSheet t core slot (fun h => { h with s := tset 0 h.s 0 (tget 0 c.task.resume p.1) })
          match sheetOf t core slot with
          | none => t
          | some h =>
            let k := now t core
            let l : Leaf := { slot := slot, pc := 0, mask := BitVec.allOnes 32, age := k, since := k }
            sheetBack (enterHandler (setLeaf t core slot l) core slot l h { tget {} (coreOf t core).recs slot with cause := cResume }) h) t
    | none => s)

/-- The REASON of a KILL record (19 R450). -/
def killReason : KillWhy → Nat
  | .poisonedRegister => 1
  | .passPoison => 2
  | .flaggedRegion => 3
  | .klaunch => 4
  | .trapTable => 5
  | .nested => 5
  | .leafList => 5
  | .reset => 0

/-- The kill cannot be rolled back whatever the snapshot (17 R418, R422, R428). -/
def hardKill : KillWhy → Bool
  | .trapTable => true
  | .nested => true
  | .leafList => true
  | .reset => true
  | _ => false

/-- A killed launch may be replayed (17 R431). -/
def replays (s : State) (l : Launch) (why : KillWhy) : Bool :=
  !hardKill why && lrSnap l.rec' && l.unrecoverable.isNone && decide (l.replays < fld (rawReg s .roll) 3 0)

/-- The REASON of a JOB-FAULT record (19 R450). -/
def jobReason (s : State) (l : Launch) (why : KillWhy) : Nat :=
  match why with
  | .trapTable => 1
  | .nested => 2
  | .leafList => 3
  | _ => match l.unrecoverable, lrSnap l.rec' with
    | some n, true => n
    | _, _ => if lrSnap l.rec' ∧ fld (rawReg s .roll) 3 0 ≤ l.replays then 6 else 7

/-- What a kill does at once (17 R430): lanes killed, operations CANCELLED, tiles undefined (08 R204), rings (12 R326) and residencies
free. -/
def killWork (s : State) (ctx launch : Nat) : State :=
  let p (c l _t : Nat) : Bool := c == ctx && l == launch
  let hs := sheetsWhere s (fun h => h.ctx == ctx && h.launch == launch)
  let s := hs.foldl (fun s h => departAll s h.1 h.2.1 (BitVec.allOnes 32) true) s
  let s := departAway s (fun a => a.ctx == ctx && a.launch == launch)
  let s := endOps s p true
  let s := freeRings s p
  let s := (((launchOf s ctx launch).map (fun l => (l, l.tasks))).toList).foldl (fun s l => l.2.foldl (fun s t => spoilTiles s l.1 t.2) s) s
  let s := hs.foldl (fun s h => dropSheet s h.1 h.2.1) s
  modLaunch s ctx launch (fun l => { l with st := .killed, tasks := l.tasks.map (fun t => (t.1, { index := t.1 })) })

/-- A kill that escalates to the job (17 R432): every launch of the context ends as killed, and every counter of its levels
completes with CANCELLED. -/
def cancelJob (s : State) (ctx : Nat) : State :=
  let ls := s.launches.filter (fun l => l.ctx = ctx)
  let s := ls.foldl (fun s l => killWork s ctx l.index) s
  let s := modCtx s ctx (fun c => { c with levels :=
    (tput c.levels jobCid (tget {} c.levels jobCid)).map (fun v =>
      (v.1, if v.2.done then v.2 else { v.2 with done := true, cancelled := true, cancelling := false })) })
  ls.foldl cancelLaunch s

/-- The KILL record of a launch (19 R450). -/
def killRecord (s : State) (l : Launch) (why : KillWhy) (again : Bool) : State :=
  postRecord s { fn := ctxFn s l.ctx, kind := 3, ctx := l.ctx, cid := launchCid l.index, pc := l.killPc, cause := l.killCause,
                 status := l.killStatus, reason := killReason why, arg0 := b2n again }

/-- LAUNCH_KILL (17 R430, R432, 19 R450). A kill by a reset ends the launch without a replay or a JOB-FAULT record (R451). -/
def execLaunchKill (ctx launch : Nat) (why : KillWhy) (s : State) : Host.Outcome State Fault Refusal :=
  .next (match launchOf s ctx launch with
    | none => s
    | some l =>
      if l.st = .killed then s
      else
        let again := replays s l why
        let s := killRecord (killWork s ctx launch) l why again
        let fn := ctxFn s ctx
        if again then s
        else if why = .reset then settleStore (cancelLaunch s l)
        else
          let r : EventRec := { fn := fn, kind := 4, ctx := ctx, cid := launchCid launch, pc := l.killPc, reason := jobReason s l why }
          let s := settleStore (cancelJob s ctx)
          let s := postRecord s r
          if fn = 0 then s else postRecord s { r with fn := 0 })

/-- Every launch of a function's contexts is killed, with every counter completing CANCELLED (19 R451, R454). -/
def killFunction (s : State) (fn : Nat) : State :=
  let cs := (s.ctxs.map (·.1)).filter (fun c => ctxFn s c = fn)
  let s := (s.launches.filter (fun l => cs.contains l.ctx)).foldl (fun s l => killRecord s l .reset false) s
  settleStore (cs.foldl cancelJob s)

/-- The base of a queue's snapshot area (17 R433). -/
def snapBase (s : State) (q : Nat) : Nat := fld (rawReg s (.qsnapb q)) 51 16 * 2 ^ 16

/-- Moves 64 KiB: each line as the coherent read finds it, to the home of another (17 R431). -/
def copyPage (s : State) (src dst : Nat) : State :=
  (List.range 512).foldl (fun s i =>
    let v := coherentLine s (src / 128 + i)
    writeHome (discard s (dst / 128 + i)) (dst / 128 + i) v.1 v.2) s

/-- SNAPSHOT_PAGE_COPY (17 R431): the page is saved before the launch's first write to it, or the area is full. -/
def execSnapshotPageCopy (ctx launch page : Nat) (s : State) : Host.Outcome State Fault Refusal :=
  .next (match launchOf s ctx launch with
    | none => s
    | some l =>
      let q := rawReg s (.qsnapc l.queue)
      let used := l.pages.length
      if l.pages.contains page ∨ l.unrecoverable.isSome then s
      else if fld q 12 0 ≤ used then modLaunch s ctx launch (fun l => { l with unrecoverable := some 4 })
      else if !quietRange s (page * 2 ^ 16) (2 ^ 16) then s
      else
        let b := snapBase s l.queue
        let s := copyPage s (page * 2 ^ 16) (b + 2 ^ 16 * (used + 1))
        let s := coherentWrite s (b + 8 * used) (toBytes 8 (page * 2 ^ 16))
        let s := setReg s (.qsnapc l.queue) (BitVec.ofNat 64 (putSlice q.toNat 44 32 (used + 1)))
        modLaunch s ctx launch (fun l => { l with pages := l.pages ++ [page] }))

/-- A killed launch can be rolled back: no message is in flight for its saved pages. -/
def rollbackDue (s : State) (l : Launch) : Bool := l.st == .killed && l.pages.all (fun p => quietRange s (p * 2 ^ 16) (2 ^ 16))

/-- LAUNCH_ROLLBACK (17 R431): the saved pages are restored, the counters are zero, and the launch runs again. -/
def execLaunchRollback (ctx launch : Nat) (s : State) : Host.Outcome State Fault Refusal :=
  .next (match launchOf s ctx launch with
    | none => s
    | some l =>
      if !rollbackDue s l then s
      else
        let b := snapBase s l.queue
        let s := (l.pages.zipIdx).foldl (fun s p =>
          let s := (List.range 512).foldl (fun s i => discard s (p.1 * 512 + i)) s
          copyPage s (b + 2 ^ 16 * (p.2 + 1)) (p.1 * 2 ^ 16)) s
        let s := modCtx s ctx (fun c => { c with levels := c.levels.filter (fun v => !(cidLevel v.1 == 0 && v.1 / 8192 == launch)) })
        let s := modLevel s ctx (launchCid launch) (fun v => { v with value := 0 })
        let q := rawReg s (.qsnapc l.queue)
        let s := setReg s (.qsnapc l.queue) (BitVec.ofNat 64 (putSlice q.toNat 44 32 0))
        modLaunch s ctx launch (fun l => { l with
          st := .eligible, pages := [], replays := l.replays + 1, lastCluster := 127,
          tasks := (List.range (lrTasks l.rec')).map (fun t => (t, { index := t, waitSince := s.ticks })) }))

end Sys2Proof.Machine
end

