-- ==== Sys2Proof/Machine/Work.lean ====
section
/-!
DEFINITION. Counters and launches: `LAUNCH`, `CTRADD`, `CTRWAIT`, `CANCEL` (14 R366 to R370, 16 R399 to R404).
-/
namespace Sys2Proof.Machine

/-- The instruction at a leaf's PC, from the line that it has fetched. -/
def instrAt (l : Leaf) : Option Instr :=
  match l.line with
  | none => none
  | some f =>
    if f.va ≠ l.pc.toNat / 64 * 64 then none
    else match decode (lineSlot f.bytes (l.pc.toNat % 64 / 12)) with
      | .ok i => some i
      | .error _ => none

/-- A leaf as the issuer of the instruction at its PC. -/
def leafIss (s : State) (c e : Nat) : Option Iss :=
  match leafOf s c e with
  | none => none
  | some l => (sheetOf s c l.slot).map (fun h => { core := c, entry := e, leaf := l, sheet := h })

/-- A leaf that waited within an instruction is done with it, and goes on. -/
def wakeDone (s : State) (x : Iss) (h : Hdr) : State :=
  match leafOf s x.core x.entry with
  | some l => retireAt (setLeaf s x.core x.entry { l with st := readySt l, since := now s x.core }) x.core x.entry h false (nextPc l.pc)
  | none => s

/-- The checks of a launch record for a context (16 R400). -/
def recordOk (s : State) (ctx : Nat) (r : List DWord) : Bool :=
  let cs := (List.range 128).filter (fun c => ownerFn s 0 c = ctxFn s ctx)
  let rsv := recFld r 319 317 != 0 || recFld r 223 212 != 0 || recFld r 191 175 != 0 || recFld r 1023 964 != 0 ||
    (List.range 16).any (fun i => r[16 + i]?.getD 0 != 0)
  let inn (v lo hi : Nat) : Bool := decide (lo ≤ v) && decide (v ≤ hi)
  let depOk (d : Nat) : Bool := 1 ≤ cidLevel d && cidLevel d ≤ 3 && (counterAt s ctx d).isSome
  !rsv && inn (lrTasks r) 1 8192 && inn (lrSheets r) 1 64 && inn (lrRegs r) 1 256 && inn (lrTags r) 0 64 &&
    inn (acctOf r) 0 64 && inn (recFld r 211 192) 0 524288 && inn (recFld r 314 312) 0 4 && inn (recFld r 963 960) 0 8 &&
    recFld r 63 0 % 64 == 0 && decide ((lrSheets r + 3) / 4 * lrTags r ≤ 64) && (lrDeps r).all depOk &&
    cs.any (fun c => decide (lrEnergy r ≤ fld (rawReg s (.cbudget c)) 15 0)) &&
    cs.any (fun c => decide (lrPeak r ≤ fld (rawReg s (.cbudget c)) 47 32))

/-- The queue takes launches of a context (16 R402, 19 R451, R454). -/
def queueOk (s : State) (ctx q : Nat) : Bool :=
  let r := rawReg s (.qctl q)
  decide (q < 256) && bitN r.toNat 63 && fld r 37 32 == ctxFn s ctx && fld r 49 38 == ctx && !fnBlocked s (ctxFn s ctx)

/-- The launches pending from a queue: some task not distributed (16 R403). -/
def pendingIn (s : State) (q : Nat) : Nat :=
  (s.launches.filter (fun l => l.queue = q ∧ (l.tasks.any (fun t => t.2.st = 0)))).length

/-- The next free launch index of a context, in round-robin order (16 R401). -/
def freeLaunch (s : State) (ctx : Nat) : Nat :=
  let n := ((ctxOf s ctx).map (·.nextLaunch)).getD 0
  (((List.range 4097).map (fun i => (n + i) % 65536)).find? (fun i => (launchOf s ctx i).isNone)).getD n

/-- A level that a launch of a new graph or phase opens; one that has completed begins again. -/
def openLevel (v : Level) : Level := if v.done then {} else v

/-- An accepted launch enters the graph store with its counters (16 R401, R403, R404). -/
def acceptLaunch (s : State) (ctx q : Nat) (r : List DWord) : State × Nat :=
  let i := freeLaunch s ctx
  let g := graphCid (lrGraph r)
  let p := phaseCid (lrPhase r)
  let s := modCtx s ctx (fun c => { c with
    nextLaunch := (i + 1) % 65536,
    levels := c.levels.filter (fun v => !(cidLevel v.1 == 0 && v.1 / 8192 == i)) })
  let s := modLevel s ctx (launchCid i) (fun _ => { members := lrTasks r })
  let opens := ((ctxOf s ctx).map (fun c => match tfind c.levels g with | some v => v.done | none => true)).getD true
  let late := (openLevel (levelOf s ctx g)).closed
  let s := modLevel s ctx p (fun v =>
    let v := openLevel v
    let parts := if opens && !v.closed then v.parts ++ [g] else v.parts
    if !v.closed && recFld r 316 316 == 1 then
      { v with closed := true, parts := if parts.contains g then parts.takeWhile (· ≠ g) ++ [g] else parts }
    else { v with parts := parts })
  let s := modLevel s ctx g (fun v =>
    let v := openLevel v
    { v with closed := v.closed || recFld r 315 315 == 1, up := if opens then p else v.up })
  let l : Launch := { ctx := ctx, index := i, queue := q, rec' := r, late := late,
                      tasks := (List.range (lrTasks r)).map (fun t => (t, { index := t })) }
  let s := { s with launches := s.launches ++ [l] }
  let s := if [g, p, jobCid].any (fun c => (levelOf s ctx c).cancelling) then startCancel s ctx (launchCid i) else s
  (settleStore s, launchCid i)

/-- The fields, operands and privilege that `execLaunch` asks for (10 R237). -/
def sigLaunch (f : FmtG) : Sig :=
  { ok := gPlain f false && f.sub == 0, uses := [(f.dst, .dstReg true), (f.opa, .uni64), (f.opb, .src .i32), (f.opc, .unused)] }

/-- LAUNCH (14 R367). -/
def execLaunch (f : FmtG) (s : State) : Host.Outcome State Fault Refusal :=
  activeOp s f.h (sigLaunch f)
    (fun s x act => afterAccs s x act (
      let va := uniOpd s x act .i64 f.opa.toNat
      let q := uniOpd s x act .i32 f.opb.toNat
      let out (s : State) (v : Nat) : State := doneOp (putResult s x act f.dst true v) x f.h
      if !queueOk s x.sheet.ctx q then out s 3
      else if va % 256 ≠ 0 then out s 4
      else withLoad s x act va 256 (fun s => match leaderRead s x va 256 with
        | .error _ => out s 4
        | .ok bs =>
          let r := (List.range 32).map (fun i => BitVec.ofNat 64 (leBytes ((bs.drop (8 * i)).take 8)))
          if !recordOk s x.sheet.ctx r then out s 1
          else if fld (rawReg s (.qctl q)) 11 0 ≤ pendingIn s q ∨ 4096 ≤ s.launches.length then out s 2
          else
            let a := acceptLaunch s x.sheet.ctx q r
            out a.1 (a.2 * 2 ^ 32))))

/-- The fields, operands and privilege that `execCtradd` asks for (10 R237). -/
def sigCtradd (f : FmtG) : Sig :=
  { ok := gPlain f true && f.sub == 0 && 2 ≤ f.scope.toNat,
    uses := [(f.dst, .dst false), (f.opa, .src .i32), (f.opb, .uni64), (f.opc, .unused)] }

/-- CTRADD (14 R368). -/
def execCtradd (f : FmtG) (s : State) : Host.Outcome State Fault Refusal :=
  activeOp s f.h (sigCtradd f)
    (fun s x act => afterAccs s x act (
      let cid := uniOpd s x act .i32 f.opa.toNat
      let v := BitVec.ofNat 64 (uniOpd s x act .i64 f.opb.toNat)
      let out (s : State) (st : Nat) : State := doneOp (putResult s x act f.dst false st) x f.h
      match counterAt s x.sheet.ctx cid with
      | none => out s 3
      | some _ =>
        if cidLevel cid ≠ 5 then out s 4
        else out (modCtx s x.sheet.ctx (fun c => { c with events := tset 0 c.events (cidIndex cid) (tget 0 c.events (cidIndex cid) + v) })) 0))

/-- A counter has reached a target (14 R369). -/
def reached (v : Level) (target : DWord) : Bool := !(v.value - target).msb

/-- The result word of `CTRWAIT`: the status and bits 59:0 of the value. -/
def waitWord (st : Nat) (v : DWord) : Nat := v.toNat % 2 ^ 60 * 16 + st

/-- A value that the manual does not give. -/
def freeDWord (s : State) : DWord := (Config.freeWord (2 * s.free)).setWidth 64 ||| ((Config.freeWord (2 * s.free + 1)).setWidth 64 <<< 32)

/-- The fields, operands and privilege that `execCtrwait` asks for (10 R237). -/
def sigCtrwait (f : FmtG) : Sig :=
  { ok := noType f.h && f.mod == 0 && f.sub == 1 && 2 ≤ f.scope.toNat,
    uses := [(f.dst, .dstReg true), (f.opa, .src .i32), (f.opb, .uni64), (f.opc, .unused)] }

/-- CTRWAIT (14 R369): a leaf that waits keeps its absolute deadline. A counter that does not exist has no value: it is free. -/
def execCtrwait (f : FmtG) (s : State) : Host.Outcome State Fault Refusal :=
  activeOp s f.h (sigCtrwait f)
    (fun s x act =>
      let cid := uniOpd s x act .i32 f.opa.toNat
      let t := BitVec.ofNat 64 (uniOpd s x act .i64 f.opb.toNat)
      let out (s : State) (w : Nat) : State := wakeDone (putResult s x act f.dst true w) x f.h
      match counterAt s x.sheet.ctx cid with
      | none => out { s with free := s.free + 1 } (waitWord 3 (freeDWord s))
      | some v =>
        if reached v t then out s (waitWord 0 v.value)
        else if v.done && v.cancelled then out s (waitWord 1 v.value)
        else
          let d : Option Nat := match x.leaf.st with
            | .blocked (.counter _ _ d) => d
            | _ => if f.imm = 0 then none else some (s.ticks + f.imm.toNat * usTicks)
          blockLeaf s x.core x.entry (.counter cid t d))

/-- A waiting `CTRWAIT`'s time has passed, with its counter not at the target and not cancelled. -/
def ctrTimeout (s : State) (x : Iss) : Option (FmtG × DWord) :=
  match x.leaf.st, instrAt x.leaf with
  | .blocked (.counter cid t (some d)), some (.ctrwait f) =>
    match counterAt s x.sheet.ctx cid with
    | some v => if d ≤ s.ticks ∧ !reached v t ∧ !(v.done && v.cancelled) then some (f, v.value) else none
    | none => none
  | _, _ => none

/-- CTRWAIT_TIMEOUT (14 R369). -/
def execCtrwaitTimeout (core entry : Nat) (s : State) : Host.Outcome State Fault Refusal :=
  .next (match leafIss s core entry with
    | none => s
    | some x =>
      match ctrTimeout s x with
      | none => s
      | some (f, v) =>
        let act := x.leaf.mask &&& guardMask s x f.h
        wakeDone (putResult s x act f.dst true (waitWord 2 v)) x f.h)

/-- The fields, operands and privilege that `execCancel` asks for (10 R237). -/
def sigCancel (f : FmtG) : Sig :=
  { ok := gPlain f false && f.sub == 2, uses := [(f.dst, .dst false), (f.opa, .src .i32), (f.opb, .unused), (f.opc, .unused)] }

/-- CANCEL (14 R370, 16 R413). -/
def execCancel (f : FmtG) (s : State) : Host.Outcome State Fault Refusal :=
  activeOp s f.h (sigCancel f)
    (fun s x act =>
      let cid := uniOpd s x act .i32 f.opa.toNat
      let out (s : State) (st : Nat) : State := doneOp (putResult s x act f.dst false st) x f.h
      match counterAt s x.sheet.ctx cid with
      | none => out s 3
      | some v =>
        if cidLevel cid = 5 then out s 4
        else if v.done then out s 5
        else out (startCancel s x.sheet.ctx cid) 0)

end Sys2Proof.Machine
end

