-- ==== Sys2Proof/Machine/System.lean ====
section
/-!
DEFINITION. System instructions: `SYSRD`, `SYSWR`, `TLBINV`, `RFCLR`, `MBOX`, `IRQ`, `HALT` (14 R373 to R378), and the ROM firmware's
commands (20 R464).
-/
namespace Sys2Proof.Machine

/-- What a selector names (14 R373). -/
inductive SysSel where
  | ring (r w : Nat)
  | disc (ctx : Nat)
  | tag (w n : Nat)
  deriving DecidableEq, Repr

/-- The state that a selector names: a CONTROL or PRIV cause and status where it names none (14 R373, R378). -/
def sysSel (s : State) (x : Iss) (v : Nat) : Except (Nat × Nat) SysSel :=
  let i := v % 2 ^ 24
  match v / 2 ^ 24 with
  | 1 => if i < 64 then .ok (.ring (i / 2) (i % 2)) else .error (cControl, ctlSysSelect)
  | 2 =>
    if (ctxOf s i).isNone then .error (cControl, ctlSysSelect)
    else if ctxFn s i ≠ ctxFn s x.sheet.ctx then .error (cPriv, 0)
    else .ok (.disc i)
  | 3 =>
    if i < 192 ∧ !(namedTags s x ((1 : DWord) <<< (i % 64)) false).isEmpty then .ok (.tag (i / 64) (i % 64))
    else .error (cControl, ctlSysSelect)
  | _ => .error (cControl, ctlSysSelect)

/-- The kind of a tag in class 0x03. -/
def tagKind : TagOp → Nat
  | .none => 0
  | .gathering => 1
  | _ => 2

/-- A word of a tag in class 0x03. -/
def tagWord (t : Tag) (w : Nat) : Nat :=
  match w with
  | 0 => t.status.toNat + 16 * b2n t.ready + 2 ^ 8 * tagKind t.op
  | 1 => t.handle.toNat + 2 ^ 32 * (t.phase % 2 ^ 24) + 2 ^ 56 * t.gstatus.toNat
  | _ => if t.op = .gathering then t.value.toNat else t.va.toNat

/-- A tag with a word of class 0x03 written; it never becomes pending. -/
def putTagWord (t : Tag) (w : Nat) (v : Nat) : Tag :=
  match w with
  | 0 => { t with status := BitVec.ofNat 4 v,
                  op := match slice v 9 8 with
                    | 0 => .none
                    | 1 => .gathering
                    | _ => if t.op = .none ∨ t.op = .gathering then .other else t.op }
  | 1 => { t with handle := BitVec.ofNat 32 v, phase := slice v 55 32, gstatus := BitVec.ofNat 4 (slice v 59 56) }
  | _ => { t with value := BitVec.ofNat 32 v, va := BitVec.ofNat 64 v }

/-- The fields, operands and privilege that `execSysrd` asks for (10 R237). -/
def sigSysrd (f : FmtG) : Sig :=
  { ok := gPlain f false && f.sub == 0, priv := true,
    uses := [(f.dst, .dstReg true), (f.opa, .src .i32), (f.opb, .unused), (f.opc, .unused)] }

/-- SYSRD (14 R373). -/
def execSysrd (f : FmtG) (s : State) : Host.Outcome State Fault Refusal :=
  issueOp s f.h (sigSysrd f)
    (fun s x act =>
      if act = 0 then doneOp s x f.h
      else match sysSel s x (uniOpd s x act .i32 f.opa.toNat) with
        | .error e => sheetTrap s x e.1 e.2
        | .ok sel =>
          let v := match sel with
            | .ring r w => let g := ringOf s (x.core / 4) r; if w = 0 then g.w0.toNat else g.w1.toNat
            | .disc c => ((ctxOf s c).map (·.cdisc.toNat)).getD 0
            | .tag w n => tagWord (tagOf s x.core n) w
          doneOp (putResult s x act f.dst true v) x f.h)

/-- The fields, operands and privilege that `execSyswr` asks for (10 R237). -/
def sigSyswr (f : FmtG) : Sig :=
  { ok := gPlain f false && f.sub == 1, priv := true,
    uses := [(f.dst, .unused), (f.opa, .src .i32), (f.opb, .uni64), (f.opc, .unused)] }

/-- SYSWR (14 R373). -/
def execSyswr (f : FmtG) (s : State) : Host.Outcome State Fault Refusal :=
  issueOp s f.h (sigSyswr f)
    (fun s x act =>
      if act = 0 then doneOp s x f.h
      else
        let v := uniOpd s x act .i64 f.opb.toNat
        match sysSel s x (uniOpd s x act .i32 f.opa.toNat) with
        | .error e => sheetTrap s x e.1 e.2
        | .ok (.ring r w) =>
          let k := x.core / 4
          let g := ringOf s k r
          let me := some (x.sheet.ctx, x.sheet.launch, x.sheet.task)
          if rgF g 22 18 ≠ rgF g 17 13 then sheetTrap s x cControl ctlRingBusy
          else if rgV g ∧ g.owner ≠ me then sheetTrap s x cControl ctlRingOwner
          else
            let v := BitVec.ofNat 64 v
            doneOp (setRing s k r (if w = 0 then { g with w0 := v &&& ~~~1, owner := me, finished := [] } else { g with w1 := v })) x f.h
        | .ok (.disc c) => doneOp (modCtx s c (fun q => { q with cdisc := BitVec.ofNat 32 v })) x f.h
        | .ok (.tag w n) =>
          let t := tagOf s x.core n
          if !t.ready then sheetTrap s x cControl ctlTagPending
          else doneOp (setTag s x.core n (putTagWord t w v)) x f.h)

/-- A `TLBINV` covers the translation of a context's bytes (14 R374). -/
def invCovers (form ctx va count c lo n : Nat) : Bool :=
  if form = 2 then true
  else c == ctx && (form == 1 || (decide (lo < va + count * 2 ^ 16) && decide (va < lo + n)))

/-- Translations leave the TLBs and the walk caches; walks in flight for them start again (02 R32, R35). -/
def dropTranslations (s : State) (form ctx va count : Nat) : State :=
  let gone (e : TlbEntry) : Bool := invCovers form ctx va count e.ctx e.base e.size
  let hit (w : Walk) : Bool := invCovers form ctx va count w.ctx (w.page * 2 ^ 16) (2 ^ 16)
  let again (w : Walk) : Walk := if hit w then { w with level := 4, table := ((ctxOf s w.ctx).map (·.root)).getD 0 } else w
  { s with
    cores := s.cores.map (fun c => (c.1, { c.2 with tlb := c.2.tlb.filter (fun e => !gone e) })),
    clusters := s.clusters.map (fun c => (c.1, { c.2 with tlb := c.2.tlb.filter (fun e => !gone e) })),
    dies := s.dies.map (fun d => (d.1, { d.2 with walkCache := [], active := d.2.active.map again })) }

/-- The accesses that may have used a translation (02 R35). -/
def accsUsing (s : State) (form ctx va count : Nat) : List Nat :=
  (s.accs.filter (fun a =>
    match sheetOf s a.core a.slot with
    | some h => invCovers form ctx va count h.ctx a.va.toNat a.bytes
    | none => false)).map (·.id)

/-- The fields, operands and privilege that `execTlbinv` asks for (10 R237). -/
def sigTlbinv (f : FmtG) : Sig :=
  let form := f.mod.toNat
  { ok := noType f.h && f.imm == 0 && f.sub == 0 && f.scope == 5 && form < 3, priv := true,
    uses := [(f.dst, .tagDst), (f.opa, .uni64), (f.opb, .src .i32), (f.opc, .src .i32)] }

/-- TLBINV (14 R374, R378, 02 R35): a count of 0 completes the tag at once. -/
def execTlbinv (f : FmtG) (s : State) : Host.Outcome State Fault Refusal :=
  let form := f.mod.toNat
  issueOp s f.h (sigTlbinv f)
    (fun s x act =>
      if act = 0 then doneOp s x f.h
      else
        let va := uniOpd s x act .i64 f.opa.toNat
        let count := uniOpd s x act .i32 f.opb.toNat
        let ctx := uniOpd s x act .i32 f.opc.toNat
        let fn := ctxFn s x.sheet.ctx
        if (if form = 2 then fn ≠ 0 else ctxFn s ctx ≠ fn) then sheetTrap s x cPriv 0
        else if form = 0 ∧ (va % 2 ^ 16 ≠ 0 ∨ 1048576 < count) then sheetTrap s x cControl ctlTlbRange
        else withTag s x f.dst (fun n =>
          if form = 0 ∧ count = 0 then doneOp (completeTag (pendTag s x.core n .other) x.core n 0 0) x f.h
          else
          let deps := accsUsing s form ctx va count
          let r := startAsync (pendTag (dropTranslations s form ctx va count) x.core n .other) x act n 5
            (.tlbinv form (BitVec.ofNat 64 va) count ctx)
          doneOp (modAsync r.2 r.1 (fun a => { a with deps := deps })) x f.h))

/-- TLBINV_COMPLETE (02 R35): every access that used an old translation has performed. -/
def execTlbinvComplete (op : Nat) (s : State) : Host.Outcome State Fault Refusal :=
  .next (match asyncOf s op with
    | none => s
    | some a =>
      match a.kind with
      | .tlbinv _ _ _ _ => if opReady s a then endOp s a tsOk 0 else s
      | _ => s)

/-- The address in this device's HBM that a physical address names, by its own peer number too (02 R22). -/
def ownHbm (s : State) (pa : Nat) : Option Nat := match placeOf s pa with | .hbm a => some a | _ => none

/-- A PA range of regions lies in local HBM, and all of it in a function's partition (14 R375, R378). -/
def regionRange (s : State) (fn pa count : Nat) : Bool × Bool :=
  match ownHbm s pa, ownHbm s (pa + 4096 * count - 1) with
  | some a, some last =>
    let gibs := (List.range (last / 2 ^ 30 + 1 - a / 2 ^ 30)).map (· + a / 2 ^ 30)
    (true, gibs.all (fun g => ownerFn s 1 g == fn))
  | _, _ => (false, false)

/-- The fields, operands and privilege that `execRfclr` asks for (10 R237). -/
def sigRfclr (f : FmtG) : Sig :=
  { ok := gPlain f false && f.sub == 1, priv := true,
    uses := [(f.dst, .tagDst), (f.opa, .uni64), (f.opb, .src .i32), (f.opc, .unused)] }

/-- RFCLR (14 R375). -/
def execRfclr (f : FmtG) (s : State) : Host.Outcome State Fault Refusal :=
  issueOp s f.h (sigRfclr f)
    (fun s x act =>
      if act = 0 then doneOp s x f.h
      else
        let pa := uniOpd s x act .i64 f.opa.toNat
        let count := uniOpd s x act .i32 f.opb.toNat
        if pa % 4096 ≠ 0 ∨ count = 0 ∨ 65536 < count then sheetTrap s x cControl ctlRfRange
        else match regionRange s (ctxFn s x.sheet.ctx) pa count with
          | (false, _) => sheetTrap s x cControl ctlRfRange
          | (true, false) => sheetTrap s x cPriv 0
          | _ => withTag s x f.dst (fun n =>
            doneOp (startOp (pendTag s x.core n .other) x act n 5 (.rfclr pa count)) x f.h))

/-- RFCLR_COMPLETE (14 R375): each region's flag is cleared, counted at both routers of its stack (03 R87). -/
def execRfclrComplete (op : Nat) (s : State) : Host.Outcome State Fault Refusal :=
  .next (match asyncOf s op with
    | none => s
    | some a =>
      match a.kind with
      | .rfclr pa count =>
        if !opReady s a then s
        else endOp ((List.range count).foldl (fun s i => setFlag s ((ownHbm s pa).getD pa / 4096 + i) false) s) a tsOk 0
      | _ => s)

/-- The messages that a mailbox holds undelivered (14 R376): the firmware's, or a function's with those still to be posted. -/
def mailboxHeld (s : State) (host : Option Nat) : Nat :=
  match host with
  | none => (s.asyncs.filter (fun a => match a.kind with | .mbox false _ _ answered => !answered | _ => false)).length
  | some fn =>
    let f := tget {} s.fns fn
    (f.mbhead - f.mbtail).toNat +
      (s.asyncs.filter (fun a => match a.kind with | .mbox true _ _ _ => ctxFn s a.ctx == fn | _ => false)).length

/-- The fields, operands and privilege that `execMbox` asks for (10 R237). -/
def sigMbox (f : FmtG) : Sig :=
  { ok := noType f.h && f.imm == 0 && f.sub == 0 && f.scope == 0 && f.mod.toNat < 2, priv := true,
    uses := [(f.dst, .tagDst), (f.opa, .uni64), (f.opb, .unused), (f.opc, .unused)] }

/-- MBOX (14 R376). -/
def execMbox (f : FmtG) (s : State) : Host.Outcome State Fault Refusal :=
  let host := f.mod.getLsbD 0
  issueOp s f.h (sigMbox f)
    (fun s x act =>
      if act = 0 then doneOp s x f.h
      else withTag s x f.dst (fun n =>
        let box : Option Nat := if host then some (ctxFn s x.sheet.ctx) else none
        if 16 ≤ mailboxHeld s box then blockLeaf s x.core x.entry (.mailbox box)
        else doneOp (startOp (pendTag s x.core n .other) x act n (if host then 6 else 5)
          (.mbox host (BitVec.ofNat 64 (uniOpd s x act .i64 f.opa.toNat)) [] false)) x f.h))

/-- A message is posted in a function's host mailbox (19 R450). -/
def postHost (s : State) (fn : Nat) (msg : List Byte) : State :=
  let f := tget {} s.fns fn
  let base := 64 * (f.mbhead.toNat % 16)
  let mbox := (msg.zipIdx).foldl (fun t p => tset 0 t (base + p.2) p.1) f.mbox
  signalVec { s with fns := tput s.fns fn { f with mbox := mbox, mbhead := f.mbhead + 1 } } fn (fld (rawReg s (.part fn 6)) 62 52)

/-- A firmware command's number. -/
def fwCmd (msg : List Byte) : Nat := leBytes (msg.take 2)

/-- The response to a firmware message: command, status, sequence number and data from byte 16; its other bytes are not
given and are free (20 R464). -/
def fwReply (s : State) (msg : List Byte) (status : Nat) (data : List Byte) : List Byte :=
  let fr := freeBytes s 0 64
  msg.take 2 ++ toBytes 2 status ++ (msg.drop 4).take 4 ++ (fr.drop 8).take 8 ++ data ++ (fr.drop (16 + data.length)).take (48 - data.length)

/-- A firmware command is answered. -/
def fwAnswer (s : State) (a : Async) (va : DWord) (msg : List Byte) (status : Nat) (data : List Byte) : State :=
  modAsync { s with free := s.free + 1 } a.id (fun a => { a with kind := .mbox false va (fwReply s msg status data) true })

/-- A row of the firmware runs on the operation that carries its command. -/
def fwRow (s : State) (op cmd : Nat) (run : Nat → List Byte → State × Nat × List Byte) : Host.Outcome State Fault Refusal :=
  .next (match asyncOf s op with
    | none => s
    | some a =>
      match a.kind with
      | .mbox false va msg false =>
        if msg.length = 64 ∧ fwCmd msg = cmd then
          let r := run (ctxFn s a.ctx) msg
          fwAnswer r.1 a va msg r.2.1 r.2.2
        else s
      | _ => s)

/-- The commands of the firmware (20 R464). -/
def fwCmds : List Nat := [1, 2, 0x10, 0x11, 0x20, 0x30]

/-- MBOX_COMPLETE (14 R376): the message is read; a host message is posted; an unknown command is answered; an answer is
written. A message whose buffer is not aligned has no stated outcome: PAGE or PROT, by a free choice (log entry 22). -/
def execMboxComplete (op : Nat) (s : State) : Host.Outcome State Fault Refusal :=
  .next (match asyncOf s op with
    | none => s
    | some a =>
      match a.kind with
      | .mbox host va msg answered =>
        if answered then writeAndEnd s a va msg
        else if msg.length = 64 then
          (if host then endOp (postHost s (ctxFn s a.ctx) msg) a tsOk 0
           else if fwCmds.contains (fwCmd msg) then s
           else fwAnswer s a va msg 1 [])
        else if !opReady s a then s
        else if va.toNat % 64 ≠ 0 then endOp { s with free := s.free + 1 } a (if Config.freeBool s.free then tsPage else tsProt) va
        else withAnswers s a [(va.toNat, 64)] (match engRead s (engOf a) va.toNat 64 with
          | .error e => endOp s a (tsOfCause e.1) va
          | .ok bs => modAsync s op (fun a => { a with kind := .mbox host va bs false }))
      | _ => s)

/-- VERSION (20 R464). -/
def execVersion (op : Nat) (s : State) : Host.Outcome State Fault Refusal :=
  fwRow s op 1 (fun _ _ => (s, 0, ([CReg.cid, .cclu0, .cclu1, .cmem, .cport].map (fun r => toBytes 8 (readReg s r).toNat)).flatten))

/-- BOOT_READ (20 R464). -/
def execBootRead (op : Nat) (s : State) : Host.Outcome State Fault Refusal :=
  fwRow s op 2 (fun fn _ => if fn ≠ 0 then (s, 3, []) else (s, 0, toBytes 8 (readReg s .bootrec).toNat))

/-- LINE of a stitch: the line of the physical address under the interleave mode of its page (03 R52). -/
def stitchLine (t : Stitch) : Nat := if 128 * t.line < 768 * 2 ^ 30 then unStore t.imode (128 * t.line) / 128 else t.line

/-- A stitch in the layout of 03 R52. -/
def stitchBits (t : Stitch) : Nat :=
  1 + t.lwin % 2 ^ 27 * 2 ^ 32 + t.rnwd.toNat * 2 ^ 59 + t.cop.toNat * 2 ^ 64 + t.cfmt.toNat * 2 ^ 66 + b2n t.comm * 2 ^ 68 +
  b2n t.unpk * 2 ^ 69 + b2n t.own * 2 ^ 70 + b2n t.tile * 2 ^ 71 + t.home * 2 ^ 72 + t.root * 2 ^ 75 + t.mask.toNat * 2 ^ 78 +
  stitchLine t * 2 ^ 83

/-- Ways of a stitch cache (03 R63). -/
def stitchWays : Nat := 8

/-- STITCH_DUMP (20 R464, 03 R52). -/
def execStitchDump (op : Nat) (s : State) : Host.Outcome State Fault Refusal :=
  fwRow s op 0x10 (fun fn msg =>
    let r := leBytes ((msg.drop 8).take 2)
    let st := leBytes ((msg.drop 10).take 2)
    let w := leBytes ((msg.drop 12).take 1)
    if fn ≠ 0 then (s, 3, [])
    else if 157 ≤ r ∨ 1024 ≤ st ∨ stitchWays ≤ w then (s, 2, [])
    else (s, 0, toBytes 16 (match (routerOf s r).stitches.find? (fun t => t.set = st ∧ t.way = w) with
      | some t => stitchBits t
      | none => 0)))

/-- A gathering-table entry in the layout of 15 R380. -/
def gatherBits (s : State) (g : GEntry) : Nat :=
  g.shadows.length % 2 ^ 12 * 2 ^ 52 + elapsed s g % 2 ^ 30 * 2 ^ 64 + g.acc.toNat * 2 ^ 94 + g.lastval.toNat * 2 ^ 126 +
  g.lastph % 2 ^ 24 * 2 ^ 158 + g.last.toNat * 2 ^ 182 + g.op % 16 * 2 ^ 186 + g.kind % 16 * 2 ^ 190 + g.phase % 2 ^ 24 * 2 ^ 194 +
  g.arrv % 2 ^ 27 * 2 ^ 218 + g.memb % 2 ^ 27 * 2 ^ 245 + g.dl % 2 ^ 24 * 2 ^ 272 + g.homedev % 2 ^ 12 * 2 ^ 296 +
  b2n g.dep * 2 ^ 308 + b2n g.pip * 2 ^ 309 + g.role % 4 * 2 ^ 310 + b2n g.strict * 2 ^ 312 + g.inst % 2 ^ 12 * 2 ^ 313 +
  g.scope.toNat * 2 ^ 325 + (if g.role = 0 then 0 else g.gen % 2 ^ 8) * 2 ^ 328 + g.owner % 2 ^ 16 * 2 ^ 336 + g.name.toNat * 2 ^ 352

/-- GATHER_DUMP (20 R464, 15 R380). -/
def execGatherDump (op : Nat) (s : State) : Host.Outcome State Fault Refusal :=
  fwRow s op 0x11 (fun fn msg =>
    let i := leBytes ((msg.drop 8).take 2)
    let g := gEntry s i
    if 4096 ≤ i then (s, 2, [])
    else if fn ≠ 0 ∧ (g.role = 0 ∨ ctxFn s g.ctx ≠ fn) then (s, 3, [])
    else (s, 0, toBytes 48 (gatherBits s g)))

/-- The launches whose task a counter id names. -/
def tasksNamed (s : State) (cid : Nat) : List (Launch × Task) :=
  if cidLevel cid ≠ 0 then []
  else s.launches.filterMap (fun l => if cid / 8192 = l.index then (tfind l.tasks (cid % 8192)).map (fun t => (l, t)) else none)

/-- DEBUG_RESUME (20 R464, 14 R378): a task of the caller's function that is halted goes on. -/
def execDebugResume (op : Nat) (s : State) : Host.Outcome State Fault Refusal :=
  fwRow s op 0x20 (fun fn msg =>
    let ts := (tasksNamed s (leBytes ((msg.drop 8).take 4))).filter (fun p => p.2.halted)
    match ts.find? (fun p => ctxFn s p.1.ctx = fn) with
    | some p => (modTask s p.1.ctx p.1.index p.2.index (fun t => { t with halted := false }), 0, [])
    | none => (s, if ts.isEmpty then 2 else 3, []))

/-- BOOT_CLEAR (20 R464). -/
def execBootClear (op : Nat) (s : State) : Host.Outcome State Fault Refusal :=
  fwRow s op 0x30 (fun fn _ => if fn ≠ 0 then (s, 3, []) else ({ s with bootClear := true }, 0, []))

/-- The fields, operands and privilege that `execIrq` asks for (10 R237). -/
def sigIrq (f : FmtG) : Sig :=
  { ok := gPlain f false && f.sub == 1, priv := true,
    uses := [(f.dst, .unused), (f.opa, .src .i32), (f.opb, .unused), (f.opc, .unused)] }

/-- IRQ (14 R377, 09 R226): the message covers the active lanes' earlier accesses. -/
def execIrq (f : FmtG) (s : State) : Host.Outcome State Fault Refusal :=
  issueOp s f.h (sigIrq f)
    (fun s x act =>
      if act = 0 then doneOp s x f.h
      else
        let fn := ctxFn s x.sheet.ctx
        let v := uniOpd s x act .i32 f.opa.toNat
        if (if fn = 0 then 2048 else 64) ≤ v then sheetTrap s x cControl ctlIrqVector
        else afterAccs s x act (doneOp (signalVec s fn v) x f.h))

/-- The fields, operands and privilege that `execHalt` asks for (10 R237). -/
def sigHalt (f : FmtG) : Sig :=
  { ok := noType f.h && f.sub == 0 && f.scope == 0 && f.mod == 0, priv := true,
    uses := [(f.dst, .unused), (f.opa, .unused), (f.opb, .unused), (f.opc, .unused)] }

/-- HALT (14 R378): every leaf of the task stops at its next run boundary, and a halt record is posted. -/
def execHalt (f : FmtG) (s : State) : Host.Outcome State Fault Refusal :=
  issueOp s f.h (sigHalt f)
    (fun s x act =>
      if act = 0 then doneOp s x f.h
      else
        let h := x.sheet
        let s := modTask s h.ctx h.launch h.task (fun t => { t with halted := true })
        doneOp (postRecord s { fn := ctxFn s h.ctx, kind := 5, ctx := h.ctx, cid := taskCid h.launch h.task, pc := x.leaf.pc,
                               status := f.imm.toNat }) x f.h)

end Sys2Proof.Machine
end

