-- ==== Sys2Proof/Machine/Power.lean ====
section
/-!
DEFINITION. Control intervals, the governor, voltage islands and thermal limits (16 R407, R409, 18 R434 to R441).
-/
namespace Sys2Proof.Machine

/-- NTSTEP. -/
def ntStep (s : State) : Nat := fld (rawReg s .govcfg) 27 24

/-- The steps of cores have changed from those of `old` (18 R436): an island whose STEP falls below NTSTEP slews first, and a
window in which STEP was below does not count. -/
def noteSteps (old s : State) : State :=
  { s with cores := s.cores.map (fun c =>
      let k := c.2
      let low := decide (wantStep s c.1 < ntStep s)
      let k := if low then { k with ntWindows := 0 } else k
      (c.1, if low && k.nearThreshold && !k.slewing then { k with slewing := true, slewAt := s.ticks, slewFrom := stepOf old c.1 } else k)) }

/-- SENS of a window (18 R437). -/
def sens (k : Core) : Nat := 256 * k.isCount / (k.isCount + k.msCount)

/-- GSTEP after a window (18 R437). -/
def nextGstep (s : State) (k : Core) : Nat :=
  let g := rawReg s .govcfg
  if !bitN g.toNat 31 then 0
  else if k.isCount + k.msCount = 0 then k.gstep
  else if sens k < fld g 7 0 then (if k.gstep < fld g 23 20 then k.gstep + 1 else k.gstep)
  else if sens k < fld g 15 8 then k.gstep
  else k.gstep - 1

/-- Ticks of a governor window. -/
def windowTicks : Nat := 50 * usTicks

/-- GOVERNOR_WINDOW_END (18 R436, R437). -/
def execGovernorWindowEnd (core : Nat) (s : State) : Host.Outcome State Fault Refusal :=
  .next (
    let k := coreOf s core
    if s.ticks < k.windowAt + windowTicks then s
    else
      let whole := k.ntWindows = 1
      let t := setCore s core { k with gstep := nextGstep s k, isCount := 0, msCount := 0, windowAt := s.ticks / windowTicks * windowTicks }
      let t := noteSteps s t
      let k := coreOf t core
      let high := decide (ntStep t ≤ wantStep t core)
      let enter := whole && high && bitN (rawReg t .govcfg).toNat 30 && !k.nearThreshold && !k.slewing
      setCore t core { k with ntWindows := b2n high, slewing := k.slewing || enter,
                              slewAt := if enter then t.ticks else k.slewAt, slewFrom := if enter then wantStep t core else k.slewFrom })

/-- The island's voltage has slewed for 20 µs (18 R436). -/
def slewDue (s : State) (c : Nat) : Bool := (coreOf s c).slewing && decide ((coreOf s c).slewAt + 20 * usTicks ≤ s.ticks)

/-- VOLTAGE_SLEW_DONE (18 R436): a leaving island is at its nominal voltage; an entering one is in near-threshold mode if its
STEP still allows it. -/
def execVoltageSlewDone (core : Nat) (s : State) : Host.Outcome State Fault Refusal :=
  .next (
    if !slewDue s core then s
    else
      let k := coreOf s core
      setCore s core { k with slewing := false, nearThreshold := !k.nearThreshold && decide (ntStep s ≤ wantStep s core) })

/-- The declarations of the tasks resident on a cluster. -/
def declared (s : State) (c : Nat) : Nat × Nat :=
  (placed s c).foldl (fun a p => (a.1 + lrEnergy p.1.rec', a.2 + lrPeak p.1.rec')) (0, 0)

/-- Each cluster's remaining energy and current at an interval's start (16 R407). -/
def refillBudgets (s : State) : State :=
  (List.range 128).foldl (fun s c =>
    let b := rawReg s (.cbudget c)
    let d := declared s c
    let e := fld b 15 0 - d.1
    let i := fld b 47 32 - d.2
    let u := clusterOf s c
    if u.energy = e ∧ u.current = i then s else setCluster s c { u with energy := e, current := i }) s

/-- A context's debt at an interval's start (16 R409). -/
def carryDebt (s : State) (ctx : Nat) : State :=
  match ctxOf s ctx with
  | none => s
  | some c =>
    let q := rawReg s (.cquota ctx)
    let quota := fld q 31 0
    let debt := fld q 63 32
    let d := if quota = 0 then 0
      else if c.overAll then debt - quota
      else if quota - debt < c.use then c.use - (quota - debt)
      else 0
    let all := quota ≠ 0 ∧ quota ≤ d
    setReg { s with ctxs := tput s.ctxs ctx { c with use := 0, overQuota := decide all, overAll := decide all } } (.cquota ctx)
      (BitVec.ofNat 64 (putSlice q.toNat 63 32 (satTo 32 d)))

/-- A sample of a sensor (18 R440, R441). -/
def sampleSensor (s : State) (n tcur : Nat) : State :=
  let r := rawReg s (.therm n)
  let x := tget {} s.sensors n
  let tthr := fld r 15 8
  let old := decide (x.since + 1000 * usTicks ≤ s.ticks)
  let cool := tcur < tthr - 3
  let flip := old && (if x.throttled then decide cool else decide (tthr ≤ tcur))
  let x' : Sensor := { throttled := x.throttled != flip, since := if flip then s.ticks else x.since,
                       coolSince := if cool then some (x.coolSince.getD s.ticks) else none }
  setReg { s with sensors := tput s.sensors n x' } (.therm n) (BitVec.ofNat 64 (putSlice r.toNat 39 32 (min tcur 255)))

/-- Every sensor has read below TTHR - 3 for 1 ms (18 R441). A sensor never sampled has read nothing above it. -/
def allCool (s : State) : Bool :=
  s.sensors.all (fun x => match x.2.coolSince with | some t => decide (t + 1000 * usTicks ≤ s.ticks) | none => false)

/-- Ticks of a control interval. -/
def intervalTicks : Nat := 10 * usTicks

/-- CONTROL_INTERVAL_START (16 R407, R409, 18 R439 to R441): `amps` is the largest current measured in the interval before,
`temps` the sensors' readings. -/
def execControlIntervalStart (amps : Nat) (temps : List (Nat × Nat)) (s : State) : Host.Outcome State Fault Refusal :=
  .next (
    if s.ticks < s.intervalStart + intervalTicks then s
    else
      let temps := temps.filter (fun t => t.1 < 136)
      let t := { s with intervalStart := s.ticks / intervalTicks * intervalTicks, tokenBar := decide (fld (rawReg s .ilim) 11 0 < amps) }
      let t := (t.ctxs.map (·.1)).foldl carryDebt (refillBudgets t)
      let t := noteSteps s (temps.foldl (fun t p => sampleSensor t p.1 p.2) t)
      let hot := temps.filter (fun p => fld (rawReg t (.therm p.1)) 7 0 ≤ p.2)
      if !hot.isEmpty then
        if t.thermalStop then t
        else hot.foldl (fun t p => postRecord t { fn := 0, kind := 6, unit := p.1, arg0 := p.2 }) { t with thermalStop := true }
      else if t.thermalStop && allCool t then { t with thermalStop := false }
      else t)

end Sys2Proof.Machine
end

