-- ==== Sys2Proof/Machine/RegWrite.lean ====
section
/-!
DEFINITION. Writes to the device control range, row by row (02 R471), and TDISP's ERROR (19 R453, R454).
-/
namespace Sys2Proof.Machine

/-- A TDISP interface enters ERROR (19 R454): its function's launches are killed, and it is told. -/
def enterError (s : State) (fn reason addr : Nat) : State :=
  let f := tget {} s.fns fn
  if f.tdisp = .error then s
  else
    let s := killFunction { s with fns := tput s.fns fn { f with tdisp := .error } } fn
    let r : EventRec := { fn := fn, kind := 8, unit := fn, reason := reason, addr := addr }
    let s := postRecord (postRecord s r) { r with fn := 0 }
    { s with hostOut := s.hostOut ++ [.tdispError fn] }

/-- A register write that the register's row carries out: nothing where no register of the row stands or it is frozen. -/
def regEvent (s : State) (w : RegWr) (f : CReg → State) : Host.Outcome State Fault Refusal :=
  .next (match regOf (w.off / 8 * 8) with
    | none => s
    | some r => if (frozenFn s r).isSome then s else f r)

/-- The register takes its value after the write (00 R4, 02 R471). -/
def putReg (s : State) (w : RegWr) (r : CReg) : State := setReg s r (afterWrite r (rawReg s r) w.part w.val)

/-- SCLIM_WRITE (03 R85). -/
def execSclimWrite (w : RegWr) (s : State) : Host.Outcome State Fault Refusal :=
  regEvent s w (fun r => match r with
    | .sclim n => trimStitches (putReg s w r) n (routerOf s n).stitches.length
    | _ => s)

/-- CLEASE_WRITE (03 R86). -/
def execCleaseWrite (w : RegWr) (s : State) : Host.Outcome State Fault Refusal :=
  regEvent s w (fun r => if r = .clease then putReg s w r else s)

/-- PREQ_WRITE (17 R425, R433): the resident tasks that the counter id names are to take PREEMPT. -/
def execPreqWrite (w : RegWr) (s : State) : Host.Outcome State Fault Refusal :=
  regEvent s w (fun r =>
    if r ≠ .preq ∨ w.part = .high then s
    else (tasksNamed s (w.val.toNat % 2 ^ 32)).foldl (fun s p =>
      (sheetsWhere s (ofTask p.1.ctx p.1.index p.2.index)).foldl (fun s h =>
        modSheet s h.1 h.2.1 (fun x => if x.preempt = 0 then { x with preempt := 1 } else x)) s) s)

/-- TOKPOOL_WRITE (18 R438). -/
def execTokpoolWrite (w : RegWr) (s : State) : Host.Outcome State Fault Refusal :=
  regEvent s w (fun r => if r = .tokpool then putReg s w r else s)

/-- CBUDGET_WRITE (16 R407): it takes effect at the next interval's start. -/
def execCbudgetWrite (w : RegWr) (s : State) : Host.Outcome State Fault Refusal :=
  regEvent s w (fun r => match r with
    | .cbudget _ => putReg s w r
    | _ => s)

/-- COUNTER_BANK_WRITE (07 R186). -/
def execCounterBankWrite (w : RegWr) (s : State) : Host.Outcome State Fault Refusal :=
  regEvent s w (fun r => match r with
    | .ctr _ _ => putReg s w r
    | _ => s)

/-- CXPEND_CLEAR (07 R185). -/
def execCxpendClear (w : RegWr) (s : State) : Host.Outcome State Fault Refusal :=
  regEvent s w (fun r => match r with
    | .cxpend _ => putReg s w r
    | _ => s)

/-- Two virtual functions' partitions share an item (19 R445). -/
def sharesItem (s : State) (f g : Nat) : Bool :=
  let reg (x k : Nat) : DWord := rawReg s (.part x k)
  let meets (a n b m : Nat) : Bool := decide (n ≠ 0) && decide (m ≠ 0) && decide (a < b + m) && decide (b < a + n)
  (reg f 0 &&& reg g 0) != 0 || (reg f 1 &&& reg g 1) != 0 ||
  meets (fld (reg f 2) 9 0) (fld (reg f 2) 25 16) (fld (reg g 2) 9 0) (fld (reg g 2) 25 16) ||
  meets (fld (reg f 3) 7 0) (fld (reg f 3) 16 8) (fld (reg g 3) 7 0) (fld (reg g 3) 16 8) ||
  meets (fld (reg f 4) 27 16) (fld (reg f 4) 44 32) (fld (reg g 4) 27 16) (fld (reg g 4) 44 32)

/-- PARTITION_REGISTER_WRITE (19 R445): function 0's are read-only, and a write that makes two partitions overlap changes
nothing. -/
def execPartitionRegisterWrite (w : RegWr) (s : State) : Host.Outcome State Fault Refusal :=
  regEvent s w (fun r => match r with
    | .part f k =>
      if f = 0 ∨ 4 < k then s
      else
        let t := putReg s w r
        if (List.range 64).any (fun g => g != 0 && g != f && sharesItem t f g) then s else t
    | _ => s)

/-- EVCTL after a write: a TAIL that does not lie between the old TAIL and HEAD breaks R449, which gives no outcome, so that TAIL is
undefined (00 R2, R3). -/
def putEvctl (s : State) (r : CReg) (old : DWord) : State :=
  let v := rawReg s r
  let ahead (t : Nat) : Nat := (t + 2 ^ 13 - fld old 34 22) % 2 ^ 13
  if ahead (fld v 34 22) ≤ ahead (fld old 47 35) then s
  else { setReg s r (BitVec.ofNat 64 (putSlice v.toNat 34 22 ((Config.freeWord s.free).toNat % 2 ^ 13))) with free := s.free + 1 }

/-- EVCTL_WRITE (19 R448, R449). -/
def execEvctlWrite (w : RegWr) (s : State) : Host.Outcome State Fault Refusal :=
  regEvent s w (fun r => match r with
    | .part _ k => if k = 5 then putReg s w r else if k = 6 then putEvctl (putReg s w r) r (rawReg s r) else s
    | _ => s)

/-- MBTAIL of a function after a write (19 R450). -/
def putTail (s : State) (fn : Nat) (p : Part) (v : DWord) : State :=
  let f := tget {} s.fns fn
  { s with fns := tput s.fns fn { f with mbtail := merged .mbtail f.mbtail p v } }

/-- MBTAIL_WRITE (19 R450): function 0's messages are delivered up to it. -/
def execMbtailWrite (w : RegWr) (s : State) : Host.Outcome State Fault Refusal :=
  regEvent s w (fun r => if r = .mbtail then putTail s 0 w.part w.val else s)

/-- A line of a peer is held by a local tree (19 R459). -/
def peerHeld (s : State) : Bool :=
  let peer (line : Nat) : Bool := match placeOf s (128 * line) with | .peer _ _ => true | _ => false
  s.routers.any (fun r => r.2.stitches.any (fun t => !t.tile && peer t.line)) ||
  s.clusters.any (fun k => k.2.cache.any (fun l => peer l.line))

/-- REGISTER_WRITE (02 R471): any other register; where none stands nothing changes. -/
def execRegisterWrite (w : RegWr) (s : State) : Host.Outcome State Fault Refusal :=
  regEvent s w (fun r => match regRow s w with
    | .registerWrite _ => noteSteps s (putReg s w r)
    | _ => s)

/-- FROZEN_REGISTER_WRITE (19 R453): the write is discarded and the interface enters ERROR. -/
def execFrozenRegisterWrite (w : RegWr) (s : State) : Host.Outcome State Fault Refusal :=
  .next (match regOf (w.off / 8 * 8) with
    | none => s
    | some r =>
      match frozenFn s r with
      | some f => enterError s f 1 (0xE000000000000 + w.off)
      | none => s)

end Sys2Proof.Machine
end

