-- ==== Sys2Proof/Machine/Host.lean ====
section
/-!
DEFINITION. What the host does to the device: requests on PCIe (09 R226, 19 R444), MSI-X, function-level reset (R451), TDISP
(R452 to R455), and contexts, which system software creates and destroys (14 R366, 15 R381).
-/
namespace Sys2Proof.Machine

/-- Functions are 0 to 63 (19 R444). -/
def fnCount : Nat := 64

/-- A function answers nothing while it resets (19 R451). -/
def fnResetting (s : State) (fn : Nat) : Bool := (tget {} s.fns fn).resetting
/-- A function's BARs are dead in ERROR (19 R454). -/
def fnError (s : State) (fn : Nat) : Bool := (tget {} s.fns fn).tdisp == .error

/-- The GiB of HBM at a BAR2 offset: from the start of a virtual function's partition; function 0 sees HBM from address 0 (19
R444, R445). -/
def bar2Addr (s : State) (fn off n : Nat) : Option Nat :=
  let pm := rawReg s (.part fn 2)
  let a := if fn = 0 then off else fld pm 9 0 * 2 ^ 30 + off
  let inside : Bool := if fn = 0 then (List.range 2).all (fun k => ownerFn s 1 ((a + k * (n - 1)) / 2 ^ 30) = 0)
    else decide (off + n ≤ fld pm 25 16 * 2 ^ 30)
  if inside ∧ a + n ≤ 768 * 2 ^ 30 ∧ stackPresent s (a / 2 ^ 36) then some a else none

/-- A register of a virtual function's BAR0 by its offset (19 R444), as an offset of the control range. -/
def vfReg (fn off : Nat) : Option Nat :=
  if off / 8 = 0 then some (0x2A0028 + 64 * fn + off % 8)
  else if off / 8 = 1 then some (0x2A0030 + 64 * fn + off % 8)
  else none

/-- A BAR0 request must be of 4 or 8 bytes, aligned, with every byte enabled (02 R471). -/
def bar0Form (r : HostReq) : Bool := (r.len == 4 || r.len == 8) && r.off % r.len == 0 && r.enabled

/-- The bytes that a read of a function's host mailbox or of its pointers finds (19 R444, R450). -/
def mailboxWord (s : State) (fn o : Nat) : DWord :=
  let f := tget {} s.fns fn
  if o = 0x1400 then f.mbhead
  else if o = 0x1408 then f.mbtail
  else if 0x1000 ≤ o ∧ o < 0x1400 then
    BitVec.ofNat 64 (leBytes ((List.range 8).map (fun i => tget 0 f.mbox (o - 0x1000 + i))))
  else 0

/-- The 64 bits at an aligned offset of a function's BAR0 (19 R444). -/
def bar0Word (s : State) (fn o : Nat) : DWord :=
  if fn = 0 then readCtl s o
  else match vfReg fn o with
    | some c => readCtl s c
    | none => mailboxWord s fn o

/-- An agent's part of bytes at an address: lowest and end address in one line. -/
def lineSpan (a n l : Nat) : Nat × Nat := (max a (128 * l), min (a + n) (128 * l + 128))

/-- Writes bytes by an agent (03 R50, R59), the host router or a fabric router, into the lines that it holds, and of any other line at its
home once every copy has ended; the router has no cache, and gives up each line that it wrote (R62, log entry 90). -/
def writeLines (s : State) (agent a : Nat) (bs : List Byte) : State :=
  (reqLines a bs.length).foldl (fun s l =>
    let p := lineSpan a bs.length l
    let part := (bs.drop (p.1 - a)).take (p.2 - p.1)
    let t := match cacheLine s agent l with
      | some c =>
        if c.st = .m ∨ c.st = .e then
          giveUp s agent agent { c with st := .m, data := putAt c.data (p.1 % 128) part, poison := clearMarks c.poison (p.1 % 128) part.length }
        else coherentWrite s p.1 part
      | none => coherentWrite s p.1 part
    spoilMem t p.1 (p.2 - p.1) true) s

/-- Reads bytes coherently across lines (03 R55). -/
def readLines (s : State) (a n : Nat) : List Byte :=
  ((reqLines a n).map (fun l =>
    let p := lineSpan a n l
    seenMem s p.1 (coherentRead s p.1 (p.2 - p.1)).1)).flatten

/-- An agent that has read lines gives them up (03 R62, log entry 90). -/
def giveLines (s : State) (agent a n : Nat) : State :=
  (reqLines a n).foldl (fun s l => match cacheLine s agent l with
    | some c => giveUp s agent agent c
    | none => s) s

/-- An error is found (04 R107, 06 R139): a register is corrected and counted, or poisoned; a word is poisoned; a dirty line or a
partial goes home with its words poisoned; a clean line, or one of an L1 or an instruction cache, is fetched again. -/
def applyUpset (s : State) (u : Upset) : State :=
  match u with
  | .reg c r fatal =>
    let k := coreOf s c
    setCore s c (if fatal then { k with regPoison := tset false k.regPoison r true } else { k with cecnt := k.cecnt + 1 })
  | .chip c acc w => chipMark s c acc (8 * w) 8 true
  | .line k line ws =>
    (match cacheLine s k line with
     | some l =>
       if lineBusy s k line then s
       else match l.st with
         | .m | .o => dropLine s k { l with poison := l.poison ||| ws }
         | .c =>
           let home := lineHome s line
           sendMsg (dropHeld s k line)
             { newMsg .foldDelivery line k 0 home k with data := some l.data, has := l.has, pte := l.pte, poison := ws }
         | _ => dropPrivate s k line
     | none => s)
  | .inner c line =>
    let k := coreOf s c
    setCore s c { k with l1 := k.l1.filter (· ≠ line), icache := k.icache.filter (fun i => i / 2 ≠ line) }
  | .mem w => { s with poison := tset false s.poison w true }

/-- HOST_POSTED_WRITE (09 R226, 02 R471, 19 R444): to a register through BAR0, or to HBM through BAR2. -/
def execHostPostedWrite (w : HostReq) (s : State) : Host.Outcome State Fault Refusal :=
  .next (
    if fnCount ≤ w.fn ∨ fnResetting s w.fn ∨ fnError s w.fn ∨ w.data.length ≠ w.len then s
    else if w.bar = 0 then
      let wr (o : Nat) : RegWr := { off := o, part := partOf w.off w.len, val := BitVec.ofNat 64 (leBytes w.data) }
      if !bar0Form w then s
      else if w.fn = 0 then (if w.off < 2 ^ 32 then postRegWrite s (wr w.off) else s)
      else if w.off / 8 * 8 = 0x1408 then putTail s w.fn (partOf w.off w.len) (BitVec.ofNat 64 (leBytes w.data))
      else match vfReg w.fn w.off with
        | some o => postRegWrite s (wr o)
        | none => s
    else if w.bar = 2 then
      match bar2Addr s w.fn w.off w.len with
      | some a => writeLines s 152 a w.data
      | none => s
    else s)

/-- A completion goes back to the host. -/
def complete (s : State) (r : HostReq) (bs : List Byte) : State := { s with hostOut := s.hostOut ++ [.completion r.fn r.tag bs] }
/-- A request completes with Unsupported Request. -/
def unsupported (s : State) (r : HostReq) : State := { s with hostOut := s.hostOut ++ [.unsupported r.fn r.tag] }

/-- HOST_READ_REQUEST (09 R226, 02 R471, 19 R444, R454). -/
def execHostReadRequest (r : HostReq) (s : State) : Host.Outcome State Fault Refusal :=
  .next (
    if fnCount ≤ r.fn ∨ fnResetting s r.fn then unsupported s r
    else if fnError s r.fn then complete s r (List.replicate r.len 0xFF)
    else if r.bar = 0 then
      if !bar0Form r ∨ 2 ^ 32 ≤ r.off then unsupported s r
      else complete s r (((toBytes 8 (bar0Word s r.fn (r.off / 8 * 8)).toNat).drop (r.off % 8)).take r.len)
    else if r.bar = 2 then
      match bar2Addr s r.fn r.off r.len with
      | some a => complete (giveLines s 152 a r.len) r (readLines s a r.len)
      | none => unsupported s r
    else unsupported s r)

/-- The sizes of each AtomicOp (19 R444): 1 FetchAdd, 2 Swap, 3 CAS. -/
def atomicSize (op n : Nat) : Bool :=
  if op = 3 then n == 4 || n == 8 || n == 16 else (op == 1 || op == 2) && (n == 4 || n == 8)

/-- The new value of an AtomicOp over an old one; CAS carries its compare value and then its swap value. -/
def atomicNew (op n old : Nat) (data : List Byte) : Nat :=
  let a := leBytes (data.take n)
  if op = 1 then (old + a) % 2 ^ (8 * n)
  else if op = 2 then a
  else if old = a then leBytes ((data.drop n).take n) else old

/-- HOST_ATOMICOP_REQUEST (19 R444): the device completes it on its memory. -/
def execHostAtomicopRequest (r : HostReq) (s : State) : Host.Outcome State Fault Refusal :=
  .next (
    if fnCount ≤ r.fn ∨ fnResetting s r.fn ∨ r.bar ≠ 2 ∨ !atomicSize r.atomic r.len ∨ r.off % r.len ≠ 0 then unsupported s r
    else if fnError s r.fn then complete s r (List.replicate r.len 0xFF)
    else match bar2Addr s r.fn r.off r.len with
      | some a =>
        let old := readLines s a r.len
        writeLines (complete s r old) 152 a (toBytes r.len (atomicNew r.atomic r.len (leBytes old) r.data))
      | none => unsupported s r)

/-- The vectors of a function (19 R444). -/
def vectorCount (fn : Nat) : Nat := if fn = 0 then 2048 else 64

/-- MSIX_UNMASK (14 R377): the vector becomes unmasked, with MSI-X enabled, and what is pending and unmasked is sent. The table
of a locked interface is frozen (19 R453). -/
def execMsixUnmask (fn vector : Nat) (s : State) : Host.Outcome State Fault Refusal :=
  .next (
    let f := tget {} s.fns fn
    if fnCount ≤ fn ∨ vectorCount fn ≤ vector then s
    else if fn ≠ 0 ∧ f.tdisp ≠ .configUnlocked then enterError s fn 1 0
    else
      let open' := if f.unmasked.contains vector then f.unmasked else f.unmasked ++ [vector]
      let sent := f.pending.filter open'.contains
      { s with fns := tput s.fns fn { f with msixEnable := true, fmask := false, unmasked := open',
                                             pending := f.pending.filter (fun v => !open'.contains v) },
               hostOut := s.hostOut ++ sent.map (fun v => .msix fn v) })

/-- CONTEXT_CREATION (14 R366, 02 R28, 05 R108): a root table, a tensor-id table and zeroed event counters. What addresses that are not
aligned (R28, R108) do is not stated: the root table is taken at the 4 KiB below, the tensor-id table where it stands (DESIGN CHOICE,
log entry 85). -/
def execContextCreation (ctx : Nat) (root table : DWord) (s : State) : Host.Outcome State Fault Refusal :=
  .next (if 4096 ≤ ctx ∨ (ctxOf s ctx).isSome then s
    else { s with ctxs := tput s.ctxs ctx { root := root.toNat / 4096 * 4096, table := table.toNat } })

/-- A context is destroyed (15 R381). -/
def destroyCtx (s : State) (ctx : Nat) : State :=
  let s := gatherDestroy s ctx
  { s with ctxs := s.ctxs.filter (fun c => c.1 ≠ ctx) }

/-- CONTEXT_DESTRUCTION (15 R381). -/
def execContextDestruction (ctx : Nat) (s : State) : Host.Outcome State Fault Refusal :=
  .next (if (ctxOf s ctx).isSome then destroyCtx s ctx else s)

/-- The lines of a range of storage addresses that any agent, router or message holds. -/
def linesWithin (s : State) (lo hi : Nat) : List Nat :=
  ((s.clusters.map (fun c => c.2.cache.map (·.line))).flatten ++
   (s.routers.map (fun r => (r.2.stitches.filter (fun t => !t.tile)).map (·.line))).flatten ++
   s.msgs.map (·.line) ++ s.unpicks.map (·.line) ++ s.homeTx.map (·.line)).filter
    (fun l => decide (lo ≤ 128 * l) && decide (128 * l < hi))

/-- Every line of a range ends without write-back, and nothing about it stays in flight: an access that waits for one asks
again (19 R451, 03 R82). -/
def scrubLines (s : State) (lo hi : Nat) : State :=
  let inside (l : Nat) : Bool := decide (lo ≤ 128 * l) && decide (128 * l < hi)
  let s := (linesWithin s lo hi).eraseDups.foldl discard s
  { s with
    msgs := s.msgs.filter (fun m => !inside m.line),
    unpicks := s.unpicks.filter (fun u => !inside u.line),
    homeTx := s.homeTx.filter (fun t => !inside t.line),
    tiles := s.tiles.filter (fun t => t.1 < 2 ^ 64 || !inside (32 * ((t.1 - 2 ^ 64) % 2 ^ 40))),
    fabIn := s.fabIn.filter (fun f => !inside f.line),
    accs := s.accs.map (fun a => if inside (lineOf a.pa) && a.fail == 0 && a.msg != 0 then { a with sent := false } else a) }

/-- A range of HBM is written to zero, and its region flags are cleared (19 R451), each at both routers of its stack (03 R87). -/
def zeroRange (s : State) (lo hi : Nat) : State :=
  let t := { s with mem := s.mem.filter (fun c => c.1 < lo || hi ≤ c.1),
                    poison := s.poison.filter (fun w => 8 * w.1 < lo || hi ≤ 8 * w.1) }
  (s.flagged.filter (fun r => lo ≤ 4096 * r.1 ∧ 4096 * r.1 < hi)).foldl (fun t r => setFlag t r.1 false) t

/-- The HBM ranges of a function's partition. -/
def hbmRanges (s : State) (fn : Nat) : List (Nat × Nat) :=
  ((List.range 768).filter (fun g => ownerFn s 1 g = fn)).map (fun g => (g * 2 ^ 30, (g + 1) * 2 ^ 30))

/-- The scrub of a function's partition (19 R451). -/
def scrub (s : State) (fn : Nat) : State :=
  let cs := (s.ctxs.map (·.1)).filter (fun c => ctxFn s c = fn)
  let s : State := killFunction s fn
  let s : State := cs.foldl destroyCtx s
  let s : State := { s with launches := s.launches.filter (fun l => !cs.contains l.ctx) }
  let s : State := (hbmRanges s fn).foldl (fun s r => zeroRange (scrubLines s r.1 r.2) r.1 r.2) s
  let s : State := cs.foldl (fun s c => dropTranslations s 1 c 0 0) s
  let mine (w : Walk) : Bool := cs.contains w.ctx
  let s : State := { s with dies := s.dies.map (fun (d : Nat × Die) =>
    (d.1, { d.2 with active := d.2.active.filter (fun w => !mine w), missed := d.2.missed.filter (fun w => !mine w) })) }
  let f : Fn := tget {} s.fns fn
  let s : State := { s with fns := tput s.fns fn { seq := f.seq, ide := f.ide } }
  let s : State := setReg s (.part fn 6) 0
  postRecord s { fn := 0, kind := 9, unit := fn }

/-- FUNCTION_LEVEL_RESET (19 R451). That of function 0 scrubs every virtual function's partition first. -/
def execFunctionLevelReset (fn : Nat) (s : State) : Host.Outcome State Fault Refusal :=
  .next (if fnCount ≤ fn then s
    else if fn ≠ 0 then scrub s fn
    else scrub ((List.range 63).foldl (fun s k => scrub s (k + 1)) s) 0)

/-- A TDISP request that the state does not list gets an error response and changes nothing (19 R452). -/
def tdispRefuse (s : State) (fn : Nat) : State := { s with hostOut := s.hostOut ++ [.tdispError fn] }

/-- A TDISP interface moves to a state and answers. -/
def tdispMove (s : State) (fn : Nat) (t : Tdisp) : State :=
  { s with fns := tput s.fns fn { tget {} s.fns fn with tdisp := t }, hostOut := s.hostOut ++ [.tdispOk fn] }

/-- A function with a TDISP interface: virtual functions (19 R444). -/
def hasTdisp (fn : Nat) : Bool := 0 < fn && fn < fnCount

/-- LOCK_INTERFACE_REQUEST (19 R452). -/
def execLockInterfaceRequest (fn : Nat) (s : State) : Host.Outcome State Fault Refusal :=
  .next (
    let f := tget {} s.fns fn
    if hasTdisp fn ∧ f.tdisp = .configUnlocked ∧ f.ide ∧ fld (rawReg s (.part fn 2)) 25 16 ≠ 0 then tdispMove s fn .configLocked
    else tdispRefuse s fn)

/-- START_INTERFACE_REQUEST (19 R452). -/
def execStartInterfaceRequest (fn : Nat) (s : State) : Host.Outcome State Fault Refusal :=
  .next (if hasTdisp fn ∧ (tget {} s.fns fn).tdisp = .configLocked then tdispMove s fn .run else tdispRefuse s fn)

/-- STOP_INTERFACE_REQUEST (19 R452): CONFIG_UNLOCKED after the scrub. -/
def execStopInterfaceRequest (fn : Nat) (s : State) : Host.Outcome State Fault Refusal :=
  .next (if hasTdisp fn then tdispMove (scrub s fn) fn .configUnlocked else tdispRefuse s fn)

/-- The contents of the interface report (19 R455): INTERFACE_INFO as bit 0 no update while locked and bit 1 DMA permitted,
MSI-X message control, LNR and TPH control, the MMIO ranges as offset and size, and the device's own words. -/
def interfaceReport (s : State) (fn : Nat) : List DWord :=
  let f := tget {} s.fns fn
  [3, BitVec.ofNat 64 (63 + b2n f.fmask * 2 ^ 14 + b2n f.msixEnable * 2 ^ 15), 0, 0, 3,
   0x0000, 0x1000, 0x1000, 0x1000, 0, BitVec.ofNat 64 (fld (rawReg s (.part fn 2)) 25 16 * 2 ^ 30), 1] ++
  (List.range 5).map (fun k => rawReg s (.part fn k)) ++
  [readReg s (.gquota fn), BitVec.ofNat 64 (fld (rawReg s .cid) 23 0)]

/-- GET_DEVICE_INTERFACE_REPORT (19 R455): of an interface whose registers are frozen. -/
def execGetDeviceInterfaceReport (fn : Nat) (s : State) : Host.Outcome State Fault Refusal :=
  .next (if hasTdisp fn ∧ (tget {} s.fns fn).tdisp ≠ .configUnlocked then
      { s with hostOut := s.hostOut ++ [.tdispReport fn (interfaceReport s fn)] }
    else tdispRefuse s fn)

/-- IDE_INTEGRITY_FAILURE (19 R452, R454). -/
def execIdeIntegrityFailure (fn : Nat) (s : State) : Host.Outcome State Fault Refusal :=
  .next (
    let t := (tget {} s.fns fn).tdisp
    if hasTdisp fn ∧ (t = .configLocked ∨ t = .run) then enterError s fn 2 0 else s)

end Sys2Proof.Machine
end

