-- ==== Sys2Proof/Machine/Fabric.lean ====
section
/-!
DEFINITION. The Emsen fabric (19 R456 to R458): ports, lost paths (03 R81, 15 R393), tile granules (03 R79, R80), and the
requests and responses that cross the links (25 R468, R469).
-/
namespace Sys2Proof.Machine

/-- Emsen port `p` is present (20 R463). -/
def portPresent (s : State) (p : Nat) : Bool := p < 18 && bitN (rawReg s .cport).toNat p
/-- Emsen port `p` is up (19 R459). -/
def portIsUp (s : State) (p : Nat) : Bool := bitN (rawReg s (.fport p)).toNat 0
/-- Changes a port's link. -/
def modPort (s : State) (p : Nat) (f : Port → Port) : State := { s with ports := tput s.ports p (f (tget {} s.ports p)) }

/-- The devices that FROUTE gives ports for, with their masks (19 R457). -/
def routes (s : State) : List (Nat × Nat) :=
  s.regs.filterMap (fun r =>
    if 0x2B8000 ≤ r.1 ∧ r.1 < 0x2B8000 + 8 * 4096 ∧ r.2 ≠ 0 then some ((r.1 - 0x2B8000) / 8, r.2.toNat % 2 ^ 18) else none)

/-- Every port of a mask is down. -/
def allDown (s : State) (m : Nat) : Bool := (List.range 18).all (fun p => !(bitN m p && portIsUp s p))

/-- The peers of the coherence domain that a device is (19 R459). -/
def peersOf (s : State) (dev : Nat) : List Nat :=
  (List.range 16).filter (fun d => bitN (rawReg s (.fpeer d)).toNat 12 && fld (rawReg s (.fpeer d)) 11 0 == dev)

/-- An address of peer `d`. -/
def ofPeer (s : State) (d pa : Nat) : Bool :=
  match placeOf s pa with
  | .peer e _ => e == d
  | .peerMap e _ => e == d
  | _ => false

/-- The operations that change elements of a peer in place: reducing Out copies and stores of 4-bit elements. -/
def changesPlace (a : Async) : Bool :=
  match a.kind with
  | .copy c => a.started && c.kind == 3 && (tCfmt c.img != 0 || eltBits (tFmt c.img) == 4)
  | .stt ws _ _ _ => ws.any (fun e => e.nibble.isSome)
  | .mxst ws _ _ => ws.any (fun e => e.nibble.isSome)
  | _ => false

/-- A tile will not come: for the operations that may have waited for it, its bytes have failed (05 R128). -/
def tileFailed (s : State) (line status : Nat) : State :=
  (s.asyncs.filter changesPlace).foldl (fun s a =>
    let r := fresh s
    let q : EmsenReq := { id := r.1, dev := peerDev s line, deadline := s.ticks, use := .copy a.id, addr := 4096 * tileOf line,
                          len := 4096, write := true, reply := some [], fail := status }
    { r.2 with emsen := r.2.emsen ++ [q] }) s

/-- The requesting side of a lost link (03 R81): every local tree of the peer's lines ends, dirty data are discarded, and
accesses that wait for one fault PEER-ABSENT. -/
def loseTrees (s : State) (d : Nat) : State :=
  let mine (line : Nat) : Bool := ofPeer s d (128 * line)
  let held := (((s.clusters.map (fun c => c.2.cache.map (·.line))).flatten ++
    (s.routers.map (fun r => (r.2.stitches.filter (fun t => !t.tile)).map (·.line))).flatten).filter mine).eraseDups
  let lost := s.accs.filter (fun a => ofPeer s d a.pa && !s.emsen.any (fun r => r.use = .access a.id))
  let asked := s.emsen.filterMap (fun r => match r.use with | .tile l _ _ => if mine l then some l else none | _ => none)
  let s := asked.foldl (fun s l => tileFailed s l tsAbortedLink) (held.foldl discard s)
  let s := { s with
    msgs := s.msgs.filter (fun m => !mine m.line),
    unpicks := s.unpicks.filter (fun u => !mine u.line),
    homeTx := s.homeTx.filter (fun t => !mine t.line),
    tiles := s.tiles.filter (fun t => !mine (32 * t.1)),
    routers := s.routers.map (fun r => (r.1, { r.2 with stitches := r.2.stitches.filter (fun t => !(t.tile && mine t.line)) })),
    emsen := s.emsen.filter (fun r => match r.use with
      | .tile l _ _ => !mine l
      | .join l => !mine l
      | .commLoad l => !mine l
      | _ => true) }
  let s := match held with
    | [] => s
    | l :: _ => postRecord s { fn := 0, kind := 2, unit := fabricRouter s d, addr := 128 * l, arg0 := 32, arg1 := held.length }
  faultAccs s (lost.map (fun a => (a, cPage, stPeerAbsent)))

/-- A collect has its answer, or never will (25 R468): the unpick at the fabric router goes on. -/
def collectDone (s : State) (line router : Nat) (v : PartialLine) : State :=
  match unpickOf s router line with
  | none => s
  | some u =>
    let u := foldInto u u.pte v
    let u := if s.emsen.any (fun r => r.use = .collect line router) then u else { u with left := clearPort u.left 0 }
    advanceNode s u true

/-- Copies that a device held here are lost (03 R81): the L branches of its lines count as expired at once (R68), unless another
device's copy stands at the same router. -/
def loseCopies (s : State) (dev : Nat) (p : CLine → Bool) (link : Bool) : State :=
  ((clusterOf s (200 + dev)).cache.filter p).foldl (fun s l =>
    let s := dropHeld s (200 + dev) l.line
    match stitchOf s l.prot l.line with
    | some t =>
      if maskBit t 0 && !(holdersOf s l.line).any (fun h => agentRouter h == l.prot) then cutBranches s l.prot l.line t [0] link
      else localDone s l.prot l.line
    | none => s) s

/-- A tile that a device was asked for does not come back: its copies there are lost. -/
def loseTile (s : State) (dev tile r : Nat) : State :=
  tileSteps (loseCopies { s with tiles := tset 0 s.tiles (grantKey dev tile) 0 } dev (fun l => tileOf l.line == tile && l.st != .c) false) r tile

/-- The home side of a lost link (03 R81, R68, R69): what the device holds here counts as expired branches. -/
def loseBranches (s : State) (dev : Nat) : State :=
  let dead := s.emsen.filter (fun r => r.dev == dev && (match r.use with
    | .collect _ _ => true
    | .tile l _ _ => !peerLine s l
    | _ => false))
  let s := { s with emsen := s.emsen.filter (fun r => !dead.contains r), fabIn := s.fabIn.filter (fun f => f.dev ≠ dev),
                    tiles := s.tiles.filter (fun t => t.1 < 2 ^ 64 || (t.1 - 2 ^ 64) / 2 ^ 40 != dev) }
  let s := loseCopies s dev (fun _ => true) true
  dead.foldl (fun s r => match r.use with
    | .collect l k => collectDone s l k noPartial
    | .tile l _ k => tileSteps s k (tileOf l)
    | _ => s) s

/-- A path to a device is lost (19 R457). -/
def pathLost (s : State) (dev : Nat) : State :=
  let s := postRecord s { fn := 0, kind := 7, unit := 0xFFFF, arg0 := dev }
  let s := (peersOf s dev).foldl (fun s d =>
    loseTrees (setReg s (.fpeer d) (rawReg s (.fpeer d) ||| 0x2000)) d) s
  let s := gatherPathLost (loseBranches s dev) dev
  { s with emsen := s.emsen.map (fun r => match r.use with
      | .copy _ => if r.dev = dev ∧ r.reply.isNone then { r with reply := some [], fail := tsAbortedLink } else r
      | _ => r) }

/-- FABRIC_REGISTER_WRITE (19 R457, R459): a mask whose ports are all down, where one was up, loses the path. -/
def execFabricRegisterWrite (w : RegWr) (s : State) : Host.Outcome State Fault Refusal :=
  regEvent s w (fun r => match r with
    | .fabcfg => if peerHeld s then s else putReg s w r
    | .fpeer d => if bitN (rawReg s (.fpeer d)).toNat 12 && peerHeld s then s else putReg s w r
    | .fport _ => putReg s w r
    | .froute n =>
      let t := putReg s w r
      if !allDown s (rawReg s r).toNat && allDown t (rawReg t r).toNat then pathLost t n else t
    | .cfabj _ => putReg s w r
    | _ => s)

/-- A port goes down (19 R456, R457): it is reported, and with it every path that it was the last port of. -/
def portDown (s : State) (p : Nat) : State :=
  if !portIsUp s p then s
  else
    let s := setReg s (.fport p) ((rawReg s (.fport p) ||| 2) &&& ~~~1)
    let s := modPort s p (fun q => { q with retries := 0 })
    let through := (routes s).filter (fun r => bitN r.2 p)
    let s := postRecord s { fn := 0, kind := 7, unit := p, arg0 := (through.head?.map (·.1)).getD 0 }
    (through.filter (fun r => allDown s r.2)).foldl (fun s r => pathLost s r.1) s

/-- A port sees no flit for this long before it goes down (19 R456). -/
def idleTicks : Nat := 10 * usTicks

/-- A port's timeout is due. -/
def idleDue (s : State) (p : Nat) : Bool := portIsUp s p && decide ((tget {} s.ports p).lastFlit + idleTicks ≤ s.ticks)

/-- An idle flit is due on a port: 1 µs has passed since the last (19 R456). -/
def flitDue (s : State) (p : Nat) : Bool := portIsUp s p && decide ((tget {} s.ports p).lastSent + usTicks ≤ s.ticks)

/-- PORT_IDLE_TIMEOUT (19 R456). -/
def execPortIdleTimeout (port : Nat) (s : State) : Host.Outcome State Fault Refusal :=
  .next (if port < 18 ∧ idleDue s port then portDown s port else s)

/-- FLIT_CRC_RETRY (19 R456): an attempt succeeds, or is the next to fail; the ninth takes the port down. -/
def execFlitCrcRetry (port : Nat) (good : Bool) (s : State) : Host.Outcome State Fault Refusal :=
  .next (
    if 18 ≤ port ∨ !portIsUp s port then s
    else if good then modPort s port (fun q => { q with retries := 0, lastFlit := s.ticks })
    else if 8 ≤ (tget {} s.ports port).retries then portDown s port
    else modPort s port (fun q => { q with retries := q.retries + 1 }))

/-- PORT_UP (19 R456): training completes. -/
def execPortUp (port : Nat) (s : State) : Host.Outcome State Fault Refusal :=
  .next (if !portPresent s port ∨ portIsUp s port then s
    else modPort (setReg s (.fport port) (rawReg s (.fport port) ||| 1)) port
      (fun _ => { retries := 0, lastFlit := s.ticks, lastSent := s.ticks }))

/-- IDLE_FLIT (19 R456): one is sent, or one arrives. -/
def execIdleFlit (port : Nat) (received : Bool) (s : State) : Host.Outcome State Fault Refusal :=
  .next (
    if 18 ≤ port ∨ !portIsUp s port then s
    else if received then modPort s port (fun q => { q with lastFlit := s.ticks })
    else emit (modPort s port (fun q => { q with lastSent := s.ticks })) (.idle port))

/-- The accesses that wait for a line of a tile, and their messages gone. -/
def tileWaiters (s : State) (tile : Nat) : State × List Acc :=
  let ms := s.msgs.filter (fun m => tileOf m.line = tile ∧ m.at' = m.home ∧
    (m.kind = .read ∨ m.kind = .write ∨ m.kind = .join ∨ m.kind = .commRead))
  ({ s with msgs := s.msgs.filter (fun m => !ms.contains m) },
   s.accs.filter (fun a => (a.sent && ms.any (fun m => m.aux = a.msg)) || (a.uncached && atHome s a && tileOf (lineOf a.pa) == tile)))

/-- What a request about a tile waited for will not come: the accesses fault. -/
def failTile (s : State) (line cause status : Nat) : State :=
  let r := tileWaiters s (tileOf line)
  tileFailed (faultAccs r.1 (r.2.map (fun a => (a, cause, status)))) line (if cause = cPage then tsTimeout else tsProt)

/-- Where a fabric router in the home's role has room for a tile's stitch (03 R63): none where it holds it already. -/
def tileWay (s : State) (r tile : Nat) : Option Nat :=
  if (routerOf s r).stitches.any (fun t => t.tile && t.line == 32 * tile) then none else freeWayIn s r (tile % 1024)

/-- The fabric router in the home's role holds a tile stitch (03 R79), with no port of a tree in MASK (log entry 88). -/
def tileStitch (s : State) (r tile : Nat) : State :=
  match tileWay s r tile with
  | some w => setStitches s r ({ set := tile % 1024, way := w, line := 32 * tile, mask := 0, root := 0, home := 0, tile := true,
                                 lwin := leaseEnd s } :: (routerOf s r).stitches)
  | none => s

/-- TILE_GRANT (03 R79): the fabric router in the home's role holds the tile. A grant for whose stitch there is no room waits outside
(`heldBack`). -/
def execTileGrant (req state : Nat) (data : List Byte) (s : State) : Host.Outcome State Fault Refusal :=
  .next (match s.emsen.find? (fun r => r.id = req) with
    | none => s
    | some r =>
      let s := { s with emsen := s.emsen.filter (fun q => q.id ≠ req) }
      match r.use with
      | .tile line write _ =>
        if r.deadline < s.ticks ∨ !peerLine s line then s
        else
          let st := if write then 3 else if state = 2 then 2 else 1
          let s := tileStitch { s with tiles := tset 0 s.tiles (tileOf line) st } (lineHome s line) (tileOf line)
          putBytes s (4096 * tileOf line) ((data ++ List.replicate 4096 0).take 4096)
      | _ => s)

/-- The bytes of a tile, every copy of its lines ended. -/
def takeTile (s : State) (tile : Nat) : State × List Byte :=
  let s := (List.range 32).foldl (fun s i => collapse s (32 * tile + i)) s
  (s, memBytes s (4096 * tile) 4096)

/-- TILE_INVALIDATION (03 R80): every tree of the tile's lines ends, and their data go back. -/
def execTileInvalidation (tile : Nat) (s : State) : Host.Outcome State Fault Refusal :=
  .next (if !peerLine s (32 * tile) ∨ tileState s tile = 0 then s
    else
      let r := takeTile s tile
      let home := lineHome s (32 * tile)
      let s := { r.1 with tiles := tset 0 r.1.tiles tile 0, mem := r.1.mem.filter (fun c => c.1 < 4096 * tile || 4096 * tile + 4096 ≤ c.1) }
      let s := setStitches s home ((routerOf s home).stitches.filter (fun t => !(t.tile && t.line == 32 * tile)))
      emit s (.response (peerDev s (32 * tile)) true r.2))

/-- The lines that a fabric router holds for other devices. -/
def heldFor (s : State) (r : Nat) : List CLine :=
  (s.clusters.map (fun c => if 200 ≤ c.1 then c.2.cache.filter (fun l => l.prot = r) else [])).flatten

/-- A tile stitch's window has half gone: its renewal is due (03 R80). -/
def tileDue (s : State) (t : Stitch) : Bool := t.tile && decide (t.lwin ≤ s.ticks + leaseTicks s / 2)

/-- TILE_RENEWAL (03 R80, 25 R468): a fabric router renews across the link the tiles that it holds from each peer, and through the
mesh the lines that it holds for other devices, whose own renewals reach it while the link is up (log entry 88). -/
def execTileRenewal (fab : Nat) (s : State) : Host.Outcome State Fault Refusal :=
  .next (
    let r := 153 + fab
    let due := (routerOf s r).stitches.filter (tileDue s)
    let devs := (due.map (fun t => peerDev s t.line)).eraseDups
    let s := devs.foldl (fun s d => emit s (.renew d (due.filter (fun t => peerDev s t.line = d)).length)) s
    let s := setStitches s r ((routerOf s r).stitches.map (fun t => if tileDue s t then { t with lwin := t.lwin + leaseTicks s } else t))
    let s := (heldFor s r).foldl (fun s l => sendMsg s (newMsg .renewal l.line r 0 (lineHome s l.line) r)) s
    s.clusters.foldl (fun s c => if 200 ≤ c.1 then renewAll s c.1 (fun l => l.prot == r) else s) s)

/-- The fabric router of a port (19 R456). -/
def portRouter (p : Nat) : Nat := 153 + (if p ≤ 4 then 0 else if p ≤ 8 then 1 else if p ≤ 13 then 2 else 3)

/-- The storage address that a peer's request names: HBM of this device outside a partition in reset (19 R451), not flagged. -/
def fabAddr (s : State) (pa n : Nat) : Option Nat :=
  match placeOf s pa with
  | .hbm a =>
    if a + n ≤ 768 * 2 ^ 30 ∧ stackPresent s (a / 2 ^ 36) ∧ !fnResetting s (ownerFn s 1 (a / 2 ^ 30)) ∧ !regionFlagged s a then some a else none
  | _ => none

/-- A context of a fabric job, for the quota of an entry that a peer has created. -/
def jobCtx (s : State) (job : Nat) : Nat := ((s.ctxs.map (·.1)).find? (fun c => jobOf s c = job)).getD 0

/-- Registers a device's shadow at a home entry, once (15 R392). -/
def addShadow (s : State) (h : Word) (dev : Nat) : State :=
  match namedG s h with
  | some i =>
    let g := gEntry s i
    if g.role ≠ 2 ∨ g.shadows.any (fun x => x.dev = dev) then s else setG s i { g with shadows := g.shadows ++ [{ dev := dev }] }
  | none => s

/-- A peer asks for a tile of this device's HBM (03 R79). -/
def askedTile (s : State) (port dev tile : Nat) (write : Bool) : State :=
  match fabAddr s (4096 * tile) 4096 with
  | none => emit s (.response dev false [])
  | some a =>
    let f : FabIn := { router := portRouter port, dev := dev, line := 32 * (a / 4096), join := false, tile := some write }
    if s.fabIn.contains f then s else tileSteps { s with fabIn := s.fabIn ++ [f] } f.router (a / 4096)

/-- What a request from a peer does here (19 R458, 25 R468, R469). -/
def serveFab (s : State) : FabMsg → State
  | .tile port dev tile write _ => askedTile s port dev tile write
  | .tileBack port dev tile _ bs =>
    if granted s dev tile = 0 then s else tileReturned s dev tile (portRouter port) bs
  | .read port dev pa n _ =>
    (match placeOf s pa, fabAddr s pa n with
     | .win c o, _ => (match windowRead s c (o / 4 * 4) (roundUp (n + o % 4) 4) with
        | some bs => emit s (.response dev true ((bs.drop (o % 4)).take n))
        | none => emit s (.response dev false []))
     | _, some a => emit (giveLines s (portRouter port) a n) (.response dev true (readLines s a n))
     | _, none => emit s (.response dev false []))
  | .write port dev pa _ bs =>
    (match placeOf s pa, fabAddr s pa bs.length with
     | .win c o, _ => emit (windowWrite s c o bs) (.response dev true [])
     | _, some a => emit (writeLines s (portRouter port) a bs) (.response dev true [])
     | _, none => emit s (.response dev false []))
  | .join port dev pa cfmt cop _ =>
    let line := lineOf pa
    let r := portRouter port
    (match fabAddr s pa 1 with
     | none => emit s (.response dev false [])
     | some _ =>
       if (fabCopies s r line).any (fun h => h.1 = 200 + dev) then emit s (.response dev true [])
       else if s.fabIn.any (fun f => f.router = r ∧ f.line = line ∧ f.join) then
         { s with fabIn := s.fabIn ++ [{ router := r, dev := dev, line := line, join := true }] }
       else
         let s := { s with fabIn := s.fabIn ++ [{ router := r, dev := dev, line := line, join := true }] }
         sendMsg s { newMsg .join line r 0 (lineHome s line) r with pte := BitVec.ofNat 64 (cfmt.toNat * 2 ^ 52 + cop.toNat * 2 ^ 14) })
  | .fold port dev pa es _ =>
    (match (fabCopies s (portRouter port) (lineOf pa)).find? (fun h => h.1 = 200 + dev) with
     | none => s
     | some h =>
       let v := foldLine (pteCfmt h.2.pte) (pteCop h.2.pte) (h.2.data, h.2.has) (ofElems (pteCfmt h.2.pte) es)
       modLine s h.1 (lineOf pa) (fun l => { l with data := v.1, has := v.2 }))
  | .commLoad port dev pa _ =>
    let line := lineOf pa
    let r := portRouter port
    (match fabAddr s pa 1 with
     | none => emit s (.response dev false [])
     | some _ =>
       let s := { s with fabIn := s.fabIn ++ [{ router := r, dev := dev, line := line, join := false }] }
       sendMsg s { newMsg .commRead line r 0 (lineHome s line) r with ev6 := true })
  | .collect _ dev pa _ =>
    if (stitchOf s (lineHome s (lineOf pa)) (lineOf pa)).isNone then emit s (.response dev true (linkBytes noPartial))
    else gatherNode s (lineHome s (lineOf pa)) (lineOf pa) 0 3
  | .gnew _ dev job name dl strict register _ =>
    let r := findOrMake s (jobCtx s job) 0 7 job name dl strict
    let s := if register then addShadow r.1 r.2.1 dev else r.1
    emit s (.gnewReply dev r.2.1 r.2.2)
  | .gstat _ dev h _ =>
    emit s (.gReply dev (match namedG s h with
      | some i => BitVec.ofNat 64 (gstatWord (gEntry s i))
      | none => BitVec.ofNat 64 (gsStale * 2 ^ 60)))
  | .gabort _ dev h _ =>
    (match namedG s h with
     | some i => emit (abortG s i gsSoftware) (.gReply dev (BitVec.ofNat 64 gsComplete))
     | none => emit s (.gReply dev (BitVec.ofNat 64 gsStale)))
  | .gfree _ dev h _ =>
    (match namedG s h with
     | some i =>
       let r := tryFree s i
       emit r.1 (.gReply dev (BitVec.ofNat 64 r.2))
     | none => emit s (.gReply dev (BitVec.ofNat 64 gsStale)))

/-- The deadline that a request carries (19 R458). -/
def fabDeadline : FabMsg → Nat
  | .tile _ _ _ _ d => d
  | .tileBack _ _ _ d _ => d
  | .read _ _ _ _ d => d
  | .write _ _ _ d _ => d
  | .join _ _ _ _ _ d => d
  | .fold _ _ _ _ d => d
  | .commLoad _ _ _ d => d
  | .collect _ _ _ d => d
  | .gnew _ _ _ _ _ _ _ d => d
  | .gstat _ _ _ d => d
  | .gabort _ _ _ d => d
  | .gfree _ _ _ d => d

/-- EMSEN_REQUEST (19 R458): one that arrives after its deadline is dropped. -/
def execEmsenRequest (m : FabMsg) (s : State) : Host.Outcome State Fault Refusal :=
  .next (if fabDeadline m < s.ticks then s else serveFab s m)

/-- The shadow that a `GNEW` waiting for its home has allocated. -/
def pendingShadow (s : State) (x : Iss) (dev : Nat) (name : Word) : Option Nat :=
  (s.gather.find? (fun g => g.2.role = 3 ∧ g.2.owner = jobOf s x.sheet.ctx ∧ g.2.homedev = dev ∧ g.2.name = name)).map (·.1)

/-- A gathering instruction that waited for the home of its gathering ends (14 R356, R363 to R365, 15 R392). -/
def gathDone (s : State) (core entry dev status : Nat) (data : List Byte) : State :=
  match leafIss s core entry with
  | none => s
  | some x =>
    let put (h : Hdr) (dst : Opd) (w64 : Bool) (v : Nat) : State :=
      wakeDone (putResult s x (x.leaf.mask &&& guardMask s x h) dst w64 v) x h
    match instrAt x.leaf with
    | some (.gnew f) =>
      let act := x.leaf.mask &&& guardMask s x f.h
      let name := BitVec.ofNat 32 (uniOpd s x act .i32 f.opa.toNat)
      let h : Word := if status = 0 then BitVec.ofNat 32 (leBytes (data.take 4)) else 0
      let st := if status = 0 then leBytes ((data.drop 4).take 1) else status
      let s := match pendingShadow s x dev name with
        | some i =>
          let g := gEntry s i
          if h ≠ 0 then setG s i { g with homeHandle := h } else if g.homeHandle = 0 then setG s i { gen := nextGen g.gen } else s
        | none => s
      wakeDone (putResult (putResult s x act f.dst false h.toNat) x act f.opc false st) x f.h
    | some (.gstat f) => put f.h f.dst true (if status = 0 then leBytes (data.take 8) else status * 2 ^ 60)
    | some (.gabort f) => put f.h f.dst false (if status = 0 then leBytes (data.take 8) else status)
    | some (.gfree f) => put f.h f.dst false (if status = 0 then leBytes (data.take 8) else status)
    | _ => s

/-- The answer to a request is kept for its operation, with the tag status where it failed. -/
def answerReq (s : State) (req : Nat) (data : List Byte) (fail : Nat) : State :=
  { s with emsen := s.emsen.map (fun q => if q.id = req then { q with reply := some data, fail := fail } else q) }

/-- EMSEN_RESPONSE (19 R458): status 0 brings what was asked for; any other says that the responder refused (R451). -/
def execEmsenResponse (req status : Nat) (data : List Byte) (s : State) : Host.Outcome State Fault Refusal :=
  .next (match s.emsen.find? (fun r => r.id = req) with
    | none => s
    | some r =>
      if r.deadline < s.ticks then s
      else
        let reply (s : State) : State := answerReq s req data 0
        let gone : State := { s with emsen := s.emsen.filter (fun q => q.id ≠ req) }
        match r.use with
        | .access acc =>
          (match accOf gone acc with
           | none => gone
           | some a =>
             if status ≠ 0 then faultAccs gone [(a, cProt, 10)]
             else dropAcc (if a.kind = .load then writeWords gone a (extendWords a.cls a.bytes (leBytes (data.take a.bytes))) else gone) acc)
        | .copy _ => if status = 0 then reply s else answerReq s req [] tsProt
        | .gath core entry => gathDone gone core entry r.dev (if status = 0 then 0 else gsStale) data
        | .tile line _ src =>
          if peerLine s line then (if status ≠ 0 then failTile gone line cProt 10 else gone)
          else tileReturned gone r.dev (tileOf line) src data
        | .join line => if status = 0 then reply s else failTile gone line cProt 10
        | .commLoad line => if status = 0 then reply s else failTile gone line cProt 10
        | .collect line router => collectDone gone line router (data.take 128, leBytes ((data.drop 128).take 8)))

/-- An Emsen request has had no answer in time. -/
def emsenDue (s : State) (r : EmsenReq) : Bool := r.reply.isNone && decide (r.deadline < s.ticks)

/-- EMSEN_DEADLINE_EXPIRY (19 R458). -/
def execEmsenDeadlineExpiry (req : Nat) (s : State) : Host.Outcome State Fault Refusal :=
  .next (match s.emsen.find? (fun r => r.id = req) with
    | none => s
    | some r =>
      if !emsenDue s r then s
      else
        let gone : State := { s with emsen := s.emsen.filter (fun q => q.id ≠ req) }
        match r.use with
        | .access acc =>
          (match accOf gone acc with
           | none => gone
           | some a => faultAccs gone [(a, cPage, stPeerTimeout)])
        | .copy _ => answerReq s req [] tsTimeout
        | .gath core entry => gathDone gone core entry r.dev gsTimeout []
        | .tile line _ src =>
          if peerLine s line then failTile gone line cPage stPeerTimeout
          else loseTile gone r.dev (tileOf line) src
        | .join line => failTile gone line cPage stPeerTimeout
        | .commLoad line => failTile gone line cPage stPeerTimeout
        | .collect line router => collectDone (flagRegion gone line) line router noPartial)

end Sys2Proof.Machine
end

