-- ==== Sys2Proof/Machine/Boot.lean ====
section
/-!
DEFINITION. Bring-up (20 R460 to R463): the seven start steps of the ROM firmware after power-on or a warm reset. How each
attempt of a step or unit turns out is given by the `BootPlan` of the event.
-/
namespace Sys2Proof.Machine

/-- What bring-up works on: the capacity fields, the step and unit that take their alternate method first, where a warm reset
arrives, and how it ended: none while it runs, else BOOTREC's fields FAILSTEP, UNIT, ALT, ATTEMPT and STEP. -/
structure Boot where
  stk : Nat
  slow : Nat
  clu : Nat
  ports : Nat
  altFirst : Option (Nat × Nat)
  stall : Option (Nat × Nat)
  ended : Option (Nat × Nat × Nat × Nat × Nat)
  deriving DecidableEq, Repr

/-- Clears bit `n` of a number. -/
def clearBit (x n : Nat) : Nat := if bitN x n then x - 2 ^ n else x
/-- Sets bit `n` of a number. -/
def raiseBit (x n : Nat) : Nat := if bitN x n then x else x + 2 ^ n

/-- The alternate method comes first (20 R462). -/
def Boot.alt (b : Boot) (step unit : Nat) : Bool := b.altFirst == some (step, unit)

/-- A mandatory step with the outcome of its two methods (20 R460, R461). -/
def mandatory (step : Nat) (prim alt : Bool) (b : Boot) : Boot :=
  if b.ended.isSome then b
  else if b.stall = some (step, 0) then { b with ended := some (0, 0, b2n (b.alt step 0), 1, step) }
  else if b.alt step 0 then (if alt then { b with ended := some (step, 0, 1, 1, step) } else b)
  else if prim && alt then { b with ended := some (step, 0, 1, 2, step) }
  else b

/-- One unit of a per-unit step: none of its methods works, only the alternate, or the primary (20 R460 to R462). A stack that
has been slow trains at 8 Gb/s directly. -/
def unitStep (step unit : Nat) (prim alt : Bool) (b : Boot) : Boot :=
  let present : Bool := bitN (if step = 4 then b.stk else if step = 5 then b.clu else b.ports) unit
  let direct : Bool := step = 4 && bitN b.slow unit
  if b.ended.isSome || !present then b
  else if b.stall = some (step, unit) then { b with ended := some (0, unit, b2n (b.alt step unit || direct), 1, step) }
  else
    let second : Bool := b.alt step unit || direct || prim
    if !second then b
    else if !alt then (if step = 4 then { b with slow := raiseBit b.slow unit } else b)
    else if step = 4 then { b with stk := clearBit b.stk unit, slow := clearBit b.slow unit }
    else if step = 5 then { b with clu := clearBit b.clu unit }
    else { b with ports := clearBit b.ports unit }

/-- A per-unit step over its units; bring-up stops where none is left of the stacks or of the clusters (20 R461). -/
def perUnit (step n : Nat) (prim alt : Nat → Bool) (b : Boot) : Boot :=
  let b := (List.range n).foldl (fun b u => unitStep step u (prim u) (alt u) b) b
  let left := if step = 4 then b.stk else if step = 5 then b.clu else 1
  if b.ended.isNone ∧ left = 0 then { b with ended := some (step, 0, 1, 2, step) } else b

/-- The seven steps in order (20 R460). -/
def bringUp (p : BootPlan) (b : Boot) : Boot :=
  let bit {n : Nat} (v : BitVec n) (i : Nat) : Bool := v.getLsbD i
  let m (k : Nat) (b : Boot) : Boot := mandatory k (bit p.prim k) (bit p.alt k) b
  let b := m 3 (m 2 (m 1 b))
  let b := perUnit 4 12 (bit p.stkPrim) (bit p.stkAlt) b
  let b := perUnit 5 128 (bit p.cluPrim) (bit p.cluAlt) b
  let b := m 6 b
  perUnit 7 18 (bit p.portPrim) (bit p.portAlt) b

/-- The machine after bring-up: at reset, with the capacities and the boot record that bring-up leaves (20 R461, R463). -/
def booted (s : State) (b : Boot) (boots : Nat) : State :=
  let count := ((List.range 12).filter (fun k => bitN b.stk k)).length
  let (fail, unit, alt, attempt, step) := b.ended.getD (0, 0, 0, 0, 0xF)
  let t : State := { State.reset with agenda := s.agenda, free := s.free, nextId := s.nextId, stopped := b.ended.isSome }
  let t := setReg t .cclu0 (BitVec.ofNat 64 (b.clu % 2 ^ 64))
  let t := setReg t .cclu1 (BitVec.ofNat 64 (b.clu / 2 ^ 64))
  let t := setReg t .cmem (BitVec.ofNat 64 (b.slow * 2 ^ 44 + 64 * count * 2 ^ 32 + b.stk))
  let t := setReg t .cport (BitVec.ofNat 64 b.ports)
  setReg t .bootrec (BitVec.ofNat 64 (boots * 2 ^ 32 + unit * 2 ^ 24 + fail * 2 ^ 20 + alt * 2 ^ 16 + attempt * 2 ^ 8 + step))

/-- POWER_ON (20 R460 to R462): the boot record is zero and the capacity fields are full. -/
def execPowerOn (p : BootPlan) (s : State) : Host.Outcome State Fault Refusal :=
  .next (booted s (bringUp p
    { stk := 0xFFF, slow := 0, clu := 2 ^ 128 - 1, ports := 0x3FFFF, altFirst := none, stall := p.stall, ended := none }) 0)

/-- WARM_RESET (20 R461, R462): the capacities stand, unless BOOT-CLEAR was given; the step in progress takes its alternate
method first. -/
def execWarmReset (p : BootPlan) (s : State) : Host.Outcome State Fault Refusal :=
  let r := rawReg s .bootrec
  let step := fld r 3 0
  let within : Bool := 1 ≤ step && step ≤ 7 && fld r 23 20 == 0
  let boots := if within then satTo 8 (fld r 39 32 + 1) else fld r 39 32
  let first := if within then some (step, fld r 31 24) else none
  let b : Boot := if s.bootClear then
      { stk := 0xFFF, slow := 0, clu := 2 ^ 128 - 1, ports := 0x3FFFF, altFirst := first, stall := p.stall, ended := none }
    else
      { stk := fld (rawReg s .cmem) 11 0, slow := fld (rawReg s .cmem) 55 44,
        clu := (rawReg s .cclu0).toNat + (rawReg s .cclu1).toNat * 2 ^ 64, ports := fld (rawReg s .cport) 17 0,
        altFirst := first, stall := p.stall, ended := none }
  .next (booted s (bringUp p b) boots)

end Sys2Proof.Machine
end

