-- ==== Sys2Proof/Machine/Issue.lean ====
section
/-!
DEFINITION. Issue: what a blocked leaf waits for, ranks and runs (06 R151, R154, R155, 16 R411), couples (10 R241), and the
passing of time (18 R434, R437).
-/
namespace Sys2Proof.Machine

/-- Nothing outstanding has one of these numbers. -/
def idsDone (s : State) (ids : List Nat) : Bool :=
  !s.accs.any (fun a => ids.contains a.id) && !s.asyncs.any (fun a => ids.contains a.id) && !s.emsen.any (fun r => ids.contains r.id)

/-- No walk is in flight for a leaf (02 R34). -/
def walksDone (s : State) (c e : Nat) : Bool :=
  s.dies.all (fun d => !(d.2.active ++ d.2.missed).any (fun w => w.waiters.contains (c, e)))

/-- What a leaf waits for has come (06 R146). -/
def waitMet (s : State) (c e : Nat) (l : Leaf) (w : Wait) : Bool :=
  match sheetOf s c l.slot with
  | none => false
  | some h =>
    let x : Iss := { core := c, entry := e, leaf := l, sheet := h }
    match w with
    | .tag t => (tagOf s c t).ready
    | .tagAny m => (namedTags s x m true).any (fun n => (tagOf s c n).ready) || (namedTags s x m true).isEmpty
    | .tagAll m => (namedTags s x m true).all (fun n => (tagOf s c n).ready)
    | .results ids => idsDone s ids
    | .ringSlot r j => !rgV (ringOf s (c / 4) r) || decide (j < rgF (ringOf s (c / 4) r) 17 13)
    | .ringRoom r => !rgV (ringOf s (c / 4) r) || rgF (ringOf s (c / 4) r) 22 18 != rgS (ringOf s (c / 4) r)
    | .copyRoom => decide ((copyQueue s (c / 4)).length < 128)
    | .passRoom n => decide ((coreOf s c).queue.length + n ≤ 8)
    | .bank b => !bankPending s c b
    | .bankUse b => !bankHeld (coreOf s c) b
    | .roundRoom => decide ((clusterOf s (c / 4)).rounds.length < 8)
    | .walks => walksDone s c e
    | .walkRoom => decide ((tget {} s.dies (dieOfCore c)).missed.length < 128)
    | .link op => !opWaits s op
    | .phase h => (match namedG s h with
      | some i => !(gEntry s i).pip
      | none => true)
    | .counter cid t _ => (match counterAt s h.ctx cid with
      | some v => reached v t || (v.done && v.cancelled)
      | none => true)
    | .mailbox fn => decide (mailboxHeld s fn < 16)
    | .held t => (heldOutcome s (tagOf s c t)).isSome
    | .yielded => false
    | .rebuild => decide ((listEntries h).length ≤ (poolFree s c).length + 1)

/-- Every leaf of a core whose wait is over is ready again (06 R146). -/
def wakeCore (s : State) (c : Nat) : State :=
  (coreOf s c).leaves.foldl (fun s p => match p.2.st with
    | .blocked w => if waitMet s c p.1 p.2 w then setLeaf s c p.1 { p.2 with st := readySt p.2, since := now s c } else s
    | _ => s) s

/-- The slices that a mask uses, bit i for lanes 4i to 4i + 3 (06 R136). -/
def slicesOf (m : Mask) : Nat := (List.range 8).foldl (fun a i => a + if m.toNat / 16 ^ i % 16 = 0 then 0 else 2 ^ i) 0

/-- Two sets of slices share one. -/
def slicesMeet (a b : Nat) : Bool := (List.range 8).any (fun i => bitN a i && bitN b i)

/-- The leaves that merge into a winner (06 R151): siblings at its PC that are not parked and run no handler. -/
def mergers (s : State) (c e : Nat) (l : Leaf) : List (Nat × Leaf) :=
  if l.priv then []
  else (coreOf s c).leaves.filter (fun p => p.1 != e && p.2.slot == l.slot && p.2.pc == l.pc && !p.2.priv && p.2.st != .parked)

/-- The lanes of a leaf after its regang. -/
def unionMask (l : Leaf) (ms : List (Nat × Leaf)) : Mask := ms.foldl (fun m p => m ||| p.2.mask) l.mask

/-- The slices of the leaves of a core that are in runs. -/
def busySlices (s : State) (c : Nat) : List Nat :=
  ((coreOf s c).leaves.filter (fun p => p.2.inRun)).map (fun p => slicesOf p.2.mask)

/-- Issue of a leaf is suspended: its context is over quota and it runs no handler, or the core is stopped (16 R411, 18 R441). -/
def suspended (s : State) (l : Leaf) (h : Sheet) : Bool := s.thermalStop || (!l.priv && overQuota s h.ctx)

/-- A leaf may start a run when its slices are free (06 R146, R155, 16 R411, 17 R425, 14 R378). -/
def eligible (s : State) (c : Nat) (l : Leaf) : Bool :=
  match sheetOf s c l.slot with
  | none => false
  | some h =>
    !l.inRun && l.pend.isNone && (l.st == .ready || l.st == .trapped) && decide (l.nextIssue ≤ now s c) && (h.preempt == 0 || l.priv) &&
      !(sheetTask s h).halted && !suspended s l h

/-- The keys of a leaf's rank, the first deciding, the least first (16 R411). -/
def rankKeys (s : State) (c e : Nat) (l : Leaf) : List Nat :=
  let prio := ((sheetOf s c l.slot).map (fun h => (sheetTask s h).prio)).getD 0
  [b2n (!l.priv), b2n (!decide (l.since + 1024 ≤ now s c)), 31 - prio, l.age, l.slot, e]

/-- Lexicographic order of keys. -/
def keysLess : List Nat → List Nat → Bool
  | a :: s, b :: t => decide (a < b) || (a == b && keysLess s t)
  | _, _ => false

/-- The leaf that wins the next grant of a core (06 R155). -/
def winner (s : State) (c : Nat) : Option (Nat × Leaf) :=
  let busy := busySlices s c
  let cs := (coreOf s c).leaves.filter (fun p =>
    eligible s c p.2 && busy.all (fun b => !slicesMeet b (slicesOf (unionMask p.2 (mergers s c p.1 p.2)))))
  cs.foldl (fun best p => match best with
    | none => some p
    | some q => if keysLess (rankKeys s c p.1 p.2) (rankKeys s c q.1 q.2) then some p else some q) none

/-- The first wait among leaves that is not over. -/
def unmetWait (s : State) (c : Nat) (ms : List (Nat × Leaf)) : Option Wait :=
  ms.findSome? (fun p => match p.2.st with
    | .blocked w => if waitMet s c p.1 p.2 w then none else some w
    | _ => none)

/-- The accesses of a leaf's lanes that a merge puts before later ones (06 R151): `STT`'s stores are among them. -/
def accsBefore (s : State) (c : Nat) (l : Leaf) : List Nat :=
  outstanding s c l ++ (s.asyncs.filter (fun q => q.core == c && q.slot == l.slot && (q.mask &&& l.mask) != 0 &&
    (match q.kind with | .stt _ _ _ _ => true | _ => false))).map (·.id)

/-- An entry waits for no walk any more, and no fault of a walk is kept for it (02 R33). -/
def dropWaiter (s : State) (c e : Nat) : State :=
  let keep (w : Walk) : Walk := { w with waiters := w.waiters.filter (· ≠ (c, e)) }
  let s := dropWalkFaults s c e
  if s.dies.any (fun d => (d.2.active ++ d.2.missed).any (fun w => w.waiters.contains (c, e))) then
    { s with dies := s.dies.map (fun d => (d.1, { d.2 with active := d.2.active.map keep, missed := d.2.missed.map keep })) }
  else s

/-- A leaf wins: its siblings at its PC merge into it, and its run starts unless one of them still waits (06 R151, R154). -/
def startRun (s : State) (c e : Nat) (l : Leaf) : State :=
  let ms := mergers s c e l
  let w := unmetWait s c ms
  let k := coreOf s c
  let m : Leaf := { l with
    mask := unionMask l ms, nextIssue := ms.foldl (fun n p => max n p.2.nextIssue) l.nextIssue,
    st := (match w with | some v => .blocked v | none => readySt l), inRun := w.isNone, runLen := 0, since := now s c,
    checkTgt := l.checkTgt || ms.any (fun p => p.2.checkTgt),
    before := if ms.isEmpty then l.before else
      ((((e, l) :: ms).map (fun p => p.2.before.filter (fun i => idsLeft s [i]) ++ accsBefore s c p.2)).flatten).eraseDups }
  let s := setCore s c { k with leaves := tput (k.leaves.filter (fun p => !(ms.map (·.1)).contains p.1)) e m }
  if ms.isEmpty then s else wakeStalled (promote (ms.foldl (fun s p => dropWaiter s c p.1) s) c l.slot) c

/-- Grants of one ac, at most one for each slice. -/
def grants (s : State) (c : Nat) : Nat → State
  | 0 => s
  | n + 1 => match winner s c with
    | some (e, l) => grants (startRun s c e l) c n
    | none => s

/-- ISSUE_GRANT (06 R155, 16 R411): the core starts runs for its eligible leaves by rank. -/
def execIssueGrant (core : Nat) (s : State) : Host.Outcome State Fault Refusal := .next (grants (wakeCore s core) core 8)

/-- What the model does next. -/
inductive Todo where
  /-- the step ends in this state -/
  | done (s : State)
  /-- an event of the device happens -/
  | event (i : Instr) (s : State)
  /-- the leaf that `cur` names issues an instruction -/
  | instr (i : Instr) (s : State)

/-- An ac in which a leaf issued counts once (18 R437). -/
def noteIssue (s : State) (c : Nat) : State :=
  let k := coreOf s c
  if k.lastIssue = k.cycles + 1 then s else setCore s c { k with lastIssue := k.cycles + 1, isCount := k.isCount + 1 }

/-- A leaf in a run issues what stands at its PC: its line is fetched first; what does not decode raises ILLEGAL (10 R232, R237). -/
def issueAt (s : State) (c e : Nat) (couple : Bool) : Todo :=
  match leafOf s c e with
  | none => .done { s with cur := none, couple := false }
  | some l =>
    if !l.inRun ∨ l.pend.isSome then .done { s with cur := none, couple := false }
    else if needsFetch l then .event (.fetchLine c e) { s with cur := none, couple := false }
    else match instrAt l with
      | some i => .instr i { noteIssue s c with cur := some (c, e), couple := couple }
      | none => .done (trapRec { noteIssue s c with cur := none, couple := false } c e
          { cause := cIllegal, lanes := l.mask, pc := l.pc })

/-- The unit class of a word (10 R241): 0 INT, 1 FLT, 2 XLN, 3 MEM, 4 ASY, 5 SYS. -/
def unitClass (w : Nat) : Nat :=
  match w / 2 ^ 93 % 8 with
  | 1 => 0
  | 2 => 0
  | 3 => 1
  | 4 => 2
  | 5 => 3
  | 6 => 4
  | _ => 5

/-- Slots `i` and `i + 1` of a line may form a couple (10 R241): the PAIR bit, E, and the classes. -/
def mayCouple (line : List Byte) (i : Nat) : Bool :=
  let a := lineSlot line i
  let b := lineSlot line (i + 1)
  linePair line i && decide (i < 4) && !bitN a 88 && unitClass a != 5 && unitClass b != 5 && (unitClass a != unitClass b || unitClass a == 1)

/-- After an instruction has issued: the second of a couple follows in the same ac where the leaf goes on to it (10 R241). -/
def afterIssue (old s : State) : State :=
  let s := { s with free := s.free + 1 }
  let stop : State := { s with cur := none, couple := false }
  match old.couple, issuer old, issuer s with
  | false, some x, some y =>
    match x.leaf.line with
    | some f =>
      if mayCouple f.bytes (x.leaf.pc.toNat % 64 / 12) ∧ y.leaf.inRun ∧ y.leaf.pc = nextPc x.leaf.pc ∧ y.leaf.slot = x.leaf.slot ∧
          y.core = x.core ∧ !needsFetch y.leaf then { s with couple := true } else stop
    | none => stop
  | _, _, _ => stop

/-- A leaf of the core waits for a memory result, a tag or a ring slot (18 R437). -/
def memoryBound (k : Core) : Bool :=
  k.leaves.any (fun p => match p.2.st with
    | .blocked (.tag _) => true
    | .blocked (.tagAny _) => true
    | .blocked (.tagAll _) => true
    | .blocked (.results _) => true
    | .blocked (.walks) => true
    | .blocked (.walkRoom) => true
    | .blocked (.link _) => true
    | .blocked (.ringSlot _ _) => true
    | .blocked (.ringRoom _) => true
    | .blocked (.held _) => true
    | _ => false)

/-- A core after some ticks (18 R434, R437): its clock, the counts of its governor, and the ready times that do not advance. -/
def ageCore (s : State) (c n : Nat) (k : Core) : Core :=
  let t := k.frac + n * (16 - stepOf s c)
  let adv := t / 16
  let seen := adv - b2n (k.lastIssue == k.cycles + 1)
  let steps := k.pass.isSome && k.frozen.isEmpty
  { k with
    cycles := k.cycles + adv, frac := t % 16,
    isCount := if steps then k.isCount + seen else k.isCount,
    msCount := if !steps && memoryBound k then k.msCount + seen else k.msCount,
    leaves := k.leaves.map (fun p => match tfind k.sheets p.2.slot with
      | some h => if suspended s p.2 h && !p.2.inRun then (p.1, { p.2 with since := p.2.since + adv }) else p
      | none => p) }

/-- The energy reports of a microsecond (16 R409): of each cluster for each context with a quota that is resident on it. -/
def quotaReports (s : State) : List Instr :=
  ((s.cores.map (fun c => c.2.sheets.filterMap (fun h =>
    if fld (rawReg s (.cquota h.2.ctx)) 31 0 ≠ 0 then some (c.1 / 4, h.2.ctx) else none))).flatten.eraseDups).map
      (fun p => .quotaReport p.1 p.2)

/-- Idle flits go out on the ports where they are due (19 R456). -/
def sendIdle (s : State) : State :=
  ((List.range 18).filter (flitDue s)).foldl (fun s p => emit (modPort s p (fun q => { q with lastSent := s.ticks })) (.idle p)) s

/-- Time passes: `n` lease ticks (03 R66, 18 R434). -/
def lapse (s : State) (n : Nat) : State :=
  let reports := if (s.ticks + n) / usTicks = s.ticks / usTicks then [] else quotaReports s
  sendIdle { s with ticks := s.ticks + n, cores := s.cores.map (fun c => (c.1, ageCore s c.1 n c.2)), work := s.work ++ reports,
                    cur := none, couple := false }

/-- The ticks until a core's clock has reached an ac. -/
def ticksUntil (s : State) (c t : Nat) : Nat :=
  let k := coreOf s c
  ((t - k.cycles) * 16 - k.frac + (15 - stepOf s c)) / (16 - stepOf s c)

/-- The first leaf in a run that can issue in the present ac of its core. -/
def nextIssuer (s : State) : Option (Nat × Nat) :=
  s.cores.findSome? (fun c => (c.2.leaves.find? (fun p => p.2.inRun && decide (p.2.nextIssue ≤ c.2.cycles))).map
    (fun p => (c.1, p.1)))

end Sys2Proof.Machine
end

