-- ==== Sys2Proof/Machine/Dispatch.lean ====
section
/-!
DEFINITION. One arm for each constructor of `Instr`: a direct call of its meaning.
-/
namespace Sys2Proof.Machine

/-- What an instruction or an event does. -/
def exec (i : Instr) (s : State) : Host.Outcome State Fault Refusal :=
  match i with
  | .bra f => Sys2Proof.Machine.execBra f s
  | .brx f => Sys2Proof.Machine.execBrx f s
  | .call f => Sys2Proof.Machine.execCall f s
  | .callInd f => Sys2Proof.Machine.execCallInd f s
  | .ret f => Sys2Proof.Machine.execRet f s
  | .split f => Sys2Proof.Machine.execSplit f s
  | .join f => Sys2Proof.Machine.execJoin f s
  | .exitL f => Sys2Proof.Machine.execExit f s
  | .yield f => Sys2Proof.Machine.execYield f s
  | .nop f => Sys2Proof.Machine.execNop f s
  | .trap f => Sys2Proof.Machine.execTrap f s
  | .syscall f => Sys2Proof.Machine.execSyscall f s
  | .rtt f => Sys2Proof.Machine.execRtt f s
  | .bkpt f => Sys2Proof.Machine.execBkpt f s
  | .iadd f => Sys2Proof.Machine.execIadd f s
  | .iadd3 f => Sys2Proof.Machine.execIadd3 f s
  | .isub f => Sys2Proof.Machine.execIsub f s
  | .imul f => Sys2Proof.Machine.execImul f s
  | .imulh f => Sys2Proof.Machine.execImulh f s
  | .imad f => Sys2Proof.Machine.execImad f s
  | .imin f => Sys2Proof.Machine.execImin f s
  | .imax f => Sys2Proof.Machine.execImax f s
  | .iabs f => Sys2Proof.Machine.execIabs f s
  | .andB f => Sys2Proof.Machine.execAnd f s
  | .orB f => Sys2Proof.Machine.execOr f s
  | .xorB f => Sys2Proof.Machine.execXor f s
  | .notB f => Sys2Proof.Machine.execNot f s
  | .shl f => Sys2Proof.Machine.execShl f s
  | .shr f => Sys2Proof.Machine.execShr f s
  | .sar f => Sys2Proof.Machine.execSar f s
  | .rot f => Sys2Proof.Machine.execRot f s
  | .bfe f => Sys2Proof.Machine.execBfe f s
  | .bfi f => Sys2Proof.Machine.execBfi f s
  | .popc f => Sys2Proof.Machine.execPopc f s
  | .clz f => Sys2Proof.Machine.execClz f s
  | .brev f => Sys2Proof.Machine.execBrev f s
  | .sel f => Sys2Proof.Machine.execSel f s
  | .mov f => Sys2Proof.Machine.execMov f s
  | .movi f => Sys2Proof.Machine.execMovi f s
  | .lea f => Sys2Proof.Machine.execLea f s
  | .icmp f => Sys2Proof.Machine.execIcmp f s
  | .pset f => Sys2Proof.Machine.execPset f s
  | .plop f => Sys2Proof.Machine.execPlop f s
  | .pmov f => Sys2Proof.Machine.execPmov f s
  | .iaddImm f => Sys2Proof.Machine.execIaddImm f s
  | .isubImm f => Sys2Proof.Machine.execIsubImm f s
  | .imulImm f => Sys2Proof.Machine.execImulImm f s
  | .imulhImm f => Sys2Proof.Machine.execImulhImm f s
  | .iminImm f => Sys2Proof.Machine.execIminImm f s
  | .imaxImm f => Sys2Proof.Machine.execImaxImm f s
  | .andImm f => Sys2Proof.Machine.execAndImm f s
  | .orImm f => Sys2Proof.Machine.execOrImm f s
  | .xorImm f => Sys2Proof.Machine.execXorImm f s
  | .shlImm f => Sys2Proof.Machine.execShlImm f s
  | .shrImm f => Sys2Proof.Machine.execShrImm f s
  | .sarImm f => Sys2Proof.Machine.execSarImm f s
  | .rotImm f => Sys2Proof.Machine.execRotImm f s
  | .leaImm f => Sys2Proof.Machine.execLeaImm f s
  | .icmpImm f => Sys2Proof.Machine.execIcmpImm f s
  | .fadd f => Sys2Proof.Machine.execFadd f s
  | .fsub f => Sys2Proof.Machine.execFsub f s
  | .fmul f => Sys2Proof.Machine.execFmul f s
  | .ffma f => Sys2Proof.Machine.execFfma f s
  | .fmin f => Sys2Proof.Machine.execFmin f s
  | .fmax f => Sys2Proof.Machine.execFmax f s
  | .fcmp f => Sys2Proof.Machine.execFcmp f s
  | .fclass f => Sys2Proof.Machine.execFclass f s
  | .frnd f => Sys2Proof.Machine.execFrnd f s
  | .faddImm f => Sys2Proof.Machine.execFaddImm f s
  | .fsubImm f => Sys2Proof.Machine.execFsubImm f s
  | .fmulImm f => Sys2Proof.Machine.execFmulImm f s
  | .fminImm f => Sys2Proof.Machine.execFminImm f s
  | .fmaxImm f => Sys2Proof.Machine.execFmaxImm f s
  | .fcmpImm f => Sys2Proof.Machine.execFcmpImm f s
  | .cvt f => Sys2Proof.Machine.execCvt f s
  | .rcp f => Sys2Proof.Machine.execRcp f s
  | .rsq f => Sys2Proof.Machine.execRsq f s
  | .sqrt f => Sys2Proof.Machine.execSqrt f s
  | .exp2 f => Sys2Proof.Machine.execExp2 f s
  | .log2 f => Sys2Proof.Machine.execLog2 f s
  | .sin f => Sys2Proof.Machine.execSin f s
  | .cos f => Sys2Proof.Machine.execCos f s
  | .shfl f => Sys2Proof.Machine.execShfl f s
  | .vote f => Sys2Proof.Machine.execVote f s
  | .redux f => Sys2Proof.Machine.execRedux f s
  | .scan f => Sys2Proof.Machine.execScan f s
  | .matchV f => Sys2Proof.Machine.execMatch f s
  | .flagclr f => Sys2Proof.Machine.execFlagclr f s
  | .ld f => Sys2Proof.Machine.execLd f s
  | .st f => Sys2Proof.Machine.execSt f s
  | .stt f => Sys2Proof.Machine.execStt f s
  | .atom f => Sys2Proof.Machine.execAtom f s
  | .red f => Sys2Proof.Machine.execRed f s
  | .pref f => Sys2Proof.Machine.execPref f s
  | .cflush f => Sys2Proof.Machine.execCflush f s
  | .cinv f => Sys2Proof.Machine.execCinv f s
  | .fence f => Sys2Proof.Machine.execFence f s
  | .xlate f => Sys2Proof.Machine.execXlate f s
  | .tdset f => Sys2Proof.Machine.execTdset f s
  | .tdget f => Sys2Proof.Machine.execTdget f s
  | .cpy f => Sys2Proof.Machine.execCpy f s
  | .cpyr f => Sys2Proof.Machine.execCpyr f s
  | .rinit f => Sys2Proof.Machine.execRinit f s
  | .rwait f => Sys2Proof.Machine.execRwait f s
  | .rrel f => Sys2Proof.Machine.execRrel f s
  | .wait f => Sys2Proof.Machine.execWait f s
  | .waitany f => Sys2Proof.Machine.execWaitany f s
  | .waitall f => Sys2Proof.Machine.execWaitall f s
  | .tfirst f => Sys2Proof.Machine.execTfirst f s
  | .ttest f => Sys2Proof.Machine.execTtest f s
  | .tcancel f => Sys2Proof.Machine.execTcancel f s
  | .mxrdy f => Sys2Proof.Machine.execMxrdy f s
  | .mxa f => Sys2Proof.Machine.execMxa f s
  | .mxsp f => Sys2Proof.Machine.execMxsp f s
  | .mxld f => Sys2Proof.Machine.execMxld f s
  | .mxst f => Sys2Proof.Machine.execMxst f s
  | .mxzero f => Sys2Proof.Machine.execMxzero f s
  | .mxsave f => Sys2Proof.Machine.execMxsave f s
  | .mxrest f => Sys2Proof.Machine.execMxrest f s
  | .cbset f => Sys2Proof.Machine.execCbset f s
  | .cbswap f => Sys2Proof.Machine.execCbswap f s
  | .tmask f => Sys2Proof.Machine.execTmask f s
  | .cred f => Sys2Proof.Machine.execCred f s
  | .mcast f => Sys2Proof.Machine.execMcast f s
  | .gnew f => Sys2Proof.Machine.execGnew f s
  | .gjoin f => Sys2Proof.Machine.execGjoin f s
  | .gleave f => Sys2Proof.Machine.execGleave f s
  | .garrive f => Sys2Proof.Machine.execGarrive f s
  | .gvote f => Sys2Proof.Machine.execGvote f s
  | .gred f => Sys2Proof.Machine.execGred f s
  | .gwait f => Sys2Proof.Machine.execGwait f s
  | .gstat f => Sys2Proof.Machine.execGstat f s
  | .gabort f => Sys2Proof.Machine.execGabort f s
  | .gfree f => Sys2Proof.Machine.execGfree f s
  | .launch f => Sys2Proof.Machine.execLaunch f s
  | .ctradd f => Sys2Proof.Machine.execCtradd f s
  | .ctrwait f => Sys2Proof.Machine.execCtrwait f s
  | .cancel f => Sys2Proof.Machine.execCancel f s
  | .sysrd f => Sys2Proof.Machine.execSysrd f s
  | .syswr f => Sys2Proof.Machine.execSyswr f s
  | .tlbinv f => Sys2Proof.Machine.execTlbinv f s
  | .rfclr f => Sys2Proof.Machine.execRfclr f s
  | .mbox f => Sys2Proof.Machine.execMbox f s
  | .irq f => Sys2Proof.Machine.execIrq f s
  | .halt f => Sys2Proof.Machine.execHalt f s
  | .issueGrant core => Sys2Proof.Machine.execIssueGrant core s
  | .fetchLine core entry => Sys2Proof.Machine.execFetchLine core entry s
  | .loadDataReturn acc => Sys2Proof.Machine.execLoadDataReturn acc s
  | .parkedLeafVector core entry => Sys2Proof.Machine.execParkedLeafVector core entry s
  | .splitStallRetry core entry => Sys2Proof.Machine.execSplitStallRetry core entry s
  | .leafExhaustedStall core entry => Sys2Proof.Machine.execLeafExhaustedStall core entry s
  | .joinRelease core entry => Sys2Proof.Machine.execJoinRelease core entry s
  | .sheetComplete core slot => Sys2Proof.Machine.execSheetComplete core slot s
  | .tagComplete op => Sys2Proof.Machine.execTagComplete op s
  | .copyStart op => Sys2Proof.Machine.execCopyStart op s
  | .copyComplete op => Sys2Proof.Machine.execCopyComplete op s
  | .descriptorWriteComplete op => Sys2Proof.Machine.execDescriptorWriteComplete op s
  | .fenceComplete op => Sys2Proof.Machine.execFenceComplete op s
  | .mxrdyComplete op => Sys2Proof.Machine.execMxrdyComplete op s
  | .passStart core => Sys2Proof.Machine.execPassStart core s
  | .fusionWaitExpiry core => Sys2Proof.Machine.execFusionWaitExpiry core s
  | .passComplete core => Sys2Proof.Machine.execPassComplete core s
  | .arrayFreeze core => Sys2Proof.Machine.execArrayFreeze core s
  | .mxsaveComplete op => Sys2Proof.Machine.execMxsaveComplete op s
  | .mxrestComplete op => Sys2Proof.Machine.execMxrestComplete op s
  | .writeBackComplete op => Sys2Proof.Machine.execWriteBackComplete op s
  | .cbsetComplete op => Sys2Proof.Machine.execCbsetComplete op s
  | .credRoundComplete cluster round => Sys2Proof.Machine.execCredRoundComplete cluster round s
  | .rangeOpComplete op => Sys2Proof.Machine.execRangeOpComplete op s
  | .tlbinvComplete op => Sys2Proof.Machine.execTlbinvComplete op s
  | .rfclrComplete op => Sys2Proof.Machine.execRfclrComplete op s
  | .mboxComplete op => Sys2Proof.Machine.execMboxComplete op s
  | .xlateReadReturn op => Sys2Proof.Machine.execXlateReadReturn op s
  | .tlbMissWalk die => Sys2Proof.Machine.execTlbMissWalk die s
  | .walkReadReturn die walk => Sys2Proof.Machine.execWalkReadReturn die walk s
  | .hostCasCompletion acc refused seen => Sys2Proof.Machine.execHostCasCompletion acc refused seen s
  | .atomicopCompletion acc refused old => Sys2Proof.Machine.execAtomicopCompletion acc refused old s
  | .readRequest msg => Sys2Proof.Machine.execReadRequest msg s
  | .readResponse msg => Sys2Proof.Machine.execReadResponse msg s
  | .writeRequest msg => Sys2Proof.Machine.execWriteRequest msg s
  | .invalidation msg => Sys2Proof.Machine.execInvalidation msg s
  | .invalidationAck msg => Sys2Proof.Machine.execInvalidationAck msg s
  | .writeGrant msg => Sys2Proof.Machine.execWriteGrant msg s
  | .prune msg => Sys2Proof.Machine.execPrune msg s
  | .dropNotice msg => Sys2Proof.Machine.execDropNotice msg s
  | .anchorRelease msg => Sys2Proof.Machine.execAnchorRelease msg s
  | .foldDelivery msg => Sys2Proof.Machine.execFoldDelivery msg s
  | .joinRequest msg => Sys2Proof.Machine.execJoinRequest msg s
  | .commutativeGather msg => Sys2Proof.Machine.execCommutativeGather msg s
  | .gatherStart msg => Sys2Proof.Machine.execGatherStart msg s
  | .collect msg => Sys2Proof.Machine.execCollect msg s
  | .unpickRequest msg => Sys2Proof.Machine.execUnpickRequest msg s
  | .uncachedAccess acc => Sys2Proof.Machine.execUncachedAccess acc s
  | .renewalSend cluster => Sys2Proof.Machine.execRenewalSend cluster s
  | .renewal msg => Sys2Proof.Machine.execRenewal msg s
  | .leaseWindowEnd router line => Sys2Proof.Machine.execLeaseWindowEnd router line s
  | .branchLossReport msg => Sys2Proof.Machine.execBranchLossReport msg s
  | .leaseLost msg => Sys2Proof.Machine.execLeaseLost msg s
  | .tileGrant req state data => Sys2Proof.Machine.execTileGrant req state data s
  | .tileInvalidation tile => Sys2Proof.Machine.execTileInvalidation tile s
  | .tileRenewal fab => Sys2Proof.Machine.execTileRenewal fab s
  | .hostPostedWrite w => Sys2Proof.Machine.execHostPostedWrite w s
  | .hostReadRequest r => Sys2Proof.Machine.execHostReadRequest r s
  | .taskDistribution => Sys2Proof.Machine.execTaskDistribution s
  | .distributionWaitLimit ctx launch task => Sys2Proof.Machine.execDistributionWaitLimit ctx launch task s
  | .controlIntervalStart amps temps => Sys2Proof.Machine.execControlIntervalStart amps temps s
  | .quotaReport cluster ctx => Sys2Proof.Machine.execQuotaReport cluster ctx s
  | .governorWindowEnd core => Sys2Proof.Machine.execGovernorWindowEnd core s
  | .voltageSlewDone core => Sys2Proof.Machine.execVoltageSlewDone core s
  | .tokenGrant => Sys2Proof.Machine.execTokenGrant s
  | .tokenReturn core => Sys2Proof.Machine.execTokenReturn core s
  | .preemptDelivery core entry => Sys2Proof.Machine.execPreemptDelivery core entry s
  | .principalDelivery core slot => Sys2Proof.Machine.execPrincipalDelivery core slot s
  | .sheetLeaveResidency core slot => Sys2Proof.Machine.execSheetLeaveResidency core slot s
  | .taskResume ctx launch task => Sys2Proof.Machine.execTaskResume ctx launch task s
  | .cancelKillTimeout core slot => Sys2Proof.Machine.execCancelKillTimeout core slot s
  | .cancelComplete ctx cid => Sys2Proof.Machine.execCancelComplete ctx cid s
  | .launchKill ctx launch why => Sys2Proof.Machine.execLaunchKill ctx launch why s
  | .snapshotPageCopy ctx launch page => Sys2Proof.Machine.execSnapshotPageCopy ctx launch page s
  | .launchRollback ctx launch => Sys2Proof.Machine.execLaunchRollback ctx launch s
  | .phaseDeadlineExpiry idx => Sys2Proof.Machine.execPhaseDeadlineExpiry idx s
  | .pauseCapExpiry idx => Sys2Proof.Machine.execPauseCapExpiry idx s
  | .phaseBegun handle dev kind op => Sys2Proof.Machine.execPhaseBegun handle dev kind op s
  | .phaseStart handle phase => Sys2Proof.Machine.execPhaseStart handle phase s
  | .shadowArrival handle dev lanes part => Sys2Proof.Machine.execShadowArrival handle dev lanes part s
  | .phaseOutcome handle phase status value => Sys2Proof.Machine.execPhaseOutcome handle phase status value s
  | .shadowTimerExpiry idx => Sys2Proof.Machine.execShadowTimerExpiry idx s
  | .shadowGone handle dev => Sys2Proof.Machine.execShadowGone handle dev s
  | .shadowCountReport handle dev lanes => Sys2Proof.Machine.execShadowCountReport handle dev lanes s
  | .flitCrcRetry port good => Sys2Proof.Machine.execFlitCrcRetry port good s
  | .portIdleTimeout port => Sys2Proof.Machine.execPortIdleTimeout port s
  | .portUp port => Sys2Proof.Machine.execPortUp port s
  | .emsenDeadlineExpiry req => Sys2Proof.Machine.execEmsenDeadlineExpiry req s
  | .emsenRequest m => Sys2Proof.Machine.execEmsenRequest m s
  | .emsenResponse req status data => Sys2Proof.Machine.execEmsenResponse req status data s
  | .msixUnmask fn vector => Sys2Proof.Machine.execMsixUnmask fn vector s
  | .functionLevelReset fn => Sys2Proof.Machine.execFunctionLevelReset fn s
  | .lockInterfaceRequest fn => Sys2Proof.Machine.execLockInterfaceRequest fn s
  | .startInterfaceRequest fn => Sys2Proof.Machine.execStartInterfaceRequest fn s
  | .stopInterfaceRequest fn => Sys2Proof.Machine.execStopInterfaceRequest fn s
  | .getDeviceInterfaceReport fn => Sys2Proof.Machine.execGetDeviceInterfaceReport fn s
  | .ideIntegrityFailure fn => Sys2Proof.Machine.execIdeIntegrityFailure fn s
  | .frozenRegisterWrite w => Sys2Proof.Machine.execFrozenRegisterWrite w s
  | .powerOn b => Sys2Proof.Machine.execPowerOn b s
  | .warmReset b => Sys2Proof.Machine.execWarmReset b s
  | .version op => Sys2Proof.Machine.execVersion op s
  | .bootRead op => Sys2Proof.Machine.execBootRead op s
  | .stitchDump op => Sys2Proof.Machine.execStitchDump op s
  | .gatherDump op => Sys2Proof.Machine.execGatherDump op s
  | .debugResume op => Sys2Proof.Machine.execDebugResume op s
  | .bootClear op => Sys2Proof.Machine.execBootClear op s
  | .sclimWrite w => Sys2Proof.Machine.execSclimWrite w s
  | .cleaseWrite w => Sys2Proof.Machine.execCleaseWrite w s
  | .preqWrite w => Sys2Proof.Machine.execPreqWrite w s
  | .tokpoolWrite w => Sys2Proof.Machine.execTokpoolWrite w s
  | .cbudgetWrite w => Sys2Proof.Machine.execCbudgetWrite w s
  | .counterBankWrite w => Sys2Proof.Machine.execCounterBankWrite w s
  | .cxpendClear w => Sys2Proof.Machine.execCxpendClear w s
  | .partitionRegisterWrite w => Sys2Proof.Machine.execPartitionRegisterWrite w s
  | .evctlWrite w => Sys2Proof.Machine.execEvctlWrite w s
  | .mbtailWrite w => Sys2Proof.Machine.execMbtailWrite w s
  | .fabricRegisterWrite w => Sys2Proof.Machine.execFabricRegisterWrite w s
  | .registerWrite w => Sys2Proof.Machine.execRegisterWrite w s
  | .ctrwaitTimeout core entry => Sys2Proof.Machine.execCtrwaitTimeout core entry s
  | .hostAtomicopRequest r => Sys2Proof.Machine.execHostAtomicopRequest r s
  | .hostReadCompletion acc data => Sys2Proof.Machine.execHostReadCompletion acc data s
  | .idleFlit port received => Sys2Proof.Machine.execIdleFlit port received s
  | .contextCreation ctx root table => Sys2Proof.Machine.execContextCreation ctx root table s
  | .contextDestruction ctx => Sys2Proof.Machine.execContextDestruction ctx s

end Sys2Proof.Machine
end

