-- ==== Sys2Proof/Machine/Next.lean ====
section
/-!
DEFINITION. Which row a step runs. What the agenda asks for comes first, then what the rows themselves have posted, then the
first event that the state enables, then a leaf in a run; where nothing can happen, a lease tick passes (log entry 24).
-/
namespace Sys2Proof.Machine

/-- A row happens where it changes something. -/
def effect (s : State) (i : Instr) : Option State :=
  match exec i s with
  | .next t => if t = s then none else some t
  | _ => none

/-- The rows that may move a message on. -/
def msgRows (m : Msg) : List Instr :=
  match m.kind with
  | .read => [.readRequest m.id]
  | .commRead => [.readRequest m.id, .commutativeGather m.id]
  | .readResp => [.readResponse m.id]
  | .joinResp => [.readResponse m.id]
  | .write => [.writeRequest m.id]
  | .inval => [.invalidation m.id]
  | .invalAck => [.invalidationAck m.id]
  | .grant => [.writeGrant m.id]
  | .prune => [.prune m.id]
  | .dropNotice => [.dropNotice m.id]
  | .anchorRelease => [.anchorRelease m.id]
  | .foldDelivery => [.foldDelivery m.id]
  | .join => [.joinRequest m.id]
  | .gatherStart => [.gatherStart m.id]
  | .collect => [.collect m.id]
  | .unpickReq => [.unpickRequest m.id]
  | .renewal => [.renewal m.id]
  | .branchLoss => [.branchLossReport m.id]
  | .leaseLost => [.leaseLost m.id]
  | .rangeFlush => [.rangeOpComplete m.aux]
  | .rangeInv => [.rangeOpComplete m.aux]

/-- The rows that may take an access on (12 R300, 04 R91, 17 R431, 02 R45). A failed host atomic reports once its leaf is at rest. -/
def accRows (s : State) (a : Acc) : List Instr :=
  (if a.fail ≠ 0 then [.atomicopCompletion a.id true 0] else []) ++
  (if depsDone s a && snapNeeded s a then (match sheetOf s a.core a.slot with
    | some h => [.snapshotPageCopy h.ctx h.launch (a.pa / 2 ^ 16)]
    | none => []) else []) ++
  (if atHome s a then [.uncachedAccess a.id] else [.loadDataReturn a.id])

/-- The rows that may take an operation on. -/
def asyncRows (a : Async) : List Instr :=
  match a.kind with
  | .copy _ => [.copyStart a.id, .copyComplete a.id]
  | .tdset _ _ => [.descriptorWriteComplete a.id]
  | .tdget _ _ => [.tagComplete a.id]
  | .stt _ _ _ _ => [.tagComplete a.id]
  | .mxst _ _ _ => [.writeBackComplete a.id]
  | .xlate _ _ _ _ => [.xlateReadReturn a.id]
  | .fence _ _ => [.fenceComplete a.id]
  | .mxrdy _ => [.mxrdyComplete a.id]
  | .range _ _ _ _ _ => [.rangeOpComplete a.id]
  | .cbset _ _ _ _ => [.cbsetComplete a.id]
  | .tlbinv _ _ _ _ => [.tlbinvComplete a.id]
  | .rfclr _ _ => [.rfclrComplete a.id]
  | .mbox _ _ _ _ => [.mboxComplete a.id, .version a.id, .bootRead a.id, .stitchDump a.id, .gatherDump a.id, .debugResume a.id,
      .bootClear a.id]
  | .mxsave _ _ => [.mxsaveComplete a.id]
  | .mxrest _ => [.mxrestComplete a.id]

/-- The rows of the walkers (02 R34). -/
def walkRows (s : State) : List Instr :=
  (s.dies.map (fun d => .tlbMissWalk d.1 :: d.2.active.map (fun w => .walkReadReturn d.1 w.id))).flatten

/-- A line's renewal is due: half a lease has passed since its agent last sent a message for it (03 R67). -/
def lineDue (s : State) (l : CLine) : Bool := decide (l.renewed + leaseTicks s / 2 ≤ s.ticks)

/-- A line of an agent's cache wants renewal (03 R67). -/
def renewalDue (s : State) (k : Nat) : Bool := (clusterOf s k).cache.any (lineDue s)

/-- The rows of leases (03 R67, R68). -/
def leaseRows (s : State) : List Instr :=
  (s.clusters.filterMap (fun c => if c.1 < 157 ∧ renewalDue s c.1 then some (.renewalSend c.1) else none)) ++
  (s.routers.map (fun r => r.2.stitches.filterMap (fun t =>
    if !t.tile && decide (t.lwin ≤ s.ticks) then some (.leaseWindowEnd r.1 t.line) else none))).flatten ++
  ((List.range 4).filter (fun f => (routerOf s (153 + f)).stitches.any (tileDue s) || (heldFor s (153 + f)).any (lineDue s))).map .tileRenewal

/-- The rows of a core's array and clock (08 R192 to R199, 18 R436, R437). -/
def arrayRows (c : Nat) : List Instr :=
  [.passComplete c, .arrayFreeze c, .fusionWaitExpiry c, .passStart c, .tokenReturn c, .governorWindowEnd c, .voltageSlewDone c]

/-- The rows of a core's leaves and sheets. -/
def leafRows (c : Nat) (k : Core) : List Instr :=
  (k.leaves.map (fun p => [.ctrwaitTimeout c p.1, .leafExhaustedStall c p.1, .joinRelease c p.1, .preemptDelivery c p.1,
    .parkedLeafVector c p.1])).flatten ++
  (k.sheets.map (fun h => [.principalDelivery c h.1, .sheetLeaveResidency c h.1, .sheetComplete c h.1, .cancelKillTimeout c h.1])).flatten

/-- The rows of launches and tasks (16 R403 to R413, 17 R427, R431). -/
def workRows (s : State) : List Instr :=
  (s.ctxs.map (fun c => (c.2.levels.filter (fun v => v.2.cancelling)).map (fun v => .cancelComplete c.1 v.1))).flatten ++
  (s.launches.map (fun l => .launchRollback l.ctx l.index ::
    (l.tasks.map (fun t => [.distributionWaitLimit l.ctx l.index t.1] ++
      (if t.2.st = 2 then [.taskResume l.ctx l.index t.1] else []))).flatten)).flatten ++
  (if s.launches.isEmpty then [] else [.taskDistribution])

/-- The start of a control interval that is due (16 R407). Currents and temperatures are inputs from outside: an interval
for which the agenda brings no measurements has none (log entry 29). -/
def intervalRows (s : State) : List Instr :=
  if s.ticks < s.intervalStart + intervalTicks then [] else [.controlIntervalStart 0 []]

/-- The rows that the state may enable, in the order in which they are considered. -/
def deviceRows (s : State) : List Instr :=
  intervalRows s ++ (s.msgs.map msgRows).flatten ++ (s.accs.map (accRows s)).flatten ++ (s.asyncs.map asyncRows).flatten ++ walkRows s ++
  (s.clusters.map (fun c => c.2.rounds.map (fun r => .credRoundComplete c.1 r.id))).flatten ++
  gatherDue s ++ s.emsen.map (fun r => .emsenDeadlineExpiry r.id) ++
  ((List.range 18).filter (idleDue s)).map (fun p => .portIdleTimeout p) ++ leaseRows s ++
  (if s.tokenWait.isEmpty then [] else [.tokenGrant]) ++ (s.cores.map (fun c => arrayRows c.1)).flatten ++
  (s.cores.map (fun c => leafRows c.1 c.2)).flatten ++ workRows s ++
  (s.cores.filter (fun c => !c.2.leaves.isEmpty)).map (fun c => .issueGrant c.1)

/-- What happens where neither the agenda nor `work` says: an enabled event, else a leaf in a run, else a tick passes. -/
def deviceNext (s : State) : Todo :=
  match (deviceRows s).find? (fun i => (effect s i).isSome) with
  | some i => .event i s
  | none =>
    match nextIssuer s with
    | some (c, e) => issueAt s c e false
    | none => .done (lapse s 1)

/-- The agent by which a request from outside reaches this device's HBM (03 R50), the storage lines that it touches, and whether it
writes. -/
def outsideLines (s : State) : Instr → Option (Nat × List Nat × Bool)
  | .hostPostedWrite r => if r.bar = 2 then (bar2Addr s r.fn r.off r.len).map (fun a => (152, reqLines a r.len, true)) else none
  | .hostReadRequest r => if r.bar = 2 then (bar2Addr s r.fn r.off r.len).map (fun a => (152, reqLines a r.len, false)) else none
  | .hostAtomicopRequest r => if r.bar = 2 then (bar2Addr s r.fn r.off r.len).map (fun a => (152, reqLines a r.len, true)) else none
  | .emsenRequest (.read port _ pa n d) =>
    if d < s.ticks then none else (fabAddr s pa n).map (fun a => (portRouter port, reqLines a n, false))
  | .emsenRequest (.write port _ pa d bs) =>
    if d < s.ticks then none else (fabAddr s pa bs.length).map (fun a => (portRouter port, reqLines a bs.length, true))
  | _ => none

/-- An agent holds what an access from outside needs of a line. One of a flagged region it reaches without it: R70 names no fault there. -/
def agentReady (s : State) (r line : Nat) (write : Bool) : Bool :=
  lineFlagged s line || (match cacheLine s r line with
    | some c => if write then c.st == .m || c.st == .e else c.st != .c
    | none => !write && (fabCopies s r line).any (fun h => h.2.st == .s))

/-- An agent asks for a line (03 R55, R59); copies that its router holds for other devices come back first where they conflict. -/
def agentAsk (s : State) (r : Nat) (write : Bool) (line : Nat) : State :=
  match (grantedTo s (tileOf line)).filter (fun d => fabOf s d (tileOf line) == r && (write || granted s d (tileOf line) != 1)) with
  | d :: _ => recallTile s d line r
  | [] => askFor s r line write

/-- An event that the agenda asks for and that must wait: the state in which it does. A request from outside waits until its agent
holds its lines (03 R50, R55, R59), the recall of a tile until nothing is in flight for it, a tile's grant for room for its
stitch (R63), and a message behind those of its line that came before it (R49). -/
def heldBack (s : State) (i : Instr) : Option State :=
  match i with
  | .tileInvalidation t => if (List.range 32).all (fun i => quiet s (32 * t + i)) then none else some s
  | .tileGrant req _ _ =>
    (match s.emsen.find? (fun r => r.id = req) with
     | some ⟨_, _, _, .tile line _ _, _, _, _, _, _⟩ =>
       let r := lineHome s line
       if !peerLine s line || (routerOf s r).stitches.any (fun t => t.tile && t.line == 32 * tileOf line) then none
       else if (freeWayIn s r (tileOf line % 1024)).isSome then none
       else if (routerOf s r).stitches.any (·.unpk) then some s
       else some (makeRoom s r (tileOf line % 1024) none).1
     | _ => none)
  | _ =>
    match outsideLines s i with
    | some (r, ls, w) =>
      if ls.all (fun l => agentReady s r l w) then none
      else some ((ls.filter (fun l => !agentReady s r l w)).foldl (fun s l => agentAsk s r w l) s)
    | none =>
      match s.msgs.find? (fun m => (msgRows m).contains i) with
      | some m =>
        if (ahead s m.id).any (fun x => x.line == m.line && x.at' == m.at' && x.port == m.port && (msgRows x).any (fun j => (effect s j).isSome))
        then some s else none
      | none => none

/-- The agenda's first entry (log entry 24): time, a leaf's issue, or an event; an event that must wait stays. -/
def agendaNext (s : State) (a : Agendum) (rest : List Agendum) : Todo :=
  match a with
  | .lapse n => .done (lapse { s with agenda := rest } n)
  | .issue c e =>
    match leafOf s c e with
    | some l =>
      let t := { s with agenda := rest }
      issueAt (if l.nextIssue ≤ now s c then t else lapse t (ticksUntil s c l.nextIssue)) c e false
    | none => .done { s with agenda := rest }
  | .upset u => .done (applyUpset { s with agenda := rest } u)
  | .event i =>
    if !i.isEvent then .done { s with agenda := rest }
    else match heldBack s i with
      | none => .event i { s with agenda := rest }
      | some t => if t = s then deviceNext s else .done t

/-- What the model does next: the second of a couple, the agenda, `work`, the device. -/
def whatNext (s : State) : Todo :=
  match s.couple, s.cur with
  | true, some (c, e) => issueAt s c e true
  | _, _ =>
    match s.agenda with
    | a :: rest => agendaNext s a rest
    | [] => match s.work with
      | i :: rest => .event i { s with work := rest }
      | [] => deviceNext s

/-- The address, virtual and physical, at which `placeWord` puts a line. -/
def placeVa : Nat := 0x10000

/-- An instruction as slot 0 of a line at `placeVa`, in memory, mapped, fetched, with a leaf of all lanes of core 0 in a run
at it; a sheet of 256 registers and 64 tags is made where core 0 has none in slot 0 (log entry 25). -/
def placeWord (s : State) (w : Nat) : State :=
  let bytes := makeLine [w, canonicalNop, canonicalNop, canonicalNop, canonicalNop] 1
  let k := coreOf s 0
  let h : Sheet := match tfind k.sheets 0 with
    | some h => h
    | none => { ctx := 0, launch := 0, task := 0, index := 0, base := 0, nregs := 256, tbase := 0, ntags := 64 }
  let l : Leaf := { slot := 0, pc := BitVec.ofNat 64 placeVa, mask := BitVec.allOnes 32, inRun := true,
                    line := some { va := placeVa, bytes := bytes } }
  let e : TlbEntry := { ctx := h.ctx, base := placeVa, size := 0x10000, pte := 0x102A3 }
  let s := setCore s 0 { k with sheets := tput k.sheets 0 h, leaves := tput k.leaves 0 l, tlb := e :: k.tlb }
  { putBytes s placeVa bytes with agenda := .issue 0 0 :: s.agenda, cur := none, couple := false, stopped := false, thermalStop := false }

/-- The first entry of the agenda restarts the device (20 R460, R462). -/
def restarts : List Agendum → Bool
  | .event (.powerOn _) :: _ => true
  | .event (.warmReset _) :: _ => true
  | _ => false

end Sys2Proof.Machine
end

