-- ==== Sys2Proof/Machine/Step.lean ====
section
/-!
DEFINITION. One step of the machine: one row of the opcode table, or one lease tick.
-/
namespace Sys2Proof.Machine

/-- One step. After bring-up has stopped only a restart does anything (20 R461, R462). -/
def step (s : State) : Host.Outcome State Fault Refusal :=
  if s.stopped && !restarts s.agenda then .fault .bringUpStopped
  else match whatNext s with
    | .done t => .next t
    | .event i t => exec i t
    | .instr i t =>
      match exec i t with
      | .next u => .next (afterIssue t u)
      | .fault f => .fault f
      | .refused r => .refused r

/-- `s` with an instruction where the next step fetches it (log entry 25). -/
def State.withFetchWord (s : State) (nbits w : Nat) : State := placeWord s (w % 2 ^ nbits)

end Sys2Proof.Machine
end

