-- ==== Sys2Proof/Safety.lean ====
section
/-!
DEFINITION. The terms in which statements about the machine are made: an instruction that passes its checks, what a result
register holds, what a step leaves alone, and the invariant.
-/
namespace Sys2Proof.Machine

/-- Memory is in its canonical form: addresses rising, no listed byte equal to what an unlisted address reads as. -/
abbrev MemoryWf (s : State) : Prop := twf (0 : Byte) s.mem = true

/-- The leaf of `x` issues in `s` an instruction with header `h` that makes the uses `g` of its fields; the checks of 10 R237,
the guard (R236) and the scoreboard (R239, R240) let it go on, and `act`, not empty, are the lanes whose guard is true. -/
structure Runs (s : State) (x : Iss) (h : Hdr) (g : Sig) (act : Mask) : Prop where
  issues : issuer s = some x
  passes : vet s x h g = .go act
  some_lane : act ≠ 0

/-- A v-register may be written in the lanes of `act`: all of them, or it is not poisoned (06 R140). -/
def Writable (s : State) (x : Iss) (act : Mask) (c : Nat) : Prop :=
  act = BitVec.allOnes 32 ∨ tget false (coreOf s x.core).regPoison (x.sheet.base + c) = false

/-- The sheet `h` with the registers, predicates, flags, generators and results in flight of `h'`. -/
def withRegsOf (h h' : Sheet) : Sheet :=
  { h with s := h'.s, h := h'.h, preds := h'.preds, flags := h'.flags, gen := h'.gen, inflight := h'.inflight }

/-- `t` differs from `s` at most in what the sheet of `x` holds in registers, predicates, flags and generators, and in which
words the accesses outstanding will still write. -/
structure RegsOnly (s t : State) (x : Iss) : Prop where
  rest : t = { s with cores := t.cores, accs := t.accs }
  others : ∀ c, c ≠ x.core → coreOf t c = coreOf s c
  core : coreOf t x.core = { coreOf s x.core with
    regs := (coreOf t x.core).regs, regPoison := (coreOf t x.core).regPoison,
    sheets := (coreOf t x.core).sheets, recs := (coreOf t x.core).recs }
  slots : ∀ i, i ≠ x.leaf.slot → sheetOf t x.core i = sheetOf s x.core i
  sheet : ∀ h, sheetOf s x.core x.leaf.slot = some h → ∃ h', sheetOf t x.core x.leaf.slot = some h' ∧
    h' = withRegsOf h h'
  recs : ∀ e, tget {} (coreOf t x.core).recs e =
    { tget {} (coreOf s x.core).recs e with bank := (tget {} (coreOf t x.core).recs e).bank }

/-- The register codes that a result occupies. -/
def resultCodes (c : Nat) (w64 : Bool) : List Nat := if isV c && w64 then [c, c + 1] else [c]

/-- What an instruction asks of its fields, operands and mode (10 R237). -/
def sigOf : Instr → Option (Hdr × Sig)
  | .bra f => some (f.h, sigBra f)
  | .brx f => some (f.h, sigScatterOp f)
  | .call f => some (f.h, sigCall f)
  | .callInd f => some (f.h, sigCallInd f)
  | .ret f => some (f.h, sigScatterOp f)
  | .split f => some (f.h, sigSplit f)
  | .join f => some (f.h, sigJoin f)
  | .exitL f => some (f.h, sigExit f)
  | .yield f => some (f.h, sigYield f)
  | .nop f => some (f.h, sigNop f)
  | .trap f => some (f.h, sigCodeTrap f)
  | .syscall f => some (f.h, sigCodeTrap f)
  | .rtt f => some (f.h, sigRtt f)
  | .bkpt f => some (f.h, sigCodeTrap f)
  | .iadd f => some (f.h, sigIntOp f none true false true false)
  | .iadd3 f => some (f.h, sigIntOp f none true true true false)
  | .isub f => some (f.h, sigIntOp f none true false true false)
  | .imul f => some (f.h, sigIntOp f none true false true false)
  | .imulh f => some (f.h, sigIntOp f none true false false false)
  | .imad f => some (f.h, sigIntOp f none true true true false)
  | .imin f => some (f.h, sigIntOp f none true false false false)
  | .imax f => some (f.h, sigIntOp f none true false false false)
  | .iabs f => some (f.h, sigIntOp f none false false true true)
  | .andB f => some (f.h, sigLogicOp f none true)
  | .orB f => some (f.h, sigLogicOp f none true)
  | .xorB f => some (f.h, sigLogicOp f none true)
  | .notB f => some (f.h, sigLogicOp f none false)
  | .shl f => some (f.h, sigShiftOp f none false)
  | .shr f => some (f.h, sigShiftOp f none false)
  | .sar f => some (f.h, sigShiftOp f none false)
  | .rot f => some (f.h, sigShiftOp f none true)
  | .bfe f => some (f.h, sigBfe f)
  | .bfi f => some (f.h, sigBfi f)
  | .popc f => some (f.h, sigCountOp f)
  | .clz f => some (f.h, sigCountOp f)
  | .brev f => some (f.h, sigLogicOp f none false)
  | .sel f => some (f.h, sigSel f)
  | .mov f => some (f.h, sigMov f)
  | .movi f => some (f.h, sigMovi f)
  | .lea f => some (f.h, sigLeaOp f none)
  | .icmp f => some (f.h, sigIcmpOp f none)
  | .pset f => some (f.h, sigPset f)
  | .plop f => some (f.h, sigPlop f)
  | .pmov f => some (f.h, sigPmov f)
  | .iaddImm f => some (f.h, sigIntOp (asR f) (some f.imm) true false true false)
  | .isubImm f => some (f.h, sigIntOp (asR f) (some f.imm) true false true false)
  | .imulImm f => some (f.h, sigIntOp (asR f) (some f.imm) true false true false)
  | .imulhImm f => some (f.h, sigIntOp (asR f) (some f.imm) true false false false)
  | .iminImm f => some (f.h, sigIntOp (asR f) (some f.imm) true false false false)
  | .imaxImm f => some (f.h, sigIntOp (asR f) (some f.imm) true false false false)
  | .andImm f => some (f.h, sigLogicOp (asR f) (some f.imm) true)
  | .orImm f => some (f.h, sigLogicOp (asR f) (some f.imm) true)
  | .xorImm f => some (f.h, sigLogicOp (asR f) (some f.imm) true)
  | .shlImm f => some (f.h, sigShiftOp (asR f) (some f.imm) false)
  | .shrImm f => some (f.h, sigShiftOp (asR f) (some f.imm) false)
  | .sarImm f => some (f.h, sigShiftOp (asR f) (some f.imm) false)
  | .rotImm f => some (f.h, sigShiftOp (asR f) (some f.imm) true)
  | .leaImm f => some (f.h, sigLeaOp (asR f) (some f.imm))
  | .icmpImm f => some (f.h, sigIcmpOp (asR f) (some f.imm))
  | .fadd f => some (f.h, sigFloatOp f none true false true true)
  | .fsub f => some (f.h, sigFloatOp f none true false true true)
  | .fmul f => some (f.h, sigFloatOp f none true false true true)
  | .ffma f => some (f.h, sigFloatOp f none true true true true)
  | .fmin f => some (f.h, sigFloatOp f none true false false false)
  | .fmax f => some (f.h, sigFloatOp f none true false false false)
  | .fcmp f => some (f.h, sigFcmpOp f none)
  | .fclass f => some (f.h, sigFclass f)
  | .frnd f => some (f.h, sigFloatOp f none false false true false)
  | .faddImm f => some (f.h, sigFloatOp (asR f) (some f.imm) true false true true)
  | .fsubImm f => some (f.h, sigFloatOp (asR f) (some f.imm) true false true true)
  | .fmulImm f => some (f.h, sigFloatOp (asR f) (some f.imm) true false true true)
  | .fminImm f => some (f.h, sigFloatOp (asR f) (some f.imm) true false false false)
  | .fmaxImm f => some (f.h, sigFloatOp (asR f) (some f.imm) true false false false)
  | .fcmpImm f => some (f.h, sigFcmpOp (asR f) (some f.imm))
  | .cvt f => some (f.h, sigCvt f)
  | .rcp f => some (f.h, sigSfuOp 0 f)
  | .rsq f => some (f.h, sigSfuOp 1 f)
  | .sqrt f => some (f.h, sigSfuOp 2 f)
  | .exp2 f => some (f.h, sigSfuOp 3 f)
  | .log2 f => some (f.h, sigSfuOp 4 f)
  | .sin f => some (f.h, sigSfuOp 5 f)
  | .cos f => some (f.h, sigSfuOp 6 f)
  | .shfl f => some (f.h, sigShfl f)
  | .vote f => some (f.h, sigVote f)
  | .redux f => some (f.h, sigRedux f)
  | .scan f => some (f.h, sigScan f)
  | .matchV f => some (f.h, sigMatch f)
  | .flagclr f => some (f.h, sigFlagclr f)
  | .ld f => some (f.h, sigLd f)
  | .st f => some (f.h, sigSt f)
  | .stt f => some (f.h, sigStt f)
  | .atom f => some (f.h, sigAtomOp f false)
  | .red f => some (f.h, sigAtomOp f true)
  | .pref f => some (f.h, sigPref f)
  | .cflush f => some (f.h, sigRangeOp f)
  | .cinv f => some (f.h, sigRangeOp f)
  | .fence f => some (f.h, sigFence f)
  | .xlate f => some (f.h, sigXlate f)
  | .tdset f => some (f.h, sigTdset f)
  | .tdget f => some (f.h, sigTdget f)
  | .cpy f => some (f.h, sigCpy f)
  | .cpyr f => some (f.h, sigCpyr f)
  | .rinit f => some (f.h, sigRinit f)
  | .rwait f => some (f.h, sigRwait f)
  | .rrel f => some (f.h, sigRrel f)
  | .wait f => some (f.h, sigWait f)
  | .waitany f => some (f.h, sigWaitany f)
  | .waitall f => some (f.h, sigWaitall f)
  | .tfirst f => some (f.h, sigTfirst f)
  | .ttest f => some (f.h, sigTtest f)
  | .tcancel f => some (f.h, sigTcancel f)
  | .mxrdy f => some (f.h, sigMxrdy f)
  | .mxa f => some (f.h, sigMatrixOp f)
  | .mxsp f => some (f.h, sigMatrixOp f)
  | .mxld f => some (f.h, sigMxld f)
  | .mxst f => some (f.h, sigMxst f)
  | .mxzero f => some (f.h, sigMxzero f)
  | .mxsave f => some (f.h, sigMxsave f)
  | .mxrest f => some (f.h, sigMxrest f)
  | .cbset f => some (f.h, sigCbset f)
  | .cbswap f => some (f.h, sigCbswap f)
  | .tmask f => some (f.h, sigTmask f)
  | .cred f => some (f.h, sigCred f)
  | .mcast f => some (f.h, sigMcast f)
  | .gnew f => some (f.h, sigGnew f)
  | .gjoin f => some (f.h, sigGjoin f)
  | .gleave f => some (f.h, sigGleave f)
  | .garrive f => some (f.h, sigArriveOp f .unused (f.sub == 0))
  | .gvote f => some (f.h, sigArriveOp f .pred (f.sub == 1))
  | .gred f => some (f.h, sigArriveOp f (.src .i32) (f.sub.toNat % 16 == 2 && f.sub.toNat / 16 ≤ 10))
  | .gwait f => some (f.h, sigGwait f)
  | .gstat f => some (f.h, sigGstat f)
  | .gabort f => some (f.h, sigGabort f)
  | .gfree f => some (f.h, sigGfree f)
  | .launch f => some (f.h, sigLaunch f)
  | .ctradd f => some (f.h, sigCtradd f)
  | .ctrwait f => some (f.h, sigCtrwait f)
  | .cancel f => some (f.h, sigCancel f)
  | .sysrd f => some (f.h, sigSysrd f)
  | .syswr f => some (f.h, sigSyswr f)
  | .tlbinv f => some (f.h, sigTlbinv f)
  | .rfclr f => some (f.h, sigRfclr f)
  | .mbox f => some (f.h, sigMbox f)
  | .irq f => some (f.h, sigIrq f)
  | .halt f => some (f.h, sigHalt f)
  | _ => none

/-- The instructions that only compute in registers: the codes that they write, and whether they write flags. -/
def regShape : Instr → Option (List Nat × Bool)
  | .iadd f => some (resultCodes f.dst.toNat (f.tw == 3), false)
  | .iadd3 f => some (resultCodes f.dst.toNat (f.tw == 3), false)
  | .isub f => some (resultCodes f.dst.toNat (f.tw == 3), false)
  | .imul f => some (resultCodes f.dst.toNat (f.tw == 3), false)
  | .imulh f => some (resultCodes f.dst.toNat (f.tw == 3), false)
  | .imad f => some (resultCodes f.dst.toNat (f.tw == 3), false)
  | .imin f => some (resultCodes f.dst.toNat (f.tw == 3), false)
  | .imax f => some (resultCodes f.dst.toNat (f.tw == 3), false)
  | .iabs f => some (resultCodes f.dst.toNat (f.tw == 3), false)
  | .andB f => some (resultCodes f.dst.toNat (f.tw == 3), false)
  | .orB f => some (resultCodes f.dst.toNat (f.tw == 3), false)
  | .xorB f => some (resultCodes f.dst.toNat (f.tw == 3), false)
  | .notB f => some (resultCodes f.dst.toNat (f.tw == 3), false)
  | .brev f => some (resultCodes f.dst.toNat (f.tw == 3), false)
  | .shl f => some (resultCodes f.dst.toNat (f.tw == 3), false)
  | .shr f => some (resultCodes f.dst.toNat (f.tw == 3), false)
  | .sar f => some (resultCodes f.dst.toNat (f.tw == 3), false)
  | .rot f => some (resultCodes f.dst.toNat (f.tw == 3), false)
  | .bfe f => some (resultCodes f.dst.toNat (f.tw == 3), false)
  | .bfi f => some (resultCodes f.dst.toNat (f.tw == 3), false)
  | .popc f => some ([f.dst.toNat], false)
  | .clz f => some ([f.dst.toNat], false)
  | .sel f => some (resultCodes f.dst.toNat (f.tw == 3), false)
  | .mov f => some (resultCodes f.dst.toNat (f.tw == 3), false)
  | .movi f => some (resultCodes f.dst.toNat (f.tw == 3 && f.h.cls != 4), false)
  | .lea f => some (resultCodes f.dst.toNat true, false)
  | .icmp f => some ([f.dst.toNat, f.dst2.toNat], false)
  | .pset f => some ([f.dst.toNat], false)
  | .plop f => some ([f.dst.toNat], false)
  | .pmov f => some (if f.mod = 0 then [f.dst.toNat] else (List.range 7).map (· + 0x190), f.mod == 2)
  | .iaddImm f => some (resultCodes f.dst.toNat (f.tw == 3), false)
  | .isubImm f => some (resultCodes f.dst.toNat (f.tw == 3), false)
  | .imulImm f => some (resultCodes f.dst.toNat (f.tw == 3), false)
  | .imulhImm f => some (resultCodes f.dst.toNat (f.tw == 3), false)
  | .iminImm f => some (resultCodes f.dst.toNat (f.tw == 3), false)
  | .imaxImm f => some (resultCodes f.dst.toNat (f.tw == 3), false)
  | .andImm f => some (resultCodes f.dst.toNat (f.tw == 3), false)
  | .orImm f => some (resultCodes f.dst.toNat (f.tw == 3), false)
  | .xorImm f => some (resultCodes f.dst.toNat (f.tw == 3), false)
  | .shlImm f => some (resultCodes f.dst.toNat (f.tw == 3), false)
  | .shrImm f => some (resultCodes f.dst.toNat (f.tw == 3), false)
  | .sarImm f => some (resultCodes f.dst.toNat (f.tw == 3), false)
  | .rotImm f => some (resultCodes f.dst.toNat (f.tw == 3), false)
  | .leaImm f => some (resultCodes f.dst.toNat true, false)
  | .icmpImm f => some ([f.dst.toNat], false)
  | .fadd f => some ([f.dst.toNat], true)
  | .fsub f => some ([f.dst.toNat], true)
  | .fmul f => some ([f.dst.toNat], true)
  | .ffma f => some ([f.dst.toNat], true)
  | .fmin f => some ([f.dst.toNat], true)
  | .fmax f => some ([f.dst.toNat], true)
  | .frnd f => some ([f.dst.toNat], true)
  | .fcmp f => some ([f.dst.toNat, f.dst2.toNat], true)
  | .fclass f => some ([f.dst.toNat], false)
  | .faddImm f => some ([f.dst.toNat], true)
  | .fsubImm f => some ([f.dst.toNat], true)
  | .fmulImm f => some ([f.dst.toNat], true)
  | .fminImm f => some ([f.dst.toNat], true)
  | .fmaxImm f => some ([f.dst.toNat], true)
  | .fcmpImm f => some ([f.dst.toNat], true)
  | .rcp f => some ([f.dst.toNat], true)
  | .rsq f => some ([f.dst.toNat], true)
  | .sqrt f => some ([f.dst.toNat], true)
  | .exp2 f => some ([f.dst.toNat], true)
  | .log2 f => some ([f.dst.toNat], true)
  | .sin f => some ([f.dst.toNat], true)
  | .cos f => some ([f.dst.toNat], true)
  | .shfl f => some (f.dst2.toNat :: resultCodes f.dst.toNat (f.tw == 3), false)
  | .vote f => some ([f.dst.toNat], false)
  | .redux f => some (resultCodes f.dst.toNat (f.tw == 3), true)
  | .scan f => some (resultCodes f.dst.toNat (f.tw == 3), true)
  | .matchV f => some ([f.dst.toNat, f.dst2.toNat], false)
  | .flagclr _ => some ([], true)
  | _ => none

/-- Instructions that do more than compute in registers, with the codes that they write as they issue. -/
def opShape : Instr → Option (List Nat)
  | .cvt f => some ([f.dst.toNat, f.dst.toNat + 1, f.dst2.toNat] ++ (List.range 5).map (· + 0x198))
  | .rinit _ => some ([])
  | .rwait f => some ([f.dst.toNat])
  | .rrel _ => some ([])
  | .wait f => some ([f.dst.toNat])
  | .waitany f => some ([f.dst.toNat])
  | .waitall f => some ([f.dst.toNat])
  | .tfirst f => some ([f.dst.toNat])
  | .ttest f => some (f.dst.toNat :: resultCodes f.opd.toNat true)
  | .tcancel _ => some ([])
  | .mxa _ => some ([])
  | .mxsp _ => some ([])
  | .mxst _ => some ([])
  | .mxzero _ => some ([])
  | .mxsave _ => some ([])
  | .mxrest _ => some ([])
  | .cbswap _ => some ([])
  | .cred _ => some ([])
  | .gnew f => some ([f.dst.toNat, f.opc.toNat])
  | .gjoin f => some ([f.dst.toNat])
  | .gleave f => some ([f.dst.toNat])
  | .gwait f => some (resultCodes f.dst.toNat true)
  | .gstat f => some (resultCodes f.dst.toNat true)
  | .gabort f => some ([f.dst.toNat])
  | .gfree f => some ([f.dst.toNat])
  | .launch f => some (resultCodes f.dst.toNat true)
  | .ctradd f => some ([f.dst.toNat])
  | .ctrwait f => some (resultCodes f.dst.toNat true)
  | .cancel f => some ([f.dst.toNat])
  | .sysrd f => some (resultCodes f.dst.toNat true)
  | .syswr _ => some ([])
  | .irq _ => some ([])
  | .halt _ => some ([])
  | .garrive _ => some ([])
  | .gvote _ => some ([])
  | .gred _ => some ([])
  | _ => none

/-- Every register, predicate and flag of the sheet of `x` but those of the codes `ws` is in `t` as it was, and so are the registers of
every other core. -/
def ElemsKept (s t : State) (x : Iss) (ws : List Nat) : Prop :=
  (∀ c l, l < 32 → c ∉ ws → rawElem t x c l = rawElem s x c l) ∧ ∀ c, c ≠ x.core → (coreOf t c).regs = (coreOf s c).regs

/-- What a step does once it has an instruction to issue: `exec` of it, and what follows an issue (10 R241). -/
def issued (i : Instr) (u : State) : Host.Outcome State Fault Refusal :=
  match exec i u with
  | .next t => .next (afterIssue u t)
  | .fault f => .fault f
  | .refused r => .refused r

/-- The leaf of `x` stands at `pc` in `t`, with the lanes `m`, in the same sheet, mode and handler as before. -/
def StandsAt (t : State) (x : Iss) (m : Mask) (pc : DWord) : Prop :=
  ∃ l, leafOf t x.core x.entry = some l ∧ l.pc = pc ∧ l.mask = m ∧ l.slot = x.leaf.slot ∧ l.priv = x.leaf.priv ∧
    l.handler = x.leaf.handler

/-- The leaf of `x` has gone on, whole, to its next instruction. -/
def GoneOn (t : State) (x : Iss) : Prop := StandsAt t x x.leaf.mask (nextPc x.leaf.pc)

/-- What register `c` holds in `t` after a 32-bit result `v` in the lanes `act` (06 R135, 11 R259): a v-register in each of
the lanes, an s-register the value of the lowest lane, extended by
the type, an h-register the value of the lowest lane. -/
def Holds32 (t : State) (x : Iss) (act : Mask) (c : Nat) (sx : Bool) (v : Nat → Nat) : Prop :=
  (isV c = true → ∀ l, act.has l = true → rawElem t x c l = v l % 2 ^ 32) ∧
  (isS c = true → ∀ low, lowLane act = some low →
    rawElem t x c 0 = if sx then wrapZ 64 (sgnN 32 (v low)) else v low % 2 ^ 32) ∧
  (isH c = true → ∀ low, lowLane act = some low → rawElem t x c 0 = v low % 2 ^ 32)

/-- What register `c` holds in `t` after a 64-bit result: a pair of v-registers, low word first, or an s- or
h-register. -/
def Holds64 (t : State) (x : Iss) (act : Mask) (c : Nat) (v : Nat → Nat) : Prop :=
  (isV c = true → ∀ l, act.has l = true →
    rawElem t x c l = v l % 2 ^ 32 ∧ rawElem t x (c + 1) l = v l / 2 ^ 32 % 2 ^ 32) ∧
  (isS c = true → ∀ low, lowLane act = some low → rawElem t x c 0 = v low % 2 ^ 64) ∧
  (isH c = true → ∀ low, lowLane act = some low → rawElem t x c 0 = v low % 2 ^ 32)

/-- What register `c` holds after a result of 32 or 64 bits. -/
def Holds (t : State) (x : Iss) (act : Mask) (c : Nat) (w64 sx : Bool) (v : Nat → Nat) : Prop :=
  if w64 then Holds64 t x act c v else Holds32 t x act c sx v

/-- What predicate `c` holds in the lanes `act`; p7 stays as it is, and 0x1FF holds nothing (06 R133, R138). -/
def HoldsPred (t : State) (x : Iss) (act : Mask) (c : Nat) (v : Nat → Bool) : Prop :=
  isP c = true → c ≠ 0x197 → ∀ l, act.has l = true → rawElem t x c l = b2n (v l)

/-- The registers that a result of `c` needs may be written. -/
def WritableTo (s : State) (x : Iss) (act : Mask) (c : Nat) (w64 : Bool) : Prop :=
  isV c = true → Writable s x act c ∧ (w64 = true → Writable s x act (c + 1))

/-- `i`, run by a leaf that passes its checks, completes: the leaf goes on to the next instruction, and register `c` holds in
each lane `l` of `act` a value that stands in `P` to the state before. -/
def Gives (i : Instr) (h : Hdr) (g : Sig) (c : Nat) (w64 sx : Bool) (P : State → Iss → Mask → Nat → Nat → Prop) : Prop :=
  ∀ s x act, Runs s x h g act → WritableTo s x act c w64 →
    ∃ t v, exec i s = .next t ∧ GoneOn t x ∧ Holds t x act c w64 sx v ∧ ∀ l, act.has l = true → P s x act l (v l)

/-- `i` completes, and predicate `c` and, where `c2` names one other than `c`, predicate `c2` hold bits that stand in `P` and
`Q` to the state before. -/
def GivesPred (i : Instr) (h : Hdr) (g : Sig) (c c2 : Nat) (P Q : State → Iss → Mask → Nat → Bool → Prop) : Prop :=
  ∀ s x act, Runs s x h g act →
    ∃ t v w, exec i s = .next t ∧ GoneOn t x ∧ (c ≠ c2 → HoldsPred t x act c v) ∧ HoldsPred t x act c2 w ∧
      ∀ l, act.has l = true → P s x act l (v l) ∧ Q s x act l (w l)

/-- A w-bit operand as the class reads it (11 R260): two's complement, or unsigned. -/
def asClass (w : Nat) (sgn : Bool) (v : Nat) : Int := if sgn then (BitVec.ofNat w v).toInt else ((BitVec.ofNat w v).toNat : Int)

/-- An immediate as the class reads it (10 R243). -/
def immClass (sgn : Bool) (i : BitVec 32) : Int := if sgn then i.toInt else (i.toNat : Int)

/-- The least and the greatest value of an integer type. -/
def typeBounds (w : Nat) (sgn : Bool) : Int × Int :=
  if sgn then (-(2 : Int) ^ (w - 1), (2 : Int) ^ (w - 1) - 1) else (0, (2 : Int) ^ w - 1)

/-- How 11 R260 forms y from the exact x. -/
def formed (w : Nat) (sgn sat : Bool) (x : Int) : Nat :=
  let b := typeBounds w sgn
  let y := if sat then (if x < b.1 then b.1 else if b.2 < x then b.2 else x) else x
  (y % (2 : Int) ^ w).toNat

/-- `i` writes the value that R260 forms from the exact result `z` of sources a, b and c; b is `imm` where it has one. -/
def IntGives (i : Instr) (f : FmtR) (g : Sig) (w : Nat) (sgn : Bool) (imm : Option Int) (z : Int → Int → Int → Int) : Prop :=
  Gives i f.h g f.dst.toNat (w = 64) sgn (fun s x _ l y => y = formed w sgn f.sat (z
    (asClass w sgn (readOpd s x (rdW w) f.opa.toNat l))
    (imm.getD (asClass w sgn (readOpd s x (rdW w) f.opb.toNat l)))
    (asClass w sgn (readOpd s x (rdW w) f.opc.toNat l))))

/-- `i` writes the bits that `z` makes of the w-bit sources a and b; b is `imm` where it has one. -/
def BitsGives (i : Instr) (f : FmtR) (g : Sig) (w : Nat) (imm : Option (BitVec w)) (z : BitVec w → BitVec w → BitVec w) : Prop :=
  Gives i f.h g f.dst.toNat (w = 64) false (fun s x _ l y => y = (z
    (BitVec.ofNat w (readOpd s x (rdW w) f.opa.toNat l))
    (imm.getD (BitVec.ofNat w (readOpd s x (rdW w) f.opb.toNat l)))).toNat)

/-- `i` writes what `z` makes of the w-bit source a and the count n; n is `imm` where it has one. -/
def ShiftGives (i : Instr) (f : FmtR) (g : Sig) (w : Nat) (imm : Option Nat) (z : BitVec w → Nat → BitVec w) : Prop :=
  Gives i f.h g f.dst.toNat (w = 64) false (fun s x _ l y => y = (z
    (BitVec.ofNat w (readOpd s x (rdW w) f.opa.toNat l))
    (imm.getD (readOpd s x .i32 f.opb.toNat l))).toNat)

/-- Sticky flag `i` of a lane of the issuing sheet. -/
def flagBit (s : State) (x : Iss) (i l : Nat) : Bool := rawElem s x (0x198 + i) l != 0

/-- The sticky flags after an instruction that raises `fl l` in each lane of `act` (11 R287): set where raised, as they were
elsewhere. -/
def FlagsRaised (s t : State) (x : Iss) (act : Mask) (fl : Nat → Flags) : Prop :=
  ∀ l, act.has l = true → ∀ i, i < 5 → flagBit t x i l = (flagBit s x i l || (fl l).getLsbD i)

/-- `i` completes, its destination holds the code of what `op` makes of the lane's sources, and its flags are raised. -/
def FloatGives (i : Instr) (h : Hdr) (g : Sig) (c : Nat) (op : State → Iss → Mask → Nat → Out) : Prop :=
  ∀ s x act, Runs s x h g act → WritableTo s x act c false →
    ∃ t, exec i s = .next t ∧ GoneOn t x ∧ Holds32 t x act c false (fun l => (op s x act l).code) ∧
      FlagsRaised s t x act (fun l => (op s x act l).flags)

/-- What `op` makes of the sources of a floating instruction in a lane; source b is `imm` where it has one. -/
def floatSrc (f : FmtR) (imm : Option Nat) (op : Bool → RMode → Bool → Fmt → Nat → Nat → Nat → Out) (s : State) (x : Iss)
    (_ : Mask) (l : Nat) : Out :=
  let t := floatRd f.tw
  perHalf f.tw (op x.sheet.ftz (rmode f.rnd) f.sat) (readOpd s x t f.opa.toNat l)
    (imm.getD (readOpd s x t f.opb.toNat l)) (readOpd s x t f.opc.toNat l)

/-- The condition that MOD<2:0> selects for ICMP (11 R266). -/
def icmpCond (m : Nat) (a b : Int) : Prop :=
  if m = 0 then a = b else if m = 1 then a ≠ b else if m = 2 then a < b else if m = 3 then a ≤ b
  else if m = 4 then a > b else a ≥ b

/-- The condition that MOD<2:0> selects for FCMP, on operands read under flush-to-zero (11 R272). -/
def fcmpCond (m : Nat) (a b : FVal) : Prop :=
  let n := isNaN a = true ∨ isNaN b = true
  if m = 0 then ¬ n ∧ eqF a b = true else if m = 1 then n ∨ eqF a b = false
  else if m = 2 then ¬ n ∧ ltF a b = true else if m = 3 then ¬ n ∧ ltF b a = false
  else if m = 4 then ¬ n ∧ ltF b a = true else if m = 5 then ¬ n ∧ ltF a b = false
  else if m = 6 then ¬ n else n

/-- When FCMP sets e0 (11 R272). -/
def fcmpInvalid (m : Nat) (a b : FVal) : Prop :=
  if 2 ≤ m ∧ m ≤ 5 then isNaN a = true ∨ isNaN b = true else isSig a = true ∨ isSig b = true

/-- Entry `e` of the core of `x` holds in `t` a leaf of its sheet with the lanes `m` at `pc`, unless something else holds it. -/
def LeafAt (t : State) (x : Iss) (e : Nat) (m : Mask) (pc : DWord) : Prop :=
  ∃ l, leafOf t x.core e = some l ∧ l.slot = x.leaf.slot ∧ l.mask = m ∧ l.pc = pc ∧ l.priv = x.leaf.priv

/-- The state in which an instruction that passes its checks has its effect: the tags it reads are consumed (05 R127). -/
def afterChecks (s : State) (x : Iss) (g : Sig) (act : Mask) : State := consumeSrc s x g.uses act

/-- `i` transfers the lanes `tm` of its leaf to `pc` and the others to the next instruction (06 R148, R149, 11 R288, R289).
With no lane to transfer the leaf goes on. A target that fails its check takes a CONTROL trap. A leaf all of whose lanes
transfer stands whole at the target. Else it divides: the side that `first` names keeps the leaf's entry and the other takes
the first free pool entry; with the pool empty the leaf stalls undivided at its instruction. -/
def Transfers (i : Instr) (h : Hdr) (g : Sig) (tgt first : Bool) (tm : State → Iss → Mask → Mask)
    (pc : State → Iss → Mask → DWord) : Prop :=
  ∀ s x act, Runs s x h g act →
    let m := tm s x act
    let a := pc s x act
    let n := x.leaf.mask &&& ~~~m
    let c := (checkTarget (afterChecks s x g act) x.core x.sheet.ctx x.leaf.priv a tgt).1
    let next := nextPc x.leaf.pc
    (m = 0 → ∃ t, exec i s = .next t ∧ GoneOn t x) ∧
    (m ≠ 0 → c ≠ 0 → exec i s = .next (sheetTrap (afterChecks s x g act) x cControl c)) ∧
    (m ≠ 0 → c = 0 → n = 0 → ∃ t, exec i s = .next t ∧ StandsAt t x x.leaf.mask a) ∧
    (m ≠ 0 → c = 0 → n ≠ 0 → ∀ e p, poolFree s x.core = e :: p → ∃ t, exec i s = .next t ∧
      (if first then LeafAt t x x.entry m a ∧ LeafAt t x e n next else LeafAt t x x.entry n next ∧ LeafAt t x e m a)) ∧
    (m ≠ 0 → c = 0 → n ≠ 0 → poolFree s x.core = [] → ∃ t l, exec i s = .next t ∧ leafOf t x.core x.entry = some l ∧
      l.st = .splitStalled (now s x.core) ∧ l.pc = x.leaf.pc ∧ l.mask = x.leaf.mask)

/-- A fault record that a sheet trap of the whole leaf leaves (17 R419, R421). -/
def TrapRecorded (t : State) (x : Iss) (cause status : Nat) : Prop :=
  ∃ r, tfind (coreOf t x.core).recs x.entry = some r ∧ r.v = true ∧ r.cause = cause ∧ r.status = status ∧
    r.pc = x.leaf.pc ∧ r.lanes = x.leaf.mask ∧ r.lmask = x.leaf.mask ∧ r.kleaf = false ∧ r.klaunch = false

/-- The leaf of `x` runs in `t` the handler of `cause`, at `pc`, privileged (17 R421). -/
def InHandler (t : State) (x : Iss) (cause : Nat) (pc : DWord) : Prop :=
  ∃ l, leafOf t x.core x.entry = some l ∧ l.pc = pc ∧ l.priv = true ∧ l.st = .trapped ∧ l.handler = cause ∧
    l.mask = x.leaf.mask ∧ l.slot = x.leaf.slot

/-- The tag that operand `c` names is ready (05 R127). -/
def TagFree (s : State) (x : Iss) (c : Opd) : Prop := (tagOf s x.core (tagNo x.sheet c.toNat)).ready = true

/-- The tag that operand `c` names is pending, with status 0. -/
def TagTaken (t : State) (x : Iss) (c : Opd) : Prop :=
  (tagOf t x.core (tagNo x.sheet c.toNat)).ready = false ∧ (tagOf t x.core (tagNo x.sheet c.toNat)).status = 0

/-- The tag that operand `c` names is ready with the status. -/
def TagDone (t : State) (x : Iss) (c : Opd) (st : BitVec 4) : Prop :=
  (tagOf t x.core (tagNo x.sheet c.toNat)).ready = true ∧ (tagOf t x.core (tagNo x.sheet c.toNat)).status = st

/-- An operation of the leaf of `x` is in progress in `t` that completes the tag `tag` of its core; 64 is no tag. -/
def InProgress (t : State) (x : Iss) (act : Mask) (tag : Nat) (scope : BitVec 3) (kind : AsyncKind) : Prop :=
  ∃ a ∈ t.asyncs, a.core = x.core ∧ a.slot = x.leaf.slot ∧ a.ctx = x.sheet.ctx ∧ a.launch = x.sheet.launch ∧
    a.task = x.sheet.task ∧ a.tag = tag ∧ a.scope = scope ∧ a.mask = act ∧ a.priv = x.leaf.priv ∧
    a.started = false ∧ a.cancelled = false ∧ a.kind = kind

/-- Where `cond` holds, `i` starts an operation on the tag of operand `c`, which is pending from then on, and the leaf goes
on; a tag that is pending already makes it take CONTROL with TAG-PENDING (12 R315). -/
def Starts (i : Instr) (h : Hdr) (g : Sig) (c : Opd) (scope : BitVec 3) (cond : State → Iss → Mask → Prop)
    (kind : State → Iss → Mask → AsyncKind) : Prop :=
  ∀ s x act, Runs s x h g act → cond s x act →
    (TagFree s x c → ∃ t, exec i s = .next t ∧ GoneOn t x ∧ TagTaken t x c ∧ t.mem = s.mem ∧ ElemsKept s t x [] ∧
      InProgress t x act (tagNo x.sheet c.toNat) scope (kind s x act)) ∧
    (¬ TagFree s x c → exec i s = .next (sheetTrap (afterChecks s x g act) x cControl ctlTagPending))

/-- The leaf of `x` waits in `t`, at its instruction. -/
def WaitsFor (t : State) (x : Iss) (w : Wait) : Prop :=
  ∃ l, leafOf t x.core x.entry = some l ∧ l.st = .blocked w ∧ l.pc = x.leaf.pc ∧ l.mask = x.leaf.mask ∧ l.inRun = false

/-- The descriptor id that operand `c` of a leaf holds in its leader lane, and the stored image (05 R108, 12 R314). -/
def idOf (s : State) (x : Iss) (act : Mask) (c : Opd) : Nat := uniOpd s x act .i32 c.toNat

/-- The stored image of that descriptor. -/
def imgOf (s : State) (x : Iss) (act : Mask) (c : Opd) : Img := descOf s x.sheet.ctx (idOf s x act c)

/-- The registers `codes`, which a descriptor makes the instruction read, can be read: none too early under STALL-SHORT checking, none
waited for, none poisoned (10 R239, R240, 06 R141). -/
def ReadsPass (s : State) (x : Iss) (codes : List Nat) (act : Mask) : Prop :=
  (x.sheet.chk && tooEarly s x codes act) = false ∧ pendingOn s x codes act = [] ∧ poisonedAny s x codes = false

/-- Nothing stands before a relaxed load of the leader lane (09 R208, R212), and no peer holds what it reads (19 R458). -/
def LoadFree (s : State) (x : Iss) (act : Mask) (va n : Nat) : Prop :=
  (∀ l, lowLane act = some l → depsAll s x .load 0 [(l, va, n)] = []) ∧ peerParts s (leafEng x) va n 0 = []

/-- The coordinates of a copy may be read and pass the checks of 05 R117. -/
def CoordsPass (s : State) (x : Iss) (act : Mask) (id c : Opd) : Prop :=
  opdLegal x.sheet (.coords (max 1 (tRank (imgOf s x act id)))) c.toNat = true ∧
  ReadsPass s x ((List.range (tRank (imgOf s x act id))).map (· + c.toNat)) act ∧
  copyCheck (imgOf s x act id) (idOf s x act id) (copyCoords s x act c.toNat (tRank (imgOf s x act id))) = 0

/-- The leaf has gone on and its destination holds a result that is the same in every active lane. -/
def Answered (t : State) (x : Iss) (act : Mask) (c : Opd) (w64 : Bool) (v : Nat) : Prop :=
  GoneOn t x ∧ Holds t x act c.toNat w64 false (fun _ => v)

/-- Slot `k` of the membership slots of the sheet of `x` (15 R384). -/
def slotIn (t : State) (x : Iss) (k : Nat) : Member := ((sheetOf t x.core x.leaf.slot).map (fun h => tget {} h.slots k)).getD {}

/-- The value of a phase of the contributions `vs` under the kind and operator of its arrivals (14 R359); the operators named
here are ADD, signed MIN and MAX, AND, OR and FP32 ADD. -/
def PhaseValueIs (kind op : Nat) (vs : List Word) (v : Word) : Prop :=
  (kind = 1 → v = 0) ∧ (kind = 2 ∨ kind = 3 ∧ op = 0 → v = vs.sum) ∧
  (kind = 3 → op = 1 → v ∈ vs ∧ ∀ w ∈ vs, v.sle w = true) ∧ (kind = 3 → op = 2 → v ∈ vs ∧ ∀ w ∈ vs, w.sle v = true) ∧
  (kind = 3 → op = 5 → ∀ i, i < 32 → (v.getLsbD i = true ↔ ∀ w ∈ vs, w.getLsbD i = true)) ∧
  (kind = 3 → op = 6 → ∀ i, i < 32 → (v.getLsbD i = true ↔ ∃ w ∈ vs, w.getLsbD i = true)) ∧
  (kind = 3 → op = 8 → (∀ w ∈ vs, ∃ n m e, decodeF .f32 w.toNat = .fin n m e) →
    v = BitVec.ofNat 32 (rneF32 (exSum ((vs.map (fun w => match decodeF .f32 w.toNat with
      | .fin n m e => scaled n m e (-149)
      | _ => 0)).sum) (-149) false)))

/-- An access of lane `l` of the leaf of `x` is outstanding in `t`, with what the fields of the instruction give it; its data go to or
come from the registers from `dst`. -/
def AccessListed (t : State) (x : Iss) (f : FmtM) (kind : AccKind) (bytes l addr pa : Nat) (pte : DWord) (dst : Opd) (d c : Nat) : Prop :=
  ∃ a ∈ t.accs, a.kind = kind ∧ a.core = x.core ∧ a.slot = x.leaf.slot ∧ a.lane = l ∧ a.pc = x.leaf.pc ∧
    a.va = BitVec.ofNat 64 addr ∧ a.pa = pa ∧ a.bytes = bytes ∧ a.pte = pte ∧ a.ord = f.ord ∧ a.scope = f.scope ∧
    a.evp = f.evp ∧ a.cls = f.h.cls ∧ a.subop = f.subop ∧ a.dst = dst ∧ a.d = d ∧ a.c = c

/-- Where the checks of 02 R36 pass for every active lane, its address lies in local HBM in a line that the cluster does not
hold, `also` holds, and the core's memory pipeline is not stalled (02 R34), `i` completes: the leaf goes on, memory is as it was, and
each active lane has an access outstanding at its place, with data `d` and compare value `c`; one of more than 16 bytes is an access
for each 16 of them (09 R210). -/
def AccessesMade (i : Instr) (f : FmtM) (g : Sig) (kind : AccKind) (chk bytes : Nat) (d c : State → Iss → Nat → Nat)
    (also : DWord → Nat → Prop) : Prop :=
  ∀ s x act, Runs s x f.h g act → memStalled s x.core = false → ∀ (pte : Nat → DWord) (pa : Nat → Nat),
    (∀ l, act.has l = true →
      laneCheck s x f.asp.toNat chk bytes f.h.cls f.subop (memAddr s x f l) = .ok (pte l) (pa l) ∧ also (pte l) (pa l) ∧
      ∀ j, 16 * j < bytes → ∃ a, placeOf s (storeOf s (pte l) (pa l) + 16 * j) = .hbm a ∧
        cacheLine s (x.core / 4) (lineOf (storeOf s (pte l) (pa l) + 16 * j)) = none) →
    ∃ t, exec i s = .next t ∧ GoneOn t x ∧ t.mem = s.mem ∧ ElemsKept s t x [] ∧
      ∀ l, act.has l = true → ∀ j, 16 * j < bytes →
        AccessListed t x f kind (min 16 bytes) l (memAddr s x f l) (storeOf s (pte l) (pa l) + 16 * j) (pte l)
          (f.data + BitVec.ofNat 9 (4 * j)) (d s x l / 2 ^ (128 * j)) (c s x l)

/-- Where the checks of 02 R36 find the same fault in every active lane of a leaf that is not privileged and all of whose
lanes are active, `i` has no effect on memory and its leaf is parked at it with the fault in its record (02 R38, 17 R419);
where some lane finds no translation cached, the leaf waits for page walks, or for room in the miss queue where that may fill (02 R34);
while the core's memory pipeline is stalled, it waits for that room. -/
def LanesPark (i : Instr) (f : FmtM) (g : Sig) (chk bytes : Nat) : Prop :=
  ∀ s x act, Runs s x f.h g act →
    let waits (w : Wait) : Prop := ∃ t k, exec i s = .next t ∧ t.mem = s.mem ∧ t.accs = s.accs ∧ leafOf t x.core x.entry = some k ∧
      k.st = .blocked w ∧ k.pc = x.leaf.pc ∧ k.mask = x.leaf.mask
    (memStalled s x.core = true → waits .walkRoom) ∧
    (memStalled s x.core = false → ∀ cause status, x.leaf.priv = false → act = x.leaf.mask →
      (∀ l, act.has l = true → laneCheck s x f.asp.toNat chk bytes f.h.cls f.subop (memAddr s x f l) = .fault cause status) →
      ∃ t r, exec i s = .next t ∧ t.mem = s.mem ∧ (∃ l, leafOf t x.core x.entry = some l ∧ l.st = .parked ∧ l.pc = x.leaf.pc ∧
          l.mask = x.leaf.mask) ∧
        tfind (coreOf t x.core).recs x.entry = some r ∧ r.cause = cause ∧ r.status = status ∧ r.lanes = x.leaf.mask ∧
        r.lmask = x.leaf.mask ∧ r.pc = x.leaf.pc ∧
        ∀ l, act.has l = true → tget 0 r.addr l = BitVec.ofNat 64 (memAddr s x f l)) ∧
    (memStalled s x.core = false →
      ∀ l va, act.has l = true → laneCheck s x f.asp.toNat chk bytes f.h.cls f.subop (memAddr s x f l) = .miss va →
        waits .walks ∨ 96 < (tget {} s.dies (dieOfCore x.core)).missed.length ∧ waits .walkRoom)

/-- `i` leads from `s` to a next state of which `P` holds. -/
def Leads (s : State) (i : Instr) (P : State → Prop) : Prop := ∃ t, exec i s = .next t ∧ P t

/-- Memory is as it was but for `n` bytes from `lo`. -/
def MemKeptBut (s t : State) (lo n : Nat) : Prop := ∀ a, a < lo ∨ lo + n ≤ a → memByte t a = memByte s a

/-- The registers of an access's destination hold the words `ws` in its lane, but where a later write has taken one over or the
register is poisoned (10 R239, 06 R140). -/
def WordsIn (s t : State) (a : Acc) (ws : List Nat) : Prop :=
  a.lane < 32 → ∀ h, sheetOf s a.core a.slot = some h → ∀ i, i < ws.length → a.live.getLsbD i = true →
    tget false (coreOf s a.core).regPoison (h.base + a.dst.toNat + i) = false →
    physReg t a.core (h.base + a.dst.toNat + i) a.lane = BitVec.ofNat 32 (ws.getD i 0)

/-- The new value at the location of an atomic of class `cls` on `w` bits, where the manual gives it without rounding
(12 R303). -/
def AtomNew (subop : BitVec 7) (cls : BitVec 3) (w old d c new : Nat) : Prop :=
  let o := BitVec.ofNat w old
  let v := BitVec.ofNat w d
  let less (x y : BitVec w) : Bool := if cls = 1 then x.slt y else x.ult y
  (subop = 0 → new = (o + v).toNat) ∧
  (subop = 1 → new = (if less v o then v else o).toNat) ∧
  (subop = 2 → new = (if less o v then v else o).toNat) ∧
  (subop = 3 → new = (o &&& v).toNat) ∧ (subop = 4 → new = (o ||| v).toNat) ∧ (subop = 5 → new = (o ^^^ v).toNat) ∧
  (subop = 6 → new = v.toNat) ∧ (subop = 7 → new = if old = c % 2 ^ w then v.toNat else o.toNat)

/-- A message of a kind about a line stands in `t` at router `at'`, arrived by `port`, and `P` holds of it. -/
def Sent (t : State) (kind : MsgKind) (line at' port : Nat) (P : Msg → Prop) : Prop :=
  ∃ m ∈ t.msgs, m.kind = kind ∧ m.line = line ∧ m.at' = at' ∧ m.port = port ∧ P m

/-- A message `id` of a kind stands in `s` at its router, and nothing holds it up on its link (03 R49). -/
def Stands (s : State) (id : Nat) (m : Msg) (kind : MsgKind) : Prop := arrived s id = some m ∧ m.kind = kind

/-- Nothing holds a line back at its home: the home is not at work on it, no home transaction among the messages `before` waits there, no
stitch stands, and its region is not flagged. -/
structure HomeFree (s : State) (line home : Nat) (before : List Msg) : Prop where
  tx : homeBusy s line = false
  turn : ∀ m ∈ before, m.line = line → m.at' = home → isRequest m = false
  unflagged : lineFlagged s line = false
  bare : stitchOf s home line = none

/-- The bytes of memory from `lo` are only what memory and its copies hold: no operation in progress holds one, no double mapping
leaves one undefined, no tensor-id table lies there, and their region is not flagged. -/
structure Plain (s : State) (lo n : Nat) : Prop where
  windows : memWins s lo n = []
  mapped : s.mixed = []
  tables : ∀ c ∈ s.ctxs, lo + n ≤ c.2.table ∨ c.2.table + 2 ^ 18 ≤ lo
  unflagged : regionFlagged s lo = false

/-- Every line has at every router the stitch that it had. -/
def StitchesKept (s t : State) : Prop := ∀ c l, stitchOf t c l = stitchOf s c l

/-- The operation `a` has ended: its tag is ready with a status (05 R127). -/
def Done (t : State) (a : Async) (st : Nat) : Prop :=
  asyncOf t a.id = none ∧ (tagOf t a.core a.tag).ready = true ∧ (tagOf t a.core a.tag).status = BitVec.ofNat 4 st

/-- An engine's access at `va` reaches byte `p` of the local HBM's storage, by an entry that permits its `kind` (05 R118). -/
def EngReaches (s : State) (a : Async) (kind : Nat) (va p : Nat) : Prop :=
  ∃ pte pa b, translateNow s a.core a.ctx va = .ok (pte, pa) ∧ permCheck s a.ctx a.priv kind pte pa = 0 ∧
    placeOf s pa = .hbm b ∧ storeOf s pte pa = p ∧ regionFlagged s p = false

/-- Entry `e` of a core holds in `t` a leaf in the handler of `cause` at `pc`, privileged, with the lanes `m`, and its record names
the cause, the status and where the leaf stood (17 R421). -/
def Vectored (t : State) (c e cause status : Nat) (pc old : DWord) (m : Mask) (prin : Bool) : Prop :=
  (∃ l, leafOf t c e = some l ∧ l.pc = pc ∧ l.priv = true ∧ l.st = .trapped ∧ l.handler = cause ∧ l.mask = m) ∧
  ∃ r, tfind (coreOf t c).recs e = some r ∧ r.v = true ∧ r.cause = cause ∧ r.status = status ∧ r.pc = old ∧ r.lanes = m ∧
    r.prin = prin

/-- The state in which the RESUME leaf of one placed sheet is vectored (17 R427): s0 holds RESUMEW, and a leaf of all lanes stands in
the reserved entry. -/
def resumeState (u : State) (c : Candidate) (p : Nat × Nat × Nat) : State :=
  let u := modTask u c.launch.ctx c.launch.index c.task.index (fun x => { x with resume := [] })
  let u := modSheet u p.2.1 p.2.2 (fun h => { h with s := tset 0 h.s 0 (tget 0 c.task.resume p.1) })
  setLeaf u p.2.1 p.2.2
    { slot := p.2.2, pc := 0, mask := BitVec.allOnes 32, age := now u p.2.1, since := now u p.2.1 }

/-- The tags pending in `s` on phase `ph` of the handle `w` are ready in `t` with a gathering status and a value; a tag that holds
MISMATCH is not spoken of (14 R358). -/
def PhaseTags (s t : State) (w : Word) (ph st : Nat) (v : Word) : Prop :=
  ∀ c k, (tagOf s c k).ready = false → (tagOf s c k).op = .gathering → (tagOf s c k).handle = w → (tagOf s c k).phase = ph →
    (tagOf s c k).gstatus ≠ 9 →
    (tagOf t c k).ready = true ∧ (tagOf t c k).gstatus = BitVec.ofNat 4 st ∧ (tagOf t c k).value = v

/-- Entry `i`, which stood as `g`, has aborted with a status (15 R390): no member and no arrival, its outcome kept, phase 1 and the next
generation; members that had not arrived are owed in their sheets' slots. -/
def PhaseAborted (s t : State) (i : Nat) (g : GEntry) (st : Nat) : Prop :=
  (∃ g', gEntry t i = g' ∧ g'.memb = 0 ∧ g'.arrv = 0 ∧ g'.pip = false ∧ g'.last = BitVec.ofNat 4 st ∧ g'.lastph = g.phase ∧ g'.phase = 1 ∧
    g'.gen = nextGen g.gen ∧ g'.role = g.role) ∧
  PhaseTags s t (knownAs s i) g.phase st 0 ∧
  ∀ c k h, sheetOf s c k = some h → ∃ h', sheetOf t c k = some h' ∧ ∀ j m, tfind h.slots j = some m → m.handle = knownAs s i →
    tfind h'.slots j = some { m with owed := m.member &&& ~~~m.arrived, oweSt := BitVec.ofNat 4 st, owePhase := g.phase,
                                     member := 0, joining := 0, arrived := 0 }

/-- Entry `i`, which stood as `g`, has ended its phase with a status and a value (14 R358, R360). -/
def PhaseEnded (s t : State) (i : Nat) (g : GEntry) (st : Nat) (v : Word) : Prop :=
  (∃ g', gEntry t i = g' ∧ g'.pip = false ∧ g'.last = BitVec.ofNat 4 st ∧ g'.lastph = g.phase ∧ g'.lastval = v ∧ g'.arrv = 0 ∧
    g'.phase = (g.phase + 1) % 2 ^ 24 ∧ g'.memb = g.memb + g.joins - g.leaving) ∧
  PhaseTags s t (knownAs s i) g.phase st v

/-- Register `r` holds in `t` what a write makes of it, and every other register is as it was (00 R4, 02 R471). -/
def TakesWrite (s t : State) (w : RegWr) (r : CReg) : Prop :=
  rawReg t r = afterWrite r (rawReg s r) w.part w.val ∧ (∀ q, regOff q ≠ regOff r → rawReg t q = rawReg s q) ∧ t.mem = s.mem

/-- The firmware's answer stands in the mailbox operation `a`: command, status, sequence number and data (20 R464). -/
def Replied (t : State) (a : Async) (va : DWord) (msg : List Byte) (status : Nat) (data : List Byte) : Prop :=
  ∃ rep, asyncOf t a.id = some { a with kind := .mbox false va rep true } ∧ rep.length = 64 ∧ rep.take 2 = msg.take 2 ∧
    leBytes ((rep.drop 2).take 2) = status ∧ (rep.drop 4).take 4 = (msg.drop 4).take 4 ∧ (rep.drop 16).take data.length = data

end Sys2Proof.Machine
end

