-- ==== Sys2Proof/Certificates/Slice0/Obligations.lean ====
section
/-!
DEFINITION. The statements for the provers.
-/
open Sys2Proof Sys2Proof.Machine

/-- 11 R260, 10 R251: each integer instruction completes and writes what R260 forms from its exact result, for signed and
unsigned types of 32 and 64 bits, with OPB or with an immediate. -/
def Obligations.IntegerResults : Prop :=
  ∀ (f : FmtR) (w : Nat) (sgn : Bool), intTy f.h f.tw = some (w, sgn) →
    IntGives (.iadd f) f (sigIntOp f none true false true false) w sgn none (fun a b _ => a + b) ∧
    IntGives (.iadd3 f) f (sigIntOp f none true true true false) w sgn none (fun a b c => a + b + c) ∧
    IntGives (.isub f) f (sigIntOp f none true false true false) w sgn none (fun a b _ => a - b) ∧
    IntGives (.imul f) f (sigIntOp f none true false true false) w sgn none (fun a b _ => a * b) ∧
    IntGives (.imulh f) f (sigIntOp f none true false false false) w sgn none (fun a b _ => a * b / (2 : Int) ^ w) ∧
    IntGives (.imad f) f (sigIntOp f none true true true false) w sgn none (fun a b c => a * b + c) ∧
    IntGives (.imin f) f (sigIntOp f none true false false false) w sgn none (fun a b _ => if b < a then b else a) ∧
    IntGives (.imax f) f (sigIntOp f none true false false false) w sgn none (fun a b _ => if a < b then b else a) ∧
    (sgn = true → IntGives (.iabs f) f (sigIntOp f none false false true true) w sgn none (fun a _ _ => if a < 0 then -a else a))

/-- 10 R243, R251: the immediate forms of the integer instructions. -/
def Obligations.IntegerImmediateResults : Prop :=
  ∀ (f : FmtI) (w : Nat) (sgn : Bool), intTy f.h f.tw = some (w, sgn) →
    let b := some (immClass sgn f.imm)
    let g (sat : Bool) := sigIntOp (asR f) (some f.imm) true false sat false
    IntGives (.iaddImm f) (asR f) (g true) w sgn b (fun a b _ => a + b) ∧
    IntGives (.isubImm f) (asR f) (g true) w sgn b (fun a b _ => a - b) ∧
    IntGives (.imulImm f) (asR f) (g true) w sgn b (fun a b _ => a * b) ∧
    IntGives (.imulhImm f) (asR f) (g false) w sgn b (fun a b _ => a * b / (2 : Int) ^ w) ∧
    IntGives (.iminImm f) (asR f) (g false) w sgn b (fun a b _ => if b < a then b else a) ∧
    IntGives (.imaxImm f) (asR f) (g false) w sgn b (fun a b _ => if a < b then b else a)

/-- 11 R261, 10 R251: logic and shifts, bit by bit; a count of w or more shifts everything out; ROT by n mod w. -/
def Obligations.LogicAndShiftResults : Prop :=
  (∀ (f : FmtR) (w : Nat), bitsTy f.h f.tw = some w →
    BitsGives (.andB f) f (sigLogicOp f none true) w none (fun a b => a &&& b) ∧
    BitsGives (.orB f) f (sigLogicOp f none true) w none (fun a b => a ||| b) ∧
    BitsGives (.xorB f) f (sigLogicOp f none true) w none (fun a b => a ^^^ b) ∧
    BitsGives (.notB f) f (sigLogicOp f none false) w none (fun a _ => ~~~a) ∧
    ShiftGives (.shl f) f (sigShiftOp f none false) w none (fun a n => a <<< n) ∧
    ShiftGives (.shr f) f (sigShiftOp f none false) w none (fun a n => a >>> n) ∧
    ShiftGives (.sar f) f (sigShiftOp f none false) w none (fun a n => a.sshiftRight n) ∧
    ShiftGives (.rot f) f (sigShiftOp f none true) w none (fun a n =>
      if f.mod.getLsbD 0 then a.rotateRight (n % w) else a.rotateLeft (n % w))) ∧
  (∀ (f : FmtI) (w : Nat), bitsTy f.h f.tw = some w →
    let b := some (f.imm.signExtend w)
    let n := some f.imm.toNat
    BitsGives (.andImm f) (asR f) (sigLogicOp (asR f) (some f.imm) true) w b (fun a b => a &&& b) ∧
    BitsGives (.orImm f) (asR f) (sigLogicOp (asR f) (some f.imm) true) w b (fun a b => a ||| b) ∧
    BitsGives (.xorImm f) (asR f) (sigLogicOp (asR f) (some f.imm) true) w b (fun a b => a ^^^ b) ∧
    ShiftGives (.shlImm f) (asR f) (sigShiftOp (asR f) (some f.imm) false) w n (fun a n => a <<< n) ∧
    ShiftGives (.shrImm f) (asR f) (sigShiftOp (asR f) (some f.imm) false) w n (fun a n => a >>> n) ∧
    ShiftGives (.sarImm f) (asR f) (sigShiftOp (asR f) (some f.imm) false) w n (fun a n => a.sshiftRight n) ∧
    ShiftGives (.rotImm f) (asR f) (sigShiftOp (asR f) (some f.imm) true) w n (fun a n =>
      if f.mod.getLsbD 0 then a.rotateRight (n % w) else a.rotateLeft (n % w)))

/-- 11 R262: BFE, BFI, POPC, CLZ and BREV, with position and length from the low 8 bits of their operands. -/
def Obligations.BitFieldResults : Prop :=
  (∀ (f : FmtR) (w : Nat) (sgn : Bool), intTy f.h f.tw = some (w, sgn) →
    Gives (.bfe f) f.h (sigBfe f) f.dst.toNat (w = 64) sgn (fun s x _ l y =>
      let a := BitVec.ofNat w (readOpd s x (rdW w) f.opa.toNat l)
      let pos := readOpd s x .i32 f.opb.toNat l % 256
      let len := readOpd s x .i32 f.opc.toNat l % 256
      if w ≤ pos ∨ len = 0 then y = 0
      else
        let field := a.extractLsb' pos (min len (w - pos))
        y = if sgn then (field.signExtend w).toNat else (field.zeroExtend w).toNat)) ∧
  (∀ (f : FmtR) (w : Nat), bitsTy f.h f.tw = some w →
    Gives (.bfi f) f.h (sigBfi f) f.dst.toNat (w = 64) false (fun s x _ l y =>
      let a := readOpd s x (rdW w) f.opa.toNat l
      let ins := readOpd s x (rdW w) f.opb.toNat l
      let pos := readOpd s x .i32 f.opc.toNat l % 256
      let len := readOpd s x .i32 f.dst2.toNat l % 256
      y < 2 ^ w ∧ ∀ i, i < w → y.testBit i = if pos ≤ i ∧ i < pos + len then ins.testBit (i - pos) else a.testBit i) ∧
    Gives (.popc f) f.h (sigCountOp f) f.dst.toNat false false (fun s x _ l y =>
      y = (List.range w).countP (fun i => (readOpd s x (rdW w) f.opa.toNat l).testBit i)) ∧
    Gives (.clz f) f.h (sigCountOp f) f.dst.toNat false false (fun s x _ l y =>
      let a := readOpd s x (rdW w) f.opa.toNat l
      y ≤ w ∧ (∀ i, i < w → w - y ≤ i → a.testBit i = false) ∧ (y < w → a.testBit (w - 1 - y) = true)) ∧
    Gives (.brev f) f.h (sigLogicOp f none false) f.dst.toNat (w = 64) false (fun s x _ l y =>
      y < 2 ^ w ∧ ∀ i, i < w → y.testBit i = (readOpd s x (rdW w) f.opa.toNat l).testBit (w - 1 - i)))

/-- 11 R263, R265: SEL and MOV copy bits, MOV also to an h-register; LEA forms a 64-bit address, also from an immediate. -/
def Obligations.SelectMoveAddressResults : Prop :=
  (∀ (f : FmtR) (w : Nat), bitsTy f.h f.tw = some w →
    Gives (.sel f) f.h (sigSel f) f.dst.toNat (w = 64) false (fun s x _ l y =>
      y = if readBit s x f.opc.toNat l then readOpd s x (rdW w) f.opa.toNat l else readOpd s x (rdW w) f.opb.toNat l) ∧
    Gives (.mov f) f.h (sigMov f) f.dst.toNat (w = 64) false (fun s x _ l y => y = readOpd s x (rdW w) f.opa.toNat l)) ∧
  (∀ (f : FmtR) (sgn : Bool), intTy f.h f.tw = some (64, sgn) →
    Gives (.lea f) f.h (sigLeaOp f none) f.dst.toNat true false (fun s x _ l y =>
      let i := BitVec.ofNat 32 (readOpd s x .i64 f.opb.toNat l)
      y = (BitVec.ofNat 64 (readOpd s x .i64 f.opa.toNat l) +
        (if sgn then i.signExtend 64 else i.zeroExtend 64) <<< f.mod.toNat).toNat)) ∧
  (∀ (f : FmtI) (sgn : Bool), intTy f.h f.tw = some (64, sgn) →
    Gives (.leaImm f) f.h (sigLeaOp (asR f) (some f.imm)) f.dst.toNat true false (fun s x _ l y =>
      y = (BitVec.ofNat 64 (readOpd s x .i64 f.opa.toNat l) +
        (if sgn then f.imm.signExtend 64 else f.imm.zeroExtend 64) <<< f.mod.toNat).toNat))

/-- 11 R264, 10 R243: MOVI under every type, and `.hi`, which replaces bits 63:32 and keeps bits 31:0. -/
def Obligations.MoveImmediateResults : Prop :=
  ∀ (f : FmtI),
    (f.mod = 0 → f.tw = 2 → f.h.cls = 1 ∨ f.h.cls = 2 ∨ f.h.cls = 3 →
      Gives (.movi f) f.h (sigMovi f) f.dst.toNat false (f.h.cls = 1) (fun _ _ _ _ y => y = f.imm.toNat)) ∧
    (f.mod = 0 → f.tw = 3 → f.h.cls = 1 ∨ f.h.cls = 3 →
      Gives (.movi f) f.h (sigMovi f) f.dst.toNat true false (fun _ _ _ _ y => y = (f.imm.signExtend 64).toNat)) ∧
    (f.mod = 0 → f.tw = 3 → f.h.cls = 2 →
      Gives (.movi f) f.h (sigMovi f) f.dst.toNat true false (fun _ _ _ _ y => y = f.imm.toNat)) ∧
    (f.h.cls = 4 → f.tw = 0 ∨ f.tw = 3 →
      Gives (.movi f) f.h (sigMovi f) f.dst.toNat false false (fun _ _ _ _ y => y = f.imm.toNat)) ∧
    (f.h.cls = 4 → f.tw = 1 ∨ f.tw = 2 →
      Gives (.movi f) f.h (sigMovi f) f.dst.toNat false false (fun _ _ _ _ y =>
        y = (convertF (if f.tw = 1 then .f16 else .bf16) .rne false (exOf (decodeF .f32 f.imm.toNat))).code)) ∧
    (f.mod = 1 → ∀ s x act, Runs s x f.h (sigMovi f) act →
      (isV f.dst.toNat = true → Writable s x act (f.dst.toNat + 1)) →
      ∃ t, exec (.movi f) s = .next t ∧ GoneOn t x ∧
        (isV f.dst.toNat = true → ∀ l, act.has l = true →
          rawElem t x f.dst.toNat l = rawElem s x f.dst.toNat l ∧ rawElem t x (f.dst.toNat + 1) l = f.imm.toNat) ∧
        (isS f.dst.toNat = true →
          rawElem t x f.dst.toNat 0 = f.imm.toNat * 2 ^ 32 + rawElem s x f.dst.toNat 0 % 2 ^ 32))

/-- 11 R266 to R268, R287: ICMP, PSET and PLOP write their predicates, ICMP also the complement to DST2; PMOV packs predicates and
flags into a register and unpacks them from one, and only `.all` writes e0..e4; FLAGCLR clears the flags that SUB names and no other. -/
def Obligations.PredicateAndFlagResults : Prop :=
  ((∀ (f : FmtR) (w : Nat) (sgn : Bool), intTy f.h f.tw = some (w, sgn) →
     let c := fun (s : State) (x : Iss) (l : Nat) => icmpCond f.mod.toNat
       (asClass w sgn (readOpd s x (rdW w) f.opa.toNat l)) (asClass w sgn (readOpd s x (rdW w) f.opb.toNat l))
     GivesPred (.icmp f) f.h (sigIcmpOp f none) f.dst.toNat f.dst2.toNat
       (fun s x _ l v => v = true ↔ c s x l) (fun s x _ l v => v = false ↔ c s x l)) ∧
   (∀ (f : FmtI) (w : Nat) (sgn : Bool), intTy f.h f.tw = some (w, sgn) →
     let c := fun (s : State) (x : Iss) (l : Nat) => icmpCond f.mod.toNat
       (asClass w sgn (readOpd s x (rdW w) f.opa.toNat l)) (immClass sgn f.imm)
     GivesPred (.icmpImm f) f.h (sigIcmpOp (asR f) (some f.imm)) f.dst.toNat 0x1FF
       (fun s x _ l v => v = true ↔ c s x l) (fun _ _ _ _ _ => True)) ∧
   (∀ f : FmtR,
     GivesPred (.pset f) f.h (sigPset f) f.dst.toNat 0x1FF
       (fun s x _ l v => v = if f.mod = 1 then readOpd s x .i32 f.opa.toNat l != 0 else (readOpd s x .i32 f.opa.toNat l).testBit l)
       (fun _ _ _ _ _ => True) ∧
     GivesPred (.plop f) f.h (sigPlop f) f.dst.toNat 0x1FF
       (fun s x _ l v => v = f.sub.getLsbD (4 * (readBit s x f.opa.toNat l).toNat + 2 * (readBit s x f.opb.toNat l).toNat +
         (readBit s x f.opc.toNat l).toNat)) (fun _ _ _ _ _ => True))) ∧
  (∀ f : FmtR,
     (f.mod = 0 → Gives (.pmov f) f.h (sigPmov f) f.dst.toNat false false (fun s x _ l y =>
       y < 2 ^ 13 ∧ (∀ i, i < 7 → y.testBit i = readBit s x (0x190 + i) l) ∧ y.testBit 7 = true ∧
         ∀ i, i < 5 → y.testBit (8 + i) = readBit s x (0x198 + i) l)) ∧
     (f.mod = 1 ∨ f.mod = 2 → ∀ s x act, Runs s x f.h (sigPmov f) act →
       ∃ t, exec (.pmov f) s = .next t ∧ GoneOn t x ∧
         ∀ l, act.has l = true →
           (∀ i, i < 7 → rawElem t x (0x190 + i) l = b2n ((readOpd s x .i32 f.opa.toNat l).testBit i)) ∧
           ∀ i, i < 5 → flagBit t x i l = if f.mod = 2 then (readOpd s x .i32 f.opa.toNat l).testBit (8 + i) else flagBit s x i l)) ∧
  (∀ (f : FmtR) s x act, Runs s x f.h (sigFlagclr f) act →
     ∃ t, exec (.flagclr f) s = .next t ∧ GoneOn t x ∧
       ∀ l, act.has l = true → ∀ i, i < 5 → flagBit t x i l = (flagBit s x i l && !f.sub.getLsbD i))

/-- 11 R269, R271, R274, R275, 10 R251: the floating instructions write the code of their result, rounded by RND under the
launch's flush-to-zero, for each packed half under `.bf16x2`, and raise the flags of the operation (07 R176). -/
def Obligations.FloatResults : Prop :=
  (∀ f : FmtR,
    FloatGives (.fadd f) f.h (sigFloatOp f none true false true true) f.dst.toNat (floatSrc f none fAdd) ∧
    FloatGives (.fsub f) f.h (sigFloatOp f none true false true true) f.dst.toNat (floatSrc f none fSub) ∧
    FloatGives (.fmul f) f.h (sigFloatOp f none true false true true) f.dst.toNat (floatSrc f none fMul) ∧
    FloatGives (.ffma f) f.h (sigFloatOp f none true true true true) f.dst.toNat (floatSrc f none fFma) ∧
    FloatGives (.fmin f) f.h (sigFloatOp f none true false false false) f.dst.toNat (floatSrc f none (fMinMax false)) ∧
    FloatGives (.fmax f) f.h (sigFloatOp f none true false false false) f.dst.toNat (floatSrc f none (fMinMax true)) ∧
    FloatGives (.frnd f) f.h (sigFloatOp f none false false true false) f.dst.toNat (floatSrc f none fRnd)) ∧
  (∀ f : FmtI,
    let b := some (immFloat f.tw f.imm)
    FloatGives (.faddImm f) f.h (sigFloatOp (asR f) (some f.imm) true false true true) f.dst.toNat (floatSrc (asR f) b fAdd) ∧
    FloatGives (.fsubImm f) f.h (sigFloatOp (asR f) (some f.imm) true false true true) f.dst.toNat (floatSrc (asR f) b fSub) ∧
    FloatGives (.fmulImm f) f.h (sigFloatOp (asR f) (some f.imm) true false true true) f.dst.toNat (floatSrc (asR f) b fMul) ∧
    FloatGives (.fminImm f) f.h (sigFloatOp (asR f) (some f.imm) true false false false) f.dst.toNat
      (floatSrc (asR f) b (fMinMax false)) ∧
    FloatGives (.fmaxImm f) f.h (sigFloatOp (asR f) (some f.imm) true false false false) f.dst.toNat
      (floatSrc (asR f) b (fMinMax true)))

/-- 11 R272, R273: FCMP and its immediate form write the condition and its complement, and set e0 and no other flag; FCLASS sets
exactly the bit of the class of the code as stored. -/
def Obligations.FloatCompareAndClassResults : Prop :=
  (∀ (i : Instr) (f : FmtR) (imm : Option (BitVec 32)),
     (i = .fcmp f ∧ imm = none ∨ ∃ g b, i = .fcmpImm g ∧ imm = some b ∧ g.imm = b ∧ f = asR g) →
     ∀ s x act, Runs s x f.h (sigFcmpOp f imm) act →
       let fm := floatFmt f.tw
       let a (l : Nat) := opF x.sheet.ftz fm (readOpd s x (.fl fm) f.opa.toNat l)
       let b (l : Nat) := opF x.sheet.ftz fm ((imm.map (immFloat f.tw)).getD (readOpd s x (.fl fm) f.opb.toNat l))
       ∃ t v, exec i s = .next t ∧ GoneOn t x ∧ (f.dst ≠ f.dst2 → HoldsPred t x act f.dst.toNat v) ∧
         HoldsPred t x act f.dst2.toNat (fun l => !v l) ∧
         ∀ l, act.has l = true → (v l = true ↔ fcmpCond f.mod.toNat (a l) (b l)) ∧
           (flagBit t x 0 l = true ↔ flagBit s x 0 l = true ∨ fcmpInvalid f.mod.toNat (a l) (b l)) ∧
           ∀ i, 1 ≤ i → i < 5 → flagBit t x i l = flagBit s x i l) ∧
  (∀ (f : FmtR) (g : Fmt), classFmt f.h f.tw = some g →
     Gives (.fclass f) f.h (sigFclass f) f.dst.toNat false false (fun s x _ l y =>
       let c := readOpd s x (.fl g) f.opa.toNat l % 2 ^ fmtW g
       ∃ k, k ≤ 9 ∧ y = 2 ^ k ∧
         match decodeF g c with
         | .nan sig => k = if sig then 0 else 1
         | .inf neg => k = if neg then 2 else 9
         | .fin neg m _ =>
           if m = 0 then k = (if neg then 5 else 6)
           else if isSubnormal g c then k = (if neg then 4 else 7) else k = if neg then 3 else 8))

/-- 11 R279, R280: the special functions write the code of their result and raise its flags. -/
def Obligations.SpecialFunctionResults : Prop :=
  ∀ f : FmtR,
    let r (n : Nat) := fun (s : State) (x : Iss) (_ : Mask) (l : Nat) =>
      sfOp n x.sheet.ftz (rmode f.rnd) false (floatFmt f.tw) (readOpd s x (.fl (floatFmt f.tw)) f.opa.toNat l) 0 0
    FloatGives (.rcp f) f.h (sigSfuOp 0 f) f.dst.toNat (r 0) ∧ FloatGives (.rsq f) f.h (sigSfuOp 1 f) f.dst.toNat (r 1) ∧
    FloatGives (.sqrt f) f.h (sigSfuOp 2 f) f.dst.toNat (r 2) ∧ FloatGives (.exp2 f) f.h (sigSfuOp 3 f) f.dst.toNat (r 3) ∧
    FloatGives (.log2 f) f.h (sigSfuOp 4 f) f.dst.toNat (r 4) ∧ FloatGives (.sin f) f.h (sigSfuOp 5 f) f.dst.toNat (r 5) ∧
    FloatGives (.cos f) f.h (sigSfuOp 6 f) f.dst.toNat (r 6)

/-- 07 R162, 11 R270, R271: NaN, invalid operations and infinities in floating arithmetic, without flush-to-zero; and what the special functions give
for NaN, infinities, zeros and operands outside their domain, in every format (11 R280). -/
def Obligations.FloatSpecialCases : Prop :=
  (∀ (f : Fmt) (m : RMode) (sat : Bool) (a b c : Nat), f = .f32 ∨ f = .f16 ∨ f = .bf16 →
     a < 2 ^ fmtW f → b < 2 ^ fmtW f → c < 2 ^ fmtW f →
     (isNaN (decodeF f a) = true ∨ isNaN (decodeF f b) = true →
       (fAdd false m sat f a b c).code = canonNaN f ∧ (fMul false m sat f a b c).code = canonNaN f ∧
       ((fAdd false m sat f a b c).flags = if isSig (decodeF f a) || isSig (decodeF f b) then flagNV else 0)) ∧
     (∀ p q, decodeF f a = .inf p → decodeF f b = .inf q →
       (fAdd false m sat f a b c).code = (if p = q then signed f p (infCode f) else canonNaN f) ∧
       ((fAdd false m sat f a b c).flags = if p = q then 0 else flagNV) ∧
       (fMul false m sat f a b c).code = signed f (p != q) (infCode f)) ∧
     (∀ p q e, decodeF f a = .inf p → decodeF f b = .fin q 0 e →
       (fMul false m sat f a b c).code = canonNaN f ∧ (fMul false m sat f a b c).flags = flagNV ∧
       (fFma false m sat f a b c).code = canonNaN f ∧ (fFma false m sat f a b c).flags = flagNV) ∧
     (isNaN (decodeF f a) = true → isNaN (decodeF f b) = false →
       (fMinMax false false m sat f a b c).code = b ∧ (fMinMax true false m sat f a b c).code = b ∧
       (fMinMax false false m sat f b a c).code = b ∧ (fMinMax true false m sat f b a c).code = b)) ∧
  (∀ (f : Fmt) (m : RMode) (c : Nat), c < 2 ^ fmtW f →
     (∀ n, n < 7 → isNaN (decodeF f c) = true →
       (sfOp n false m false f c 0 0).code = canonNaN f ∧
       (sfOp n false m false f c 0 0).flags = if isSig (decodeF f c) then flagNV else 0) ∧
     (∀ neg, decodeF f c = .inf neg →
       (sfOp 0 false m false f c 0 0).code = signed f neg 0 ∧
       (sfOp 3 false m false f c 0 0).code = (if neg then signed f false 0 else signed f false (infCode f)) ∧
       (∀ n, n = 5 ∨ n = 6 → (sfOp n false m false f c 0 0).code = canonNaN f ∧ (sfOp n false m false f c 0 0).flags = flagNV) ∧
       (∀ n, n = 1 ∨ n = 2 ∨ n = 4 → neg = true →
         (sfOp n false m false f c 0 0).code = canonNaN f ∧ (sfOp n false m false f c 0 0).flags = flagNV)) ∧
     (∀ neg e, decodeF f c = .fin neg 0 e →
       (∀ n, n < 2 → (sfOp n false m false f c 0 0).code = signed f neg (infCode f) ∧
         (sfOp n false m false f c 0 0).flags = flagDZ) ∧
       (sfOp 2 false m false f c 0 0).code = signed f neg 0 ∧
       (sfOp 4 false m false f c 0 0).code = signed f true (infCode f) ∧ (sfOp 4 false m false f c 0 0).flags = flagDZ ∧
       (sfOp 5 false m false f c 0 0).code = signed f neg 0))

/-- 11 R276, R277: CVT without adaptive scale writes the converted element, merged into the old bits where it is narrow,
and raises its flags; the generator of a lane under `.sr` advances once for a finite source and otherwise not (07 R172).
ADAPT: 11 R278, 07 R181, R182: CVT with adaptive scale completes: in each quarter that has an active lane, a lane of the
destination holds the code that its block gives it, merged where it is narrow into what the quarter's lowest active lane held, and a
lane of DST2 the block's next scale. -/
def Obligations.ConversionResults : Prop :=
  (∀ (f : FmtR) (st dt : CvtTy), cvtTy (f.sty.toNat / 4) (f.sty.toNat % 4) = some st → cvtTy f.h.cls.toNat f.tw.toNat = some dt →
     f.asc = false → ∀ s x act, Runs s x f.h (sigCvt f) act → WritableTo s x act f.dst.toNat (cvtW dt = 64) →
     let p := f.sub.toNat % 8
     let src (l : Nat) := elemAt st (f.sub.toNat / 8 % 8) (readOpd s x (cvtRd st) f.opa.toNat l)
     let gen (h : Sheet) (l : Nat) : Word := tget 0 h.gen l
     let mode (l : Nat) := if f.sr then RMode.sr (xorshift (gen x.sheet l)).toNat else rmode f.rnd
     let r (l : Nat) := convElem x.sheet.ftz st dt (mode l) f.sat (src l)
     ∃ t h, exec (.cvt f) s = .next t ∧ GoneOn t x ∧ sheetOf t x.core x.leaf.slot = some h ∧
       Holds t x act f.dst.toNat (cvtW dt = 64) (match dt with | .int _ g => g | _ => false)
         (fun l => cvtMerge dt p (readOpd s x .i32 f.dst.toNat l) (r l).code) ∧
       FlagsRaised s t x act (fun l => (r l).flags) ∧
       ∀ l, act.has l = true → gen h l = if f.sr && advances x.sheet.ftz st (src l) then xorshift (gen x.sheet l) else gen x.sheet l) ∧
  (∀ (f : FmtR) (st : CvtTy) (fm : Fmt), cvtTy (f.sty.toNat / 4) (f.sty.toNat % 4) = some st →
     cvtTy f.h.cls.toNat f.tw.toNat = some (.flt fm) → f.asc = true →
     ∀ s x act, Runs s x f.h (sigCvt f) act → WritableTo s x act f.dst.toNat false → WritableTo s x act f.dst2.toNat false →
     let block (q : Nat) := cvtBlock s x f st fm (act &&& quarterMask q)
     let first (l : Nat) := (lowLane (act &&& quarterMask (l / 8))).getD l
     ∃ t v w, exec (.cvt f) s = .next t ∧ GoneOn t x ∧ (f.dst ≠ f.dst2 → Holds32 t x act f.dst.toNat false v) ∧
       Holds32 t x act f.dst2.toNat false w ∧
       ∀ l, act.has l = true → w l = (block (l / 8)).2.1 ∧
         ∃ o adv, (l, o, adv) ∈ (block (l / 8)).1 ∧
           v l = cvtMerge (.flt fm) (f.sub.toNat % 8) (readOpd s x .i32 f.dst.toNat (first l)) o.code)

/-- 11 R282, R283, R286: SHFL reads the lane that its mode names where it participates, else its own; VOTE and MATCH. -/
def Obligations.ShuffleVoteMatchResults : Prop :=
  (∀ (f : FmtR) (w : Nat), bitsTy f.h f.tw = some w →
    ∀ s x act, Runs s x f.h (sigShfl f) act → WritableTo s x act f.dst.toNat (w = 64) →
      let n := 2 ^ (f.sub.toNat / 4)
      let d (l : Nat) := readOpd s x .i32 f.opb.toNat l
      let j (l : Nat) : Int :=
        if f.sub.toNat % 4 = 0 then (l - l % n + d l % n : Nat) else if f.sub.toNat % 4 = 1 then (l : Int) - d l
        else if f.sub.toNat % 4 = 2 then (l : Int) + d l else (l - l % n + (l % n ^^^ d l % n) : Nat)
      ∃ t v ok, exec (.shfl f) s = .next t ∧ GoneOn t x ∧ Holds t x act f.dst.toNat (w = 64) false v ∧
        HoldsPred t x act f.dst2.toNat ok ∧
        ∀ l, act.has l = true →
          (ok l = true ↔ ((l - l % n : Nat) : Int) ≤ j l ∧ j l < ((l - l % n + n : Nat) : Int) ∧ act.has (j l).toNat = true) ∧
          v l = readOpd s x (rdW w) f.opa.toNat (if ok l then (j l).toNat else l)) ∧
  (∀ f : FmtR,
    let bit (s : State) (x : Iss) (l : Nat) := readBit s x f.opa.toNat l = true
    (f.sub.toNat < 3 → GivesPred (.vote f) f.h (sigVote f) f.dst.toNat 0x1FF (fun s x act _ v =>
      v = true ↔
        if f.sub = 0 then ∀ l, act.has l = true → bit s x l
        else if f.sub = 1 then ∃ l, act.has l = true ∧ bit s x l
        else (∀ l, act.has l = true → bit s x l) ∨ ∀ l, act.has l = true → ¬ bit s x l) (fun _ _ _ _ _ => True)) ∧
    (f.sub = 3 → Gives (.vote f) f.h (sigVote f) f.dst.toNat false false (fun s x act _ y =>
      y < 2 ^ 32 ∧ ∀ l, y.testBit l = true ↔ act.has l = true ∧ bit s x l))) ∧
  (∀ (f : FmtR) (w : Nat), bitsTy f.h f.tw = some w →
    ∀ s x act, Runs s x f.h (sigMatch f) act → WritableTo s x act f.dst.toNat false →
      let a (l : Nat) := readOpd s x (rdW w) f.opa.toNat l
      ∃ t v ok, exec (.matchV f) s = .next t ∧ GoneOn t x ∧ Holds32 t x act f.dst.toNat false v ∧
        HoldsPred t x act f.dst2.toNat ok ∧
        ∀ l, act.has l = true → v l < 2 ^ 32 ∧ (∀ j, (v l).testBit j = true ↔ act.has j = true ∧ a j = a l) ∧
          (ok l = true ↔ ∀ i, act.has i = true → ∀ j, act.has j = true → a i = a j))

/-- 11 R284, R285: REDUX and SCAN of the participating lanes; the flags of floating steps are raised as the rules say. -/
def Obligations.ReduceScanResults : Prop :=
  (∀ (f : FmtR) (k : Nat × Nat × Bool), redTy f f.sub.toNat = some k →
    ∀ s x act, Runs s x f.h (sigRedux f) act → WritableTo s x act f.dst.toNat (k.2.1 = 64) →
      let t := if k.1 = 1 then RdTy.fl .f32 else rdW k.2.1
      let vs := lanes.map (fun l => if act.has l then some (readOpd s x t f.opa.toNat l) else none)
      let r := redTree (combine x.sheet.ftz f.sub.toNat k (rmode f.rnd)) 5 vs
      ∃ u, exec (.redux f) s = .next u ∧ GoneOn u x ∧
        Holds u x act f.dst.toNat (k.2.1 = 64) (f.h.cls = 1)
          (fun _ => if f.sat then satSum k.2.1 k.2.2 (vs.filterMap id) else r.1.getD 0) ∧
        FlagsRaised s u x act (fun _ => if k.1 = 1 then r.2 else 0)) ∧
  (∀ f : FmtR, f.sub = 6 → Gives (.redux f) f.h (sigRedux f) f.dst.toNat false false (fun s x act _ y =>
    y = (List.range 32).countP (fun l => act.has l && readBit s x f.opa.toNat l))) ∧
  (∀ (f : FmtR) (k : Nat × Nat × Bool), redTy f f.sub.toNat = some k →
    ∀ s x act, Runs s x f.h (sigScan f) act → WritableTo s x act f.dst.toNat (k.2.1 = 64) →
      let t := if k.1 = 1 then RdTy.fl .f32 else rdW k.2.1
      let a (j : Nat) := readOpd s x t f.opa.toNat j
      let c (p q : Nat) : Out :=
        if f.sat then { code := formed k.2.1 k.2.2 true (asClass k.2.1 k.2.2 p + asClass k.2.1 k.2.2 q) }
        else combine x.sheet.ftz f.sub.toNat k (rmode f.rnd) p q
      -- the combination of the participating lanes below n, none where there is none
      let upTo (n : Nat) : Option Nat := ((List.range n).filter (fun j => act.has j)).foldl (fun v j => match v with
        | none => some (a j)
        | some v => some (c v (a j)).code) none
      ∃ u v, exec (.scan f) s = .next u ∧ GoneOn u x ∧ Holds u x act f.dst.toNat (k.2.1 = 64) (f.h.cls = 1) v ∧
        (∀ l, act.has l = true → v l = (upTo (if f.mod = 1 then l else l + 1)).getD (identity f.sub.toNat k)) ∧
        FlagsRaised s u x act (fun l => if k.1 = 1 then ((upTo l).map (fun v => (c v (a l)).flags)).getD 0 else 0))

/-- 11 R289, R291, R292, 06 R148, R149: BRA, CALL, CALL.ind and SPLIT transfer the lanes that they name. -/
def Obligations.TransferResults : Prop :=
  (∀ f : FmtB,
    let target := fun (_ : State) (x : Iss) (_ : Mask) =>
      (x.leaf.pc &&& ~~~(63 : DWord)) + (f.loff.signExtend 64 <<< 6) + 12 * f.slot.zeroExtend 64
    Transfers (.bra f) f.h (sigBra f) true f.fp
      (fun s x act => if f.opa = 0x1FF then act else act &&& maskOf (fun l => readBit s x f.opa.toNat l)) target ∧
    Transfers (.call f) f.h (sigCall f) true f.fp (fun _ _ act => act) target ∧
    Transfers (.callInd f) f.h (sigCallInd f) true f.fp (fun _ _ act => act)
      (fun s x act => BitVec.ofNat 64 (uniOpd s x act .i64 f.opa.toNat))) ∧
  (∀ f : FmtR,
    Transfers (.split f) f.h (sigSplit f) false (f.mod.getLsbD 0)
      (fun s x act => if isP f.opa.toNat || isE f.opa.toNat then act &&& maskOf (fun l => readBit s x f.opa.toNat l)
        else act &&& BitVec.ofNat 32 (uniOpd s x act .i32 f.opa.toNat))
      (fun s x act => BitVec.ofNat 64 (uniOpd s x act .i64 f.opb.toNat)))

/-- 11 R291: CALL and CALL.ind leave the address of the next instruction in the link of the calling lanes.
10 R233, 11 R288: where a transfer may go. A PC that names no slot has status PC-FORM; the PC after slot 4 of a line is
slot 0 of the next. -/
def Obligations.CallLinksAndTargetForms : Prop :=
  (∀ (f : FmtB) s x act,
     (∀ i g a, (i = .call f ∧ g = sigCall f ∧
           a = (x.leaf.pc &&& ~~~(63 : DWord)) + (f.loff.signExtend 64 <<< 6) + 12 * f.slot.zeroExtend 64 ∨
         i = .callInd f ∧ g = sigCallInd f ∧ a = BitVec.ofNat 64 (uniOpd s x act .i64 f.opa.toNat)) →
       Runs s x f.h g act → WritableTo s x act f.opb.toNat true →
       (checkTarget (afterChecks s x g act) x.core x.sheet.ctx x.leaf.priv a true).1 = 0 →
       act = x.leaf.mask ∨ poolFree s x.core ≠ [] →
       ∃ t, exec i s = .next t ∧ Holds64 t x act f.opb.toNat (fun _ => (nextPc x.leaf.pc).toNat))) ∧
  ((∀ s c ctx p pc tgt, ¬ (pc.toNat % 64 % 12 = 0 ∧ pc.toNat % 64 ≤ 48) → checkTarget s c ctx p pc tgt = (1, false)) ∧
   (∀ s c ctx p pc, pc.toNat % 64 % 12 = 0 → pc.toNat % 64 ≤ 48 → checkTarget s c ctx p pc false = (0, false)) ∧
   (∀ s c ctx p pc bs, pc.toNat % 64 % 12 = 0 → pc.toNat % 64 ≤ 48 → readLine s c ctx p pc.toNat = .ok bs →
     lineParity bs = true → lineReserved bs = false →
     checkTarget s c ctx p pc true = (if lineTarget bs (pc.toNat % 64 / 12) then (0, false) else (2, false))) ∧
   (∀ pc : DWord, pc.toNat % 64 % 12 = 0 → pc.toNat % 64 ≤ 48 →
     pcForm (nextPc pc) = true ∧ (pc.toNat % 64 < 48 → nextPc pc = pc + 12) ∧
     (pc.toNat % 64 = 48 → nextPc pc = pc + 16)))

/-- 11 R290, 06 R148: BRX and RET move each active lane to its own target and the others to the next instruction, with one leaf
for each target; where the pool has the entries, every lane then stands in a leaf at its target, and the group of the lowest
lane keeps the entry. -/
def Obligations.ScatterResults : Prop :=
  ∀ (f : FmtB) (i : Instr) (tgt : Bool), (i = .brx f ∧ tgt = true) ∨ (i = .ret f ∧ tgt = false) →
    ∀ s x act, Runs s x f.h (sigScatterOp f) act →
    let at' (l : Nat) : DWord := if act.has l then BitVec.ofNat 64 (readOpd s x .i64 f.opa.toNat l) else nextPc x.leaf.pc
    let chk (l : Nat) := checkTarget (afterChecks s x (sigScatterOp f) act) x.core x.sheet.ctx x.leaf.priv (at' l) tgt
    (∀ l, act.has l = true → (chk l).1 = 0) →
    (groups x.leaf.mask act (fun l => (at' l, act.has l && (chk l).2))).length ≤ (poolFree s x.core).length + 1 →
    ∃ t, exec i s = .next t ∧
      (∀ l, x.leaf.mask.has l = true → ∃ e k, leafOf t x.core e = some k ∧ k.slot = x.leaf.slot ∧ k.mask.has l = true ∧
        k.pc = at' l ∧ ∀ j, k.mask.has j = true → x.leaf.mask.has j = true ∧ at' j = at' l) ∧
      ∃ k, leafOf t x.core x.entry = some k ∧ ∀ low, lowLane x.leaf.mask = some low → k.mask.has low = true

/-- 11 R293 to R296, 06 R152: JOIN waits at its range or goes on; YIELD gives its leaf the present age; NOP goes on; EXIT takes
the active lanes out of the sheet. -/
def Obligations.LeafControlResults : Prop :=
  (∀ (f : FmtB) s x act, Runs s x f.h (sigJoin f) act →
    let low := (x.leaf.pc &&& ~~~(63 : DWord)) + (f.loff.signExtend 64 <<< 6) + 12 * f.slot.zeroExtend 64
    (low.toNat < x.leaf.pc.toNat → x.leaf.joined = false → ∃ t l, exec (.join f) s = .next t ∧
      leafOf t x.core x.entry = some l ∧ l.st = .joining low ∧ l.pc = x.leaf.pc ∧ l.mask = x.leaf.mask ∧ l.inRun = false) ∧
    (low = x.leaf.pc ∨ (low.toNat < x.leaf.pc.toNat ∧ x.leaf.joined = true) →
      ∃ t, exec (.join f) s = .next t ∧ GoneOn t x) ∧
    (x.leaf.pc.toNat < low.toNat → exec (.join f) s = .next (sheetTrap s x cIllegal 0))) ∧
  (∀ (f : FmtR) s x act,
    (Runs s x f.h (sigNop f) act → ∃ t, exec (.nop f) s = .next t ∧ GoneOn t x) ∧
    (Runs s x f.h (sigYield f) act → ¬ (x.leaf.priv = true ∧ x.leaf.handler = cPreempt) →
      ∃ t l, exec (.yield f) s = .next t ∧ GoneOn t x ∧ leafOf t x.core x.entry = some l ∧ l.age = now s x.core ∧ l.inRun = false) ∧
    (Runs s x f.h (sigYield f) act → x.leaf.priv = true → x.leaf.handler = cPreempt →
      ∃ t l, exec (.yield f) s = .next t ∧ leafOf t x.core x.entry = some l ∧ l.st = .blocked .yielded ∧ l.pc = x.leaf.pc) ∧
    (Runs s x f.h (sigExit f) act →
      ∃ t h, exec (.exitL f) s = .next t ∧ sheetOf t x.core x.leaf.slot = some h ∧
        (∀ l, act.has l = true → h.gone.has l = true) ∧
        (act ≠ x.leaf.mask → StandsAt t x (x.leaf.mask &&& ~~~act) (nextPc x.leaf.pc)) ∧
        (act = x.leaf.mask → x.entry ≠ x.leaf.slot → leafOf t x.core x.entry = none)))

/-- 11 R296, 14 R371, 17 R421: BKPT, TRAP and SYSCALL take their traps with the code as status: the handler of the trap table is
entered at once where no access of the lanes is outstanding, the record saves PC, lanes, cause and status, and no memory changes.
A handler that traps again kills its launch (17 R422). -/
def Obligations.CodeTrapResults : Prop :=
  ∀ (f : FmtG) (i : Instr) (cause : Nat),
    (i = .bkpt f ∧ cause = 15) ∨ (i = .trap f ∧ cause = 16) ∨ (i = .syscall f ∧ cause = 17) →
    ∀ s x act, Runs s x f.h (sigCodeTrap f) act →
      (x.leaf.priv = false → outstanding s x.core x.leaf = [] → ∀ pc later, trapVector s x.core x.sheet.ctx cause = some (pc, later) →
        ∃ t, exec i s = .next t ∧ InHandler t x cause pc ∧ TrapRecorded t x cause f.imm.toNat ∧ t.mem = s.mem ∧ t.regs = s.regs) ∧
      (x.leaf.priv = false → outstanding s x.core x.leaf ≠ [] → ∃ t l, exec i s = .next t ∧ leafOf t x.core x.entry = some l ∧
        l.st = .blocked (.results (outstanding s x.core x.leaf)) ∧ l.pc = x.leaf.pc) ∧
      (x.leaf.priv = true → ∃ t, exec i s = .next t ∧
        t.agenda.head? = some (.event (.launchKill x.sheet.ctx x.sheet.launch .nested)))

/-- 14 R372, 17 R423: RTT returns from a handler to the faulting instruction, to the next, or to an address; the leaf is
unprivileged, out of its handler and ready, the record no longer valid. A record with KLAUNCH set kills the launch. -/
def Obligations.ReturnResults : Prop :=
  ∀ (f : FmtG) s x act, Runs s x f.h (sigRtt f) act →
    let r := tget {} (coreOf s x.core).recs x.entry
    let pc : DWord := if f.mod = 0 then r.pc else if f.mod = 1 then nextPc r.pc
      else BitVec.ofNat 64 (uniOpd s x x.leaf.mask .i64 f.opa.toNat)
    x.leaf.priv = true ∧
    (r.klaunch = true → ∃ t, exec (.rtt f) s = .next t ∧
      t.agenda.head? = some (.event (.launchKill x.sheet.ctx x.sheet.launch .klaunch))) ∧
    (r.klaunch = false → r.kleaf = false → x.leaf.handler ≠ cResume → pcForm pc = true →
      (f.mod = 0 → r.cause ≠ cHostAtomic ∧ ¬ (r.cause = cLeafExhausted ∧ r.status = 3)) →
      ∃ t l, exec (.rtt f) s = .next t ∧ leafOf t x.core x.entry = some l ∧ l.pc = pc ∧ l.priv = false ∧ l.handler = 0 ∧
        l.st = .ready ∧ l.inRun = false ∧ l.mask = x.leaf.mask ∧ l.slot = x.leaf.slot ∧
        (tget {} (coreOf t x.core).recs x.entry).v = false)

/-- 12 R300, R301, R305, R308, 10 R244: a load, store, atomic, reduction or prefetch whose lanes pass their checks makes one
access for each active lane, and the leaf goes on. -/
def Obligations.MemoryAccesses : Prop :=
  ∀ f : FmtM,
    let n := widBytes f.wid
    let cas := f.subop.toNat % 16 = 7
    let reg (k : Nat) := fun (s : State) (x : Iss) (l : Nat) => groupVal s x k (dataRegs n) l
    let none' := fun (_ : State) (_ : Iss) (_ : Nat) => 0
    let any := fun (_ : DWord) (_ : Nat) => True
    AccessesMade (.ld f) f (sigLd f) .load 0 n none' none' any ∧
    AccessesMade (.st f) f (sigSt f) .store 1 n (reg f.data.toNat) none' any ∧
    (¬ cas → AccessesMade (.atom f) f (sigAtomOp f false) .atom 2 n (reg f.data.toNat) none' any) ∧
    (cas → AccessesMade (.atom f) f (sigAtomOp f false) .atom 2 n (reg (f.data.toNat + dataRegs n)) (reg f.data.toNat) any) ∧
    (¬ cas → AccessesMade (.red f) f (sigAtomOp f true) .red 4 n (reg f.data.toNat) none' any) ∧
    (∀ w : Bool, f.subop = (if w then 1 else 0) →
      AccessesMade (.pref f) f (sigPref f) (if w then .prefW else .prefR) (if w then 1 else 0) 1 none' none'
        (fun pte pa => pteCfmt pte = 0 ∧ pteC pte = true ∧ pa / 2 ^ 48 < 0xD))

/-- 02 R34, R38: lanes of a load, store, atomic or reduction that fault are parked at it, and lanes whose translation is not
cached wait for their walks; nothing has been accessed. -/
def Obligations.FaultingLanes : Prop :=
  ∀ f : FmtM, LanesPark (.ld f) f (sigLd f) 0 (widBytes f.wid) ∧ LanesPark (.st f) f (sigSt f) 1 (widBytes f.wid) ∧
    LanesPark (.atom f) f (sigAtomOp f false) 2 (widBytes f.wid) ∧ LanesPark (.red f) f (sigAtomOp f true) 4 (widBytes f.wid)

/-- 12 R309, R311, R312, 09 R217, R218, 14 R374 to R376, R378: FENCE, CFLUSH, CINV, TLBINV, RFCLR and MBOX start their operations on a tag.
A fence of the leaf itself, or of nothing, a range of no bytes and a `TLBINV` of no pages complete at once; `TLBINV` drops the
translations that it covers, with every walk cache; `MBOX` waits at a mailbox of 16 messages. An unprivileged `CINV` of a page whose
lines may not be discarded, a `TLBINV` or `RFCLR` of another function's, and ranges that the manual does not allow trap. -/
def Obligations.MaintenanceStarts : Prop :=
  (∀ f : FmtM,
    let va (s : State) (x : Iss) (act : Mask) : DWord := BitVec.ofNat 64 (uniOpd s x act .i64 f.base.toNat) + f.off.signExtend 64
    let len (s : State) (x : Iss) (act : Mask) : Nat := uniOpd s x act .i32 f.index.toNat
    let may (s : State) (x : Iss) (act : Mask) : Prop := x.leaf.priv = true ∨
      ∀ r, r ∈ rangeRows s x.core x.sheet.ctx x.leaf.priv true f.asp.toNat (va s x act).toNat (len s x act) →
        (∃ pte c, r = .ok pte c ∧ pteDisc pte = true) ∨ ∃ st v, r = .bad cPage st v
    Starts (.fence f) f.h (sigFence f) f.data f.scope (fun s x act => f.scope ≠ 0 ∧ accsOfLanes s x act ≠ [])
      (fun s x act => .fence f.ord (accsOfLanes s x act)) ∧
    Starts (.cflush f) f.h (sigRangeOp f) f.data f.scope (fun s x act => len s x act ≠ 0)
      (fun s x act => .range false f.asp.toNat (va s x act) (len s x act) none) ∧
    Starts (.cinv f) f.h (sigRangeOp f) f.data f.scope (fun s x act => len s x act ≠ 0 ∧ may s x act)
      (fun s x act => .range true f.asp.toNat (va s x act) (len s x act) none) ∧
    (∀ s x act, TagFree s x f.data →
      (Runs s x f.h (sigFence f) act → f.scope = 0 ∨ act = 0 ∨ accsOfLanes s x act = [] ∧ (f.ord = 2 ∨ owedLeft s = false) →
        ∃ t, exec (.fence f) s = .next t ∧ GoneOn t x ∧ TagDone t x f.data 0) ∧
      (Runs s x f.h (sigRangeOp f) act → x.leaf.priv = false →
        (∃ pte c, .ok pte c ∈ rangeRows s x.core x.sheet.ctx false true f.asp.toNat (va s x act).toNat (len s x act) ∧
          pteDisc pte = false) →
        exec (.cinv f) s = .next (sheetTrap (afterChecks s x (sigRangeOp f) act) x cPriv 0)) ∧
      (Runs s x f.h (sigRangeOp f) act → len s x act = 0 →
        (∃ t, exec (.cflush f) s = .next t ∧ GoneOn t x ∧ TagDone t x f.data 0) ∧
        ∃ t, exec (.cinv f) s = .next t ∧ GoneOn t x ∧ TagDone t x f.data 0))) ∧
  (∀ f : FmtG,
    let a (s : State) (x : Iss) (act : Mask) : Nat := uniOpd s x act .i64 f.opa.toNat
    let count (s : State) (x : Iss) (act : Mask) : Nat := uniOpd s x act .i32 f.opb.toNat
    let ctx (s : State) (x : Iss) (act : Mask) : Nat := uniOpd s x act .i32 f.opc.toNat
    let may (s : State) (x : Iss) (act : Mask) : Prop :=
      (if f.mod = 2 then ctxFn s x.sheet.ctx = 0 else ctxFn s (ctx s x act) = ctxFn s x.sheet.ctx) ∧
      (f.mod = 0 → a s x act % 2 ^ 16 = 0 ∧ count s x act ≤ 1048576)
    let traps (i : Instr) (g : Sig) (cond : State → Iss → Mask → Prop) (cause status : Nat) : Prop :=
      ∀ s x act, Runs s x f.h g act → cond s x act → exec i s = .next (sheetTrap (afterChecks s x g act) x cause status)
    let box (s : State) (x : Iss) : Option Nat := if f.mod = 1 then some (ctxFn s x.sheet.ctx) else none
    Starts (.tlbinv f) f.h (sigTlbinv f) f.dst 5 (fun s x act => may s x act ∧ (f.mod = 0 → 0 < count s x act))
      (fun s x act => .tlbinv f.mod.toNat (BitVec.ofNat 64 (a s x act)) (count s x act) (ctx s x act)) ∧
    (∀ s x act, Runs s x f.h (sigTlbinv f) act → may s x act → TagFree s x f.dst → f.mod = 0 → count s x act = 0 →
      ∃ t, exec (.tlbinv f) s = .next t ∧ GoneOn t x ∧ TagDone t x f.dst 0) ∧
    traps (.tlbinv f) (sigTlbinv f) (fun s x act =>
      ¬ (if f.mod = 2 then ctxFn s x.sheet.ctx = 0 else ctxFn s (ctx s x act) = ctxFn s x.sheet.ctx)) cPriv 0 ∧
    traps (.tlbinv f) (sigTlbinv f) (fun s x act => ctxFn s (ctx s x act) = ctxFn s x.sheet.ctx ∧ f.mod = 0 ∧
      (a s x act % 2 ^ 16 ≠ 0 ∨ 1048576 < count s x act)) cControl ctlTlbRange ∧
    (∀ s x act, Runs s x f.h (sigTlbinv f) act → may s x act → (f.mod = 0 → 0 < count s x act) → TagFree s x f.dst →
      ∃ t, exec (.tlbinv f) s = .next t ∧ (∀ d, (tget {} t.dies d).walkCache = []) ∧
        ∀ e : TlbEntry,
          (f.mod = 2 ∨ e.ctx = ctx s x act ∧
            (f.mod = 1 ∨ e.base < a s x act + count s x act * 2 ^ 16 ∧ a s x act < e.base + e.size)) →
          (∀ c, e ∉ (coreOf t c).tlb) ∧ ∀ k, e ∉ (clusterOf t k).tlb) ∧
    Starts (.rfclr f) f.h (sigRfclr f) f.dst 5
      (fun s x act => a s x act % 4096 = 0 ∧ 0 < count s x act ∧ count s x act ≤ 65536 ∧
        regionRange s (ctxFn s x.sheet.ctx) (a s x act) (count s x act) = (true, true))
      (fun s x act => .rfclr (a s x act) (count s x act)) ∧
    traps (.rfclr f) (sigRfclr f) (fun s x act => a s x act % 4096 ≠ 0 ∨ count s x act = 0 ∨ 65536 < count s x act ∨
      (regionRange s (ctxFn s x.sheet.ctx) (a s x act) (count s x act)).1 = false) cControl ctlRfRange ∧
    traps (.rfclr f) (sigRfclr f) (fun s x act => a s x act % 4096 = 0 ∧ 0 < count s x act ∧ count s x act ≤ 65536 ∧
      regionRange s (ctxFn s x.sheet.ctx) (a s x act) (count s x act) = (true, false)) cPriv 0 ∧
    Starts (.mbox f) f.h (sigMbox f) f.dst (if f.mod = 1 then 6 else 5) (fun s x _ => mailboxHeld s (box s x) < 16)
      (fun s x act => .mbox (f.mod = 1) (BitVec.ofNat 64 (a s x act)) [] false) ∧
    (∀ s x act, Runs s x f.h (sigMbox f) act → TagFree s x f.dst → 16 ≤ mailboxHeld s (box s x) →
      ∃ t, exec (.mbox f) s = .next t ∧ WaitsFor t x (.mailbox (box s x))))

/-- 12 R316, R318, R321 to R325, 05 R117, R119: TDSET, TDGET, CPY, CPYR, STT and XLATE start their operations. CPY and CPYR
check the descriptor and the coordinates and take a DESCRIPTOR trap with the status that fails; CPYR claims the next slot of
its ring; XLATE takes no tag. -/
def Obligations.CopyStarts : Prop :=
  ∀ f : FmtA,
    let id (s : State) (x : Iss) (act : Mask) := idOf s x act f.opa
    let d (s : State) (x : Iss) (act : Mask) := imgOf s x act f.opa
    let cs (s : State) (x : Iss) (act : Mask) := copyCoords s x act f.opb.toNat (tRank (d s x act))
    let dest (s : State) (x : Iss) (act : Mask) := uniOpd s x act (if f.mod = 1 ∨ f.mod = 2 then .i64 else .i32) f.opc.toNat
    let va (s : State) (x : Iss) (act : Mask) := uniOpd s x act .i64 f.opb.toNat
    let img (bs : List Byte) : Img := (List.range 32).map (fun i => BitVec.ofNat 64 (leBytes ((bs.drop (8 * i)).take 8)))
    (f.mod = 1 → Starts (.tdset f) f.h (sigTdset f) f.dst 5 (fun s x act => id s x act ≤ 1023)
      (fun s x act => .tdset (id s x act) (List.replicate 32 0))) ∧
    (f.mod = 0 → ∀ bs, Starts (.tdset f) f.h (sigTdset f) f.dst 5
      (fun s x act => id s x act ≤ 1023 ∧ va s x act % 256 = 0 ∧ LoadFree s x act (va s x act) 256 ∧ leaderRead (afterChecks s x (sigTdset f) act) x (va s x act) 256 = .ok bs ∧
        imageCheck (img bs) = none)
      (fun s x act => .tdset (id s x act) (img bs))) ∧
    Starts (.tdget f) f.h (sigTdget f) f.dst (engScope f.scope) (fun s x act => id s x act ≤ 1023)
      (fun s x act => .tdget (id s x act) (BitVec.ofNat 64 (va s x act))) ∧
    Starts (.cpy f) f.h (sigCpy f) f.dst (engScope f.scope)
      (fun s x act => CoordsPass s x act f.opa f.opb ∧ (copyQueue s (x.core / 4)).length < 128 ∧
        (f.mod = 0 ∨ f.mod = 3 → destOk (d s x act) (scratchSize (launchRec s x.sheet)) (dest s x act) = true))
      (fun s x act => .copy
        { kind := f.mod.toNat, img := d s x act, coords := cs s x act, dest := BitVec.ofNat 64 (dest s x act),
          bank := captureBank (coreOf s x.core) (d s x act), evp := f.evp }) ∧
    (∀ s x act, Runs s x f.h (sigCpy f) act → TagFree s x f.dst → id s x act ≤ 1023 →
      opdLegal x.sheet (.coords (max 1 (tRank (d s x act)))) f.opb.toNat = true →
      ReadsPass s x ((List.range (tRank (d s x act))).map (· + f.opb.toNat)) act →
      copyCheck (d s x act) (id s x act) (cs s x act) ≠ 0 →
      exec (.cpy f) s = .next (sheetTrap (afterChecks s x (sigCpy f) act) x cDescriptor
        (copyCheck (d s x act) (id s x act) (cs s x act)))) ∧
    (∀ s x act, Runs s x f.h (sigCpyr f) act → CoordsPass s x act f.opa f.opb →
      let k := x.core / 4
      let r := uniOpd s x act .i32 f.opd.toNat
      let g := ringOf s k r
      let slot := rgF g 34 31
      r ≤ 31 → rgV g = true → rgF g 12 1 = x.sheet.ctx → ringSlotOk s (d s x act) g = true → footprint (d s x act) ≤ rgZ g → rgF g 22 18 < rgS g →
      (copyQueue s k).length < 128 →
      ∃ t w, exec (.cpyr f) s = .next t ∧ GoneOn t x ∧
        InProgress t x act 64 (engScope f.scope) (.copy
          { kind := 0, img := d s x act, coords := cs s x act, dest := BitVec.ofNat 64 (128 * rgF g 60 49 + slot * rgZ g),
            cores := BitVec.ofNat 4 (2 ^ rgF g 62 61), ring := some (r, slot), owner := g.owner, evp := f.evp }) ∧
        ringOf t k r = { g with w0 := w } ∧ fld w 34 31 = (slot + 1) % rgS g ∧ fld w 22 18 = rgF g 22 18 + 1 ∧
        fld w 63 35 = rgF g 63 35 ∧ fld w 30 23 = rgF g 30 23 ∧ fld w 17 0 = rgF g 17 0) ∧
    (∀ s x act, Runs s x f.h (sigStt f) act → TagFree s x f.dst → id s x act ≤ 1023 → tRank (d s x act) ≠ 0 →
      tFmt (d s x act) ≠ 9 → tSpn (d s x act) = 0 → tBact (d s x act) = 0 →
      (f.mod.getLsbD 2 = true → 6 ≤ tFmt (d s x act) ∧ tFmt (d s x act) ≤ 8) →
      opdLegal x.sheet (.vcoords (tRank (d s x act))) f.opc.toNat = true →
      let regs := (List.range (tRank (d s x act))).map (· + f.opc.toNat)
      let lane (l : Nat) := sttLane s x (d s x act) (regs.map (fun c => readElem s x c l))
      let v (l : Nat) := if tFmt (d s x act) < 3 then eltVal 2 (readOpd s x .i32 f.opb.toNat l)
        else decodeF .f32 (readOpd s x (.fl .f32) f.opb.toNat l)
      let mode (l : Nat) := if f.mod.getLsbD 2 then RMode.sr (genNext x.sheet l).toNat else rmode (f.mod.extractLsb' 0 2)
      ReadsPass s x regs act → memStalled s x.core = false →
      (∀ l, act.has l = true → lane l = .out ∨ ∃ va nib is, lane l = .ok va nib is ∧ (tBlk (d s x act) = 0 ∨
        peerParts s (leafEng x) (scaleAddr (d s x act) (is.headD 0) is) (scaleW (tScf (d s x act)) / 8) 0 = [])) →
      ∃ t ws st pa, exec (.stt f) s = .next t ∧ GoneOn t x ∧ TagTaken t x f.dst ∧
        InProgress t x act (tagNo x.sheet f.dst.toNat) (engScope f.scope) (.stt ws st pa (issueNo s x.core x.entry)) ∧
        (∀ w ∈ ws, act.has w.lane = true ∧ lane w.lane ≠ .out) ∧
        ∀ l va nib is sc sg, act.has l = true → lane l = .ok va nib is →
          blockScale (afterChecks s x (sigStt f) act) (leafEng x) (d s x act) (is.headD 0) is = .ok (sc, sg) →
          ∃ w ∈ ws, w.lane = l ∧ w.va = BitVec.ofNat 64 va ∧ w.nibble = nib ∧
            w.bytes = max 1 (eltBits (tFmt (d s x act)) / 8) ∧
            w.code = (convCode (d s x act) (mode l) (f.mod.getLsbD 3) (tFmt (d s x act) < 3) (v l)
              (prodF sg (tauOf (d s x act)))).1) ∧
    (∀ s x act, Runs s x f.h (sigXlate f) act → id s x act ≤ 1023 → tRank (d s x act) ≠ 0 → tKvb (d s x act) = 1 →
      ∃ t items, exec (.xlate f) s = .next t ∧ GoneOn t x ∧
        InProgress t x act 64 (engScope f.scope) (.xlate f.dst f.opd (d s x act) items) ∧
        ∀ l, act.has l = true →
          let pos := readOpd s x .i32 f.opc.toNat l
          let row := recFld (d s x act) 639 624
          (l, if row ≤ pos / 16 then kvNone
            else (recFld (d s x act) 831 768 + 8 * (readOpd s x .i32 f.opb.toNat l * row + pos / 16)) % 2 ^ 64, pos % 16) ∈ items)

/-- 12 R326 to R328, 05 R129, R130: a ring is made or unmade by RINIT, its oldest full slots are read by RWAIT, and RREL frees
the oldest. -/
def Obligations.RingResults : Prop :=
  ∀ (f : FmtA) (s : State) (x : Iss) (act : Mask),
    let r := uniOpd s x act .i32 f.opa.toNat
    let k := x.core / 4
    let g := ringOf s k r
    let w : DWord := BitVec.ofNat 64 (uniOpd s x act .i64 f.opb.toNat)
    let j := uniOpd s x act .i32 f.opb.toNat
    let mine := r ≤ 31 ∧ rgV g = true ∧ rgF g 12 1 = x.sheet.ctx
    (Runs s x f.h (sigRinit f) act → r ≤ 31 → (rgV g = true → rgF g 12 1 = x.sheet.ctx) → rgF g 22 18 = rgF g 17 13 →
      (w.getLsbD 63 = false → ∃ t, exec (.rinit f) s = .next t ∧ GoneOn t x ∧ ringOf t k r = {}) ∧
      (w.getLsbD 63 = true → fld w 38 35 ≠ 0 → fld w 48 39 ≠ 0 → fld w 48 39 ≤ 512 → fld w 34 0 = 0 →
        128 * fld w 60 49 + (fld w 38 35 + 1) * (128 * fld w 48 39) ≤ scratchSize (launchRec s x.sheet) →
        ∃ t, exec (.rinit f) s = .next t ∧ GoneOn t x ∧
          ringOf t k r = ⟨w ||| BitVec.ofNat 64 (2 * x.sheet.ctx), 0, some (x.sheet.ctx, x.sheet.launch, x.sheet.task), []⟩)) ∧
    (Runs s x f.h (sigRwait f) act → mine → WritableTo s x act f.dst.toNat false →
      (j < rgS g → j < rgF g 17 13 →
        let i := (rgF g 26 23 + j) % rgS g
        ∃ t, exec (.rwait f) s = .next t ∧ GoneOn t x ∧ Holds32 t x act f.dst.toNat false
          (fun _ => (128 * rgF g 60 49 + i * rgZ g) % 2 ^ 19 + rgStatus g i * 2 ^ 28)) ∧
      (j < rgS g → rgF g 17 13 ≤ j → ∃ t, exec (.rwait f) s = .next t ∧ WaitsFor t x (.ringSlot r j)) ∧
      (rgS g ≤ j → exec (.rwait f) s = .next (sheetTrap (afterChecks s x (sigRwait f) act) x cControl ctlRingAhead))) ∧
    (Runs s x f.h (sigRrel f) act → mine →
      (rgF g 17 13 ≠ 0 → accsOfLanes s x act = [] →
        ∃ t v, exec (.rrel f) s = .next t ∧ GoneOn t x ∧ ringOf t k r = { g with w0 := v } ∧
          fld v 26 23 = (rgF g 26 23 + 1) % rgS g ∧ fld v 22 18 = rgF g 22 18 - 1 ∧ fld v 17 13 = rgF g 17 13 - 1 ∧
          fld v 63 27 = rgF g 63 27 ∧ fld v 12 0 = rgF g 12 0) ∧
      (rgF g 17 13 = 0 → exec (.rrel f) s = .next (sheetTrap (afterChecks s x (sigRrel f) act) x cControl ctlRingEmpty)))

/-- 12 R329 to R331, 05 R127: the instructions that wait for tags and read them, as the instruction sees them (10 R241). TCANCEL reaches
the copies and TDGETs of its tags, and no ring's copy and no multicast. -/
def Obligations.TagResults : Prop :=
  ∀ (f : FmtA) (s : State) (x : Iss) (act : Mask),
    let n := tagNo x.sheet f.opa.toNat
    let st (n : Nat) := (tagSeen s x.core n).status
    let rdy (n : Nat) := (tagSeen s x.core n).ready = true
    let m : DWord := BitVec.ofNat 64 (uniOpd s x act .i64 f.opd.toNat)
    let named := namedTags s x m true
    let out (t : State) (v : Nat) := GoneOn t x ∧ Holds32 t x act f.dst.toNat false (fun _ => v)
    WritableTo s x act f.dst.toNat false →
    (Runs s x f.h (sigWait f) act →
      (rdy n → st n ≠ 0xB → ∃ t, exec (.wait f) s = .next t ∧ out t (st n).toNat) ∧
      (rdy n → st n = 0xB → exec (.wait f) s = .next (sheetTrap (afterChecks s x (sigWait f) act) x cBounds 0)) ∧
      (¬ rdy n → ∃ t, exec (.wait f) s = .next t ∧ WaitsFor t x (.tag n))) ∧
    (Runs s x f.h (sigWaitany f) act →
      (named = [] → ∃ t, exec (.waitany f) s = .next t ∧ out t 64) ∧
      (∀ n ∈ named, rdy n → (∀ i ∈ named, rdy i → n ≤ i ∧ st i ≠ 0xB) → ∃ t, exec (.waitany f) s = .next t ∧ out t n) ∧
      (named ≠ [] → (∀ n ∈ named, ¬ rdy n) → ∃ t, exec (.waitany f) s = .next t ∧ WaitsFor t x (.tagAny m))) ∧
    (Runs s x f.h (sigWaitall f) act →
      ((∀ n ∈ named, rdy n ∧ st n ≠ 0xB) → ∃ t, exec (.waitall f) s = .next t ∧
        out t (named.foldl (fun a n => worse a (st n).toNat) 0)) ∧
      ((∃ n ∈ named, ¬ rdy n) → ∃ t, exec (.waitall f) s = .next t ∧ WaitsFor t x (.tagAll m))) ∧
    (Runs s x f.h (sigTfirst f) act →
      ((∀ n ∈ named, ¬ rdy n) → ∃ t, exec (.tfirst f) s = .next t ∧ out t 64) ∧
      (∀ n ∈ named, rdy n → (∀ i ∈ named, rdy i → n ≤ i) → ∃ t, exec (.tfirst f) s = .next t ∧ out t n)) ∧
    (Runs s x f.h (sigTtest f) act → WritableTo s x act f.opd.toNat true →
      f.dst = 0x1FF ∨ f.dst.toNat ≠ f.opd.toNat ∧ f.dst.toNat ≠ f.opd.toNat + 1 →
      ∃ t, exec (.ttest f) s = .next t ∧ out t (if (tagSeen s x.core n).ready then 2 ^ 31 + (st n).toNat else 0) ∧
        Holds64 t x act f.opd.toNat (fun _ =>
          if rdy n ∧ 3 ≤ (st n).toNat ∧ (st n).toNat ≤ 6 then (tagSeen s x.core n).va.toNat else 0)) ∧
    (Runs s x f.h (sigTcancel f) act →
      ∃ t, exec (.tcancel f) s = .next t ∧ GoneOn t x ∧ t.asyncs.length = s.asyncs.length ∧
        ∀ a ∈ s.asyncs,
          (a.core = x.core → a.tag ∈ namedTags s x m false →
            (∃ c, a.kind = .copy c ∧ c.ring = none ∧ c.kind ≠ 4) ∨ (∃ id va, a.kind = .tdget id va) →
            { a with cancelled := true } ∈ t.asyncs) ∧
          ((∃ c, a.kind = .copy c ∧ (c.ring ≠ none ∨ c.kind = 4)) → a ∈ t.asyncs) ∧
          (a.core ≠ x.core ∨ a.tag ∉ namedTags s x m false → a ∈ t.asyncs))

/-- 13 R336, R337, 08 R190 to R192, R197: MXA and MXSP whose checks pass append one operation for each quarter that has an
active lane to the pass queue, with what that quarter's lowest active lane holds, and each tile is undefined from then on. A
check that fails takes a DESCRIPTOR trap; a full queue makes the leaf wait. -/
def Obligations.MatrixQueues : Prop :=
  ∀ (f : FmtX) (i : Instr) (sp : Bool), (i = .mxa f ∧ sp = false) ∨ (i = .mxsp f ∧ sp = true) →
    ∀ s x act, Runs s x f.h (sigMatrixOp f) act →
    let a (l : Nat) := readOpd s x .i64 f.opa.toNat l
    let b (l : Nat) := readOpd s x .i64 f.opb.toNat l
    let chk (p : Nat × Nat) := quarterCheck s x sp ⟨p.1, a p.2, b p.2, readOpd s x .i32 f.opc.toNat p.2, readOpd s x .i32 f.opd.toNat p.2⟩
    let n := (activeQuarters act).length
    ((∀ p ∈ activeQuarters act, chk p = 0) → TagFree s x f.dst → (∀ k, bankPending s x.core k = false) →
      ((coreOf s x.core).queue.length + n ≤ 8 →
        ∃ t qs, exec i s = .next t ∧ GoneOn t x ∧ TagTaken t x f.dst ∧ (coreOf t x.core).queue = (coreOf s x.core).queue ++ qs ∧
          qs.map (·.quarter) = (activeQuarters act).map (·.1) ∧
          ∀ q ∈ qs, ∃ p ∈ activeQuarters act, p.1 = q.quarter ∧ q.sparse = sp ∧ q.ctx = x.sheet.ctx ∧ q.launch = x.sheet.launch ∧
            q.task = x.sheet.task ∧ q.sheet = x.sheet.index ∧ q.tag = tagNo x.sheet f.dst.toNat ∧
            q.imgA = descOf s x.sheet.ctx (slice (a p.2) 28 19) ∧ q.xa = slice (a p.2) 18 0 ∧ q.m0 = slice (a p.2) 63 32 ∧
            q.imgB = descOf s x.sheet.ctx (slice (b p.2) 28 19) ∧ q.xb = slice (b p.2) 18 0 ∧ q.n0 = slice (b p.2) 63 32 ∧
            q.k0 = readOpd s x .i32 f.opc.toNat p.2 ∧ q.tile = readOpd s x .i32 f.opd.toNat p.2 ∧
            ∀ o, o < 0x800 → undefAt (coreOf t x.core) true (0x800 * ((sheetTask s x.sheet).tile + q.tile) + o) = true) ∧
      (8 < (coreOf s x.core).queue.length + n → ∃ t, exec i s = .next t ∧ WaitsFor t x (.passRoom n))) ∧
    (∀ st, st ≠ 0 → (∀ p ∈ activeQuarters act, chk p = 0 ∨ chk p = st) → (∃ p ∈ activeQuarters act, chk p = st) →
      exec i s = .next (sheetTrap (afterChecks s x (sigMatrixOp f) act) x cDescriptor st))

/-- 13 R340 to R344, 08 R196: MXLD reads tile words into registers and MXZERO clears tiles; MXRDY waits for the sheet's stores
on a tag; MXST converts each element of its tiles that the tensor holds and starts their write-back. -/
def Obligations.MatrixTileResults : Prop :=
  ∀ f : FmtX,
    Starts (.mxrdy f) f.h (sigMxrdy f) f.dst 2 (fun _ _ _ => True)
      (fun s x _ => .mxrdy ((s.accs.filter (fun a => a.core = x.core ∧ a.slot = x.leaf.slot ∧ accWrites a)).map (·.id))) ∧
    (∀ s x act, Runs s x f.h (sigMxld f) act →
      let s' := afterChecks s x (sigMxld f) act
      let rho := 2 ^ f.mod.toNat
      let j (low : Nat) := readOpd s x .i32 f.opa.toNat low
      let m (low : Nat) := readOpd s x .i32 f.opb.toNat low
      let off (low l r : Nat) := 0x800 * ((tilesOf s x.sheet).2 + j low) + 4 * (32 * (m low + r / 4) + 4 * (l % 8) + r % 4)
      (∀ p ∈ activeQuarters act, j p.2 < (tilesOf s x.sheet).1 ∧ m p.2 + rho ≤ 16 ∧ m p.2 % rho = 0) →
      (∀ r, r < 4 * rho → Writable s x act (f.dst.toNat + r)) →
      (∀ l low, act.has l = true → (l / 8, low) ∈ activeQuarters act → ∀ r, r < 4 * rho →
        chipPoison s x.core true (off low l r) 4 = false) →
      ∃ t, exec (.mxld f) s = .next t ∧ GoneOn t x ∧
        ∀ l low, act.has l = true → (l / 8, low) ∈ activeQuarters act → ∀ r, r < 4 * rho →
          rawElem t x (f.dst.toNat + r) l = leBytes (chipRead s' x.core true (off low l r) 4)) ∧
    (∀ s x act, Runs s x f.h (sigMxzero f) act →
      let j (low : Nat) := readOpd s x .i32 f.opa.toNat low
      let off (low : Nat) := 0x800 * ((tilesOf s x.sheet).2 + j low)
      (∀ p ∈ activeQuarters act, j p.2 < (tilesOf s x.sheet).1 ∧
        spoiledOps (coreOf (afterChecks s x (sigMxzero f) act) x.core) true (off p.2) 0x800 = []) →
      ∃ t, exec (.mxzero f) s = .next t ∧ GoneOn t x ∧
        (∀ p ∈ activeQuarters act, ∀ o, o < 0x800 → chipByte (coreOf t x.core) true (off p.2 + o) = 0 ∧
          chipPoison t x.core true (off p.2) 0x800 = false) ∧
        ∀ a, (∀ p ∈ activeQuarters act, a < off p.2 ∨ off p.2 + 0x800 ≤ a) →
          chipByte (coreOf t x.core) true a = chipByte (coreOf s x.core) true a) ∧
    (∀ s x act, Runs s x f.h (sigMxst f) act → TagFree s x f.dst →
      let s' := afterChecks s x (sigMxst f) act
      let w (low : Nat) := readOpd s x .i64 f.opc.toNat low
      let o (p : Nat × Nat) : StoreOpds :=
        ⟨p.1, readOpd s x .i32 f.opa.toNat p.2, readOpd s x .i32 f.opb.toNat p.2, w p.2 % 2 ^ 32, w p.2 / 2 ^ 32⟩
      (∀ p ∈ activeQuarters act, storeCheck s x f (o p) = 0) →
      (∀ p ∈ activeQuarters act, ∀ r ∈ storeScales s x (o p), peerParts s (leafEng x) r.1 r.2 0 = []) →
      ∃ t ws st pa, exec (.mxst f) s = .next t ∧ GoneOn t x ∧ TagTaken t x f.dst ∧
        InProgress t x act (tagNo x.sheet f.dst.toNat) (engScope (f.mod.setWidth 3)) (.mxst ws st pa) ∧
        ∀ p ∈ activeQuarters act,
          let d := descOf s x.sheet.ctx (o p).id
          let off := 0x800 * ((tilesOf s x.sheet).2 + (o p).j)
          let len := if tBlk d = 0 then 32 else min 32 (blockSize d)
          tBact d = 0 → ∀ m n, m < 16 → n < 32 → (o p).m0 + m < tDim d 1 → (o p).n0 + n < tDim d 0 →
            chipPoison s x.core true (off + 4 * (32 * m + n)) 4 = false →
            ∀ sc sg, blockScale s' (leafEng x) d ((o p).n0 + n / len * len)
                [(o p).n0 + n / len * len, (o p).m0 + m] = .ok (sc, sg) →
              ∃ e ∈ ws, e.va = BitVec.ofNat 64 (eltAddr d [(o p).n0 + n, (o p).m0 + m]).1 ∧
                e.nibble = (eltAddr d [(o p).n0 + n, (o p).m0 + m]).2 ∧
                (f.sr = false → e.code = (convCode d (rmode f.rnd) f.sat false
                  (decodeF .f32 (leBytes (((chipRead s' x.core true off 0x800).drop (4 * (32 * m + n))).take 4)))
                  (prodF sg (tauOf d))).1))

/-- 13 R345, 08 R200 to R202: MXSAVE takes its task's operations out of the queue into an image, their tags CANCELLED; MXREST
places an image's operations before those of the queue, their tags pending. -/
def Obligations.ArrayImages : Prop :=
  ∀ (f : FmtX) (s : State) (x : Iss) (act : Mask),
    let va := uniOpd s x act .i64 f.opa.toNat
    (Runs s x f.h (sigMxsave f) act → imageFault s x va 1 = none → TagFree s x f.dst →
      let saved := savedOps (freezeNow (coreOf s x.core)) x.sheet
      let shape (q : QOp) := (q.quarter, q.sparse, q.imgA, q.imgB, q.xa, q.xb, q.k0, q.m0, q.n0, q.tile, q.sheet)
      ∃ t i, exec (.mxsave f) s = .next t ∧ GoneOn t x ∧ TagTaken t x f.dst ∧ i ∈ t.images ∧
        InProgress t x act (tagNo x.sheet f.dst.toNat) 2 (.mxsave (BitVec.ofNat 64 va) i.id) ∧
        i.ops.map shape = saved.map shape ∧
        (∀ q ∈ (coreOf t x.core).queue, q ∈ (coreOf s x.core).queue ∧ ∀ r ∈ saved, q.id ≠ r.id) ∧
        ∀ q ∈ saved, q.tag ≠ tagNo x.sheet f.dst.toNat →
          (tagOf t x.core q.tag).ready = true ∧ (tagOf t x.core q.tag).status = 9) ∧
    (Runs s x f.h (sigMxrest f) act → imageFault s x va 0 = none → TagFree s x f.dst → LoadFree s x act va imageLen →
      ∀ bs i, leaderRead (afterChecks s x (sigMxrest f) act) x va imageLen = .ok bs →
        s.images.find? (fun i => leBytes (bs.take 8) == imageHead i && bs == imageBytes i) = some i →
        (∀ q ∈ i.ops, ∃ p, sheetTags (coreOf s x.core) x.sheet q.sheet = some p ∧ q.tag < p.2.ntags) →
        (∀ q ∈ placedOps s x.core x.sheet i, (tagOf s x.core q.tag).ready = true) →
        (coreOf s x.core).queue.length + i.ops.length ≤ 8 →
        ∃ t, exec (.mxrest f) s = .next t ∧ GoneOn t x ∧ TagTaken t x f.dst ∧
          InProgress t x act (tagNo x.sheet f.dst.toNat) 2 (.mxrest (BitVec.ofNat 64 va)) ∧
          (coreOf t x.core).queue = placedOps s x.core x.sheet i ++ (coreOf s x.core).queue ∧
          ∀ q ∈ placedOps s x.core x.sheet i, (tagOf t x.core q.tag).ready = false) ∧
    (Runs s x f.h (sigMxrest f) act → imageFault s x va 0 = none → LoadFree s x act va imageLen →
      ∀ bs, leaderRead (afterChecks s x (sigMxrest f) act) x va imageLen = .ok bs →
        (∀ i ∈ s.images, bs ≠ imageBytes i) →
        exec (.mxrest f) s = .next (sheetTrap (afterChecks s x (sigMxrest f) act) x cDescriptor dsImage))

/-- 13 R346 to R350: CBSET starts filling the bank that is not selected and CBSWAP selects it; TMASK gives the class and the rows
of the mask of its interval words; MCAST starts its copy to the cores that it names; CRED adds each quarter's tiles to its
round. -/
def Obligations.AttentionResults : Prop :=
  ∀ f : FmtX,
    let other (s : State) (x : Iss) : Nat := if (coreOf s x.core).bankSel then 0 else 1
    let a64 (s : State) (x : Iss) (act : Mask) := uniOpd s x act .i64 f.opa.toNat
    let b32 (s : State) (x : Iss) (act : Mask) := uniOpd s x act .i32 f.opb.toNat
    let c32 (s : State) (x : Iss) (act : Mask) := uniOpd s x act .i32 f.opc.toNat
    Starts (.cbset f) f.h (sigCbset f) f.dst 5
      (fun s x act => c32 s x act ≠ 0 ∧ b32 s x act + c32 s x act ≤ 256 ∧ a64 s x act % 2 = 0 ∧
        bankPending s x.core (other s x) = false ∧ bankHeld (coreOf s x.core) (other s x) = false)
      (fun s x act => .cbset (other s x) (BitVec.ofNat 64 (a64 s x act)) (b32 s x act) (c32 s x act)) ∧
    (∀ s x act, Runs s x f.h (sigCbset f) act → c32 s x act = 0 ∨ 256 < b32 s x act + c32 s x act →
      exec (.cbset f) s = .next (sheetTrap (afterChecks s x (sigCbset f) act) x cControl ctlCbRange)) ∧
    (∀ s x act, Runs s x f.h (sigCbswap f) act →
      (bankPending s x.core 0 = false → bankPending s x.core 1 = false →
        ∃ t, exec (.cbswap f) s = .next t ∧ GoneOn t x ∧ (coreOf t x.core).bankSel = !(coreOf s x.core).bankSel) ∧
      (bankPending s x.core 0 = true ∨ bankPending s x.core 1 = true →
        ∃ t b, exec (.cbswap f) s = .next t ∧ WaitsFor t x (.bank b))) ∧
    (∀ s x act, Runs s x f.h (sigTmask f) act → WritableTo s x act f.dst.toNat false →
      (f.opd ≠ 0x1FF → WritableTo s x act f.opd.toNat true ∧ f.dst.toNat ≠ f.opd.toNat ∧ f.dst.toNat ≠ f.opd.toNat + 1) →
      let word (low i : Nat) := readOpd s x .i64 (f.opa.toNat + (if isS f.opa.toNat then i else 2 * i)) low
      let base (low : Nat) := readOpd s x .i64 f.opb.toNat low
      -- the mask bit of row r and column n
      let bit (low r n : Nat) : Prop := ∃ i, i < f.mod.toNat ∧
        inInterval (word low i) (base low / 2 ^ 32 + r) (base low % 2 ^ 32 + n) = true
      ∃ t v w, exec (.tmask f) s = .next t ∧ GoneOn t x ∧ Holds32 t x act f.dst.toNat false v ∧
        (f.opd ≠ 0x1FF → Holds64 t x act f.opd.toNat w) ∧
        ∀ l low, act.has l = true → (l / 8, low) ∈ activeQuarters act →
          (v l = 2 ↔ ∀ r n, r < 16 → n < 32 → bit low r n) ∧ (v l = 0 ↔ ∀ r n, r < 16 → n < 32 → ¬ bit low r n) ∧ v l ≤ 2 ∧
          ∀ n, n < 32 → ((w l).testBit n = true ↔ bit low (2 * (l % 8)) n) ∧
            ((w l).testBit (32 + n) = true ↔ bit low (2 * (l % 8) + 1) n)) ∧
    Starts (.mcast f) f.h (sigMcast f) f.dst 3
      (fun s x act => CoordsPass s x act f.opa f.opb ∧ (copyQueue s (x.core / 4)).length < 128 ∧
        destOk (imgOf s x act f.opa) (scratchSize (launchRec s x.sheet)) (c32 s x act) = true)
      (fun s x act => .copy
        { kind := 4, img := imgOf s x act f.opa, coords := copyCoords s x act f.opb.toNat (tRank (imgOf s x act f.opa)),
          dest := BitVec.ofNat 64 (c32 s x act), cores := f.mod }) ∧
    (∀ s x act, Runs s x f.h (sigCred f) act → TagFree s x f.dst →
      let o (p : Nat × Nat) : RedOpds :=
        ⟨p.1, readOpd s x .i32 f.opa.toNat p.2, readOpd s x .i32 f.opb.toNat p.2, readOpd s x .i64 f.opc.toNat p.2⟩
      let os := (activeQuarters act).map o
      let tiles := (tilesOf s x.sheet).1
      (∀ q ∈ os, q.j < tiles ∧ q.j2 < tiles ∧ q.j ≠ q.j2 ∧ redMismatch s x os q = false) →
      (clusterOf s (x.core / 4)).rounds.length + os.length ≤ 8 →
      ∃ t, exec (.cred f) s = .next t ∧ GoneOn t x ∧ TagTaken t x f.dst ∧
        ∀ q ∈ os, ∃ r ∈ (clusterOf t (x.core / 4)).rounds, r.ctx = x.sheet.ctx ∧ r.launch = x.sheet.launch ∧
          r.task = x.sheet.task ∧ r.number = slice q.w 9 4 ∧ r.mask.toNat = slice q.w 3 0 ∧
          ∃ p ∈ r.parts, p.core = x.core ∧ p.j = q.j ∧ p.j2 = q.j2 ∧ p.tag = tagNo x.sheet f.dst.toNat)

/-- 14 R356, 15 R382 to R384: GNEW gives the handle of the gathering of its name, or makes one in the lowest free entry; NOSPACE
without one. Arguments out of their ranges take CONTROL with GATHER-ARG. -/
def Obligations.GatheringCreation : Prop :=
  ∀ (f : FmtG) (s : State) (x : Iss) (act : Mask), Runs s x f.h (sigGnew f) act → WritableTo s x act f.opc.toNat false →
    let name := BitVec.ofNat 32 (uniOpd s x act .i32 f.opa.toNat)
    let pol := uniOpd s x act .i64 f.opb.toNat
    let dl := pol % 2 ^ 32
    let ctx := x.sheet.ctx
    let inst := scopeInst f.scope x.core
    let here (g : Nat × GEntry) : Bool := g.2.role = 1 ∧ g.2.owner = ctx ∧ g.2.name = name ∧ g.2.scope = f.scope ∧ g.2.inst = inst
    let out (t : State) (h : Word) (st : Nat) : Prop := GoneOn t x ∧
      Holds32 t x act f.dst.toNat false (fun _ => h.toNat) ∧ Holds32 t x act f.opc.toNat false (fun _ => st)
    (f.scope ≠ 7 → pol / 2 ^ 32 = 0 → dl ≠ 0 → dl < 2 ^ 24 →
      (∀ i g, s.gather.find? here = some (i, g) → ∃ t, exec (.gnew f) s = .next t ∧ t.gather = s.gather ∧
        out t (handleOf s i) (if g.dl = dl ∧ g.strict = (f.mod.getLsbD 0) then 0 else 32)) ∧
      (s.gather.find? here = none → (∀ g ∈ s.gather, ¬ (g.2.role = 1 ∧ g.2.owner = ctx ∧ g.2.name = name)) →
        (∀ i, freeEntry s ctx = some i → ∃ t, exec (.gnew f) s = .next t ∧ out t (handleOf t i) 16 ∧
          let e := gEntry t i
          e.role = 1 ∧ e.name = name ∧ e.owner = ctx ∧ e.scope = f.scope ∧ e.inst = inst ∧ e.dl = dl ∧
            e.strict = f.mod.getLsbD 0 ∧ e.memb = 0 ∧ e.arrv = 0 ∧ e.pip = false ∧ e.phase = 1 ∧
            e.gen = if (gEntry s i).gen = 0 then 1 else (gEntry s i).gen) ∧
        (freeEntry s ctx = none → ∃ t, exec (.gnew f) s = .next t ∧ t.gather = s.gather ∧ out t 0 6))) ∧
    (f.scope ≠ 7 → pol / 2 ^ 32 ≠ 0 ∨ dl = 0 ∨ 2 ^ 24 ≤ dl →
      exec (.gnew f) s = .next (sheetTrap (afterChecks s x (sigGnew f) act) x cControl ctlGatherArg))

/-- 14 R357, 15 R384, R385: the active lanes become members by GJOIN, from the next phase where one is in progress, and leave by
GLEAVE; a handle that is not live gives STALE, and lanes that are no members NOT-MEMBER. -/
def Obligations.GatheringMembership : Prop :=
  ∀ (f : FmtG) (s : State) (x : Iss) (act : Mask), WritableTo s x act f.dst.toNat false →
    let w := BitVec.ofNat 32 (uniOpd s x act .i32 f.opa.toNat)
    (Runs s x f.h (sigGjoin f) act →
      (liveG s x.sheet.ctx w = none → ∃ t, exec (.gjoin f) s = .next t ∧ t.gather = s.gather ∧ Answered t x act f.dst false 5) ∧
      ∀ i, liveG s x.sheet.ctx w = some i →
        let g := gEntry s i
        (g.inst ≠ scopeInst g.scope x.core → ∃ t, exec (.gjoin f) s = .next t ∧ t.gather = s.gather ∧ Answered t x act f.dst false 10) ∧
        ∀ k, g.inst = scopeInst g.scope x.core → joinSlot s x.core x.sheet w = some k →
          let m := tget {} x.sheet.slots k
          let new := if m.handle = w then act &&& ~~~(m.member ||| m.joining) else act
          ∃ t, exec (.gjoin f) s = .next t ∧ Answered t x act f.dst false 0 ∧ (slotIn t x k).handle = w ∧
            (g.pip = false → (∀ l, new.has l = true → (slotIn t x k).member.has l = true) ∧
              (gEntry t i).memb = g.memb + (laneList new).length) ∧
            (g.pip = true → (∀ l, new.has l = true → (slotIn t x k).joining.has l = true) ∧
              (gEntry t i).joins = g.joins + (laneList new).length ∧ (gEntry t i).memb = g.memb)) ∧
    (Runs s x f.h (sigGleave f) act →
      (liveG s x.sheet.ctx w = none → ∃ t, exec (.gleave f) s = .next t ∧ t.gather = s.gather ∧ Answered t x act f.dst false 5) ∧
      ∀ i, liveG s x.sheet.ctx w = some i →
        ((∀ k, slotOf x.sheet w = some k → ((tget {} x.sheet.slots k).member ||| (tget {} x.sheet.slots k).joining) &&& act = 0) →
          ∃ t, exec (.gleave f) s = .next t ∧ t.gather = s.gather ∧ Answered t x act f.dst false 7) ∧
        ∀ k, slotOf x.sheet w = some k → (tget {} x.sheet.slots k).handle = w → namedG s w = some i → (gEntry s i).pip = false →
          (tget {} x.sheet.slots k).member &&& act ≠ 0 →
          ∃ t, exec (.gleave f) s = .next t ∧ Answered t x act f.dst false 0 ∧
            (slotIn t x k).member = (tget {} x.sheet.slots k).member &&& ~~~act ∧
            (gEntry t i).memb = (gEntry s i).memb - (laneList ((tget {} x.sheet.slots k).member &&& act)).length)

/-- 14 R358, R359: GARRIVE, GVOTE and GRED arrive with the active lanes that are members. An arrival that is not the last leaves
its tag pending on the phase; the last completes the phase, whose value and status the tag then holds, and the next phase
begins. It is a release: it waits for the accesses of the lanes that arrive. A handle that is not live completes the tag with STALE; a second arrival in a phase waits for its end. -/
def Obligations.GatheringArrivals : Prop :=
  ∀ (f : FmtG) (i : Instr) (kind op : Nat) (role : Role) (ok : Bool) (val : State → Iss → Nat → Word),
    (i = .garrive f ∧ kind = 1 ∧ op = 0 ∧ role = .unused ∧ ok = (f.sub == 0) ∧ val = (fun _ _ _ => 0)) ∨
    (i = .gvote f ∧ kind = 2 ∧ op = 0 ∧ role = .pred ∧ ok = (f.sub == 1) ∧
      val = (fun s x l => if readBit s x f.opb.toNat l then 1 else 0)) ∨
    (i = .gred f ∧ kind = 3 ∧ op = f.sub.toNat / 16 ∧ role = .src .i32 ∧ ok = (f.sub.toNat % 16 == 2 && f.sub.toNat / 16 ≤ 10) ∧
      val = (fun s x l => BitVec.ofNat 32 (readOpd s x .i32 f.opb.toNat l))) →
    ∀ s x act, Runs s x f.h (sigArriveOp f role ok) act → TagFree s x f.dst →
      let w := BitVec.ofNat 32 (uniOpd s x act .i32 f.opa.toNat)
      let n := tagNo x.sheet f.dst.toNat
      let tag (t : State) := tagOf t x.core n
      (liveG s x.sheet.ctx w = none → slotOf x.sheet w = none → ∃ t, exec i s = .next t ∧ GoneOn t x ∧ t.gather = s.gather ∧
        (tag t).ready = true ∧ (tag t).op = .gathering ∧ (tag t).handle = w ∧ (tag t).gstatus = 5) ∧
      ∀ k e, liveG s x.sheet.ctx w = some e → slotOf x.sheet w = some k → (gEntry s e).role = 1 → handleOf s e = w →
        (tget {} x.sheet.slots k).handle = w →
        let g := gEntry s e
        let mb := tget {} x.sheet.slots k
        let m := mb.member &&& act
        let cnt := (laneList m).length
        (g.pip = true → (mb.arrived ||| mb.joining) &&& act ≠ 0 → ∃ t, exec i s = .next t ∧ WaitsFor t x (.phase w)) ∧
        (m ≠ 0 → (g.pip = true → (mb.arrived ||| mb.joining) &&& act = 0) → accsOfLanes s x m ≠ [] →
          ∃ t, exec i s = .next t ∧ WaitsFor t x (.results (accsOfLanes s x m))) ∧
        (m ≠ 0 → (g.pip = true → (mb.arrived ||| mb.joining) &&& act = 0) → accsOfLanes s x m = [] → g.arrv + cnt < g.memb →
          ∃ t, exec i s = .next t ∧ GoneOn t x ∧ TagTaken t x f.dst ∧ (tag t).op = .gathering ∧ (tag t).handle = w ∧
            (tag t).phase = g.phase ∧ (gEntry t e).arrv = g.arrv + cnt ∧ (gEntry t e).pip = true ∧ (gEntry t e).memb = g.memb ∧
            (slotIn t x k).arrived = mb.arrived ||| m ∧
            (g.pip = false → (gEntry t e).kind = kind ∧ (gEntry t e).op = op ∧ (gEntry t e).began = s.ticks)) ∧
        (m ≠ 0 → accsOfLanes s x m = [] → g.pip = false → g.arrv = 0 → g.memb = cnt → g.shadows = [] → g.dep = false → g.any = false → g.acc = 0 →
          g.sum = 0 → g.nan = false → g.pinf = false → g.ninf = false → mb.arrived = 0 →
          ∃ t v, exec i s = .next t ∧ GoneOn t x ∧ (tag t).ready = true ∧ (tag t).handle = w ∧ (tag t).phase = g.phase ∧
            (tag t).gstatus = 0 ∧ (tag t).value = v ∧ PhaseValueIs kind op ((laneList m).map (val s x)) v ∧
            (gEntry t e).pip = false ∧ (gEntry t e).arrv = 0 ∧ (gEntry t e).phase = (g.phase + 1) % 2 ^ 24 ∧
            (gEntry t e).memb = g.memb + g.joins - g.leaving ∧ (slotIn t x k).arrived = 0)

/-- 14 R361 to R365: GWAIT reads a tag's phase result; GSTAT, GABORT and GFREE read, abort and free an entry of this device, give
STALE for a handle that is not live, and ask the home of a gathering homed elsewhere. -/
def Obligations.GatheringControl : Prop :=
  ∀ (f : FmtG) (s : State) (x : Iss) (act : Mask),
    let n := tagNo x.sheet f.opa.toNat
    let g := tagOf s x.core n
    let w := BitVec.ofNat 32 (uniOpd s x act .i32 f.opa.toNat)
    (Runs s x f.h (sigGwait f) act → WritableTo s x act f.dst.toNat true →
      (g.op ≠ .gathering → exec (.gwait f) s = .next (sheetTrap (afterChecks s x (sigGwait f) act) x cControl ctlTagKind)) ∧
      (g.op = .gathering → g.ready = false → ∃ t, exec (.gwait f) s = .next t ∧ WaitsFor t x (.tag n)) ∧
      (g.op = .gathering → g.ready = true → g.gstatus ≠ 15 → ∃ t, exec (.gwait f) s = .next t ∧
        Answered t x act f.dst true (g.value.toNat * 2 ^ 32 + g.phase % 2 ^ 24 * 2 ^ 8 + g.gstatus.toNat))) ∧
    (∀ i k, (i = .gstat f ∧ Runs s x f.h (sigGstat f) act ∧ k = 0) ∨ (i = .gabort f ∧ Runs s x f.h (sigGabort f) act ∧ k = 1) ∨
        (i = .gfree f ∧ Runs s x f.h (sigGfree f) act ∧ k = 2) →
      WritableTo s x act f.dst.toNat (k = 0) →
      (liveG s x.sheet.ctx w = none → ∃ t, exec i s = .next t ∧ t.gather = s.gather ∧
        Answered t x act f.dst (k = 0) (if k = 0 then 5 * 2 ^ 60 else 5)) ∧
      ∀ e, liveG s x.sheet.ctx w = some e →
        ((gEntry s e).role = 3 → ∃ t id d, exec i s = .next t ∧ WaitsFor t x (.results [id]) ∧
          .gask id (gEntry s e).homedev w k d ∈ t.emsenOut ∧ t.gather = s.gather) ∧
        ((gEntry s e).role = 1 ∨ (gEntry s e).role = 2 → k = 0 → ∃ t, exec i s = .next t ∧ t.gather = s.gather ∧
          Answered t x act f.dst true (((gEntry s e).memb + ((gEntry s e).shadows.map (·.lanes)).sum) % 2 ^ 27 +
            ((gEntry s e).arrv + ((gEntry s e).shadows.map (·.arrLanes)).sum) % 2 ^ 27 * 2 ^ 27)) ∧
        ((gEntry s e).role = 1 ∨ (gEntry s e).role = 2 → k = 1 → ∃ t, exec i s = .next t ∧ Answered t x act f.dst false 0 ∧
          (gEntry t e).memb = 0 ∧ (gEntry t e).arrv = 0 ∧ (gEntry t e).pip = false ∧ (gEntry t e).last = 4 ∧
          (gEntry t e).lastph = (gEntry s e).phase ∧ (gEntry t e).phase = 1 ∧
          (gEntry t e).gen = if (gEntry s e).gen = 255 then 1 else (gEntry s e).gen + 1) ∧
        ((gEntry s e).role = 1 ∨ (gEntry s e).role = 2 → k = 2 → (gEntry s e).pip = true ∨ (gEntry s e).memb + ((gEntry s e).shadows.map (·.lanes)).sum ≠ 0 →
          ∃ t, exec i s = .next t ∧ t.gather = s.gather ∧ Answered t x act f.dst false 8) ∧
        ((gEntry s e).role = 1 ∨ (gEntry s e).role = 2 → k = 2 → (gEntry s e).pip = false → (gEntry s e).memb + ((gEntry s e).shadows.map (·.lanes)).sum = 0 →
          ∃ t, exec i s = .next t ∧ Answered t x act f.dst false 0 ∧
            gEntry t e = { gen := if (gEntry s e).gen = 255 then 1 else (gEntry s e).gen + 1 }))

/-- 14 R366 to R370, 16 R400 to R403: LAUNCH gives ACCEPTED with the new counter id or the status that refuses it; CTRADD adds to
an event counter; CTRWAIT reads a counter that has reached its target and else waits; CANCEL starts the cancel of a level. -/
def Obligations.WorkResults : Prop :=
  ∀ (f : FmtG) (s : State) (x : Iss) (act : Mask),
    let ctx := x.sheet.ctx
    let cid := uniOpd s x act .i32 f.opa.toNat
    let b := BitVec.ofNat 64 (uniOpd s x act .i64 f.opb.toNat)
    (Runs s x f.h (sigLaunch f) act → WritableTo s x act f.dst.toNat true → accsOfLanes s x act = [] →
      LoadFree s x act (uniOpd s x act .i64 f.opa.toNat) 256 →
      let va := uniOpd s x act .i64 f.opa.toNat
      let q := uniOpd s x act .i32 f.opb.toNat
      let img (bs : List Byte) : List DWord := (List.range 32).map (fun i => BitVec.ofNat 64 (leBytes ((bs.drop (8 * i)).take 8)))
      let rd := leaderRead (afterChecks s x (sigLaunch f) act) x va 256
      let out (t : State) (v : Nat) : Prop := exec (.launch f) s = .next t ∧ Answered t x act f.dst true v
      let same (t : State) : Prop := t.launches = s.launches
      (queueOk s ctx q = false → ∃ t, out t 3 ∧ same t) ∧
      (queueOk s ctx q = true → va % 256 ≠ 0 → ∃ t, out t 4 ∧ same t) ∧
      (queueOk s ctx q = true → va % 256 = 0 → ∀ e, rd = .error e → ∃ t, out t 4 ∧ same t) ∧
      ∀ bs, queueOk s ctx q = true → va % 256 = 0 → rd = .ok bs →
        (recordOk s ctx (img bs) = false → ∃ t, out t 1 ∧ same t) ∧
        (recordOk s ctx (img bs) = true → fld (rawReg s (.qctl q)) 11 0 ≤ pendingIn s q → ∃ t, out t 2 ∧ same t) ∧
        (recordOk s ctx (img bs) = true → pendingIn s q < fld (rawReg s (.qctl q)) 11 0 → s.launches.length < 4096 →
          ∃ t, out t ((2 ^ 29 + freeLaunch s ctx) * 2 ^ 32) ∧
            (s.launches = [] → lrDeps (img bs) = [] →
              (∀ c, c = graphCid (lrGraph (img bs)) ∨ c = phaseCid (lrPhase (img bs)) ∨ c = jobCid →
                (levelOf s ctx c).cancelling = false) →
              ∃ l ∈ t.launches, l.ctx = ctx ∧ l.index = freeLaunch s ctx ∧ l.queue = q ∧ l.rec' = img bs ∧ l.st = .eligible))) ∧
    (Runs s x f.h (sigCtradd f) act → WritableTo s x act f.dst.toNat false → accsOfLanes s x act = [] →
      (counterAt s ctx cid = none → ∃ t, exec (.ctradd f) s = .next t ∧ Answered t x act f.dst false 3) ∧
      (counterAt s ctx cid ≠ none → cidLevel cid ≠ 5 → ∃ t, exec (.ctradd f) s = .next t ∧ Answered t x act f.dst false 4) ∧
      (∀ v, counterAt s ctx cid = some v → cidLevel cid = 5 → ∃ t, exec (.ctradd f) s = .next t ∧ Answered t x act f.dst false 0 ∧
        counterAt t ctx cid = some { v with value := v.value + b })) ∧
    (Runs s x f.h (sigCtrwait f) act → WritableTo s x act f.dst.toNat true →
      ∀ v, counterAt s ctx cid = some v →
        ((v.value - b).msb = false → ∃ t, exec (.ctrwait f) s = .next t ∧ Answered t x act f.dst true (v.value.toNat % 2 ^ 60 * 16)) ∧
        ((v.value - b).msb = true → v.done = true → v.cancelled = true →
          ∃ t, exec (.ctrwait f) s = .next t ∧ Answered t x act f.dst true (v.value.toNat % 2 ^ 60 * 16 + 1)) ∧
        ((v.value - b).msb = true → v.done = false → x.leaf.st = readySt x.leaf → ∃ t, exec (.ctrwait f) s = .next t ∧
          WaitsFor t x (.counter cid b (if f.imm = 0 then none else some (s.ticks + f.imm.toNat * 600))))) ∧
    (Runs s x f.h (sigCancel f) act → WritableTo s x act f.dst.toNat false →
      (counterAt s ctx cid = none → ∃ t, exec (.cancel f) s = .next t ∧ Answered t x act f.dst false 3) ∧
      (counterAt s ctx cid ≠ none → cidLevel cid = 5 → ∃ t, exec (.cancel f) s = .next t ∧ Answered t x act f.dst false 4) ∧
      ∀ v, counterAt s ctx cid = some v → cidLevel cid ≠ 5 →
        (v.done = true → ∃ t, exec (.cancel f) s = .next t ∧ Answered t x act f.dst false 5) ∧
        (v.done = false → ∃ t, exec (.cancel f) s = .next t ∧ Answered t x act f.dst false 0 ∧
          (levelOf t ctx cid).cancelling = true))

/-- 14 R373, R377, R378: SYSRD reads and SYSWR writes what their selector names; IRQ signals a vector of the function; HALT marks
its task halted. A selector that names nothing takes CONTROL with SYS-SELECT. -/
def Obligations.SystemResults : Prop :=
  ∀ (f : FmtG) (s : State) (x : Iss) (act : Mask),
    let v := uniOpd s x act .i32 f.opa.toNat
    let b := uniOpd s x act .i64 f.opb.toNat
    let k := x.core / 4
    (Runs s x f.h (sigSysrd f) act → WritableTo s x act f.dst.toNat true →
      (∀ r w, sysSel s x v = .ok (.ring r w) → ∃ t, exec (.sysrd f) s = .next t ∧
        Answered t x act f.dst true (if w = 0 then (ringOf s k r).w0 else (ringOf s k r).w1).toNat) ∧
      (∀ c, sysSel s x v = .ok (.disc c) → ∃ t, exec (.sysrd f) s = .next t ∧
        Answered t x act f.dst true (((ctxOf s c).map (·.cdisc.toNat)).getD 0)) ∧
      (∀ w n, sysSel s x v = .ok (.tag w n) → ∃ t, exec (.sysrd f) s = .next t ∧
        Answered t x act f.dst true (tagWord (tagOf s x.core n) w))) ∧
    (Runs s x f.h (sigSyswr f) act →
      (∀ r w, sysSel s x v = .ok (.ring r w) → rgF (ringOf s k r) 22 18 = rgF (ringOf s k r) 17 13 →
        (rgV (ringOf s k r) = true → (ringOf s k r).owner = some (x.sheet.ctx, x.sheet.launch, x.sheet.task)) →
        ∃ t, exec (.syswr f) s = .next t ∧ GoneOn t x ∧
          (w = 0 → (ringOf t k r).w0 = BitVec.ofNat 64 b &&& ~~~1) ∧ (w ≠ 0 → (ringOf t k r).w1 = BitVec.ofNat 64 b)) ∧
      (∀ c q, sysSel s x v = .ok (.disc c) → ctxOf s c = some q → ∃ t, exec (.syswr f) s = .next t ∧ GoneOn t x ∧
        ctxOf t c = some { q with cdisc := BitVec.ofNat 32 b }) ∧
      (∀ w n, sysSel s x v = .ok (.tag w n) → (tagOf s x.core n).ready = true → ∃ t, exec (.syswr f) s = .next t ∧ GoneOn t x ∧
        tagOf t x.core n = putTagWord (tagOf s x.core n) w b) ∧
      (∀ w n, sysSel s x v = .ok (.tag w n) → (tagOf s x.core n).ready = false →
        exec (.syswr f) s = .next (sheetTrap (afterChecks s x (sigSyswr f) act) x cControl ctlTagPending))) ∧
    (∀ c st, sysSel s x v = .error (c, st) →
      (Runs s x f.h (sigSysrd f) act → exec (.sysrd f) s = .next (sheetTrap (afterChecks s x (sigSysrd f) act) x c st)) ∧
      (Runs s x f.h (sigSyswr f) act → exec (.syswr f) s = .next (sheetTrap (afterChecks s x (sigSyswr f) act) x c st))) ∧
    (Runs s x f.h (sigIrq f) act →
      let fn := ctxFn s x.sheet.ctx
      (accsOfLanes s x act = [] → v < (if fn = 0 then 2048 else 64) →
        ∃ t, exec (.irq f) s = .next t ∧ GoneOn t x ∧ t.hostOut = (signalVec s fn v).hostOut ∧ t.fns = (signalVec s fn v).fns) ∧
      ((if fn = 0 then 2048 else 64) ≤ v →
        exec (.irq f) s = .next (sheetTrap (afterChecks s x (sigIrq f) act) x cControl ctlIrqVector))) ∧
    (Runs s x f.h (sigHalt f) act → ∀ k, taskOf s x.sheet.ctx x.sheet.launch x.sheet.task = some k →
      ∃ t, exec (.halt f) s = .next t ∧ GoneOn t x ∧
        taskOf t x.sheet.ctx x.sheet.launch x.sheet.task = some { k with halted := true })

/-- 12 R300, R301, R303, R305, 09 R208, R213, 04 R91: a load or atomic that would read a release, where the scopes of both cover both lanes,
does not perform while a store that the release is ordered after is outstanding; a release that performs before such a store keeps it for
its readers. An access whose earlier accesses have performed: Where its cluster does not hold
the line, a request goes to the line's home; a held line serves it, a store without a message; an uncached one performs at the home, and a store or
atomic changes the bytes that it names and no others. -/
def Obligations.AccessEvents : Prop :=
  (∀ (s : State) (id : Nat) (a : Acc) (o : Owed), accOf s id = some a → a.kind = .load ∨ a.kind = .atom → o ∈ s.owed →
    a.pa < o.pa + o.bytes → o.pa < a.pa + a.bytes → covers o.scope.toNat (o.core, o.slot, o.lane) (a.core, a.slot, a.lane) = true →
    a.ord = 0 ∨ covers a.scope.toNat (o.core, o.slot, o.lane) (a.core, a.slot, a.lane) = true → idsLeft s o.ids = true →
    exec (.loadDataReturn id) s = .next s ∧ exec (.uncachedAccess id) s = .next s) ∧
  ∀ (s : State) (id : Nat) (a : Acc), accOf s id = some a → a.fail = 0 → depsDone s a = true → snapNeeded s a = false →
    let k := a.core / 4
    let line := lineOf a.pa
    let off := a.pa % 128
    (reachOf s a = .cache → cacheLine s k line = none → requested s k line = false →
      Leads s (.loadDataReturn id) (fun t => t.mem = s.mem ∧ accOf t id = some { a with sent := true, msg := s.nextId } ∧
        Sent t (requestKind a) line k 0 (fun m => m.id = s.nextId ∧ m.src = k ∧ m.home = lineHome s line))) ∧
    (∀ l, reachOf s a = .cache → cacheLine s k line = some l → a.kind = .load → l.st ≠ .c →
      linePoison l.poison off a.bytes = false → Plain s a.pa a.bytes →
      Leads s (.loadDataReturn id) (fun t => t.mem = s.mem ∧ accOf t id = none ∧
        WordsIn s t a (extendWords a.cls a.bytes (leBytes ((l.data.drop off).take a.bytes))))) ∧
    (∀ l, reachOf s a = .cache → cacheLine s k line = some l → a.kind = .store → accComm a = false → l.st = .m ∨ l.st = .e →
      Plain s a.pa a.bytes →
      Leads s (.loadDataReturn id) (fun t => t.mem = s.mem ∧ t.msgs = s.msgs ∧ accOf t id = none ∧
        (∃ l', cacheLine t k line = some l' ∧ l'.st = .m ∧ l'.data = putAt l.data off (toBytes a.bytes a.d)) ∧
        ∀ b ∈ s.accs, b.id ≠ id → a.soft.contains b.id = true →
          ∃ o ∈ t.owed, o.pa = a.pa ∧ o.bytes = a.bytes ∧ o.core = a.core ∧ o.lane = a.lane ∧ o.scope = a.scope ∧ o.ids = a.soft)) ∧
    (reachOf s a = .home → HomeFree s line (lineHome s line) s.msgs → tileReady s line (accWrites a) = true → Plain s a.pa a.bytes →
      (a.kind = .store → Leads s (.uncachedAccess id) (fun t => accOf t id = none ∧
        memBytes t a.pa a.bytes = toBytes a.bytes a.d ∧ MemKeptBut s t a.pa a.bytes)) ∧
      (memPoison s a.pa a.bytes = false → a.kind = .load → Leads s (.uncachedAccess id) (fun t => accOf t id = none ∧
        t.mem = s.mem ∧ WordsIn s t a (extendWords a.cls a.bytes (leBytes (memBytes s a.pa a.bytes))))) ∧
      (memPoison s a.pa a.bytes = false → a.kind = .atom → a.subop.toNat ≤ 7 → Leads s (.uncachedAccess id) (fun t =>
        accOf t id = none ∧ MemKeptBut s t a.pa a.bytes ∧
        WordsIn s t a (extendWords a.cls a.bytes (leBytes (memBytes s a.pa a.bytes))) ∧
        AtomNew a.subop a.cls (8 * a.bytes) (leBytes (memBytes s a.pa a.bytes)) a.d a.c (leBytes (memBytes t a.pa a.bytes)))))

/-- 02 R28 to R34: the oldest miss of a die takes a free walker, at the root of its context; an entry that is not valid faults
PAGE with NOT-PRESENT for every leaf that waits, a valid table entry leads the walk one level down, and a valid leaf entry is
cached for the core that waits.
02 R42 to R45: the answers of the host to the atomics of lanes. A completed AtomicOp performs its access; the first read of
the loop of R43 is followed by a compare-and-swap, which ends the loop where the word stood as read and is tried again where
not, up to 256 times. -/
def Obligations.WalkAndHostAtomicEvents : Prop :=
  ((∀ (s : State) (d : Nat) (w : Walk) (rest : List Walk) (c : Ctx),
     (tget {} s.dies d).missed = w :: rest → (tget {} s.dies d).active.length < 32 → ctxOf s w.ctx = some c →
     Leads s (.tlbMissWalk d) (fun t => (tget {} t.dies d).missed = rest ∧
       (tget {} t.dies d).active = (tget {} s.dies d).active ++ [{ w with table := c.root, level := 4 }] ∧ t.mem = s.mem)) ∧
   ∀ (s : State) (d n : Nat) (w : Walk), walkOf s d n = some w →
     let a := entryAddr w.table w.level (w.page * 2 ^ 16)
     let r := coherentRead s a 8
     let e := BitVec.ofNat 64 (leBytes r.1)
     (∀ p ∈ (tget {} s.dies d).walkCache, p.1 ≠ a) → quiet s (lineOf a) = true →
     (r.2 = true → Leads s (.walkReadReturn d n) (fun t => t.mem = s.mem ∧ ∀ p ∈ w.waiters,
       { entry := p.2, ctx := w.ctx, page := w.page, status := stWalkPoison } ∈ (coreOf t p.1).walkFaults)) ∧
     (r.2 = false → e.getLsbD 0 = false → Leads s (.walkReadReturn d n) (fun t => t.mem = s.mem ∧ ∀ p ∈ w.waiters,
       { entry := p.2, ctx := w.ctx, page := w.page, status := stNotPresent } ∈ (coreOf t p.1).walkFaults)) ∧
     (∀ b, r.2 = false → e.getLsbD 0 = true → e.getLsbD 1 = false → w.level ≠ 0 → fld e 63 52 = 0 → fld e 7 2 = 0 →
       placeOf s (fld e 51 8 * 2 ^ 8) = .hbm b → fld e 51 8 < 2 ^ 40 → stackPresent s (b / 2 ^ 36) = true →
       Leads s (.walkReadReturn d n) (fun t => t.mem = s.mem ∧ walkOf t d n = some { w with table := b, level := w.level - 1 })) ∧
     (∀ p, r.2 = false → e.getLsbD 0 = true → e.getLsbD 1 = true → leafCheck s w.ctx w.level e = 0 →
       let te := tlbEntryOf w.ctx (w.page * 2 ^ 16) w.level e
       frameCheck s (pteImode e) (paUnder e te.size (w.page * 2 ^ 16)) = 0 → w.waiters = [p] →
       Leads s (.walkReadReturn d n) (fun t => t.mem = s.mem ∧ walkOf t d n = none ∧
         tlbLookup t p.1 w.ctx (w.page * 2 ^ 16) = some te))) ∧
  (∀ (s : State) (id : Nat) (a : Acc), accOf s id = some a → a.fail = 0 → a.sent = true → reachOf s a = .hostAtom →
    Plain s a.pa a.bytes →
    let n := enclosing a.bytes
    let base := a.pa / n * n
    let words (v : Nat) : List Nat := if a.kind = .atom then extendWords a.cls a.bytes v else []
    let new (t : State) (v : Nat) : Prop := AtomNew a.subop a.cls (8 * a.bytes) v a.d a.c (leBytes (memBytes t a.pa a.bytes))
    let holds (t : State) (v : Nat) : Prop := MemKeptBut s t base n ∧ memBytes t base n = toBytes n v
    (∀ old : BitVec 128, atomicOpOf a ≠ 0 → Leads s (.atomicopCompletion id false old) (fun t =>
       let v := old.toNat % 2 ^ (8 * a.bytes)
       accOf t id = none ∧ MemKeptBut s t a.pa a.bytes ∧ new t v ∧ WordsIn s t a (words v))) ∧
     (∀ d : BitVec 128, a.attempt = 0 → atomicOpOf a = 0 → Leads s (.hostReadCompletion id d) (fun t =>
       holds t (d.toNat % 2 ^ (8 * n)) ∧
       accOf t id = some { a with seen := d.toNat % 2 ^ (8 * n), attempt := 1 } ∧
       ∃ new, .atomicOp id base 3 n (d.toNat % 2 ^ (8 * n)) new ∈ t.hostOut)) ∧
     (∀ d : BitVec 128, a.attempt ≠ 0 → d.toNat % 2 ^ (8 * n) = a.seen → a.pa % n + a.bytes ≤ n →
       Leads s (.hostCasCompletion id false d) (fun t =>
         let v := a.seen / 2 ^ (8 * (a.pa % n)) % 2 ^ (8 * a.bytes)
         accOf t id = none ∧ MemKeptBut s t base n ∧ new t v ∧ WordsIn s t a (words v))) ∧
     (∀ d : BitVec 128, a.attempt ≠ 0 → d.toNat % 2 ^ (8 * n) ≠ a.seen → a.attempt < 256 →
       Leads s (.hostCasCompletion id false d) (fun t => holds t (d.toNat % 2 ^ (8 * n)) ∧
         accOf t id = some { a with seen := d.toNat % 2 ^ (8 * n), attempt := a.attempt + 1 } ∧
         ∃ new, .atomicOp id base 3 n (d.toNat % 2 ^ (8 * n)) new ∈ t.hostOut)) ∧
     (∀ d : BitVec 128, a.attempt ≠ 0 → d.toNat % 2 ^ (8 * n) ≠ a.seen → 256 ≤ a.attempt →
       leafOfLane s a.core a.slot a.lane = none →
       Leads s (.hostCasCompletion id false d) (fun t => accOf t id = some { a with fail := 3, sent := true })))

/-- 03 R48, R55 to R58: a read goes hop by hop on the route to the line's home. A holder on its way answers with its data and goes
from M to O or from E to S; a home with no tree answers E with memory's line. The answer goes back by the path and an E answer
leaves a stitch at each router; at the requester the line is cached, or an uncached answer performs its load. -/
def Obligations.ReadTransactions : Prop :=
  ∀ (s : State) (id : Nat) (m : Msg),
    let r := m.at'
    (∀ n q, Stands s id m .read → stitchOf s r m.line = none → r ≠ m.home → neighbour r (routePort r m.home) = some (n, q) →
      Leads s (.readRequest id) (fun t => t.mem = s.mem ∧ StitchesKept s t ∧ ∃ k, msgOf t id = some k ∧ k.kind = .read ∧
        k.line = m.line ∧ k.at' = n ∧ k.port = q ∧ k.path = (r, m.port) :: m.path)) ∧
    (Stands s id m .read → r = m.home → HomeFree s m.line m.home (ahead s id) → peerLine s m.line = false →
      m.ev6 = false → m.reroute = false → m.steered = false →
      Leads s (.readRequest id) (fun t => t.mem = s.mem ∧ Sent t .readResp m.line m.home 0 (fun k =>
        k.st = .e ∧ k.data = some (memBytes s (128 * m.line) 128) ∧ k.src = m.src ∧ k.path = (r, m.port) :: m.path))) ∧
    (∀ g l, Stands s id m .read → r < 157 → stitchOf s r m.line = some g → g.unpk = false → g.comm = false →
      steerPort g m.port = some 0 → cacheLine s r m.line = some l → l.st ≠ .c → m.ev6 = false →
      Leads s (.readRequest id) (fun t => t.mem = s.mem ∧
        Sent t .readResp m.line r 0 (fun k => k.st = .s ∧ k.data = some l.data ∧ k.poison = l.poison ∧ k.src = m.src) ∧
        ∃ l', cacheLine t r m.line = some l' ∧ l'.data = l.data ∧
          l'.st = if l.st = .m then .o else if l.st = .e then .s else l.st)) ∧
    (∀ c a n b rest, Stands s id m .readResp → m.path = (c, a) :: (n, b) :: rest →
      (m.uncached = true → Leads s (.readResponse id) (fun t => StitchesKept s t ∧ ∃ k, msgOf t id = some k ∧
        k.at' = n ∧ k.port = opposite a ∧ k.path = (n, b) :: rest)) ∧
      (∀ w, m.uncached = false → m.st = .e → m.has = 0 → c ≠ m.home → stitchOf s c m.line = none → freeWay s c m.line = some w →
        Leads s (.readResponse id) (fun t => (∃ k, msgOf t id = some k ∧ k.at' = n ∧ k.port = opposite a ∧ k.path = (n, b) :: rest) ∧
          ∃ g, stitchOf t c m.line = some g ∧ g.mask = setPort (setPort 0 a) m.port ∧ g.root = a ∧ g.home = m.port ∧ g.way = w ∧
            g.unpk = false ∧ g.comm = false ∧ g.rnwd = 0 ∧ g.lwin = s.ticks + leaseTicks s))) ∧
    (∀ c a, Stands s id m .readResp → m.path = [(c, a)] → m.src < 128 →
      (∀ b, m.uncached = true → accsFor s m.aux = [b] → b.kind = .load → mayRead s b = true → linePoison m.poison (b.pa % 128) b.bytes = false →
        Plain s b.pa b.bytes → Leads s (.readResponse id) (fun t => t.mem = s.mem ∧ accOf t b.id = none ∧ WordsIn s t b
          (extendWords b.cls b.bytes (leBytes (((m.data.getD []).drop (b.pa % 128)).take b.bytes))))) ∧
      (∀ w, m.uncached = false → m.st = .e → m.has = 0 → c ≠ m.home → stitchOf s c m.line = none → freeWay s c m.line = some w →
        roomFor s m.src m.line = true → s.accs = [] →
        Leads s (.readResponse id) (fun t => ∃ l, cacheLine t m.src m.line = some l ∧ l.st = .e ∧ l.data = m.data.getD [])))

/-- 03 R54, R59 to R62, R67: a write goes to the line's home, and renews the branch of a holder that sends it. The home grants it at once where no
tree stands and else invalidates the tree through every port of its stitch; an invalidated holder gives up its line and acknowledges with what it
holds in M or O; the last acknowledgement lets the grant go, with that data. Prunes and drop notices clear a port, and a stitch that only passes the
line on goes; a released anchor's data go to memory. -/
def Obligations.WriteTransactions : Prop :=
  ∀ (s : State) (id : Nat) (m : Msg),
    let r := m.at'
    (∀ n q, Stands s id m .write → r ≠ m.home → neighbour r (routePort r m.home) = some (n, q) →
      Leads s (.writeRequest id) (fun t => t.mem = s.mem ∧ (cacheLine s m.src m.line = none → StitchesKept s t) ∧
        (∀ g, (cacheLine s m.src m.line).isSome = true → stitchOf s r m.line = some g → maskBit g m.port = true →
          stitchOf t r m.line = some { g with rnwd := setPort g.rnwd m.port }) ∧
        ∃ k, msgOf t id = some k ∧ k.kind = .write ∧ k.at' = n ∧ k.port = q ∧ k.path = (r, m.port) :: m.path)) ∧
    (Stands s id m .write → r = m.home → m.uncached = false → tileReady s m.line true = true →
      (HomeFree s m.line m.home (ahead s id) → Leads s (.writeRequest id) (fun t => t.mem = s.mem ∧ txOf t m.line = none ∧
        Sent t .grant m.line m.home 0 (fun k => k.st = .m ∧ k.src = m.src ∧ k.data = some (memBytes s (128 * m.line) 128)))) ∧
      (∀ g p n q, mustWait s m = false → lineFlagged s m.line = false → stitchOf s r m.line = some g → g.unpk = false →
        g.comm = false → p ∈ portsOf (clearPort g.mask 0) → neighbour r p = some (n, q) →
        Leads s (.writeRequest id) (fun t => t.mem = s.mem ∧ (txOf t m.line).isSome = true ∧
          (∃ g', stitchOf t r m.line = some g' ∧ g'.unpk = true ∧ g'.mask = g.mask) ∧
          Sent t .inval m.line n q (fun k => k.src = m.src)))) ∧
    (∀ n q, Stands s id m .inval → neighbour r m.port = some (n, q) →
      (stitchOf s r m.line = none → Leads s (.invalidation id) (fun t => t.mem = s.mem ∧
        Sent t .invalAck m.line n q (fun k => k.data = none))) ∧
      (∀ g l, stitchOf s r m.line = some g → unpickOf s r m.line = none → maskBit g 0 = true → fabCopies s r m.line = [] → m.src ≠ r →
        clearPort (clearPort g.mask 0) m.port = 0 → cacheLine s r m.line = some l →
        Leads s (.invalidation id) (fun t => t.mem = s.mem ∧ cacheLine t r m.line = none ∧ stitchOf t r m.line = none ∧
          Sent t .invalAck m.line n q (fun k => k.data = if l.st = .m ∨ l.st = .o then some l.data else none)))) ∧
    (∀ u tx, Stands s id m .invalAck → m.aux ≠ 1 → unpickOf s r m.line = some u → u.why = 2 → clearPort u.left m.port = 0 →
      u.lost = false → m.lost = false → txOf s m.line = some tx → tx.msg.kind = .write → tx.msg.uncached = false →
      Leads s (.invalidationAck id) (fun t => t.mem = s.mem ∧ txOf t m.line = none ∧ stitchOf t r m.line = none ∧
        Sent t .grant tx.msg.line tx.msg.at' 0 (fun k => k.src = tx.msg.src ∧
          (∀ d, m.data = some d → k.data = some d) ∧
          (m.data = none → u.data = none → k.data = some (memBytes s (128 * m.line) 128))))) ∧
    (∀ c a w, Stands s id m .grant → m.path = [(c, a)] → m.uncached = false → m.has = 0 → m.src < 128 → c ≠ m.home →
      stitchOf s c m.line = none → freeWay s c m.line = some w → roomFor s m.src m.line = true → s.accs = [] →
      cacheLine s m.src m.line = none →
      Leads s (.writeGrant id) (fun t => ∃ l, cacheLine t m.src m.line = some l ∧ l.st = .m ∧ l.data = m.data.getD [])) ∧
    (∀ g, Stands s id m .prune → stitchOf s r m.line = some g → g.unpk = false →
      let mask := clearPort g.mask m.port
      (r ≠ lineHome s m.line → mask.getLsbD 0 = true →
        Leads s (.prune id) (fun t => t.mem = s.mem ∧ stitchOf t r m.line = some { g with mask := mask })) ∧
      (r = lineHome s m.line → mask = 0 → Leads s (.prune id) (fun t => t.mem = s.mem ∧ stitchOf t r m.line = none)) ∧
      (∀ p n q, r ≠ lineHome s m.line → mask.getLsbD 0 = false → portsOf mask = [p] → neighbour r p = some (n, q) →
        Leads s (.prune id) (fun t => t.mem = s.mem ∧ stitchOf t r m.line = none ∧ Sent t .prune m.line n q (fun _ => True)))) ∧
    (∀ g p n q, Stands s id m .dropNotice → stitchOf s r m.line = some g → maskBit g m.port = true → g.unpk = false →
      r ≠ lineHome s m.line → portsOf (clearPort g.mask 0) = [p] → neighbour r p = some (n, q) →
      Leads s (.dropNotice id) (fun t => t.mem = s.mem ∧ stitchOf t r m.line = none ∧ Sent t .prune m.line n q (fun _ => True))) ∧
    (∀ d, Stands s id m .anchorRelease → livePort s m = true → r = m.home → unpickOf s r m.line = none → mustWait s m = false →
      m.data = some d → d.length = 128 →
      Leads s (.anchorRelease id) (fun t => memBytes t (128 * m.line) 128 = d ∧ MemKeptBut s t (128 * m.line) 128 ∧
        ∀ g p n q, stitchOf s r m.line = some g → p ∈ portsOf (clearPort g.mask 0) → neighbour r p = some (n, q) →
          Sent t .inval m.line n q (fun _ => True)))

/-- 03 R64, R73 to R76, 25 R468: joins of a commutative line are answered by the first router of its tree or by the home; the home
serves a plain load by a gather, which starts at the entry router and takes each agent's partial; a fold delivery folds each
element that has a value into memory, and is discarded where the region is flagged. -/
def Obligations.CommutativeEvents : Prop :=
  ∀ (s : State) (id : Nat) (m : Msg),
    let r := m.at'
    let w := elemBytes (pteCfmt m.pte)
    let elem (bs : List Byte) (i : Nat) : Nat := leBytes ((bs.drop (w * i)).take w)
    (Stands s id m .join →
      (∀ n q, stitchOf s r m.line = none → r ≠ m.home → neighbour r (routePort r m.home) = some (n, q) →
        Leads s (.joinRequest id) (fun t => t.mem = s.mem ∧ ∃ k, msgOf t id = some k ∧ k.at' = n ∧ k.port = q)) ∧
      (∀ g, stitchOf s r m.line = some g → g.unpk = false → g.comm = true →
        Leads s (.joinRequest id) (fun t => t.mem = s.mem ∧
          Sent t .joinResp m.line r 0 (fun k => k.st = .c ∧ k.src = m.src ∧ k.path = (r, m.port) :: m.path))) ∧
      (r = m.home → HomeFree s m.line m.home (ahead s id) → peerLine s m.line = false →
        Leads s (.joinRequest id) (fun t => t.mem = s.mem ∧
          Sent t .joinResp m.line r 0 (fun k => k.st = .c ∧ k.src = m.src ∧ k.path = (r, m.port) :: m.path)))) ∧
    (Stands s id m .commRead → r = m.home → peerLine s m.line = false →
      let nodes := (r, m.port) :: m.path
      (HomeFree s m.line m.home (ahead s id) → (∀ n ∈ nodes, stitchOf s n.1 m.line = none) →
        Leads s (.commutativeGather id) (fun t => t.mem = s.mem ∧ txOf t m.line = none ∧ Sent t .readResp m.line r 0 (fun k =>
          k.st = .e ∧ k.src = m.src ∧ k.data = some (memBytes s (128 * m.line) 128)))) ∧
      (∀ g, mustWait s m = false → lineFlagged s m.line = false → stitchOf s r m.line = some g → g.unpk = false → g.comm = true →
        Leads s (.commutativeGather id) (fun t => t.mem = s.mem ∧
        (txOf t m.line).isSome = true ∧ Sent t .gatherStart m.line r 0 (fun k => ∃ e, k.path.getLast? = some e ∧
          (stitchOf s e.1 m.line).isSome = true)))) ∧
    (∀ c a n b rest, Stands s id m .gatherStart → m.path = (c, a) :: (n, b) :: rest →
      Leads s (.gatherStart id) (fun t => t.mem = s.mem ∧ ∃ k, msgOf t id = some k ∧ k.at' = n ∧ k.port = opposite a ∧
        k.path = (n, b) :: rest)) ∧
    (∀ c a g l, stitchOf s c m.line = some g → unpickOf s c m.line = none → c < 128 → maskBit g 0 = true → a ≠ 0 →
      clearPort (clearPort g.mask 0) a = 0 → cacheLine s c m.line = some l → l.st = .c → l.data.length = 128 → l.has ≠ 0 →
      s.emsen = [] →
      (Stands s id m .gatherStart → m.path = [(c, a)] → Leads s (.gatherStart id) (fun t => t.mem = s.mem ∧
        cacheLine t c m.line = none ∧ stitchOf t c m.line = none ∧
        Sent t .invalAck m.line c 0 (fun k => k.aux = 1 ∧ k.data = some l.data ∧ k.has = l.has))) ∧
      (∀ n q, Stands s id m .collect → c = r → a = m.port → neighbour r a = some (n, q) →
        Leads s (.collect id) (fun t => t.mem = s.mem ∧ cacheLine t r m.line = none ∧ stitchOf t r m.line = none ∧
          Sent t .invalAck m.line n q (fun k => k.data = some l.data ∧ k.has = l.has)))) ∧
    (∀ g p n q, Stands s id m .unpickReq → r = m.home → txOf s m.line = none → stitchOf s r m.line = some g → g.comm = false →
      p ∈ portsOf (clearPort g.mask 0) → neighbour r p = some (n, q) →
      Leads s (.unpickRequest id) (fun t => t.mem = s.mem ∧ (txOf t m.line).isSome = true ∧
        Sent t .inval m.line n q (fun _ => True))) ∧
    (∀ d, Stands s id m .foldDelivery → livePort s m = true → r = m.home → mustWait s m = false → peerLine s m.line = false →
      lineFlagged s m.line = false → m.data = some d → d.length = 128 →
      Leads s (.foldDelivery id) (fun t => msgOf t id = none ∧ MemKeptBut s t (128 * m.line) 128 ∧
        ∀ i, i < 128 / w → elem (memBytes t (128 * m.line) 128) i =
          if m.has.testBit i then foldElem (pteCfmt m.pte) (pteCop m.pte) (elem (memBytes s (128 * m.line) 128) i) (elem d i)
          else elem (memBytes s (128 * m.line) 128) i)) ∧
    (Stands s id m .foldDelivery → livePort s m = true → r = m.home → mustWait s m = false → peerLine s m.line = false →
      lineFlagged s m.line = true → Leads s (.foldDelivery id) (fun t => t.mem = s.mem ∧ msgOf t id = none))

/-- 03 R66 to R71, R79, R80: renewals set the bit of the port that they pass, once for each window go on homeward, and meet LEASE-LOST
at a port that is not live; the end of a window cuts and reports the branches without one. A reported loss of a commutative
branch, or of the branch with a dirty anchor, flags the region; an agent that learns of its loss gives up the line. A granted
tile's bytes come to stand for the peer's memory, with a tile stitch where there is room for one; an invalidation of the tile sends them back. -/
def Obligations.LeaseEvents : Prop :=
  ∀ (s : State) (id : Nat) (m : Msg),
    let r := m.at'
    (∀ k l, l ∈ (clusterOf s k).cache → Leads s (.renewalSend k) (fun t => t.mem = s.mem ∧
      Sent t .renewal l.line k 0 (fun j => j.home = lineHome s l.line ∧ j.src = k))) ∧
    (Stands s id m .renewal →
      (∀ g, stitchOf s r m.line = some g → maskBit g m.port = true →
        Leads s (.renewal id) (fun t => t.mem = s.mem ∧ stitchOf t r m.line = some { g with rnwd := setPort g.rnwd m.port } ∧
          (r = m.home ∨ g.rnwd ≠ 0 → msgOf t id = none) ∧
          ∀ n q, r ≠ m.home → g.rnwd = 0 → neighbour r g.home = some (n, q) →
            ∃ k, msgOf t id = some k ∧ k.at' = n ∧ k.port = q)) ∧
      (stitchOf s r m.line = none → Leads s (.renewal id) (fun t => t.mem = s.mem ∧
        Sent t .leaseLost m.line r m.port (fun k => k.src = m.src)))) ∧
    (∀ c line g, stitchOf s c line = some g → g.lwin ≤ s.ticks → c ≠ lineHome s line → unpickOf s c line = none → g.unpk = false →
      maskBit g 0 = true → 0 ∉ expired g →
      Leads s (.leaseWindowEnd c line) (fun t => t.mem = s.mem ∧
        (∃ g', stitchOf t c line = some g' ∧ g'.rnwd = 0 ∧ g'.lwin = g.lwin + leaseTicks s ∧
          ∀ p, p < 5 → (maskBit g' p = true ↔ maskBit g p = true ∧ p ∉ expired g)) ∧
        ∀ p, p ∈ expired g → Sent t .branchLoss line c 0 (fun k => k.home = lineHome s line ∧ k.aux % 8 = p ∧
          lossRoot k = (p == g.root) ∧ lossComm k = g.comm))) ∧
    (Stands s id m .branchLoss → r = m.home → mustWait s m = false → m.aux ≠ 64 →
      (lossComm m = true → m.line < 768 * 2 ^ 23 → Leads s (.branchLossReport id) (fun t => lineFlagged t m.line = true)) ∧
      (lossComm m = false → lossRoot m = false → Leads s (.branchLossReport id) (fun t => t.mem = s.mem ∧ t.flagged = s.flagged ∧
        msgOf t id = none)) ∧
      (∀ g, lossComm m = false → lossRoot m = true → stitchOf s r m.line = some g → g.own = true → m.line < 768 * 2 ^ 23 →
        Leads s (.branchLossReport id) (fun t => lineFlagged t m.line = true)) ∧
      (∀ g p n q, lossComm m = false → lossRoot m = true → stitchOf s r m.line = some g → g.own = false →
        p ∈ portsOf (clearPort g.mask 0) → neighbour r p = some (n, q) →
        Leads s (.branchLossReport id) (fun t => t.mem = s.mem ∧ t.flagged = s.flagged ∧ Sent t .inval m.line n q (fun _ => True)))) ∧
    (Stands s id m .leaseLost → m.src < 128 → Leads s (.leaseLost id) (fun t => t.mem = s.mem ∧ cacheLine t m.src m.line = none)) ∧
    (∀ q st bs line write src, s.emsen.find? (fun e => e.id = id) = some q → q.use = .tile line write src → s.ticks ≤ q.deadline →
      peerLine s line = true → bs.length = 4096 →
      let tile := tileOf line
      Leads s (.tileGrant id st bs) (fun t => tileState t tile = (if write then 3 else if st = 2 then 2 else 1) ∧
        memBytes t (4096 * tile) 4096 = bs ∧ MemKeptBut s t (4096 * tile) 4096 ∧
        ∀ w, tileWay s (lineHome s line) tile = some w → ∃ g ∈ (routerOf t (lineHome s line)).stitches,
          g.tile = true ∧ g.line = 32 * tile ∧ g.set = tile % 1024 ∧ g.way = w ∧ g.lwin = s.ticks + leaseTicks s)) ∧
    (∀ tile, peerLine s (32 * tile) = true → tileState s tile ≠ 0 → Leads s (.tileInvalidation tile) (fun t =>
      tileState t tile = 0 ∧ MemKeptBut s t (4096 * tile) 4096 ∧
        (∀ g ∈ (routerOf t (lineHome s (32 * tile))).stitches, ¬ (g.tile = true ∧ g.line = 32 * tile)) ∧ ∃ bs, bs.length = 4096 ∧
        .response (peerDev s (32 * tile)) true bs ∈ t.emsenOut ∧
        ((∀ i, i < 32 → holdersOf s (32 * tile + i) = []) → bs = memBytes s (4096 * tile) 4096))) ∧
    (∀ fab c l, (200 ≤ c) → c ∈ s.clusters.map (·.1) → tsorted s.clusters = true → l ∈ (clusterOf s c).cache → l.prot = 153 + fab →
      Leads s (.tileRenewal fab) (fun t => t.mem = s.mem ∧
        Sent t .renewal l.line (153 + fab) 0 (fun j => j.home = lineHome s l.line ∧ j.src = 153 + fab)))

/-- 05 R127, R128: each asynchronous operation completes once what stands before it is done, in the effect that its instruction
names and with its tag's status: fences, matrix readiness, descriptor writes, element and tile write-backs, range
operations, codebook loads, translation and flag operations, array images, KV lookups and copies. An operation that was cancelled
completes with CANCELLED. -/
def Obligations.OperationCompletions : Prop :=
  ∀ (s : State) (id : Nat) (a : Async), asyncOf s id = some a →
    (∀ o ids, a.kind = .fence o ids →
      (idsLeft s ids = false → o = 2 ∨ owedLeft s = false →
        Leads s (.fenceComplete id) (fun t => Done t a 0 ∧ t.mem = s.mem ∧ t.accs = s.accs)) ∧
      (idsLeft s ids = true ∨ o ≠ 2 ∧ owedLeft s = true → exec (.fenceComplete id) s = .next s)) ∧
    (∀ ids, a.kind = .mxrdy ids →
      (idsLeft s ids = false → Leads s (.mxrdyComplete id) (fun t => Done t a 0 ∧ t.mem = s.mem)) ∧
      (idsLeft s ids = true → exec (.mxrdyComplete id) s = .next s)) ∧
    (∀ n img c, a.kind = .tdset n img → opReady s a = true → tableQuiet s a.ctx n = true → ctxOf s a.ctx = some c → n < 1024 →
      c.table % 128 = 0 → img.length = 32 → (∀ j, j < 2 → holdersOf s ((c.table + 256 * n) / 128 + j) = [] ∧ movingLine s ((c.table + 256 * n) / 128 + j) = none) →
      Leads s (.descriptorWriteComplete id) (fun t => Done t a 0 ∧ descOf t a.ctx n = img ∧
        MemKeptBut s t (c.table + 256 * n) 256)) ∧
    (∀ n va, a.kind = .tdget n va → a.cancelled = false → opReady s a = true → tableQuiet s a.ctx n = true →
      let bs := ((descOf s a.ctx n).map (fun w => toBytes 8 w.toNat)).flatten
      let ws := byteWrites va bs
      (va.toNat % 256 ≠ 0 → Leads s (.tagComplete id) (fun t => (Done t a tsPage ∨ Done t a tsProt) ∧ t.mem = s.mem)) ∧
      (va.toNat % 256 = 0 → beforeWrite s a ws = none → Leads s (.tagComplete id) (fun t =>
        let w := writeElems (noteEngineOut s a [(va.toNat, 256)]) (engOf a) ws
        Done t a w.2.1 ∧ t.mem = w.1.mem))) ∧
    (∀ i ws pa, (i = .tagComplete id ∧ ∃ n, a.kind = .stt ws 0 pa n) ∨ (i = .writeBackComplete id ∧ a.kind = .mxst ws 0 pa) →
      (a.cancelled = true → Leads s i (fun t => Done t a tsCancelled ∧ t.mem = s.mem)) ∧
      (∀ e p, a.cancelled = false → opReady s a = true → ws = [e] → e.nibble = none → 0 < e.bytes →
        e.va.toNat % 128 + e.bytes ≤ 128 → beforeWrite s a ws = none → tlbLookup s a.core a.ctx e.va.toNat ≠ none →
        EngReaches s a 1 e.va.toNat p → holdersOf s (p / 128) = [] → Plain s p e.bytes →
        Leads s i (fun t => Done t a 0 ∧ memBytes t p e.bytes = toBytes e.bytes e.code ∧ MemKeptBut s t p e.bytes))) ∧
    (∀ inv asp va len found, a.kind = .range inv asp va len found →
      let rows := rangeRows s a.core a.ctx a.priv inv asp va.toNat len
      (a.cancelled = true → Leads s (.rangeOpComplete id) (fun t => Done t a tsCancelled ∧ t.mem = s.mem)) ∧
      (a.cancelled = false → opReady s a = true →
        (found = none → Leads s (.rangeOpComplete id) (fun t => t.mem = s.mem ∧
          (∃ f, asyncOf t id = some { a with kind := .range inv asp va len (some f) }) ∧
          ∀ pte c line, .ok pte c ∈ rows → (∀ o ∈ rows, ∃ e k, o = .ok e k) → line ∈ heldLines s c →
            Sent t (if inv then .rangeInv else .rangeFlush) line (lineHome s line) 0 (fun m => m.aux = id))) ∧
        (∀ f, found = some f → (∀ m ∈ s.msgs, ofRange id m = false) → (∀ x ∈ s.homeTx, ofRange id x.msg = false) →
          Leads s (.rangeOpComplete id) (fun t => Done t a f.1 ∧ t.mem = s.mem)) ∧
        (∀ f m h l, found = some f → s.msgs.filter (ofRange id) = [m] → mustWait s m = false → stitchOf s m.home m.line = none →
          tsorted s.clusters = true → holdersOf s m.line = [(h, l)] →
          Leads s (.rangeOpComplete id) (fun t => msgOf t m.id = none ∧
            (m.kind = .rangeInv → t.mem = s.mem ∧ holdersOf t m.line = []) ∧
            (m.kind = .rangeFlush → l.st = .m → l.data.length = 128 → memBytes t (128 * m.line) 128 = l.data ∧
              MemKeptBut s t (128 * m.line) 128))))) ∧
    (∀ (b : Nat) (va : DWord) (first count : Nat) (w : Nat → Nat), a.kind = .cbset b va first count → b < 2 →
      (a.cancelled = true → Leads s (.cbsetComplete id) (fun t => Done t a tsCancelled)) ∧
      (a.cancelled = false → opReady s a = true → rangesQuiet s (engOf a) [(va.toNat, 2 * count)] = true →
        peerParts s (engOf a) va.toNat (2 * count) 0 = [] → opWaits s id = false →
        (∀ i, i < count → engRead s (engOf a) ((va.toNat + 2 * i) % 2 ^ 64) 2 = .ok (toBytes 2 (w i)) ∧
          ∃ p, EngReaches s a 0 ((va.toNat + 2 * i) % 2 ^ 64) p) →
        Leads s (.cbsetComplete id) (fun t => Done t a 0 ∧ t.mem = s.mem ∧ ∀ i, i < count →
          tget 0 (if b = 0 then (coreOf t a.core).bank0 else (coreOf t a.core).bank1) (first + i) = BitVec.ofNat 16 (w i)))) ∧
    (∀ form va count c, a.kind = .tlbinv form va count c → opReady s a = true →
      Leads s (.tlbinvComplete id) (fun t => Done t a 0 ∧ t.mem = s.mem)) ∧
    (∀ pa count p, a.kind = .rfclr pa count → opReady s a = true → placeOf s pa = .hbm p → p / 4096 + count ≤ 768 * 2 ^ 18 →
      Leads s (.rfclrComplete id) (fun t => Done t a 0 ∧ t.mem = s.mem ∧ ∀ r, tget false t.flagged r =
        (tget false s.flagged r && !(decide (p / 4096 ≤ r) && decide (r < p / 4096 + count))))) ∧
    (∀ va image i, a.kind = .mxsave va image → a.cancelled = false → opReady s a = true →
      s.images.find? (fun j => j.id = image) = some i → beforeWrite s a (byteWrites va (imageBytes i)) = none →
      Leads s (.mxsaveComplete id) (fun t =>
        let w := writeElems (noteEngineOut s a [(va.toNat, (imageBytes i).length)]) (engOf a) (byteWrites va (imageBytes i))
        Done t a w.2.1 ∧ t.mem = w.1.mem)) ∧
    (∀ va, a.kind = .mxrest va → Leads s (.mxrestComplete id) (fun t =>
      Done t a (if a.cancelled then tsCancelled else 0) ∧ t.mem = s.mem)) ∧
    (∀ dst opd d l ea o h e, a.kind = .xlate dst opd d [(l, ea, o)] → sheetOf s a.core a.slot = some h → l < 32 → ea ≠ kvNone →
      opReady s a = true → peerParts s (engOf a) ea 8 0 = [] → opWaits s id = false → rangesQuiet s (engOf a) [(ea, 8)] = true → engRead s (engOf a) ea 8 = .ok (toBytes 8 e) → e < 2 ^ 64 →
      tget false (coreOf s a.core).regPoison (h.base + dst.toNat) = false →
      tget false (coreOf s a.core).regPoison (h.base + dst.toNat + 1) = false →
      Leads s (.xlateReadReturn id) (fun t => asyncOf t id = none ∧ t.mem = s.mem ∧
        (∃ h', sheetOf t a.core a.slot = some h' ∧ (tget 0 h'.preds (opd.toNat - 0x190)).has l = (e % 2 == 0)) ∧
        let v := (e / 128 * 128 + o * tStride d 1) % 2 ^ 64
        let reg (t : State) (i : Nat) : Nat := (physReg t a.core (h.base + dst.toNat + i) l).toNat
        (e % 2 = 1 → reg t 0 = v % 2 ^ 32 ∧ reg t 1 = v / 2 ^ 32) ∧
        (e % 2 = 0 → reg t 0 = reg s 0 ∧ reg t 1 = reg s 1))) ∧
    (∀ c, a.kind = .copy c →
      (a.started = false → opReady s a = true → overQuota s a.ctx = false →
        ((copyQueue s (a.core / 4)).filter (·.started)).length < 2 →
        Leads s (.copyStart id) (fun t => t.mem = s.mem ∧
          (∃ q, asyncOf t id = some q ∧ q.started = true ∧ q.kind = a.kind ∧ q.tag = a.tag ∧ q.core = a.core) ∧
          (∀ l ∈ copyLines s (engOf a) 0 (copyReads c), ∃ b ∈ t.accs, b.core = a.core ∧ b.pa = 128 * l.1 ∧ b.evp = c.evp) ∧
          ((∀ r ∈ copyReads c, peerParts s (engOf a) r.1 r.2 0 = []) → t.emsen = s.emsen))) ∧
      (a.cancelled = true → c.ring = none → Leads s (.copyComplete id) (fun t => Done t a tsCancelled ∧
        (a.started = false → t.mem = s.mem ∧ ∀ k, (coreOf t k).scr = (coreOf s k).scr))) ∧
      (a.cancelled = false → a.started = true → opReady s a = true → c.ring = none → c.kind ≠ 3 → opWaits s id = false →
        heldTile s (engOf a) (copyReads c ++ copyWrites c) = none → snapPages s a (copyWrites c) = [] →
        rangesQuiet s (engOf a) (copyReads c ++ copyWrites c) = true →
        let u := noteEngineOut s a (copyWrites c)
        farWrites u a false (packedRows u a c) = none → (∀ w ∈ (coreOf s a.core).windows, w.op = id → w.hits = []) →
        let res := putRuns a ((List.range (tileRows c.img)).foldl (inRow a c) { s := u })
        let lo := opScratch s a c + layoutOff c.img c.dest.toNat 0 0
        let va := (eltAddr c.img (eltCoords c.img c.coords 0 0).1).1
        Leads s (.copyComplete id) (fun t => Done t a res.status ∧ t.mem = res.s.mem ∧
          (∀ k, (coreOf t k).scr = (coreOf res.s k).scr) ∧
          ∀ b p, c.kind = 0 → c.cores = 0 → tileRows c.img = 1 → tTile c.img 0 = 1 → eltBits (tFmt c.img) = 8 →
            tPl c.img = false → (eltCoords c.img c.coords 0 0).2 = true → spoiledOps (coreOf s a.core) false lo 1 = [] →
            Plain s p 1 → b < 256 → EngReaches s a 0 va p → coherentRead s p 1 = ([BitVec.ofNat 8 b], false) →
            (tget 0 (coreOf t a.core).scr lo).toNat = b ∧ res.status = 0)))

/-- 07 R177, 08 R192 to R199, 13 R350, R351, 18 R436 to R438: a free array with a token starts the pass of its head and the operations
that fuse with it, at once when four have fused or the wait has ended; a pass that has made its steps writes each tile and completes each
tag; a frozen array stops at its step. Tokens go to the oldest request and come back; a full reduction round writes every
contributor's rows; the governor moves its step by what a window measured. -/
def Obligations.ArrayEvents : Prop :=
  ∀ (s : State) (c : Nat),
    let k := coreOf s c
    (∀ h q, k.queue = h :: q → k.pass = none → k.frozen = [] → k.token = true → s.thermalStop = false → overQuota s h.ctx = false →
      ((∀ p ∈ k.resume, h.id ∉ p.ops) → k.headAt = 0 ∨ 4 ≤ (fused k).length → Leads s (.passStart c) (fun t => t.mem = s.mem ∧
        (coreOf t c).queue = k.queue ∧
        (coreOf t c).pass = some { ops := (fused k).map (·.id), step := 0, since := k.cycles })) ∧
      (∀ p, k.resume.find? (fun p => p.ops.contains h.id) = some p → Leads s (.passStart c) (fun t => t.mem = s.mem ∧
        p ∉ (coreOf t c).resume ∧ (coreOf t c).pass = some { p with since := k.cycles }))) ∧
    (k.headAt ≠ 0 → k.pass = none → k.queue ≠ [] → k.headAt + 3 ≤ k.cycles →
      Leads s (.fusionWaitExpiry c) (fun t => t.mem = s.mem ∧ (coreOf t c).headAt = 0 ∧ (coreOf t c).queue = k.queue)) ∧
    (∀ p q codes st es, k.pass = some p → k.frozen = [] → k.queue = [q] → p.ops = [q.id] →
      p.since + (passSteps q.imgB - p.step) ≤ k.cycles → quarterQuiet s c q = true → opWaits s q.id = false → q.spoiled = false →
      let at' := taskPlace s q.ctx q.launch q.task
      quarterOut (setCore s c { k with pass := none }) c q at'.1 at'.2 = .ok (codes, st, es) → codes.length = 512 →
      Leads s (.passComplete c) (fun t => t.mem = s.mem ∧ (coreOf t c).pass = none ∧ (coreOf t c).queue = [] ∧
        (tagOf t c q.tag).ready = true ∧
        (tagOf t c q.tag).status = BitVec.ofNat 4 (worse (worse (tagOf s c q.tag).status.toNat q.prior) st) ∧
        ∀ i b, i < 512 → b < 4 → tget 0 (coreOf t c).acc (tileOff at'.2 q.tile + 4 * i + b) =
          BitVec.ofNat 8 (codes.getD i 0 / 256 ^ b))) ∧
    (k.frozen = [] → k.freezing ≠ [] → Leads s (.arrayFreeze c) (fun t => t.mem = s.mem ∧
      (coreOf t c).frozen = k.freezing ∧ (coreOf t c).freezing = [] ∧ (k.pass = none → (coreOf t c).pass = none) ∧
      ∀ p q, k.pass = some p → k.queue.find? (fun q => p.ops.contains q.id) = some q →
        ∃ p', (coreOf t c).pass = some p' ∧ p'.ops = p.ops ∧ p'.step = min (p.step + (k.cycles - p.since)) (passSteps q.imgB))) ∧
    (∀ w, s.tokenWait = c :: w → s.tokenBar = false → tokensHeld s < fld (rawReg s .tokpool) 9 0 →
      Leads s .tokenGrant (fun t => t.tokenWait = w ∧ (coreOf t c).token = true ∧ t.mem = s.mem)) ∧
    (k.token = true → k.queue = [] → k.emptyAt + 256 ≤ k.cycles →
      Leads s (.tokenReturn c) (fun t => (coreOf t c).token = false ∧ t.mem = s.mem)) ∧
    (∀ n r, (clusterOf s c).rounds.find? (fun r => r.id = n) = some r → roundFull r = true →
      (r.parts.map (·.core)).Nodup → (∀ p ∈ r.parts, p.core / 4 = c ∧ p.poisoned = false ∧ p.spoiled = false ∧ p.j ≠ p.j2 ∧
        (tagOf s p.core p.tag).status = 0 ∧ ∀ q ∈ (clusterOf s c).rounds, q.id ≠ n → ∀ o ∈ q.parts, o.core ≠ p.core) →
      let ps := (List.range 4).filterMap (fun i => r.parts.find? (fun p => p.core % 4 = i))
      let tile := (taskPlace s r.ctx r.launch r.task).2
      Leads s (.credRoundComplete c n) (fun t => t.mem = s.mem ∧ ∀ p ∈ r.parts,
        (tagOf t p.core p.tag).ready = true ∧ (tagOf t p.core p.tag).status = 0 ∧
        ∀ i b, i < 16 → b < 4 →
          let row := redRow ps i
          let at' (lo : Nat) : Byte := tget 0 (coreOf t p.core).acc (lo + b)
          at' (tileOff tile p.j2 + 128 * i) = BitVec.ofNat 8 (row.1 / 256 ^ b) ∧
          at' (tileOff tile p.j2 + 128 * i + 4) = BitVec.ofNat 8 (row.2.1 / 256 ^ b) ∧
          ∀ m, m < 32 → at' (tileOff tile p.j + 128 * i + 4 * m) = BitVec.ofNat 8 (row.2.2.getD m 0 / 256 ^ b))) ∧
    (k.windowAt + windowTicks ≤ s.ticks → Leads s (.governorWindowEnd c) (fun t => t.mem = s.mem ∧
      (coreOf t c).isCount = 0 ∧ (coreOf t c).msCount = 0 ∧
      let g := rawReg s .govcfg
      let n := (coreOf t c).gstep
      let sens := 256 * k.isCount / (k.isCount + k.msCount)
      (g.getLsbD 31 = false → n = 0) ∧
      (g.getLsbD 31 = true → k.isCount + k.msCount = 0 → n = k.gstep) ∧
      (g.getLsbD 31 = true → 0 < k.isCount + k.msCount →
        (sens < fld g 7 0 → k.gstep < fld g 23 20 → n = k.gstep + 1) ∧
        (fld g 7 0 ≤ sens → sens < fld g 15 8 → n = k.gstep) ∧
        (fld g 7 0 ≤ sens → fld g 15 8 ≤ sens → n = k.gstep - 1)))) ∧
    (k.slewing = true → k.slewAt + 20 * usTicks ≤ s.ticks → Leads s (.voltageSlewDone c) (fun t => t.mem = s.mem ∧
      (coreOf t c).slewing = false ∧ ((coreOf t c).nearThreshold = true ↔ k.nearThreshold = false ∧ ntStep s ≤ wantStep s c)))

/-- 06 R146 to R155, 10 R232, R233, 17 R421: an eligible leaf gets a run, its siblings at its PC merge into it, and a leaf that
waits gets none before what it waits for has come. A fetch of a line that the cluster does not hold goes out; a fetched line that passes its checks is at hand, one with wrong parity
traps; a parked leaf is vectored with its record; a stalled leaf retries when an entry is free and traps when it has waited too long; a
joining leaf goes on when no sibling is left in its range. -/
def Obligations.LeafEvents : Prop :=
  ∀ (s : State) (c e : Nat) (l : Leaf) (h : Sheet), leafOf s c e = some l → sheetOf s c l.slot = some h →
    let k := coreOf s c
    let runs (t : State) (m : Mask) : Prop := ∃ e' l', leafOf t c e' = some l' ∧ l'.inRun = true ∧ l'.runLen = 0 ∧
      l'.st = readySt l ∧ l'.pc = l.pc ∧ l'.mask = m ∧ l'.slot = l.slot
    (k.leaves = [(e, l)] → eligible s c l = true → l.st = readySt l → Leads s (.issueGrant c) (fun t => t.mem = s.mem ∧ runs t l.mask)) ∧
    (∀ w, k.leaves = [(e, l)] → l.st = .blocked w → l.inRun = false →
      (waitMet s c e l w = true → eligible s c { l with st := readySt l } = true →
        Leads s (.issueGrant c) (fun t => t.mem = s.mem ∧ runs t l.mask)) ∧
      (waitMet s c e l w = false → exec (.issueGrant c) s = .next s)) ∧
    (∀ e2 l2, k.leaves = [(e, l), (e2, l2)] → e ≠ e2 → eligible s c l = true → eligible s c l2 = true → l.st = .ready → l2.st = .ready →
      l.priv = false → l2.priv = false → l2.slot = l.slot → l2.pc = l.pc →
      Leads s (.issueGrant c) (fun t => t.mem = s.mem ∧ runs t (l.mask ||| l2.mask) ∧ (coreOf t c).leaves.length = 1)) ∧
    (∀ (te : TlbEntry) (bs : List Byte), needsFetch l = true →
      let va := l.pc.toNat / 64 * 64
      let pa := paUnder te.pte te.size va
      let a := storeOf s te.pte pa
      canonical va = true → tlbLookup s c h.ctx va = some te → frameCheck s (pteImode te.pte) pa = 0 →
      permCheck s h.ctx l.priv 3 te.pte pa = 0 → (frameLocal s pa && regionFlagged s a) = false →
      (cacheLine s (c / 4) (lineOf a) = none → Leads s (.fetchLine c e) (fun t => t.mem = s.mem ∧
        (∃ b ∈ t.accs, b.id = s.nextId ∧ b.kind = .fetch ∧ b.core = c ∧ b.pa = a ∧ b.bytes = 64 ∧ b.evp = 0) ∧
        ∃ l', leafOf t c e = some l' ∧ l'.st = .blocked (.results [s.nextId]) ∧ l'.pc = l.pc ∧ l'.mask = l.mask)) ∧
      ∀ cl, cacheLine s (c / 4) (lineOf a) = some cl → cl.st ≠ .c → pteC te.pte = true → linePoison cl.poison (a % 128) 64 = false →
        Plain s a 64 → (cl.data.drop (a % 128)).take 64 = bs →
      (lineParity bs = true → lineReserved bs = false → pcForm l.pc = true →
        (l.checkTgt = true → lineTarget bs (l.pc.toNat % 64 / 12) = true) →
        Leads s (.fetchLine c e) (fun t => t.mem = s.mem ∧
          leafOf t c e = some { l with line := some { va := va, bytes := bs }, checkTgt := false })) ∧
      (lineParity bs = false → exec (.fetchLine c e) s = .next (trapRec
        (touchIcache (if (coreOf s c).icache.contains (a / 64) then s else touchLine s (c / 4) (lineOf a) 0) c (a / 64)) c e
        { cause := cFetchParity, status := 1, lanes := l.mask, pc := l.pc }))) ∧
    (∀ pc later, let r := tget {} k.recs e
      l.st = .parked → atRest s c l = true → trapVector s c h.ctx r.cause = some (pc, later) →
      Leads s (.parkedLeafVector c e) (fun t => t.mem = s.mem ∧ (∃ l', leafOf t c e = some l' ∧ l'.pc = pc ∧ l'.st = .trapped ∧
          l'.priv = true ∧ l'.handler = r.cause ∧ l'.mask = l.mask ∧ l'.slot = l.slot) ∧
        ∃ r', tfind (coreOf t c).recs e = some r' ∧ r'.v = true ∧ r'.cause = r.cause ∧ r'.status = r.status ∧ r'.pc = r.pc ∧
          r'.lanes = r.lanes ∧ r'.addr = r.addr)) ∧
    (∀ u, l.st = .splitStalled u → poolFree s c ≠ [] → Leads s (.splitStallRetry c e) (fun t => t.mem = s.mem ∧
      ∃ l', leafOf t c e = some l' ∧ l'.st = readySt l ∧ l'.pc = l.pc ∧ l'.mask = l.mask)) ∧
    (∀ pc later, exhausted s c e = true → l.pend = none → l.priv = false → outstanding s c l = [] → trapVector s c h.ctx cLeafExhausted = some (pc, later) →
      Leads s (.leafExhaustedStall c e) (fun t => t.mem = s.mem ∧ (∃ l', leafOf t c e = some l' ∧ l'.pc = pc ∧ l'.st = .trapped ∧
          l'.priv = true ∧ l'.handler = cLeafExhausted) ∧
        ∃ r, tfind (coreOf t c).recs e = some r ∧ r.v = true ∧ r.cause = cLeafExhausted ∧ r.status = 1 ∧ r.pc = l.pc)) ∧
    (∀ low, l.st = .joining low → (∀ p ∈ k.leaves, p.1 ≠ e → p.2.slot = l.slot → p.2.st ≠ .parked → ¬ (low ≤ p.2.pc ∧ p.2.pc < l.pc)) →
      Leads s (.joinRelease c e) (fun t => t.mem = s.mem ∧ ∃ l', leafOf t c e = some l' ∧ l'.st = readySt l ∧ l'.joined = true ∧
        l'.pc = l.pc ∧ l'.mask = l.mask))

/-- 16 R404 to R412, 18 R439 to R441, 14 R369: a placed task's sheets start at the entry point with every lane; a task that waits 1 ms
bars later ones; an interval refills each cluster's budget and bars tokens or stops the cores on its measurements; a context that has used
its quota is over it; a sheet that is over frees its residency and counts for its task; a `CTRWAIT` ends at its time; a cancel ends its
level and kills the sheets that outstay it. -/
def Obligations.SchedulingEvents : Prop :=
  (∀ (s u : State) (c : Candidate) (ps : List (Nat × Nat × Nat)), nextTask s = some (c, u, ps) → c.task.st = 0 →
    Leads s .taskDistribution (fun t => t.mem = s.mem ∧
      (∃ x, taskOf t c.launch.ctx c.launch.index c.task.index = some x ∧ x.st = 1) ∧
      ∀ p ∈ ps, (∃ h, sheetOf t p.2.1 p.2.2 = some h ∧ h.ctx = c.launch.ctx ∧ h.launch = c.launch.index ∧ h.task = c.task.index ∧
          h.index = p.1) ∧
        ∃ l, leafOf t p.2.1 p.2.2 = some l ∧ l.slot = p.2.2 ∧ l.pc = BitVec.ofNat 64 (recFld c.launch.rec' 63 0) ∧
          l.mask = BitVec.allOnes 32 ∧ l.st = .ready ∧ l.priv = false ∧ l.inRun = false)) ∧
  (∀ (s : State) (ctx n k : Nat) (l : Launch) (x : Task), launchOf s ctx n = some l → taskOf s ctx n k = some x → l.st = .eligible →
    x.st = 0 ∨ x.st = 2 → x.waitSince + 1000 * usTicks ≤ s.ticks →
    Leads s (.distributionWaitLimit ctx n k) (fun t => taskOf t ctx n k = some { x with barred := true } ∧ t.mem = s.mem)) ∧
  (∀ (s : State) (amps : Nat) (temps : List (Nat × Nat)), s.intervalStart + intervalTicks ≤ s.ticks →
    Leads s (.controlIntervalStart amps temps) (fun t => t.intervalStart = s.ticks / intervalTicks * intervalTicks ∧
      (t.tokenBar = true ↔ fld (rawReg s .ilim) 11 0 < amps) ∧
      (∀ k, k < 128 → (clusterOf t k).energy = fld (rawReg s (.cbudget k)) 15 0 - (declared s k).1 ∧
        (clusterOf t k).current = fld (rawReg s (.cbudget k)) 47 32 - (declared s k).2) ∧
      ∀ p ∈ temps, p.1 < 136 → fld (rawReg s (.therm p.1)) 7 0 ≤ p.2 → t.thermalStop = true)) ∧
  (∀ (s : State) (k ctx : Nat) (c : Ctx), ctxOf s ctx = some c →
    Leads s (.quotaReport k ctx) (fun t => ∃ m c', ctxOf t ctx = some c' ∧ c'.use = c.use + m ∧
      let q := rawReg s (.cquota ctx)
      (c'.overQuota = true ↔ c.overQuota = true ∨ (fld q 31 0 ≠ 0 ∧ fld q 31 0 - fld q 63 32 ≤ c.use + m)))) ∧
  (∀ (s : State) (c k : Nat) (h : Sheet), sheetOf s c k = some h → sheetOver s c k = true →
    Leads s (.sheetComplete c k) (fun t => sheetOf t c k = none ∧ t.mem = s.mem ∧
      ∀ l, launchOf s h.ctx h.launch = some l → h.launch < 4096 → h.task < 8192 → (ctxOf s h.ctx).isSome = true →
        (levelOf t h.ctx (taskCid h.launch h.task)).value = (levelOf s h.ctx (taskCid h.launch h.task)).value + 1)) ∧
  (∀ (s : State) (c e : Nat) (x : Iss) (f : FmtG) (v : DWord), leafIss s c e = some x → ctrTimeout s x = some (f, v) →
    let act := x.leaf.mask &&& guardMask s x f.h
    isH f.dst.toNat = false → f.dst.toNat ≠ 0xFF → WritableTo s x act f.dst.toNat true →
    Leads s (.ctrwaitTimeout c e) (fun t => Answered t x act f.dst true (v.toNat % 2 ^ 60 * 16 + 2))) ∧
  (∀ (s : State) (ctx cid : Nat), cancelReady s ctx cid = true →
    Leads s (.cancelComplete ctx cid) (fun t => (levelOf t ctx cid).done = true ∧ (levelOf t ctx cid).cancelled = true)) ∧
  (∀ (s : State) (c k : Nat) (h : Sheet), sheetOf s c k = some h → h.preempt = 2 →
    h.preemptAt + fld (rawReg s .sched) 15 0 * usTicks ≤ s.ticks →
    Leads s (.cancelKillTimeout c k) (fun t => sheetOf t c k = none))

/-- 17 R425 to R433: a leaf between runs takes PREEMPT, the principal last with the list of the sheet's leaves; a sheet that has yielded
leaves with its RESUMEW, which its task's sheets get back when they are placed again. A killed launch frees its residencies and is
replayed from its saved pages, or its whole job ends. -/
def Obligations.PreemptionAndKills : Prop :=
  (∀ (s : State) (c e : Nat) (l : Leaf) (h : Sheet) (pc : DWord) (later : Bool), leafOf s c e = some l → sheetOf s c l.slot = some h →
    (preemptDue s c e = true → trapVector (notePreempt s c h) c h.ctx cPreempt = some (pc, later) →
      Leads s (.preemptDelivery c e) (fun t => t.mem = s.mem ∧ Vectored t c e cPreempt h.preempt pc l.pc l.mask false)) ∧
    (e = l.slot → principalDue s c e = true →
      let u := modSheet (notePreempt s c h) c e (fun x => { x with list := leafList s c e })
      trapVector u c h.ctx cPreempt = some (pc, later) →
      Leads s (.principalDelivery c e) (fun t => t.mem = s.mem ∧ Vectored t c e cPreempt h.preempt pc l.pc l.mask true ∧
        ∃ h', sheetOf t c e = some h' ∧ h'.list = leafList s c e))) ∧
  (∀ (s : State) (c k : Nat) (h : Sheet) (l : Launch) (x : Task), sheetOf s c k = some h → leaveDue s c k = true →
    launchOf s h.ctx h.launch = some l → h.preempt = 1 → cancelling s l h.task = false → taskOf s h.ctx h.launch h.task = some x →
    Leads s (.sheetLeaveResidency c k) (fun t => t.mem = s.mem ∧ sheetOf t c k = none ∧
      ∃ y, taskOf t h.ctx h.launch h.task = some y ∧ tfind y.resume h.index = some h.resumew)) ∧
  (∀ (s u : State) (c : Candidate) (p : Nat × Nat × Nat) (h : Sheet) (pc : DWord) (later : Bool), nextTask s = some (c, u, [p]) →
    c.task.st = 2 → sheetOf (resumeState u c p) p.2.1 p.2.2 = some h →
    trapVector (resumeState u c p) p.2.1 h.ctx cResume = some (pc, later) →
    Leads s (.taskResume c.launch.ctx c.launch.index c.task.index) (fun t => t.mem = s.mem ∧
      (∃ h', sheetOf t p.2.1 p.2.2 = some h' ∧ tget 0 h'.s 0 = tget 0 c.task.resume p.1) ∧
      ∃ l, leafOf t p.2.1 p.2.2 = some l ∧ l.pc = pc ∧ l.priv = true ∧ l.handler = cResume ∧ l.mask = BitVec.allOnes 32)) ∧
  (∀ (s : State) (ctx n : Nat) (why : KillWhy) (l : Launch), launchOf s ctx n = some l → l.st ≠ .killed →
    (Leads s (.launchKill ctx n why) (fun t => ∀ c k h, sheetOf t c k = some h → ¬ (h.ctx = ctx ∧ h.launch = n))) ∧
    (replays s l why = true → Leads s (.launchKill ctx n why) (fun t => ∃ l', launchOf t ctx n = some l' ∧ l'.st = .killed ∧
      l'.rec' = l.rec')) ∧
    (replays s l why = false → why = .reset → Leads s (.launchKill ctx n why) (fun t => launchOf t ctx n = none)) ∧
    (replays s l why = false → why ≠ .reset → Leads s (.launchKill ctx n why) (fun t => (∀ q ∈ t.launches, q.ctx ≠ ctx) ∧
      ((ctxOf s ctx).isSome = true → (levelOf t ctx jobCid).done = true)))) ∧
  (∀ (s : State) (ctx n page : Nat) (l : Launch), launchOf s ctx n = some l → l.unrecoverable = none →
    let used := l.pages.length
    let b := snapBase s l.queue
    (page ∉ l.pages → fld (rawReg s (.qsnapc l.queue)) 12 0 ≤ used → Leads s (.snapshotPageCopy ctx n page) (fun t =>
      t.mem = s.mem ∧ launchOf t ctx n = some { l with unrecoverable := some 4 })) ∧
    (page ∉ l.pages → used < fld (rawReg s (.qsnapc l.queue)) 12 0 → quietRange s (page * 2 ^ 16) (2 ^ 16) = true →
      page * 2 ^ 16 ≠ b + 2 ^ 16 * (used + 1) → holdersOf s ((b + 8 * used) / 128) = [] →
      (∀ i, i < 512 → holdersOf s (page * 512 + i) = [] ∧ movingLine s (page * 512 + i) = none) →
      Leads s (.snapshotPageCopy ctx n page) (fun t => launchOf t ctx n = some { l with pages := l.pages ++ [page] } ∧
        ∀ i, i < 2 ^ 16 → memByte t (b + 2 ^ 16 * (used + 1) + i) = memByte s (page * 2 ^ 16 + i))) ∧
    (l.st = .killed → l.pages = [] ∨ l.pages = [page] → l.pages.all (fun p => quietRange s (p * 2 ^ 16) (2 ^ 16)) = true →
      Leads s (.launchRollback ctx n) (fun t => (∃ l', launchOf t ctx n = some l' ∧ l'.st = .eligible ∧ l'.pages = [] ∧
          l'.replays = l.replays + 1 ∧ l'.rec' = l.rec' ∧ l'.tasks.length = lrTasks l.rec' ∧ ∀ p ∈ l'.tasks, p.2.st = 0) ∧
        (l.pages = [page] → page * 2 ^ 16 ≠ b + 2 ^ 16 →
          (∀ i, i < 512 → holdersOf s ((b + 2 ^ 16) / 128 + i) = [] ∧ movingLine s ((b + 2 ^ 16) / 128 + i) = none) →
          ∀ i, i < 2 ^ 16 → memByte t (page * 2 ^ 16 + i) = memByte s (b + 2 ^ 16 + i)))))

/-- 14 R358 to R360, 15 R387 to R393, 25 R469: a phase that has lasted its deadline aborts with TIMEOUT; a pause that has lasted PMAX
ends for the phase; a shadow's first arrival starts the phase at the home, which tells every shadow; the last arrival ends it, with
the value of the lanes and of the shadow's partial, and the outcome goes to every shadow; a shadow whose lanes have arrived
tells the home; a shadow that hears nothing in time aborts with ABORTED-LINK and is gone, and a home that loses one aborts. That an
arrival message carries the DEP mark and that a phase which a shadow began by itself takes the number of the phase-start are the
model's choices (log entry 95). -/
def Obligations.GatheringEvents : Prop :=
  (∀ (s : State) (i : Nat) (g : GEntry), gEntry s i = g →
    (g.role = 1 ∨ g.role = 2 → g.pip = true → g.dl ≤ elapsed s g →
      Leads s (.phaseDeadlineExpiry i) (fun t => PhaseAborted s t i g 2 ∧ t.mem = s.mem)) ∧
    (∀ p, g.pausedAt = some p → g.pmax * usTicks ≤ g.paused + (s.ticks - p) →
      Leads s (.pauseCapExpiry i) (fun t => t.mem = s.mem ∧
        gEntry t i = { g with capped := true, pausedAt := none, paused := g.paused + (s.ticks - p) })) ∧
    (g.role = 3 → g.pip = true → (g.dl + g.fmarg) * usTicks ≤ s.ticks - g.began →
      Leads s (.shadowTimerExpiry i) (fun t => t.mem = s.mem ∧ (∃ d, .gone g.homedev g.homeHandle d ∈ t.emsenOut) ∧
        PhaseTags s t g.homeHandle g.phase 3 0 ∧ (gEntry t i).memb = 0 ∧ (gEntry t i).pip = false ∧ (gEntry t i).last = 3))) ∧
  (∀ (s : State) (h : Word) (dev i : Nat) (g : GEntry), homeEntry s h dev = some i → gEntry s i = g →
    (∀ kind op, g.pip = false → g.shadows.any (fun x => !x.arrived) = true →
      Leads s (.phaseBegun h dev kind op) (fun t => t.mem = s.mem ∧ (gEntry t i).pip = true ∧ (gEntry t i).kind = kind ∧
        (gEntry t i).op = op ∧ (gEntry t i).phase = g.phase ∧ (gEntry t i).began = s.ticks ∧
        ∀ x ∈ g.shadows, ∃ d, .phaseStart x.dev (handleOf s i) g.phase d ∈ t.emsenOut)) ∧
    (∀ lanes p, g.pip = true → g.memb ≤ g.arrv → p.kind = 2 → g.kind = 2 → p.op = g.op → p.count ≠ 0 →
      (∀ x ∈ g.shadows, x.dev = dev → x.arrived = false) → (∀ x ∈ g.shadows, x.dev ≠ dev → x.arrived = true ∧ x.bad = false) →
      Leads s (.shadowArrival h dev lanes p) (fun t => t.mem = s.mem ∧ PhaseEnded s t i g (b2n (g.dep || p.dep)) (g.acc + p.value) ∧
        ∀ x ∈ g.shadows, ∃ d, .outcome x.dev (handleOf s i) g.phase (BitVec.ofNat 4 (b2n (g.dep || p.dep))) (g.acc + p.value) d ∈ t.emsenOut)) ∧
    (∀ lanes p, g.pip = true → g.arrv < g.memb → (∀ x ∈ g.shadows, x.dev = dev → x.arrived = false) →
      Leads s (.shadowArrival h dev lanes p) (fun t => t.mem = s.mem ∧ (gEntry t i).pip = true ∧ (gEntry t i).phase = g.phase ∧
        ∀ x ∈ (gEntry t i).shadows, x.dev = dev → x.arrived = true ∧ x.arrLanes = lanes)) ∧
    Leads s (.shadowGone h dev) (fun t => t.mem = s.mem ∧ PhaseAborted s t i g 3 ∧
      (∀ x ∈ (gEntry t i).shadows, x.dev ≠ dev) ∧
      ∀ x ∈ g.shadows, x.dev ≠ dev → ∃ d, .outcome x.dev (handleOf s i) g.phase 3 0 d ∈ t.emsenOut) ∧
    ∀ lanes, Leads s (.shadowCountReport h dev lanes) (fun t => t.mem = s.mem ∧ (gEntry t i).memb = g.memb ∧
      ∀ x ∈ (gEntry t i).shadows, x.dev = dev → x.lanes = lanes)) ∧
  (∀ (s : State) (h : Word) (i : Nat) (g : GEntry), shadowEntry s h = some i → gEntry s i = g →
    (∀ ph, g.pip = false → Leads s (.phaseStart h ph) (fun t => t.mem = s.mem ∧ (gEntry t i).pip = true ∧ (gEntry t i).phase = ph ∧
      (g.memb ≤ g.arrv → (gEntry t i).told = true ∧ ∃ p d, .arrival g.homedev g.homeHandle g.arrv p d ∈ t.emsenOut) ∧
      (g.arrv < g.memb → t.emsenOut = s.emsenOut))) ∧
    (∀ ph, g.pip = true → g.arrv < g.memb → Leads s (.phaseStart h ph) (fun t => t.mem = s.mem ∧ gEntry t i = { g with phase := ph } ∧
      ∀ c k, (tagOf s c k).ready = false → (tagOf s c k).op = .gathering → (tagOf s c k).handle = g.homeHandle →
        (tagOf s c k).phase = g.phase → tagOf t c k = { tagOf s c k with phase := ph })) ∧
    (∀ (st : BitVec 4) (v : Word), st.toNat < 2 → g.pip = true → Leads s (.phaseOutcome h g.phase st v) (fun t => t.mem = s.mem ∧
      PhaseEnded s t i g st.toNat v)) ∧
    (∀ (ph : Nat) (st : BitVec 4) (v : Word), 2 ≤ st.toNat → st.toNat ≤ 4 → Leads s (.phaseOutcome h ph st v) (fun t => t.mem = s.mem ∧
      PhaseAborted s t i g st.toNat)) ∧
    (∀ (ph : Nat) (v : Word), Leads s (.phaseOutcome h ph 5 v) (fun t => t.mem = s.mem ∧ (gEntry t i).role = 0)))

/-- 19 R456, R458, 02 R36: idle flits; a failed attempt is retried eight times and the ninth takes the port down, as 10 µs without a flit
do; training brings it up. A peer's request reads or writes this device's HBM and is answered; a request or answer past its
deadline does nothing. An answer performs the load that waited for it; a copy keeps each answer, PROT for a refusal and TIMEOUT
for a request that had none in time, for its tag's status. -/
def Obligations.FabricEvents : Prop :=
  (∀ (s : State) (p : Nat), p < 18 →
    let q : Port := tget {} s.ports p
    let down (t : State) : Prop := portIsUp t p = false ∧ (rawReg t (.fport p)).getLsbD 1 = true ∧ (tget {} t.ports p).retries = 0
    let alone := ∀ r ∈ routes s, bitN r.2 p = true → ∃ o, o < 18 ∧ o ≠ p ∧ bitN r.2 o = true ∧ portIsUp s o = true
    (portIsUp s p = true →
      Leads s (.idleFlit p true) (fun t => t.mem = s.mem ∧ (tget {} t.ports p).lastFlit = s.ticks) ∧
      Leads s (.idleFlit p false) (fun t => t.mem = s.mem ∧ .idle p ∈ t.emsenOut) ∧
      Leads s (.flitCrcRetry p true) (fun t => t.mem = s.mem ∧ (tget {} t.ports p).retries = 0 ∧ (tget {} t.ports p).lastFlit = s.ticks) ∧
      (q.retries < 8 → Leads s (.flitCrcRetry p false) (fun t => t.mem = s.mem ∧ portIsUp t p = true ∧
        (tget {} t.ports p).retries = q.retries + 1)) ∧
      (8 ≤ q.retries → alone → Leads s (.flitCrcRetry p false) down) ∧
      (q.lastFlit + 10 * usTicks ≤ s.ticks → alone → Leads s (.portIdleTimeout p) down)) ∧
    (portPresent s p = true → portIsUp s p = false → Leads s (.portUp p) (fun t => t.mem = s.mem ∧ portIsUp t p = true ∧
      (tget {} t.ports p).lastFlit = s.ticks))) ∧
  (∀ (s : State) (port dev pa a d : Nat) (bs : List Byte), (∃ b, placeOf s pa = .hbm b) → fabAddr s pa bs.length = some a →
    bs ≠ [] → a % 128 + bs.length ≤ 128 → holdersOf s (a / 128) = [] → movingLine s (a / 128) = none → Plain s a bs.length →
    (s.ticks ≤ d → Leads s (.emsenRequest (.read port dev pa bs.length d)) (fun t => t.mem = s.mem ∧
      .response dev true (memBytes s a bs.length) ∈ t.emsenOut)) ∧
    (s.ticks ≤ d → Leads s (.emsenRequest (.write port dev pa d bs)) (fun t => .response dev true [] ∈ t.emsenOut ∧
      memBytes t a bs.length = bs ∧ MemKeptBut s t a bs.length)) ∧
    (d < s.ticks → exec (.emsenRequest (.write port dev pa d bs)) s = .next s)) ∧
  ∀ (s : State) (id : Nat) (r : EmsenReq), s.emsen.find? (fun r => r.id = id) = some r →
    (∀ n a data, r.use = .access n → accOf s n = some a → a.kind = .load → s.ticks ≤ r.deadline →
      Leads s (.emsenResponse id 0 data) (fun t => t.mem = s.mem ∧ accOf t n = none ∧ (∀ q ∈ t.emsen, q.id ≠ id) ∧
        WordsIn s t a (extendWords a.cls a.bytes (leBytes (data.take a.bytes))))) ∧
    (∀ st data, r.deadline < s.ticks → exec (.emsenResponse id st data) s = .next s) ∧
    (∀ n, r.use = .access n → accOf s n = none → r.deadline < s.ticks → r.reply = none →
      Leads s (.emsenDeadlineExpiry id) (fun t => t = { s with emsen := s.emsen.filter (fun q => q.id ≠ id) })) ∧
    (∀ n, r.use = .copy n →
      let kept (t : State) (data : List Byte) (fail : Nat) : Prop := t = { s with emsen := t.emsen } ∧
        t.emsen.find? (fun q => q.id = id) = some { r with reply := some data, fail := fail }
      (r.reply = none → r.deadline < s.ticks → Leads s (.emsenDeadlineExpiry id) (fun t => kept t [] tsTimeout)) ∧
      (s.ticks ≤ r.deadline → ∀ data, Leads s (.emsenResponse id 0 data) (fun t => kept t data 0) ∧
        ∀ st, st ≠ 0 → Leads s (.emsenResponse id st data) (fun t => kept t [] tsProt)))

/-- 09 R226, 19 R444, R451 to R455, 14 R366, R377, 15 R381: the host's requests. A write or an AtomicOp to HBM changes the bytes that it names
and no others; a read or AtomicOp is completed with the bytes before; a write to a register of function 0 is carried out next; a
function that resets, or an interface in ERROR, answers as the manual says. A function-level reset leaves the memory of the function's HBM
zero and its contexts gone; that of function 0 ends every context. The interface moves between its states as 19 R452 lists, and any other
request is an error. A root table that is not aligned is taken at the 4 KiB below: the model's choice (log entry 85). -/
def Obligations.HostEvents : Prop :=
  (∀ (s : State) (r : HostReq), r.fn < 64 →
    let f : Fn := tget {} s.fns r.fn
    (f.resetting = true → exec (.hostPostedWrite r) s = .next s ∧
      ∀ i, i = .hostReadRequest r ∨ i = .hostAtomicopRequest r →
        Leads s i (fun t => t = { s with hostOut := s.hostOut ++ [.unsupported r.fn r.tag] })) ∧
    (f.resetting = false → f.tdisp = .error → exec (.hostPostedWrite r) s = .next s ∧
      Leads s (.hostReadRequest r) (fun t => t = { s with hostOut := s.hostOut ++ [.completion r.fn r.tag (List.replicate r.len 0xFF)] })) ∧
    (r.bar ≠ 2 ∨ r.atomic = 0 ∨ 3 < r.atomic → Leads s (.hostAtomicopRequest r) (fun t =>
      t = { s with hostOut := s.hostOut ++ [.unsupported r.fn r.tag] })) ∧
    (f.resetting = false → f.tdisp ≠ .error → r.bar = 0 → (r.len = 4 ∨ r.len = 8) → r.off % r.len = 0 → r.off < 2 ^ 32 →
      (r.enabled = false → Leads s (.hostReadRequest r) (fun t => .unsupported r.fn r.tag ∈ t.hostOut)) ∧
      (r.enabled = true → r.fn = 0 → r.data.length = r.len → s.agenda = [] → Leads s (.hostPostedWrite r) (fun t => t.mem = s.mem ∧
        t.agenda = [.event (regRow s { off := r.off, part := partOf r.off r.len, val := BitVec.ofNat 64 (leBytes r.data) })])) ∧
      (r.enabled = true → r.fn ≠ 0 → r.data.length = r.len → r.off < 16 → s.agenda = [] → Leads s (.hostPostedWrite r) (fun t =>
        t.mem = s.mem ∧ t.agenda = [.event (regRow s
          { off := 0x2A0028 + 64 * r.fn + r.off, part := partOf r.off r.len, val := BitVec.ofNat 64 (leBytes r.data) })])) ∧
      (r.enabled = true → r.fn ≠ 0 → r.data.length = r.len → 16 ≤ r.off → r.off ≠ 0x1408 → r.off ≠ 0x140C →
        exec (.hostPostedWrite r) s = .next s) ∧
      (r.enabled = true → r.fn ≠ 0 → r.off = 0x1408 → r.len = 8 → r.data.length = 8 → Leads s (.hostPostedWrite r) (fun t =>
        t.mem = s.mem ∧ (tget {} t.fns r.fn).mbtail.toNat = leBytes r.data)) ∧
      (∀ q, r.enabled = true → r.fn = 0 → r.len = 8 → regOf r.off = some q →
        Leads s (.hostReadRequest r) (fun t => .completion r.fn r.tag (toBytes 8 (readReg s q).toNat) ∈ t.hostOut ∧ t.mem = s.mem))) ∧
    (∀ a, f.resetting = false → f.tdisp ≠ .error → r.bar = 2 → bar2Addr s r.fn r.off r.len = some a → 0 < r.len →
      a % 128 + r.len ≤ 128 → holdersOf s (a / 128) = [] → movingLine s (a / 128) = none → Plain s a r.len →
      Leads s (.hostReadRequest r) (fun t => t.mem = s.mem ∧ .completion r.fn r.tag (memBytes s a r.len) ∈ t.hostOut) ∧
      (r.data.length = r.len → Leads s (.hostPostedWrite r) (fun t => memBytes t a r.len = r.data ∧ MemKeptBut s t a r.len)) ∧
      (r.off % r.len = 0 → r.atomic = 1 ∨ r.atomic = 2 → r.len = 4 ∨ r.len = 8 → r.data.length = r.len →
        Leads s (.hostAtomicopRequest r) (fun t => .completion r.fn r.tag (memBytes s a r.len) ∈ t.hostOut ∧ MemKeptBut s t a r.len ∧
          leBytes (memBytes t a r.len) = if r.atomic = 1 then (leBytes (memBytes s a r.len) + leBytes r.data) % 2 ^ (8 * r.len)
            else leBytes r.data)) ∧
      (r.off % r.len = 0 → r.atomic = 3 → r.len = 4 ∨ r.len = 8 ∨ r.len = 16 → r.data.length = 2 * r.len →
        Leads s (.hostAtomicopRequest r) (fun t => .completion r.fn r.tag (memBytes s a r.len) ∈ t.hostOut ∧ MemKeptBut s t a r.len ∧
          memBytes t a r.len = if memBytes s a r.len = r.data.take r.len then r.data.drop r.len else memBytes s a r.len)))) ∧
  (∀ (s : State) (fn v : Nat), fn < 64 → v < (if fn = 0 then 2048 else 64) → fn = 0 ∨ (tget {} s.fns fn).tdisp = .configUnlocked →
    Leads s (.msixUnmask fn v) (fun t => t.mem = s.mem ∧ v ∈ (tget {} t.fns fn).unmasked ∧ v ∉ (tget {} t.fns fn).pending ∧
      (v ∈ (tget {} s.fns fn).pending → .msix fn v ∈ t.hostOut))) ∧
  (∀ (s : State) (ctx : Nat) (root table : DWord), ctx < 4096 → ctxOf s ctx = none →
    Leads s (.contextCreation ctx root table) (fun t => t.mem = s.mem ∧
      ∃ c, ctxOf t ctx = some c ∧ c.root = root.toNat / 4096 * 4096 ∧ c.table = table.toNat ∧ c.events = [] ∧ c.levels = [])) ∧
  (∀ (s : State) (ctx : Nat) (c : Ctx), ctxOf s ctx = some c → Leads s (.contextDestruction ctx) (fun t => ctxOf t ctx = none ∧
    ∀ i, (∃ g, tfind s.gather i = some g ∧ g.role ≠ 0 ∧ g.ctx = ctx) → (gEntry t i).role = 0)) ∧
  (∀ (s : State) (fn : Nat), fn < 64 → Leads s (.functionLevelReset fn) (fun t =>
    (tget {} t.fns fn).tdisp = .configUnlocked ∧ (tget {} t.fns fn).pending = [] ∧ (tget {} t.fns fn).unmasked = [] ∧
    (tget {} t.fns fn).mbhead = 0 ∧ (tget {} t.fns fn).mbtail = 0 ∧ rawReg t (.part fn 6) = 0 ∧
    (∀ c, ctxFn s c = fn → ctxOf t c = none) ∧ (fn = 0 → t.ctxs = []) ∧
    ∀ a, a < 768 * 2 ^ 30 → ownerFn s 1 (a / 2 ^ 30) = fn → memByte t a = 0)) ∧
  ∀ (s : State) (fn : Nat), 0 < fn → fn < 64 →
    let f : Fn := tget {} s.fns fn
    let refused (i : Instr) : Prop := exec i s = .next { s with hostOut := s.hostOut ++ [.tdispError fn] }
    let moved (i : Instr) (d : Tdisp) : Prop := Leads s i (fun t => t.mem = s.mem ∧ (tget {} t.fns fn).tdisp = d ∧ .tdispOk fn ∈ t.hostOut)
    let held := fld (rawReg s (.part fn 2)) 25 16 ≠ 0
    (f.tdisp = .configUnlocked → f.ide = true → held → moved (.lockInterfaceRequest fn) .configLocked) ∧
    (f.tdisp ≠ .configUnlocked ∨ f.ide = false ∨ ¬ held → refused (.lockInterfaceRequest fn)) ∧
    (f.tdisp = .configLocked → moved (.startInterfaceRequest fn) .run) ∧
    (f.tdisp ≠ .configLocked → refused (.startInterfaceRequest fn)) ∧
    Leads s (.stopInterfaceRequest fn) (fun t => (tget {} t.fns fn).tdisp = .configUnlocked ∧ .tdispOk fn ∈ t.hostOut ∧
      ∀ a, a < 768 * 2 ^ 30 → ownerFn s 1 (a / 2 ^ 30) = fn → memByte t a = 0) ∧
    (f.tdisp = .configUnlocked → refused (.getDeviceInterfaceReport fn)) ∧
    (f.tdisp ≠ .configUnlocked → Leads s (.getDeviceInterfaceReport fn) (fun t => t.mem = s.mem ∧
      ∃ r, .tdispReport fn r ∈ t.hostOut ∧ ∀ k, k < 5 → r[12 + k]? = some (rawReg s (.part fn k)))) ∧
    (f.tdisp = .configLocked ∨ f.tdisp = .run → Leads s (.ideIntegrityFailure fn) (fun t =>
      (tget {} t.fns fn).tdisp = .error ∧ .tdispError fn ∈ t.hostOut)) ∧
    (f.tdisp = .configUnlocked ∨ f.tdisp = .error → exec (.ideIntegrityFailure fn) s = .next s)

/-- 00 R4, 02 R471, 03 R86, 07 R185, R186, 16 R407, 17 R425, 18 R438, 19 R445, R450, R453, R459: a write to a register of the control range that
no locked interface freezes leaves the register with what the write makes of it and every other register as it was, but for an `SCLIM` that
evicts and an `FROUTE` that leaves a path without a port that is up (19 R457: the path is lost); a value outside a field's range changes nothing, a written 1 clears a write-1-to-clear bit, a write that makes partitions overlap
changes nothing, and a request to pre-empt reaches every sheet of the task. A write to a frozen register changes nothing of it and puts
the interface in error. A TAIL of `EVCTL` that the manual forbids is left open. -/
def Obligations.RegisterWrites : Prop :=
  (∀ (s : State) (w : RegWr) (r : CReg), regOf (w.off / 8 * 8) = some r → frozenFn s r = none →
    (r = .clease → Leads s (.cleaseWrite w) (fun t => TakesWrite s t w r ∧ (w.part ≠ .high →
      fld (rawReg t r) 4 0 = if 12 ≤ fld w.val 4 0 ∧ fld w.val 4 0 ≤ 26 then fld w.val 4 0 else fld (rawReg s r) 4 0))) ∧
    (r = .tokpool → Leads s (.tokpoolWrite w) (fun t => TakesWrite s t w r ∧ (w.part ≠ .high →
      fld (rawReg t r) 9 0 = if fld w.val 9 0 ≤ 512 then fld w.val 9 0 else fld (rawReg s r) 9 0))) ∧
    (∀ n, r = .cbudget n → Leads s (.cbudgetWrite w) (fun t => TakesWrite s t w r ∧ t.clusters = s.clusters ∧ (w.part = .full →
      fld (rawReg t r) 15 0 = fld w.val 15 0 ∧ fld (rawReg t r) 47 32 = fld w.val 47 32))) ∧
    (∀ b i, r = .ctr b i → Leads s (.counterBankWrite w) (fun t => TakesWrite s t w r ∧ (w.part = .full → rawReg t r = w.val))) ∧
    (∀ b, r = .cxpend b → Leads s (.cxpendClear w) (fun t => TakesWrite s t w r ∧ (w.part = .full → ∀ i, i < 64 →
      (rawReg t r).getLsbD i = ((rawReg s r).getLsbD i && !(w.val.getLsbD i && decide (i < 45)))))) ∧
    (∀ f, r = .part f 5 → Leads s (.evctlWrite w) (fun t => TakesWrite s t w r)) ∧
    (∀ f, r = .part f 6 →
      let n := afterWrite r (rawReg s r) w.part w.val
      let ahead (v : DWord) (hi lo : Nat) : Nat := (fld v hi lo + 2 ^ 13 - fld (rawReg s r) 34 22) % 2 ^ 13
      (ahead n 34 22 ≤ ahead (rawReg s r) 47 35 → Leads s (.evctlWrite w) (fun t => TakesWrite s t w r)) ∧
      Leads s (.evctlWrite w) (fun t => t.mem = s.mem ∧ (∀ q, regOff q ≠ regOff r → rawReg t q = rawReg s q) ∧
        ∀ i, i < 22 ∨ 34 < i → (rawReg t r).getLsbD i = n.getLsbD i)) ∧
    (∀ k, k ≤ 4 → r = .part 0 k → exec (.partitionRegisterWrite w) s = .next s) ∧
    (∀ f k, r = .part f k → k ≤ 4 → f ≠ 0 →
      let u := setReg s r (afterWrite r (rawReg s r) w.part w.val)
      ((∀ g, 0 < g → g < 64 → g ≠ f → sharesItem u f g = false) → Leads s (.partitionRegisterWrite w) (fun t => TakesWrite s t w r)) ∧
      (∀ g, 0 < g → g < 64 → g ≠ f → sharesItem u f g = true → exec (.partitionRegisterWrite w) s = .next s)) ∧
    (r = .mbtail → Leads s (.mbtailWrite w) (fun t => t.mem = s.mem ∧ t.regs = s.regs ∧
      (w.part = .full → (tget {} t.fns 0).mbtail = w.val))) ∧
    (∀ n, r = .froute n → allDown s (rawReg s r).toNat = false → allDown s (afterWrite r (rawReg s r) w.part w.val).toNat = true →
      Leads s (.fabricRegisterWrite w) (fun t => rawReg t r = afterWrite r (rawReg s r) w.part w.val ∧
        ∀ d ∈ peersOf s n, (rawReg t (.fpeer d)).getLsbD 13 = true)) ∧
    ((∃ p, r = .fport p) ∨ (∃ n, r = .froute n ∧
        (allDown s (rawReg s r).toNat = true ∨ allDown s (afterWrite r (rawReg s r) w.part w.val).toNat = false)) ∨ (∃ n, r = .cfabj n) ∨ (r = .fabcfg ∧ peerHeld s = false) ∨
        (∃ d, r = .fpeer d ∧ ((rawReg s r).getLsbD 12 = false ∨ peerHeld s = false)) →
      Leads s (.fabricRegisterWrite w) (fun t => TakesWrite s t w r)) ∧
    (r = .fabcfg ∨ (∃ d, r = .fpeer d ∧ (rawReg s r).getLsbD 12 = true) → peerHeld s = true →
      exec (.fabricRegisterWrite w) s = .next s) ∧
    (regRow s w = .registerWrite w → Leads s (.registerWrite w) (fun t => TakesWrite s t w r)) ∧
    (∀ n, r = .sclim n → (routerOf s n).stitches.length ≤ fld (afterWrite r (rawReg s r) w.part w.val) 13 0 →
      Leads s (.sclimWrite w) (fun t => TakesWrite s t w r)) ∧
    (∀ n, r = .sclim n → Leads s (.sclimWrite w) (fun t => rawReg t r = afterWrite r (rawReg s r) w.part w.val)) ∧
    (r = .preq → w.part = .high → exec (.preqWrite w) s = .next s) ∧
    (r = .preq → w.part ≠ .high → Leads s (.preqWrite w) (fun t => t.mem = s.mem ∧
      ∀ c k h l x, sheetOf s c k = some h → (l, x) ∈ tasksNamed s (w.val.toNat % 2 ^ 32) → h.ctx = l.ctx → h.launch = l.index →
        h.task = x.index → ∃ h', sheetOf t c k = some h' ∧ h'.preempt ≠ 0))) ∧
  (∀ (s : State) (w : RegWr) (i : Instr), i ∈ [.sclimWrite w, .cleaseWrite w, .preqWrite w, .tokpoolWrite w, .cbudgetWrite w,
      .counterBankWrite w, .cxpendClear w, .partitionRegisterWrite w, .evctlWrite w, .mbtailWrite w, .fabricRegisterWrite w,
      .registerWrite w, .frozenRegisterWrite w] → regOf (w.off / 8 * 8) = none ∨ regRow s w ≠ i → exec i s = .next s) ∧
  ∀ (s : State) (w : RegWr) (r : CReg) (f : Nat), regOf (w.off / 8 * 8) = some r → frozenFn s r = some f →
    ((tget {} s.fns f).tdisp = .error → exec (.frozenRegisterWrite w) s = .next s) ∧
    ((tget {} s.fns f).tdisp ≠ .error → Leads s (.frozenRegisterWrite w) (fun t => .tdispError f ∈ t.hostOut ∧
      (tget {} t.fns f).tdisp = .error ∧ rawReg t r = rawReg s r))

/-- 20 R460 to R464, 14 R376, 19 R450: after power-on every unit whose methods work is present, and a cluster of which none works is
absent; a mandatory step of which none works stops bring-up with its number in FAILSTEP; a warm reset keeps the capacities and counts.
A mailbox message is read, posted for the host or answered by the firmware with the command's data, or with status 1 where there
is no such command. -/
def Obligations.BootAndFirmware : Prop :=
  (∀ (s : State) (p : BootPlan), p.stall = none →
    (p.prim = 0 → p.stkPrim = 0 → p.portPrim = 0 → (p.cluPrim &&& p.cluAlt) ≠ BitVec.allOnes 128 →
      Leads s (.powerOn p) (fun t => t.stopped = false ∧ t.mem = [] ∧ t.ctxs = [] ∧ t.launches = [] ∧ rawReg t .bootrec = 0xF ∧
        rawReg t .cmem = 0x30000000FFF ∧ rawReg t .cport = 0x3FFFF ∧
        ∀ u, u < 64 → (rawReg t .cclu0).getLsbD u = !(p.cluPrim &&& p.cluAlt).getLsbD u ∧
          (rawReg t .cclu1).getLsbD u = !(p.cluPrim &&& p.cluAlt).getLsbD (u + 64))) ∧
    (∀ k, k = 1 ∨ k = 2 ∨ k = 3 → (∀ j, 0 < j → j < k → p.prim.getLsbD j = false ∨ p.alt.getLsbD j = false) →
      p.prim.getLsbD k = true → p.alt.getLsbD k = true →
      Leads s (.powerOn p) (fun t => t.stopped = true ∧ fld (rawReg t .bootrec) 23 20 = k ∧ fld (rawReg t .bootrec) 3 0 = k)) ∧
    (p.prim = 0 → p.alt = 0 → p.stkPrim = 0 → p.stkAlt = 0 → p.cluPrim = 0 → p.cluAlt = 0 → p.portPrim = 0 → p.portAlt = 0 →
      s.bootClear = false → fld (rawReg s .cmem) 11 0 ≠ 0 → rawReg s .cclu0 ≠ 0 →
      Leads s (.warmReset p) (fun t => t.stopped = false ∧ t.mem = [] ∧ rawReg t .cclu0 = rawReg s .cclu0 ∧
        rawReg t .cclu1 = rawReg s .cclu1 ∧ fld (rawReg t .cmem) 11 0 = fld (rawReg s .cmem) 11 0 ∧
        let r := rawReg s .bootrec
        fld (rawReg t .bootrec) 39 32 = if 1 ≤ fld r 3 0 ∧ fld r 3 0 ≤ 7 ∧ fld r 23 20 = 0 then min 255 (fld r 39 32 + 1)
          else fld r 39 32))) ∧
  ∀ (s : State) (id : Nat) (a : Async) (va : DWord) (msg : List Byte), asyncOf s id = some a →
    let fn := ctxFn s a.ctx
    let at' (o n : Nat) : Nat := leBytes ((msg.drop o).take n)
    (∀ host bs, a.kind = .mbox host va [] false → opReady s a = true → rangesQuiet s (engOf a) [(va.toNat, 64)] = true →
      va.toNat % 64 = 0 → peerParts s (engOf a) va.toNat 64 0 = [] → opWaits s id = false → engRead s (engOf a) va.toNat 64 = .ok bs →
      Leads s (.mboxComplete id) (fun t => t.mem = s.mem ∧ asyncOf t id = some { a with kind := .mbox host va bs false })) ∧
    (msg.length = 64 →
      (a.kind = .mbox true va msg false → Leads s (.mboxComplete id) (fun t => Done t a 0 ∧ t.mem = s.mem ∧
        (tget {} t.fns fn).mbhead = (tget {} s.fns fn).mbhead + 1 ∧
        ∀ i, i < 64 → tget 0 (tget {} t.fns fn).mbox (64 * ((tget {} s.fns fn).mbhead.toNat % 16) + i) = msg.getD i 0)) ∧
      (∀ rep, a.kind = .mbox false va rep true → rep.length = 64 → beforeWrite s a (byteWrites va rep) = none →
        Leads s (.mboxComplete id) (fun t =>
          let w := writeElems (noteEngineOut s a [(va.toNat, 64)]) (engOf a) (byteWrites va rep)
          Done t a w.2.1 ∧ t.mem = w.1.mem)) ∧
      (a.kind = .mbox false va msg false →
        (at' 0 2 ∉ [1, 2, 0x10, 0x11, 0x20, 0x30] → Leads s (.mboxComplete id) (fun t => Replied t a va msg 1 [] ∧ t.mem = s.mem)) ∧
        (at' 0 2 = 1 → Leads s (.version id) (fun t => t.mem = s.mem ∧ Replied t a va msg 0
          (toBytes 8 (readReg s .cid).toNat ++ toBytes 8 (readReg s .cclu0).toNat ++ toBytes 8 (readReg s .cclu1).toNat ++
            toBytes 8 (readReg s .cmem).toNat ++ toBytes 8 (readReg s .cport).toNat))) ∧
        (at' 0 2 = 2 → Leads s (.bootRead id) (fun t => t.mem = s.mem ∧
          if fn = 0 then Replied t a va msg 0 (toBytes 8 (rawReg s .bootrec).toNat) else Replied t a va msg 3 [])) ∧
        (at' 0 2 = 0x10 → Leads s (.stitchDump id) (fun t => t.mem = s.mem ∧
          (fn ≠ 0 → Replied t a va msg 3 []) ∧
          (fn = 0 → 157 ≤ at' 8 2 ∨ 1024 ≤ at' 10 2 ∨ 8 ≤ at' 12 1 → Replied t a va msg 2 []) ∧
          (fn = 0 → at' 8 2 < 157 → at' 10 2 < 1024 → at' 12 1 < 8 →
            (∀ q ∈ (routerOf s (at' 8 2)).stitches, ¬ (q.set = at' 10 2 ∧ q.way = at' 12 1)) →
            Replied t a va msg 0 (toBytes 16 0)))) ∧
        (at' 0 2 = 0x11 → Leads s (.gatherDump id) (fun t => t.mem = s.mem ∧
          (4096 ≤ at' 8 2 → Replied t a va msg 2 []) ∧
          (fn = 0 → at' 8 2 < 4096 → Replied t a va msg 0 (toBytes 48 (gatherBits s (gEntry s (at' 8 2))))))) ∧
        (at' 0 2 = 0x20 → Leads s (.debugResume id) (fun t => t.mem = s.mem ∧
          ((∀ q ∈ tasksNamed s (at' 8 4), q.2.halted = false) → Replied t a va msg 2 []) ∧
          (∀ q, (tasksNamed s (at' 8 4)).filter (fun q => q.2.halted) = [q] → ctxFn s q.1.ctx ≠ fn → Replied t a va msg 3 []) ∧
          (∀ q x, (tasksNamed s (at' 8 4)).filter (fun q => q.2.halted) = [q] → ctxFn s q.1.ctx = fn →
            taskOf s q.1.ctx q.1.index q.2.index = some x → Replied t a va msg 0 [] ∧
            taskOf t q.1.ctx q.1.index q.2.index = some { x with halted := false }))) ∧
        (at' 0 2 = 0x30 → Leads s (.bootClear id) (fun t => t.mem = s.mem ∧
          if fn = 0 then Replied t a va msg 0 [] ∧ t.bootClear = true else Replied t a va msg 3 []))))

/-- 10 R237, R238, R236: every instruction is checked before anything of it performs: a field or operand that it does not accept raises
ILLEGAL, and then privilege is asked for. One whose guard is false in every lane changes no register and no byte of
memory and goes on; `JOIN`, `YIELD` and `RTT` say otherwise of themselves. No instruction and no event is refused, and an event always leads on. -/
def Obligations.IssueChecks : Prop :=
  (∀ (i : Instr), (sigOf i).isSome = !i.isEvent) ∧
  (∀ (i : Instr) (s : State), (∃ t, exec i s = .next t) ∨ (i.isEvent = false ∧ issuer s = none ∧ exec i s = .fault .noIssuer)) ∧
  ∀ (i : Instr) (h : Hdr) (g : Sig), sigOf i = some (h, g) → ∀ (s : State) (x : Iss), issuer s = some x →
    let legal := g.ok = true ∧ ∀ u ∈ g.uses, opdLegal x.sheet u.2 u.1.toNat = true
    let priv := g.priv = true ∨ ∃ u ∈ g.uses, u.1 = 0x1AF
    (¬ legal → exec i s = .next (sheetTrap s x cIllegal 0)) ∧
    (legal → priv → x.leaf.priv = false → exec i s = .next (sheetTrap s x cPriv 0)) ∧
    (legal → (priv → x.leaf.priv = true) → x.sheet.chk = false → pendingOn s x (guardCodes h) x.leaf.mask = [] →
      x.leaf.mask &&& guardMask s x h = 0 → (∀ f, i ≠ .join f) → (∀ f, i ≠ .yield f) →
      (∀ f, i ≠ .rtt f) →
      ∃ t, exec i s = .next t ∧ GoneOn t x ∧ t.mem = s.mem ∧ ElemsKept s t x [])

/-- 06 R135, 11 R259, R260: the frame of the instructions that only compute in registers. Such an instruction changes, beside its leaf's place
and the windows of tags that it consumes, nothing but the registers of its sheet; of these only its destinations, and the sticky flags where
it raises or clears flags; and of a v-register only the lanes that are active. Memory, every other core, every cluster, context, launch and
special register stay as they are. -/
def Obligations.RegisterFrames : Prop :=
  ∀ (i : Instr) (h : Hdr) (g : Sig) (ws : List Nat) (fl : Bool), sigOf i = some (h, g) → regShape i = some (ws, fl) →
    ∀ s x act t, Runs s x h g act → (∀ c ∈ ws, isV c = true → Writable s x act c) → exec i s = .next t →
      GoneOn t x ∧ t = { s with cores := t.cores, accs := t.accs } ∧ (∀ c, c ≠ x.core → coreOf t c = coreOf s c) ∧
      (let k := coreOf t x.core
       k = { coreOf s x.core with regs := k.regs, regPoison := k.regPoison, sheets := k.sheets, recs := k.recs, leaves := k.leaves,
                                  windows := k.windows }) ∧
      (∀ e, e ≠ x.entry → leafOf t x.core e = leafOf s x.core e) ∧
      (∀ k, k ≠ x.leaf.slot → sheetOf t x.core k = sheetOf s x.core k) ∧
      (∀ q, sheetOf s x.core x.leaf.slot = some q → ∃ q', sheetOf t x.core x.leaf.slot = some q' ∧ q' = withRegsOf q q') ∧
      (∀ c l, l < 32 → c ∉ ws → (fl = true → isE c = false) → rawElem t x c l = rawElem s x c l) ∧
      ∀ c ∈ ws, isV c = true → ∀ l, l < 32 → act.has l = false → rawElem t x c l = rawElem s x c l

/-- 12 R298, R330, 13 R335, 14 R355, R367, R373: the frame of the instructions that do more, where the leaf goes on: no register but the destination
changes as the instruction issues, no register of another core does, and no byte of memory below the host's part of the
physical address space. -/
def Obligations.OperationFrames : Prop :=
  ∀ (i : Instr) (h : Hdr) (g : Sig) (ws : List Nat), sigOf i = some (h, g) → opShape i = some ws →
    ∀ s x act t, Runs s x h g act → (∀ c ∈ ws, isV c = true → Writable s x act c) → exec i s = .next t → GoneOn t x →
      ElemsKept s t x ws ∧ ∀ a, a < 0x8000000000000 → memByte t a = memByte s a

/-- 10 R230, R232, R237, R241, 06 R154: a step whose leaf is in a run and has fetched its line runs what the 96 bits of the slot at its PC decode
to, as `exec` gives it, with what follows an issue; bits that decode to nothing raise ILLEGAL. The leaf is the one that the
agenda names, the couple's for a second slot, or the first that can issue where nothing else happens. An event that
the agenda names happens in its step; a device whose bring-up has stopped does nothing. -/
def Obligations.StepRunsDecoded : Prop :=
  (∀ (s u : State) (c e : Nat) (l : Leaf) (f : Fetched) (couple : Bool), s.stopped = false →
    (couple = false ∧ s.couple = false ∧ (∃ rest, s.agenda = .issue c e :: rest ∧ u = { s with agenda := rest }) ∧
        l.nextIssue ≤ now s c ∨
      couple = true ∧ s.couple = true ∧ s.cur = some (c, e) ∧ u = s ∨
      couple = false ∧ s.couple = false ∧ s.agenda = [] ∧ s.work = [] ∧ (∀ i ∈ deviceRows s, effect s i = none) ∧
        nextIssuer s = some (c, e) ∧ u = s) →
    leafOf s c e = some l → l.inRun = true → l.line = some f → f.va = l.pc.toNat / 64 * 64 →
    let w := lineSlot f.bytes (l.pc.toNat % 64 / 12)
    let v := noteIssue u c
    (∀ i, decode w = .ok i → step s = issued i { v with cur := some (c, e), couple := couple }) ∧
    (∀ err, decode w = .error err → step s = .next (trapRec { v with cur := none, couple := false } c e
      { cause := cIllegal, lanes := l.mask, pc := l.pc }))) ∧
  (∀ (s : State) (i : Instr) (rest : List Agendum), s.stopped = false → s.couple = false → s.agenda = .event i :: rest →
    i.isEvent = true → heldBack s i = none → step s = exec i { s with agenda := rest }) ∧
  (∀ (s : State) (i : Instr) (rest : List Instr), s.stopped = false → s.couple = false → s.agenda = [] → s.work = i :: rest →
    step s = exec i { s with work := rest }) ∧
  (∀ (s : State), s.stopped = true → restarts s.agenda = false → step s = .fault .bringUpStopped)

/-- 10 R230, R234, R242 to R251: decoding the word of any well-formed instruction gives it back, with every field, and a word that decodes
is the word of what it decodes to. -/
def Obligations.EncodeDecode : Prop :=
  (∀ i : Instr, WellFormed i = true → decode (encode i) = .ok i ∧ decodeTableWord 96 (encode i) = some i) ∧
  ∀ (w : Nat) (i : Instr), w < 2 ^ 96 → decode w = .ok i → WellFormed i = true ∧ encode i = w

/-- Words that the manual writes out (10 R257 and its example, 21 to 25), the canonical `NOP`, and words that are no instruction. -/
def Obligations.DecodedWords : Prop :=
  decode 0x1207_70FF_FFFF_FFFF_F800_0000 = .ok (.nop ⟨⟨false, 0, 7, 7, false, 0⟩, 0x1FF, 0x1FF, 0x1FF, 0x1FF, 0x1FF, 0, 0, false, false, false, 0, 0, 0⟩) ∧
  decode 0x2012_7101_8078_BFFF_F800_0200 =
    .ok (.iadd ⟨⟨false, 1, 2, 7, false, 1⟩, 3, 1, 0x1C5, 0x1FF, 0x1FF, 0, 0, false, false, false, 0, 2, 0⟩) ∧
  decode 0xCC01_70A0_4120_DC0E_0000_0000 =
    .ok (.mxa ⟨⟨false, 0, 1, 7, false, 0⟩, 0x140, 0x104, 0x106, 0x1C0, 0x1C0, 0, 0, false, false, false, 0⟩) ∧
  decode 0xCE07_70A0_82A3_10C0_4000_0000 =
    .ok (.mxsp ⟨⟨false, 0, 7, 7, false, 0⟩, 0x141, 0x00A, 0x118, 0x10C, 8, 0, 0, false, false, false, 0⟩) ∧
  decode 0xA207_7201_40BF_E000_0015_0100 =
    .ok (.st ⟨⟨false, 0, 7, 7, false, 2⟩, 2, 0x102, 0x1FF, 0, 2, 5, 0, 0, 2, 0⟩) ∧
  decode 0xB207_7006_7178_002C_9005_0000 =
    .ok (.xlate ⟨⟨false, 0, 7, 7, false, 0⟩, 0x00C, 0x1C5, 0x1C0, 2, 0x192, 0, 5, 0, 0⟩) ∧
  decode 0xE205_70A0_7038_3CFF_F800_0000 =
    .ok (.cred ⟨⟨false, 0, 5, 7, false, 0⟩, 0x140, 0x1C0, 0x1C1, 0x1CF, 0x1FF, 0, 0, false, false, false, 0⟩) ∧
  decode 0xA807_7101_C200_4000_0007_0100 =
    .ok (.red ⟨⟨false, 0, 7, 7, false, 1⟩, 3, 0x108, 2, 0, 0, 7, 0, 0, 2, 0⟩) ∧
  decode 0xEA07_70A0_603F_FFF0_0000_0000 =
    .ok (.garrive ⟨⟨false, 0, 7, 7, false, 0⟩, 0x140, 0x180, 0x1FF, 0x1FF, 0, 0, 0, 0⟩) ∧
  decode 0 = .error .unassignedOpcode ∧
  decode (0x1207_70FF_FFFF_FFFF_F800_0000 + 1) = .error .reservedBits

/-- 02 R23, 04 R102 and the model's own form of memory: bytes of memory are listed with addresses rising and none that an unlisted address reads
as. Every step keeps it. -/
def Obligations.MemoryStaysCanonical : Prop := ∀ s t : State, MemoryWf s → step s = .next t → MemoryWf t

/-- 03 R84 to R86, 15 R396 to R398, 16 R415, 17 R433, 18 R442, 19 R459, 20 R463, 02 R27: the registers at reset, with no context, nothing resident and memory with
nothing listed. That such memory reads as zero is the model's choice (log entry 3). -/
def Obligations.ResetState : Prop :=
  MemoryWf State.reset ∧ State.reset.ctxs = [] ∧ State.reset.cores = [] ∧ State.reset.launches = [] ∧ State.reset.stopped = false ∧
  (∀ a, memByte State.reset a = 0) ∧ (∀ c, (clusterOf State.reset c).cache = []) ∧ (∀ i, (gEntry State.reset i).role = 0) ∧
  (∀ n, n < 157 → rawReg State.reset (.sclim n) = 0x2000) ∧ rawReg State.reset .clease = 20 ∧
  (∀ f, f < 64 → fld (rawReg State.reset (.gquota f)) 12 0 = 4096) ∧
  fld (rawReg State.reset .gtime) 31 0 = 1000000 ∧ fld (rawReg State.reset .gtime) 51 32 = 100 ∧
  (∀ c, c < 128 → fld (rawReg State.reset (.cbudget c)) 15 0 = 0x493E ∧ fld (rawReg State.reset (.cbudget c)) 47 32 = 0x088B) ∧
  rawReg State.reset .sched = 100 ∧ rawReg State.reset .roll = 2 ∧ rawReg State.reset .tokpool = 512 ∧ rawReg State.reset .ilim = 2800 ∧
  (∀ n, n < 136 → fld (rawReg State.reset (.therm n)) 7 0 = 115 ∧ fld (rawReg State.reset (.therm n)) 15 8 = 95) ∧
  fld (rawReg State.reset .fabcfg) 35 16 = 500 ∧
  rawReg State.reset .cclu0 = BitVec.allOnes 64 ∧ rawReg State.reset .cclu1 = BitVec.allOnes 64 ∧
  fld (rawReg State.reset .cmem) 11 0 = 0xFFF ∧ rawReg State.reset .cport = 0x3FFFF
end

