-- ==== Sys2Proof/Laws/Tab.lean ====
section
/-!
SUPPORT. Laws of the tables: what is written is read back, no other key is touched, and a value table stays in
its canonical form.
-/
namespace Sys2Proof.Machine

variable {α : Type}

@[simp] theorem tfind_tput_same (t : Tab α) (k : Nat) (v : α) : tfind (tput t k v) k = some v := by
  induction t with
  | nil => simp [tput, tfind]
  | cons e t ih =>
    obtain ⟨i, w⟩ := e
    simp only [tput]
    split
    · simp [tfind]
    · split
      · simp [tfind]
      · have : i ≠ k := by omega
        simp [tfind, this, ih]

theorem tfind_tput_ne (t : Tab α) (k j : Nat) (v : α) (h : j ≠ k) : tfind (tput t k v) j = tfind t j := by
  have h' : k ≠ j := Ne.symm h
  induction t with
  | nil => simp [tput, tfind, h']
  | cons e t ih =>
    obtain ⟨i, w⟩ := e
    simp only [tput]
    split
    · simp [tfind, h']
    · split
      · rename_i hk
        subst hk
        simp [tfind, h']
      · simp [tfind, ih]

@[simp] theorem tfind_tdel_same (t : Tab α) (k : Nat) : tfind (tdel t k) k = none := by
  induction t with
  | nil => rfl
  | cons e t ih =>
    obtain ⟨i, w⟩ := e
    simp only [tdel]
    split
    · exact ih
    · rename_i h
      simp [tfind, h, ih]

theorem tfind_tdel_ne (t : Tab α) (k j : Nat) (h : j ≠ k) : tfind (tdel t k) j = tfind t j := by
  induction t with
  | nil => rfl
  | cons e t ih =>
    obtain ⟨i, w⟩ := e
    simp only [tdel]
    split
    · rename_i hi
      have : i ≠ j := by omega
      simp [tfind, this, ih]
    · simp [tfind, ih]

@[simp] theorem tget_tput_same (d : α) (t : Tab α) (k : Nat) (v : α) : tget d (tput t k v) k = v := by
  simp [tget]

theorem tget_tput_ne (d : α) (t : Tab α) (k j : Nat) (v : α) (h : j ≠ k) :
    tget d (tput t k v) j = tget d t j := by
  simp [tget, tfind_tput_ne t k j v h]

variable [DecidableEq α]

/-- What is written at a key is read there. -/
@[simp] theorem tget_tset_same (d : α) (t : Tab α) (k : Nat) (v : α) : tget d (tset d t k v) k = v := by
  unfold tset
  split
  · rename_i h; simp [tget, h]
  · simp

/-- A write leaves every other key alone. -/
theorem tget_tset_ne (d : α) (t : Tab α) (k j : Nat) (v : α) (h : j ≠ k) :
    tget d (tset d t k v) j = tget d t j := by
  unfold tset
  split
  · simp [tget, tfind_tdel_ne t k j h]
  · exact tget_tput_ne d t k j v h

/-- Both at once. -/
theorem tget_tset (d : α) (t : Tab α) (k j : Nat) (v : α) :
    tget d (tset d t k v) j = if j = k then v else tget d t j := by
  split
  · rename_i h; subst h; simp
  · rename_i h; exact tget_tset_ne d t k j v h

omit [DecidableEq α] in
/-- A table with a first entry: its keys rise. -/
theorem tsorted_cons (i : Nat) (v : α) (t : Tab α) :
    tsorted ((i, v) :: t) = true ↔ (∀ e ∈ t, i < e.1) ∧ tsorted t = true := by
  induction t generalizing i v with
  | nil => simp [tsorted]
  | cons e t ih =>
    obtain ⟨j, w⟩ := e
    simp only [tsorted, Bool.and_eq_true, decide_eq_true_eq]
    constructor
    · rintro ⟨h, hs⟩
      refine ⟨?_, hs⟩
      intro e he
      rcases List.mem_cons.1 he with rfl | he
      · exact h
      · have := ((ih j w).1 hs).1 e he
        omega
    · rintro ⟨h, hs⟩
      exact ⟨h (j, w) (by simp), hs⟩

omit [DecidableEq α] in
theorem mem_tput (t : Tab α) (k : Nat) (v : α) (e : Nat × α) (h : e ∈ tput t k v) : e = (k, v) ∨ e ∈ t := by
  induction t with
  | nil => simpa [tput] using h
  | cons a t ih =>
    obtain ⟨i, w⟩ := a
    simp only [tput] at h
    split at h
    · simpa using h
    · split at h
      · rcases List.mem_cons.1 h with h | h
        · exact .inl h
        · exact .inr (by simp [h])
      · rcases List.mem_cons.1 h with h | h
        · exact .inr (by simp [h])
        · rcases ih h with h | h
          · exact .inl h
          · exact .inr (by simp [h])

omit [DecidableEq α] in
theorem tsorted_tput (t : Tab α) (k : Nat) (v : α) (h : tsorted t = true) : tsorted (tput t k v) = true := by
  induction t with
  | nil => rfl
  | cons a t ih =>
    obtain ⟨i, w⟩ := a
    have hs := (tsorted_cons i w t).1 h
    simp only [tput]
    split
    · rename_i hk
      refine (tsorted_cons k v _).2 ⟨?_, h⟩
      intro e he
      rcases List.mem_cons.1 he with rfl | he
      · exact hk
      · have := hs.1 e he; omega
    · split
      · rename_i hk
        subst hk
        exact (tsorted_cons k v t).2 ⟨fun e he => hs.1 e he, hs.2⟩
      · refine (tsorted_cons i w _).2 ⟨?_, ih hs.2⟩
        intro e he
        rcases mem_tput t k v e he with rfl | he
        · simp only; omega
        · exact hs.1 e he

omit [DecidableEq α] in
theorem mem_tdel (t : Tab α) (k : Nat) (e : Nat × α) (h : e ∈ tdel t k) : e ∈ t := by
  induction t with
  | nil => simp [tdel] at h
  | cons a t ih =>
    obtain ⟨i, w⟩ := a
    simp only [tdel] at h
    split at h
    · exact List.mem_cons_of_mem _ (ih h)
    · rcases List.mem_cons.1 h with rfl | h
      · simp
      · exact List.mem_cons_of_mem _ (ih h)

omit [DecidableEq α] in
theorem tsorted_tdel (t : Tab α) (k : Nat) (h : tsorted t = true) : tsorted (tdel t k) = true := by
  induction t with
  | nil => rfl
  | cons a t ih =>
    obtain ⟨i, w⟩ := a
    have hs := (tsorted_cons i w t).1 h
    simp only [tdel]
    split
    · exact ih hs.2
    · exact (tsorted_cons i w _).2 ⟨fun e he => hs.1 e (mem_tdel t k e he), ih hs.2⟩

/-- A write keeps a value table in its canonical form. -/
theorem twf_tset (d : α) (t : Tab α) (k : Nat) (v : α) (h : twf d t = true) : twf d (tset d t k v) = true := by
  simp only [twf, Bool.and_eq_true, List.all_eq_true, ne_eq, decide_not, Bool.not_eq_eq_eq_not, Bool.not_true,
    decide_eq_false_iff_not] at h ⊢
  unfold tset
  split
  · exact ⟨tsorted_tdel t k h.1, fun e he => h.2 e (mem_tdel t k e he)⟩
  · rename_i hv
    refine ⟨tsorted_tput t k v h.1, ?_⟩
    intro e he
    rcases mem_tput t k v e he with rfl | he
    · exact hv
    · exact h.2 e he

omit [DecidableEq α] in
theorem tsorted_filter (t : Tab α) (p : Nat × α → Bool) (h : tsorted t = true) : tsorted (t.filter p) = true := by
  induction t with
  | nil => rfl
  | cons a t ih =>
    obtain ⟨i, w⟩ := a
    have hs := (tsorted_cons i w t).1 h
    simp only [List.filter_cons]
    split
    · exact (tsorted_cons i w _).2 ⟨fun e he => hs.1 e (List.mem_filter.1 he).1, ih hs.2⟩
    · exact ih hs.2

/-- Dropping entries keeps a value table in its canonical form. -/
theorem twf_filter (d : α) (t : Tab α) (p : Nat × α → Bool) (h : twf d t = true) : twf d (t.filter p) = true := by
  simp only [twf, Bool.and_eq_true, List.all_eq_true] at h ⊢
  exact ⟨tsorted_filter t p h.1, fun e he => h.2 e (List.mem_filter.1 he).1⟩

end Sys2Proof.Machine
end

