-- ==== Sys2Proof/Laws/State.lean ====
section
/-!
SUPPORT. The fields that each update of the state leaves alone, one lemma per field per update, and what an update of a core,
a leaf, a sheet or a tag is read back as.
-/
namespace Sys2Proof.Machine

@[simp] theorem setCore_ticks (s : State) (c : Nat) (k : Core) : (setCore s c k).ticks = s.ticks := rfl
@[simp] theorem setCore_agenda (s : State) (c : Nat) (k : Core) : (setCore s c k).agenda = s.agenda := rfl
@[simp] theorem setCore_work (s : State) (c : Nat) (k : Core) : (setCore s c k).work = s.work := rfl
@[simp] theorem setCore_cur (s : State) (c : Nat) (k : Core) : (setCore s c k).cur = s.cur := rfl
@[simp] theorem setCore_couple (s : State) (c : Nat) (k : Core) : (setCore s c k).couple = s.couple := rfl
@[simp] theorem setCore_free (s : State) (c : Nat) (k : Core) : (setCore s c k).free = s.free := rfl
@[simp] theorem setCore_nextId (s : State) (c : Nat) (k : Core) : (setCore s c k).nextId = s.nextId := rfl
@[simp] theorem setCore_mem (s : State) (c : Nat) (k : Core) : (setCore s c k).mem = s.mem := rfl
@[simp] theorem setCore_poison (s : State) (c : Nat) (k : Core) : (setCore s c k).poison = s.poison := rfl
@[simp] theorem setCore_flagged (s : State) (c : Nat) (k : Core) : (setCore s c k).flagged = s.flagged := rfl
@[simp] theorem setCore_mixed (s : State) (c : Nat) (k : Core) : (setCore s c k).mixed = s.mixed := rfl
@[simp] theorem setCore_clusters (s : State) (c : Nat) (k : Core) : (setCore s c k).clusters = s.clusters := rfl
@[simp] theorem setCore_dies (s : State) (c : Nat) (k : Core) : (setCore s c k).dies = s.dies := rfl
@[simp] theorem setCore_routers (s : State) (c : Nat) (k : Core) : (setCore s c k).routers = s.routers := rfl
@[simp] theorem setCore_msgs (s : State) (c : Nat) (k : Core) : (setCore s c k).msgs = s.msgs := rfl
@[simp] theorem setCore_unpicks (s : State) (c : Nat) (k : Core) : (setCore s c k).unpicks = s.unpicks := rfl
@[simp] theorem setCore_homeTx (s : State) (c : Nat) (k : Core) : (setCore s c k).homeTx = s.homeTx := rfl
@[simp] theorem setCore_accs (s : State) (c : Nat) (k : Core) : (setCore s c k).accs = s.accs := rfl
@[simp] theorem setCore_owed (s : State) (c : Nat) (k : Core) : (setCore s c k).owed = s.owed := rfl
@[simp] theorem setCore_regs (s : State) (c : Nat) (k : Core) : (setCore s c k).regs = s.regs := rfl
@[simp] theorem setCore_ctxs (s : State) (c : Nat) (k : Core) : (setCore s c k).ctxs = s.ctxs := rfl
@[simp] theorem setCore_launches (s : State) (c : Nat) (k : Core) : (setCore s c k).launches = s.launches := rfl
@[simp] theorem setCore_asyncs (s : State) (c : Nat) (k : Core) : (setCore s c k).asyncs = s.asyncs := rfl
@[simp] theorem setCore_gather (s : State) (c : Nat) (k : Core) : (setCore s c k).gather = s.gather := rfl
@[simp] theorem setCore_tokenWait (s : State) (c : Nat) (k : Core) : (setCore s c k).tokenWait = s.tokenWait := rfl
@[simp] theorem setCore_tokenBar (s : State) (c : Nat) (k : Core) : (setCore s c k).tokenBar = s.tokenBar := rfl
@[simp] theorem setCore_sensors (s : State) (c : Nat) (k : Core) : (setCore s c k).sensors = s.sensors := rfl
@[simp] theorem setCore_thermalStop (s : State) (c : Nat) (k : Core) : (setCore s c k).thermalStop = s.thermalStop := rfl
@[simp] theorem setCore_intervalStart (s : State) (c : Nat) (k : Core) : (setCore s c k).intervalStart = s.intervalStart := rfl
@[simp] theorem setCore_fns (s : State) (c : Nat) (k : Core) : (setCore s c k).fns = s.fns := rfl
@[simp] theorem setCore_atomicOpEnable (s : State) (c : Nat) (k : Core) : (setCore s c k).atomicOpEnable = s.atomicOpEnable := rfl
@[simp] theorem setCore_ports (s : State) (c : Nat) (k : Core) : (setCore s c k).ports = s.ports := rfl
@[simp] theorem setCore_emsen (s : State) (c : Nat) (k : Core) : (setCore s c k).emsen = s.emsen := rfl
@[simp] theorem setCore_emsenOut (s : State) (c : Nat) (k : Core) : (setCore s c k).emsenOut = s.emsenOut := rfl
@[simp] theorem setCore_fabIn (s : State) (c : Nat) (k : Core) : (setCore s c k).fabIn = s.fabIn := rfl
@[simp] theorem setCore_hostOut (s : State) (c : Nat) (k : Core) : (setCore s c k).hostOut = s.hostOut := rfl
@[simp] theorem setCore_tiles (s : State) (c : Nat) (k : Core) : (setCore s c k).tiles = s.tiles := rfl
@[simp] theorem setCore_bootClear (s : State) (c : Nat) (k : Core) : (setCore s c k).bootClear = s.bootClear := rfl
@[simp] theorem setCore_images (s : State) (c : Nat) (k : Core) : (setCore s c k).images = s.images := rfl
@[simp] theorem setCore_stopped (s : State) (c : Nat) (k : Core) : (setCore s c k).stopped = s.stopped := rfl

@[simp] theorem setCluster_ticks (s : State) (c : Nat) (k : Cluster) : (setCluster s c k).ticks = s.ticks := rfl
@[simp] theorem setCluster_agenda (s : State) (c : Nat) (k : Cluster) : (setCluster s c k).agenda = s.agenda := rfl
@[simp] theorem setCluster_work (s : State) (c : Nat) (k : Cluster) : (setCluster s c k).work = s.work := rfl
@[simp] theorem setCluster_cur (s : State) (c : Nat) (k : Cluster) : (setCluster s c k).cur = s.cur := rfl
@[simp] theorem setCluster_couple (s : State) (c : Nat) (k : Cluster) : (setCluster s c k).couple = s.couple := rfl
@[simp] theorem setCluster_free (s : State) (c : Nat) (k : Cluster) : (setCluster s c k).free = s.free := rfl
@[simp] theorem setCluster_nextId (s : State) (c : Nat) (k : Cluster) : (setCluster s c k).nextId = s.nextId := rfl
@[simp] theorem setCluster_mem (s : State) (c : Nat) (k : Cluster) : (setCluster s c k).mem = s.mem := rfl
@[simp] theorem setCluster_poison (s : State) (c : Nat) (k : Cluster) : (setCluster s c k).poison = s.poison := rfl
@[simp] theorem setCluster_flagged (s : State) (c : Nat) (k : Cluster) : (setCluster s c k).flagged = s.flagged := rfl
@[simp] theorem setCluster_mixed (s : State) (c : Nat) (k : Cluster) : (setCluster s c k).mixed = s.mixed := rfl
@[simp] theorem setCluster_cores (s : State) (c : Nat) (k : Cluster) : (setCluster s c k).cores = s.cores := rfl
@[simp] theorem setCluster_dies (s : State) (c : Nat) (k : Cluster) : (setCluster s c k).dies = s.dies := rfl
@[simp] theorem setCluster_routers (s : State) (c : Nat) (k : Cluster) : (setCluster s c k).routers = s.routers := rfl
@[simp] theorem setCluster_msgs (s : State) (c : Nat) (k : Cluster) : (setCluster s c k).msgs = s.msgs := rfl
@[simp] theorem setCluster_unpicks (s : State) (c : Nat) (k : Cluster) : (setCluster s c k).unpicks = s.unpicks := rfl
@[simp] theorem setCluster_homeTx (s : State) (c : Nat) (k : Cluster) : (setCluster s c k).homeTx = s.homeTx := rfl
@[simp] theorem setCluster_accs (s : State) (c : Nat) (k : Cluster) : (setCluster s c k).accs = s.accs := rfl
@[simp] theorem setCluster_owed (s : State) (c : Nat) (k : Cluster) : (setCluster s c k).owed = s.owed := rfl
@[simp] theorem setCluster_regs (s : State) (c : Nat) (k : Cluster) : (setCluster s c k).regs = s.regs := rfl
@[simp] theorem setCluster_ctxs (s : State) (c : Nat) (k : Cluster) : (setCluster s c k).ctxs = s.ctxs := rfl
@[simp] theorem setCluster_launches (s : State) (c : Nat) (k : Cluster) : (setCluster s c k).launches = s.launches := rfl
@[simp] theorem setCluster_asyncs (s : State) (c : Nat) (k : Cluster) : (setCluster s c k).asyncs = s.asyncs := rfl
@[simp] theorem setCluster_gather (s : State) (c : Nat) (k : Cluster) : (setCluster s c k).gather = s.gather := rfl
@[simp] theorem setCluster_tokenWait (s : State) (c : Nat) (k : Cluster) : (setCluster s c k).tokenWait = s.tokenWait := rfl
@[simp] theorem setCluster_tokenBar (s : State) (c : Nat) (k : Cluster) : (setCluster s c k).tokenBar = s.tokenBar := rfl
@[simp] theorem setCluster_sensors (s : State) (c : Nat) (k : Cluster) : (setCluster s c k).sensors = s.sensors := rfl
@[simp] theorem setCluster_thermalStop (s : State) (c : Nat) (k : Cluster) : (setCluster s c k).thermalStop = s.thermalStop := rfl
@[simp] theorem setCluster_intervalStart (s : State) (c : Nat) (k : Cluster) : (setCluster s c k).intervalStart = s.intervalStart := rfl
@[simp] theorem setCluster_fns (s : State) (c : Nat) (k : Cluster) : (setCluster s c k).fns = s.fns := rfl
@[simp] theorem setCluster_atomicOpEnable (s : State) (c : Nat) (k : Cluster) : (setCluster s c k).atomicOpEnable = s.atomicOpEnable := rfl
@[simp] theorem setCluster_ports (s : State) (c : Nat) (k : Cluster) : (setCluster s c k).ports = s.ports := rfl
@[simp] theorem setCluster_emsen (s : State) (c : Nat) (k : Cluster) : (setCluster s c k).emsen = s.emsen := rfl
@[simp] theorem setCluster_emsenOut (s : State) (c : Nat) (k : Cluster) : (setCluster s c k).emsenOut = s.emsenOut := rfl
@[simp] theorem setCluster_fabIn (s : State) (c : Nat) (k : Cluster) : (setCluster s c k).fabIn = s.fabIn := rfl
@[simp] theorem setCluster_hostOut (s : State) (c : Nat) (k : Cluster) : (setCluster s c k).hostOut = s.hostOut := rfl
@[simp] theorem setCluster_tiles (s : State) (c : Nat) (k : Cluster) : (setCluster s c k).tiles = s.tiles := rfl
@[simp] theorem setCluster_bootClear (s : State) (c : Nat) (k : Cluster) : (setCluster s c k).bootClear = s.bootClear := rfl
@[simp] theorem setCluster_images (s : State) (c : Nat) (k : Cluster) : (setCluster s c k).images = s.images := rfl
@[simp] theorem setCluster_stopped (s : State) (c : Nat) (k : Cluster) : (setCluster s c k).stopped = s.stopped := rfl

@[simp] theorem setLeaf_ticks (s : State) (c e : Nat) (l : Leaf) : (setLeaf s c e l).ticks = s.ticks := rfl
@[simp] theorem setLeaf_agenda (s : State) (c e : Nat) (l : Leaf) : (setLeaf s c e l).agenda = s.agenda := rfl
@[simp] theorem setLeaf_work (s : State) (c e : Nat) (l : Leaf) : (setLeaf s c e l).work = s.work := rfl
@[simp] theorem setLeaf_cur (s : State) (c e : Nat) (l : Leaf) : (setLeaf s c e l).cur = s.cur := rfl
@[simp] theorem setLeaf_couple (s : State) (c e : Nat) (l : Leaf) : (setLeaf s c e l).couple = s.couple := rfl
@[simp] theorem setLeaf_free (s : State) (c e : Nat) (l : Leaf) : (setLeaf s c e l).free = s.free := rfl
@[simp] theorem setLeaf_nextId (s : State) (c e : Nat) (l : Leaf) : (setLeaf s c e l).nextId = s.nextId := rfl
@[simp] theorem setLeaf_mem (s : State) (c e : Nat) (l : Leaf) : (setLeaf s c e l).mem = s.mem := rfl
@[simp] theorem setLeaf_poison (s : State) (c e : Nat) (l : Leaf) : (setLeaf s c e l).poison = s.poison := rfl
@[simp] theorem setLeaf_flagged (s : State) (c e : Nat) (l : Leaf) : (setLeaf s c e l).flagged = s.flagged := rfl
@[simp] theorem setLeaf_mixed (s : State) (c e : Nat) (l : Leaf) : (setLeaf s c e l).mixed = s.mixed := rfl
@[simp] theorem setLeaf_clusters (s : State) (c e : Nat) (l : Leaf) : (setLeaf s c e l).clusters = s.clusters := rfl
@[simp] theorem setLeaf_dies (s : State) (c e : Nat) (l : Leaf) : (setLeaf s c e l).dies = s.dies := rfl
@[simp] theorem setLeaf_routers (s : State) (c e : Nat) (l : Leaf) : (setLeaf s c e l).routers = s.routers := rfl
@[simp] theorem setLeaf_msgs (s : State) (c e : Nat) (l : Leaf) : (setLeaf s c e l).msgs = s.msgs := rfl
@[simp] theorem setLeaf_unpicks (s : State) (c e : Nat) (l : Leaf) : (setLeaf s c e l).unpicks = s.unpicks := rfl
@[simp] theorem setLeaf_homeTx (s : State) (c e : Nat) (l : Leaf) : (setLeaf s c e l).homeTx = s.homeTx := rfl
@[simp] theorem setLeaf_accs (s : State) (c e : Nat) (l : Leaf) : (setLeaf s c e l).accs = s.accs := rfl
@[simp] theorem setLeaf_owed (s : State) (c e : Nat) (l : Leaf) : (setLeaf s c e l).owed = s.owed := rfl
@[simp] theorem setLeaf_regs (s : State) (c e : Nat) (l : Leaf) : (setLeaf s c e l).regs = s.regs := rfl
@[simp] theorem setLeaf_ctxs (s : State) (c e : Nat) (l : Leaf) : (setLeaf s c e l).ctxs = s.ctxs := rfl
@[simp] theorem setLeaf_launches (s : State) (c e : Nat) (l : Leaf) : (setLeaf s c e l).launches = s.launches := rfl
@[simp] theorem setLeaf_asyncs (s : State) (c e : Nat) (l : Leaf) : (setLeaf s c e l).asyncs = s.asyncs := rfl
@[simp] theorem setLeaf_gather (s : State) (c e : Nat) (l : Leaf) : (setLeaf s c e l).gather = s.gather := rfl
@[simp] theorem setLeaf_tokenWait (s : State) (c e : Nat) (l : Leaf) : (setLeaf s c e l).tokenWait = s.tokenWait := rfl
@[simp] theorem setLeaf_tokenBar (s : State) (c e : Nat) (l : Leaf) : (setLeaf s c e l).tokenBar = s.tokenBar := rfl
@[simp] theorem setLeaf_sensors (s : State) (c e : Nat) (l : Leaf) : (setLeaf s c e l).sensors = s.sensors := rfl
@[simp] theorem setLeaf_thermalStop (s : State) (c e : Nat) (l : Leaf) : (setLeaf s c e l).thermalStop = s.thermalStop := rfl
@[simp] theorem setLeaf_intervalStart (s : State) (c e : Nat) (l : Leaf) : (setLeaf s c e l).intervalStart = s.intervalStart := rfl
@[simp] theorem setLeaf_fns (s : State) (c e : Nat) (l : Leaf) : (setLeaf s c e l).fns = s.fns := rfl
@[simp] theorem setLeaf_atomicOpEnable (s : State) (c e : Nat) (l : Leaf) : (setLeaf s c e l).atomicOpEnable = s.atomicOpEnable := rfl
@[simp] theorem setLeaf_ports (s : State) (c e : Nat) (l : Leaf) : (setLeaf s c e l).ports = s.ports := rfl
@[simp] theorem setLeaf_emsen (s : State) (c e : Nat) (l : Leaf) : (setLeaf s c e l).emsen = s.emsen := rfl
@[simp] theorem setLeaf_emsenOut (s : State) (c e : Nat) (l : Leaf) : (setLeaf s c e l).emsenOut = s.emsenOut := rfl
@[simp] theorem setLeaf_fabIn (s : State) (c e : Nat) (l : Leaf) : (setLeaf s c e l).fabIn = s.fabIn := rfl
@[simp] theorem setLeaf_hostOut (s : State) (c e : Nat) (l : Leaf) : (setLeaf s c e l).hostOut = s.hostOut := rfl
@[simp] theorem setLeaf_tiles (s : State) (c e : Nat) (l : Leaf) : (setLeaf s c e l).tiles = s.tiles := rfl
@[simp] theorem setLeaf_bootClear (s : State) (c e : Nat) (l : Leaf) : (setLeaf s c e l).bootClear = s.bootClear := rfl
@[simp] theorem setLeaf_images (s : State) (c e : Nat) (l : Leaf) : (setLeaf s c e l).images = s.images := rfl
@[simp] theorem setLeaf_stopped (s : State) (c e : Nat) (l : Leaf) : (setLeaf s c e l).stopped = s.stopped := rfl

@[simp] theorem setSheet_ticks (s : State) (c i : Nat) (h : Sheet) : (setSheet s c i h).ticks = s.ticks := rfl
@[simp] theorem setSheet_agenda (s : State) (c i : Nat) (h : Sheet) : (setSheet s c i h).agenda = s.agenda := rfl
@[simp] theorem setSheet_work (s : State) (c i : Nat) (h : Sheet) : (setSheet s c i h).work = s.work := rfl
@[simp] theorem setSheet_cur (s : State) (c i : Nat) (h : Sheet) : (setSheet s c i h).cur = s.cur := rfl
@[simp] theorem setSheet_couple (s : State) (c i : Nat) (h : Sheet) : (setSheet s c i h).couple = s.couple := rfl
@[simp] theorem setSheet_free (s : State) (c i : Nat) (h : Sheet) : (setSheet s c i h).free = s.free := rfl
@[simp] theorem setSheet_nextId (s : State) (c i : Nat) (h : Sheet) : (setSheet s c i h).nextId = s.nextId := rfl
@[simp] theorem setSheet_mem (s : State) (c i : Nat) (h : Sheet) : (setSheet s c i h).mem = s.mem := rfl
@[simp] theorem setSheet_poison (s : State) (c i : Nat) (h : Sheet) : (setSheet s c i h).poison = s.poison := rfl
@[simp] theorem setSheet_flagged (s : State) (c i : Nat) (h : Sheet) : (setSheet s c i h).flagged = s.flagged := rfl
@[simp] theorem setSheet_mixed (s : State) (c i : Nat) (h : Sheet) : (setSheet s c i h).mixed = s.mixed := rfl
@[simp] theorem setSheet_clusters (s : State) (c i : Nat) (h : Sheet) : (setSheet s c i h).clusters = s.clusters := rfl
@[simp] theorem setSheet_dies (s : State) (c i : Nat) (h : Sheet) : (setSheet s c i h).dies = s.dies := rfl
@[simp] theorem setSheet_routers (s : State) (c i : Nat) (h : Sheet) : (setSheet s c i h).routers = s.routers := rfl
@[simp] theorem setSheet_msgs (s : State) (c i : Nat) (h : Sheet) : (setSheet s c i h).msgs = s.msgs := rfl
@[simp] theorem setSheet_unpicks (s : State) (c i : Nat) (h : Sheet) : (setSheet s c i h).unpicks = s.unpicks := rfl
@[simp] theorem setSheet_homeTx (s : State) (c i : Nat) (h : Sheet) : (setSheet s c i h).homeTx = s.homeTx := rfl
@[simp] theorem setSheet_accs (s : State) (c i : Nat) (h : Sheet) : (setSheet s c i h).accs = s.accs := rfl
@[simp] theorem setSheet_owed (s : State) (c i : Nat) (h : Sheet) : (setSheet s c i h).owed = s.owed := rfl
@[simp] theorem setSheet_regs (s : State) (c i : Nat) (h : Sheet) : (setSheet s c i h).regs = s.regs := rfl
@[simp] theorem setSheet_ctxs (s : State) (c i : Nat) (h : Sheet) : (setSheet s c i h).ctxs = s.ctxs := rfl
@[simp] theorem setSheet_launches (s : State) (c i : Nat) (h : Sheet) : (setSheet s c i h).launches = s.launches := rfl
@[simp] theorem setSheet_asyncs (s : State) (c i : Nat) (h : Sheet) : (setSheet s c i h).asyncs = s.asyncs := rfl
@[simp] theorem setSheet_gather (s : State) (c i : Nat) (h : Sheet) : (setSheet s c i h).gather = s.gather := rfl
@[simp] theorem setSheet_tokenWait (s : State) (c i : Nat) (h : Sheet) : (setSheet s c i h).tokenWait = s.tokenWait := rfl
@[simp] theorem setSheet_tokenBar (s : State) (c i : Nat) (h : Sheet) : (setSheet s c i h).tokenBar = s.tokenBar := rfl
@[simp] theorem setSheet_sensors (s : State) (c i : Nat) (h : Sheet) : (setSheet s c i h).sensors = s.sensors := rfl
@[simp] theorem setSheet_thermalStop (s : State) (c i : Nat) (h : Sheet) : (setSheet s c i h).thermalStop = s.thermalStop := rfl
@[simp] theorem setSheet_intervalStart (s : State) (c i : Nat) (h : Sheet) : (setSheet s c i h).intervalStart = s.intervalStart := rfl
@[simp] theorem setSheet_fns (s : State) (c i : Nat) (h : Sheet) : (setSheet s c i h).fns = s.fns := rfl
@[simp] theorem setSheet_atomicOpEnable (s : State) (c i : Nat) (h : Sheet) : (setSheet s c i h).atomicOpEnable = s.atomicOpEnable := rfl
@[simp] theorem setSheet_ports (s : State) (c i : Nat) (h : Sheet) : (setSheet s c i h).ports = s.ports := rfl
@[simp] theorem setSheet_emsen (s : State) (c i : Nat) (h : Sheet) : (setSheet s c i h).emsen = s.emsen := rfl
@[simp] theorem setSheet_emsenOut (s : State) (c i : Nat) (h : Sheet) : (setSheet s c i h).emsenOut = s.emsenOut := rfl
@[simp] theorem setSheet_fabIn (s : State) (c i : Nat) (h : Sheet) : (setSheet s c i h).fabIn = s.fabIn := rfl
@[simp] theorem setSheet_hostOut (s : State) (c i : Nat) (h : Sheet) : (setSheet s c i h).hostOut = s.hostOut := rfl
@[simp] theorem setSheet_tiles (s : State) (c i : Nat) (h : Sheet) : (setSheet s c i h).tiles = s.tiles := rfl
@[simp] theorem setSheet_bootClear (s : State) (c i : Nat) (h : Sheet) : (setSheet s c i h).bootClear = s.bootClear := rfl
@[simp] theorem setSheet_images (s : State) (c i : Nat) (h : Sheet) : (setSheet s c i h).images = s.images := rfl
@[simp] theorem setSheet_stopped (s : State) (c i : Nat) (h : Sheet) : (setSheet s c i h).stopped = s.stopped := rfl

@[simp] theorem setTag_ticks (s : State) (c n : Nat) (t : Tag) : (setTag s c n t).ticks = s.ticks := rfl
@[simp] theorem setTag_agenda (s : State) (c n : Nat) (t : Tag) : (setTag s c n t).agenda = s.agenda := rfl
@[simp] theorem setTag_work (s : State) (c n : Nat) (t : Tag) : (setTag s c n t).work = s.work := rfl
@[simp] theorem setTag_cur (s : State) (c n : Nat) (t : Tag) : (setTag s c n t).cur = s.cur := rfl
@[simp] theorem setTag_couple (s : State) (c n : Nat) (t : Tag) : (setTag s c n t).couple = s.couple := rfl
@[simp] theorem setTag_free (s : State) (c n : Nat) (t : Tag) : (setTag s c n t).free = s.free := rfl
@[simp] theorem setTag_nextId (s : State) (c n : Nat) (t : Tag) : (setTag s c n t).nextId = s.nextId := rfl
@[simp] theorem setTag_mem (s : State) (c n : Nat) (t : Tag) : (setTag s c n t).mem = s.mem := rfl
@[simp] theorem setTag_poison (s : State) (c n : Nat) (t : Tag) : (setTag s c n t).poison = s.poison := rfl
@[simp] theorem setTag_flagged (s : State) (c n : Nat) (t : Tag) : (setTag s c n t).flagged = s.flagged := rfl
@[simp] theorem setTag_mixed (s : State) (c n : Nat) (t : Tag) : (setTag s c n t).mixed = s.mixed := rfl
@[simp] theorem setTag_clusters (s : State) (c n : Nat) (t : Tag) : (setTag s c n t).clusters = s.clusters := rfl
@[simp] theorem setTag_dies (s : State) (c n : Nat) (t : Tag) : (setTag s c n t).dies = s.dies := rfl
@[simp] theorem setTag_routers (s : State) (c n : Nat) (t : Tag) : (setTag s c n t).routers = s.routers := rfl
@[simp] theorem setTag_msgs (s : State) (c n : Nat) (t : Tag) : (setTag s c n t).msgs = s.msgs := rfl
@[simp] theorem setTag_unpicks (s : State) (c n : Nat) (t : Tag) : (setTag s c n t).unpicks = s.unpicks := rfl
@[simp] theorem setTag_homeTx (s : State) (c n : Nat) (t : Tag) : (setTag s c n t).homeTx = s.homeTx := rfl
@[simp] theorem setTag_accs (s : State) (c n : Nat) (t : Tag) : (setTag s c n t).accs = s.accs := rfl
@[simp] theorem setTag_owed (s : State) (c n : Nat) (t : Tag) : (setTag s c n t).owed = s.owed := rfl
@[simp] theorem setTag_regs (s : State) (c n : Nat) (t : Tag) : (setTag s c n t).regs = s.regs := rfl
@[simp] theorem setTag_ctxs (s : State) (c n : Nat) (t : Tag) : (setTag s c n t).ctxs = s.ctxs := rfl
@[simp] theorem setTag_launches (s : State) (c n : Nat) (t : Tag) : (setTag s c n t).launches = s.launches := rfl
@[simp] theorem setTag_asyncs (s : State) (c n : Nat) (t : Tag) : (setTag s c n t).asyncs = s.asyncs := rfl
@[simp] theorem setTag_gather (s : State) (c n : Nat) (t : Tag) : (setTag s c n t).gather = s.gather := rfl
@[simp] theorem setTag_tokenWait (s : State) (c n : Nat) (t : Tag) : (setTag s c n t).tokenWait = s.tokenWait := rfl
@[simp] theorem setTag_tokenBar (s : State) (c n : Nat) (t : Tag) : (setTag s c n t).tokenBar = s.tokenBar := rfl
@[simp] theorem setTag_sensors (s : State) (c n : Nat) (t : Tag) : (setTag s c n t).sensors = s.sensors := rfl
@[simp] theorem setTag_thermalStop (s : State) (c n : Nat) (t : Tag) : (setTag s c n t).thermalStop = s.thermalStop := rfl
@[simp] theorem setTag_intervalStart (s : State) (c n : Nat) (t : Tag) : (setTag s c n t).intervalStart = s.intervalStart := rfl
@[simp] theorem setTag_fns (s : State) (c n : Nat) (t : Tag) : (setTag s c n t).fns = s.fns := rfl
@[simp] theorem setTag_atomicOpEnable (s : State) (c n : Nat) (t : Tag) : (setTag s c n t).atomicOpEnable = s.atomicOpEnable := rfl
@[simp] theorem setTag_ports (s : State) (c n : Nat) (t : Tag) : (setTag s c n t).ports = s.ports := rfl
@[simp] theorem setTag_emsen (s : State) (c n : Nat) (t : Tag) : (setTag s c n t).emsen = s.emsen := rfl
@[simp] theorem setTag_emsenOut (s : State) (c n : Nat) (t : Tag) : (setTag s c n t).emsenOut = s.emsenOut := rfl
@[simp] theorem setTag_fabIn (s : State) (c n : Nat) (t : Tag) : (setTag s c n t).fabIn = s.fabIn := rfl
@[simp] theorem setTag_hostOut (s : State) (c n : Nat) (t : Tag) : (setTag s c n t).hostOut = s.hostOut := rfl
@[simp] theorem setTag_tiles (s : State) (c n : Nat) (t : Tag) : (setTag s c n t).tiles = s.tiles := rfl
@[simp] theorem setTag_bootClear (s : State) (c n : Nat) (t : Tag) : (setTag s c n t).bootClear = s.bootClear := rfl
@[simp] theorem setTag_images (s : State) (c n : Nat) (t : Tag) : (setTag s c n t).images = s.images := rfl
@[simp] theorem setTag_stopped (s : State) (c n : Nat) (t : Tag) : (setTag s c n t).stopped = s.stopped := rfl

@[simp] theorem putByte_ticks (s : State) (a : Nat) (b : Byte) : (putByte s a b).ticks = s.ticks := rfl
@[simp] theorem putByte_agenda (s : State) (a : Nat) (b : Byte) : (putByte s a b).agenda = s.agenda := rfl
@[simp] theorem putByte_work (s : State) (a : Nat) (b : Byte) : (putByte s a b).work = s.work := rfl
@[simp] theorem putByte_cur (s : State) (a : Nat) (b : Byte) : (putByte s a b).cur = s.cur := rfl
@[simp] theorem putByte_couple (s : State) (a : Nat) (b : Byte) : (putByte s a b).couple = s.couple := rfl
@[simp] theorem putByte_free (s : State) (a : Nat) (b : Byte) : (putByte s a b).free = s.free := rfl
@[simp] theorem putByte_nextId (s : State) (a : Nat) (b : Byte) : (putByte s a b).nextId = s.nextId := rfl
@[simp] theorem putByte_poison (s : State) (a : Nat) (b : Byte) : (putByte s a b).poison = s.poison := rfl
@[simp] theorem putByte_flagged (s : State) (a : Nat) (b : Byte) : (putByte s a b).flagged = s.flagged := rfl
@[simp] theorem putByte_mixed (s : State) (a : Nat) (b : Byte) : (putByte s a b).mixed = s.mixed := rfl
@[simp] theorem putByte_cores (s : State) (a : Nat) (b : Byte) : (putByte s a b).cores = s.cores := rfl
@[simp] theorem putByte_clusters (s : State) (a : Nat) (b : Byte) : (putByte s a b).clusters = s.clusters := rfl
@[simp] theorem putByte_dies (s : State) (a : Nat) (b : Byte) : (putByte s a b).dies = s.dies := rfl
@[simp] theorem putByte_routers (s : State) (a : Nat) (b : Byte) : (putByte s a b).routers = s.routers := rfl
@[simp] theorem putByte_msgs (s : State) (a : Nat) (b : Byte) : (putByte s a b).msgs = s.msgs := rfl
@[simp] theorem putByte_unpicks (s : State) (a : Nat) (b : Byte) : (putByte s a b).unpicks = s.unpicks := rfl
@[simp] theorem putByte_homeTx (s : State) (a : Nat) (b : Byte) : (putByte s a b).homeTx = s.homeTx := rfl
@[simp] theorem putByte_accs (s : State) (a : Nat) (b : Byte) : (putByte s a b).accs = s.accs := rfl
@[simp] theorem putByte_owed (s : State) (a : Nat) (b : Byte) : (putByte s a b).owed = s.owed := rfl
@[simp] theorem putByte_regs (s : State) (a : Nat) (b : Byte) : (putByte s a b).regs = s.regs := rfl
@[simp] theorem putByte_ctxs (s : State) (a : Nat) (b : Byte) : (putByte s a b).ctxs = s.ctxs := rfl
@[simp] theorem putByte_launches (s : State) (a : Nat) (b : Byte) : (putByte s a b).launches = s.launches := rfl
@[simp] theorem putByte_asyncs (s : State) (a : Nat) (b : Byte) : (putByte s a b).asyncs = s.asyncs := rfl
@[simp] theorem putByte_gather (s : State) (a : Nat) (b : Byte) : (putByte s a b).gather = s.gather := rfl
@[simp] theorem putByte_tokenWait (s : State) (a : Nat) (b : Byte) : (putByte s a b).tokenWait = s.tokenWait := rfl
@[simp] theorem putByte_tokenBar (s : State) (a : Nat) (b : Byte) : (putByte s a b).tokenBar = s.tokenBar := rfl
@[simp] theorem putByte_sensors (s : State) (a : Nat) (b : Byte) : (putByte s a b).sensors = s.sensors := rfl
@[simp] theorem putByte_thermalStop (s : State) (a : Nat) (b : Byte) : (putByte s a b).thermalStop = s.thermalStop := rfl
@[simp] theorem putByte_intervalStart (s : State) (a : Nat) (b : Byte) : (putByte s a b).intervalStart = s.intervalStart := rfl
@[simp] theorem putByte_fns (s : State) (a : Nat) (b : Byte) : (putByte s a b).fns = s.fns := rfl
@[simp] theorem putByte_atomicOpEnable (s : State) (a : Nat) (b : Byte) : (putByte s a b).atomicOpEnable = s.atomicOpEnable := rfl
@[simp] theorem putByte_ports (s : State) (a : Nat) (b : Byte) : (putByte s a b).ports = s.ports := rfl
@[simp] theorem putByte_emsen (s : State) (a : Nat) (b : Byte) : (putByte s a b).emsen = s.emsen := rfl
@[simp] theorem putByte_emsenOut (s : State) (a : Nat) (b : Byte) : (putByte s a b).emsenOut = s.emsenOut := rfl
@[simp] theorem putByte_fabIn (s : State) (a : Nat) (b : Byte) : (putByte s a b).fabIn = s.fabIn := rfl
@[simp] theorem putByte_hostOut (s : State) (a : Nat) (b : Byte) : (putByte s a b).hostOut = s.hostOut := rfl
@[simp] theorem putByte_tiles (s : State) (a : Nat) (b : Byte) : (putByte s a b).tiles = s.tiles := rfl
@[simp] theorem putByte_bootClear (s : State) (a : Nat) (b : Byte) : (putByte s a b).bootClear = s.bootClear := rfl
@[simp] theorem putByte_images (s : State) (a : Nat) (b : Byte) : (putByte s a b).images = s.images := rfl
@[simp] theorem putByte_stopped (s : State) (a : Nat) (b : Byte) : (putByte s a b).stopped = s.stopped := rfl

@[simp] theorem postNow_ticks (s : State) (a : Agendum) : (postNow s a).ticks = s.ticks := rfl
@[simp] theorem postNow_work (s : State) (a : Agendum) : (postNow s a).work = s.work := rfl
@[simp] theorem postNow_cur (s : State) (a : Agendum) : (postNow s a).cur = s.cur := rfl
@[simp] theorem postNow_couple (s : State) (a : Agendum) : (postNow s a).couple = s.couple := rfl
@[simp] theorem postNow_free (s : State) (a : Agendum) : (postNow s a).free = s.free := rfl
@[simp] theorem postNow_nextId (s : State) (a : Agendum) : (postNow s a).nextId = s.nextId := rfl
@[simp] theorem postNow_mem (s : State) (a : Agendum) : (postNow s a).mem = s.mem := rfl
@[simp] theorem postNow_poison (s : State) (a : Agendum) : (postNow s a).poison = s.poison := rfl
@[simp] theorem postNow_flagged (s : State) (a : Agendum) : (postNow s a).flagged = s.flagged := rfl
@[simp] theorem postNow_mixed (s : State) (a : Agendum) : (postNow s a).mixed = s.mixed := rfl
@[simp] theorem postNow_cores (s : State) (a : Agendum) : (postNow s a).cores = s.cores := rfl
@[simp] theorem postNow_clusters (s : State) (a : Agendum) : (postNow s a).clusters = s.clusters := rfl
@[simp] theorem postNow_dies (s : State) (a : Agendum) : (postNow s a).dies = s.dies := rfl
@[simp] theorem postNow_routers (s : State) (a : Agendum) : (postNow s a).routers = s.routers := rfl
@[simp] theorem postNow_msgs (s : State) (a : Agendum) : (postNow s a).msgs = s.msgs := rfl
@[simp] theorem postNow_unpicks (s : State) (a : Agendum) : (postNow s a).unpicks = s.unpicks := rfl
@[simp] theorem postNow_homeTx (s : State) (a : Agendum) : (postNow s a).homeTx = s.homeTx := rfl
@[simp] theorem postNow_accs (s : State) (a : Agendum) : (postNow s a).accs = s.accs := rfl
@[simp] theorem postNow_owed (s : State) (a : Agendum) : (postNow s a).owed = s.owed := rfl
@[simp] theorem postNow_regs (s : State) (a : Agendum) : (postNow s a).regs = s.regs := rfl
@[simp] theorem postNow_ctxs (s : State) (a : Agendum) : (postNow s a).ctxs = s.ctxs := rfl
@[simp] theorem postNow_launches (s : State) (a : Agendum) : (postNow s a).launches = s.launches := rfl
@[simp] theorem postNow_asyncs (s : State) (a : Agendum) : (postNow s a).asyncs = s.asyncs := rfl
@[simp] theorem postNow_gather (s : State) (a : Agendum) : (postNow s a).gather = s.gather := rfl
@[simp] theorem postNow_tokenWait (s : State) (a : Agendum) : (postNow s a).tokenWait = s.tokenWait := rfl
@[simp] theorem postNow_tokenBar (s : State) (a : Agendum) : (postNow s a).tokenBar = s.tokenBar := rfl
@[simp] theorem postNow_sensors (s : State) (a : Agendum) : (postNow s a).sensors = s.sensors := rfl
@[simp] theorem postNow_thermalStop (s : State) (a : Agendum) : (postNow s a).thermalStop = s.thermalStop := rfl
@[simp] theorem postNow_intervalStart (s : State) (a : Agendum) : (postNow s a).intervalStart = s.intervalStart := rfl
@[simp] theorem postNow_fns (s : State) (a : Agendum) : (postNow s a).fns = s.fns := rfl
@[simp] theorem postNow_atomicOpEnable (s : State) (a : Agendum) : (postNow s a).atomicOpEnable = s.atomicOpEnable := rfl
@[simp] theorem postNow_ports (s : State) (a : Agendum) : (postNow s a).ports = s.ports := rfl
@[simp] theorem postNow_emsen (s : State) (a : Agendum) : (postNow s a).emsen = s.emsen := rfl
@[simp] theorem postNow_emsenOut (s : State) (a : Agendum) : (postNow s a).emsenOut = s.emsenOut := rfl
@[simp] theorem postNow_fabIn (s : State) (a : Agendum) : (postNow s a).fabIn = s.fabIn := rfl
@[simp] theorem postNow_hostOut (s : State) (a : Agendum) : (postNow s a).hostOut = s.hostOut := rfl
@[simp] theorem postNow_tiles (s : State) (a : Agendum) : (postNow s a).tiles = s.tiles := rfl
@[simp] theorem postNow_bootClear (s : State) (a : Agendum) : (postNow s a).bootClear = s.bootClear := rfl
@[simp] theorem postNow_images (s : State) (a : Agendum) : (postNow s a).images = s.images := rfl
@[simp] theorem postNow_stopped (s : State) (a : Agendum) : (postNow s a).stopped = s.stopped := rfl

@[simp] theorem postWork_ticks (s : State) (i : Instr) : (postWork s i).ticks = s.ticks := rfl
@[simp] theorem postWork_agenda (s : State) (i : Instr) : (postWork s i).agenda = s.agenda := rfl
@[simp] theorem postWork_cur (s : State) (i : Instr) : (postWork s i).cur = s.cur := rfl
@[simp] theorem postWork_couple (s : State) (i : Instr) : (postWork s i).couple = s.couple := rfl
@[simp] theorem postWork_free (s : State) (i : Instr) : (postWork s i).free = s.free := rfl
@[simp] theorem postWork_nextId (s : State) (i : Instr) : (postWork s i).nextId = s.nextId := rfl
@[simp] theorem postWork_mem (s : State) (i : Instr) : (postWork s i).mem = s.mem := rfl
@[simp] theorem postWork_poison (s : State) (i : Instr) : (postWork s i).poison = s.poison := rfl
@[simp] theorem postWork_flagged (s : State) (i : Instr) : (postWork s i).flagged = s.flagged := rfl
@[simp] theorem postWork_mixed (s : State) (i : Instr) : (postWork s i).mixed = s.mixed := rfl
@[simp] theorem postWork_cores (s : State) (i : Instr) : (postWork s i).cores = s.cores := rfl
@[simp] theorem postWork_clusters (s : State) (i : Instr) : (postWork s i).clusters = s.clusters := rfl
@[simp] theorem postWork_dies (s : State) (i : Instr) : (postWork s i).dies = s.dies := rfl
@[simp] theorem postWork_routers (s : State) (i : Instr) : (postWork s i).routers = s.routers := rfl
@[simp] theorem postWork_msgs (s : State) (i : Instr) : (postWork s i).msgs = s.msgs := rfl
@[simp] theorem postWork_unpicks (s : State) (i : Instr) : (postWork s i).unpicks = s.unpicks := rfl
@[simp] theorem postWork_homeTx (s : State) (i : Instr) : (postWork s i).homeTx = s.homeTx := rfl
@[simp] theorem postWork_accs (s : State) (i : Instr) : (postWork s i).accs = s.accs := rfl
@[simp] theorem postWork_owed (s : State) (i : Instr) : (postWork s i).owed = s.owed := rfl
@[simp] theorem postWork_regs (s : State) (i : Instr) : (postWork s i).regs = s.regs := rfl
@[simp] theorem postWork_ctxs (s : State) (i : Instr) : (postWork s i).ctxs = s.ctxs := rfl
@[simp] theorem postWork_launches (s : State) (i : Instr) : (postWork s i).launches = s.launches := rfl
@[simp] theorem postWork_asyncs (s : State) (i : Instr) : (postWork s i).asyncs = s.asyncs := rfl
@[simp] theorem postWork_gather (s : State) (i : Instr) : (postWork s i).gather = s.gather := rfl
@[simp] theorem postWork_tokenWait (s : State) (i : Instr) : (postWork s i).tokenWait = s.tokenWait := rfl
@[simp] theorem postWork_tokenBar (s : State) (i : Instr) : (postWork s i).tokenBar = s.tokenBar := rfl
@[simp] theorem postWork_sensors (s : State) (i : Instr) : (postWork s i).sensors = s.sensors := rfl
@[simp] theorem postWork_thermalStop (s : State) (i : Instr) : (postWork s i).thermalStop = s.thermalStop := rfl
@[simp] theorem postWork_intervalStart (s : State) (i : Instr) : (postWork s i).intervalStart = s.intervalStart := rfl
@[simp] theorem postWork_fns (s : State) (i : Instr) : (postWork s i).fns = s.fns := rfl
@[simp] theorem postWork_atomicOpEnable (s : State) (i : Instr) : (postWork s i).atomicOpEnable = s.atomicOpEnable := rfl
@[simp] theorem postWork_ports (s : State) (i : Instr) : (postWork s i).ports = s.ports := rfl
@[simp] theorem postWork_emsen (s : State) (i : Instr) : (postWork s i).emsen = s.emsen := rfl
@[simp] theorem postWork_emsenOut (s : State) (i : Instr) : (postWork s i).emsenOut = s.emsenOut := rfl
@[simp] theorem postWork_fabIn (s : State) (i : Instr) : (postWork s i).fabIn = s.fabIn := rfl
@[simp] theorem postWork_hostOut (s : State) (i : Instr) : (postWork s i).hostOut = s.hostOut := rfl
@[simp] theorem postWork_tiles (s : State) (i : Instr) : (postWork s i).tiles = s.tiles := rfl
@[simp] theorem postWork_bootClear (s : State) (i : Instr) : (postWork s i).bootClear = s.bootClear := rfl
@[simp] theorem postWork_images (s : State) (i : Instr) : (postWork s i).images = s.images := rfl
@[simp] theorem postWork_stopped (s : State) (i : Instr) : (postWork s i).stopped = s.stopped := rfl

@[simp] theorem modLaunch_ticks (s : State) (ctx i : Nat) (f : Launch → Launch) : (modLaunch s ctx i f).ticks = s.ticks := rfl
@[simp] theorem modLaunch_agenda (s : State) (ctx i : Nat) (f : Launch → Launch) : (modLaunch s ctx i f).agenda = s.agenda := rfl
@[simp] theorem modLaunch_work (s : State) (ctx i : Nat) (f : Launch → Launch) : (modLaunch s ctx i f).work = s.work := rfl
@[simp] theorem modLaunch_cur (s : State) (ctx i : Nat) (f : Launch → Launch) : (modLaunch s ctx i f).cur = s.cur := rfl
@[simp] theorem modLaunch_couple (s : State) (ctx i : Nat) (f : Launch → Launch) : (modLaunch s ctx i f).couple = s.couple := rfl
@[simp] theorem modLaunch_free (s : State) (ctx i : Nat) (f : Launch → Launch) : (modLaunch s ctx i f).free = s.free := rfl
@[simp] theorem modLaunch_nextId (s : State) (ctx i : Nat) (f : Launch → Launch) : (modLaunch s ctx i f).nextId = s.nextId := rfl
@[simp] theorem modLaunch_mem (s : State) (ctx i : Nat) (f : Launch → Launch) : (modLaunch s ctx i f).mem = s.mem := rfl
@[simp] theorem modLaunch_poison (s : State) (ctx i : Nat) (f : Launch → Launch) : (modLaunch s ctx i f).poison = s.poison := rfl
@[simp] theorem modLaunch_flagged (s : State) (ctx i : Nat) (f : Launch → Launch) : (modLaunch s ctx i f).flagged = s.flagged := rfl
@[simp] theorem modLaunch_mixed (s : State) (ctx i : Nat) (f : Launch → Launch) : (modLaunch s ctx i f).mixed = s.mixed := rfl
@[simp] theorem modLaunch_cores (s : State) (ctx i : Nat) (f : Launch → Launch) : (modLaunch s ctx i f).cores = s.cores := rfl
@[simp] theorem modLaunch_clusters (s : State) (ctx i : Nat) (f : Launch → Launch) : (modLaunch s ctx i f).clusters = s.clusters := rfl
@[simp] theorem modLaunch_dies (s : State) (ctx i : Nat) (f : Launch → Launch) : (modLaunch s ctx i f).dies = s.dies := rfl
@[simp] theorem modLaunch_routers (s : State) (ctx i : Nat) (f : Launch → Launch) : (modLaunch s ctx i f).routers = s.routers := rfl
@[simp] theorem modLaunch_msgs (s : State) (ctx i : Nat) (f : Launch → Launch) : (modLaunch s ctx i f).msgs = s.msgs := rfl
@[simp] theorem modLaunch_unpicks (s : State) (ctx i : Nat) (f : Launch → Launch) : (modLaunch s ctx i f).unpicks = s.unpicks := rfl
@[simp] theorem modLaunch_homeTx (s : State) (ctx i : Nat) (f : Launch → Launch) : (modLaunch s ctx i f).homeTx = s.homeTx := rfl
@[simp] theorem modLaunch_accs (s : State) (ctx i : Nat) (f : Launch → Launch) : (modLaunch s ctx i f).accs = s.accs := rfl
@[simp] theorem modLaunch_owed (s : State) (ctx i : Nat) (f : Launch → Launch) : (modLaunch s ctx i f).owed = s.owed := rfl
@[simp] theorem modLaunch_regs (s : State) (ctx i : Nat) (f : Launch → Launch) : (modLaunch s ctx i f).regs = s.regs := rfl
@[simp] theorem modLaunch_ctxs (s : State) (ctx i : Nat) (f : Launch → Launch) : (modLaunch s ctx i f).ctxs = s.ctxs := rfl
@[simp] theorem modLaunch_asyncs (s : State) (ctx i : Nat) (f : Launch → Launch) : (modLaunch s ctx i f).asyncs = s.asyncs := rfl
@[simp] theorem modLaunch_gather (s : State) (ctx i : Nat) (f : Launch → Launch) : (modLaunch s ctx i f).gather = s.gather := rfl
@[simp] theorem modLaunch_tokenWait (s : State) (ctx i : Nat) (f : Launch → Launch) : (modLaunch s ctx i f).tokenWait = s.tokenWait := rfl
@[simp] theorem modLaunch_tokenBar (s : State) (ctx i : Nat) (f : Launch → Launch) : (modLaunch s ctx i f).tokenBar = s.tokenBar := rfl
@[simp] theorem modLaunch_sensors (s : State) (ctx i : Nat) (f : Launch → Launch) : (modLaunch s ctx i f).sensors = s.sensors := rfl
@[simp] theorem modLaunch_thermalStop (s : State) (ctx i : Nat) (f : Launch → Launch) : (modLaunch s ctx i f).thermalStop = s.thermalStop := rfl
@[simp] theorem modLaunch_intervalStart (s : State) (ctx i : Nat) (f : Launch → Launch) : (modLaunch s ctx i f).intervalStart = s.intervalStart := rfl
@[simp] theorem modLaunch_fns (s : State) (ctx i : Nat) (f : Launch → Launch) : (modLaunch s ctx i f).fns = s.fns := rfl
@[simp] theorem modLaunch_atomicOpEnable (s : State) (ctx i : Nat) (f : Launch → Launch) : (modLaunch s ctx i f).atomicOpEnable = s.atomicOpEnable := rfl
@[simp] theorem modLaunch_ports (s : State) (ctx i : Nat) (f : Launch → Launch) : (modLaunch s ctx i f).ports = s.ports := rfl
@[simp] theorem modLaunch_emsen (s : State) (ctx i : Nat) (f : Launch → Launch) : (modLaunch s ctx i f).emsen = s.emsen := rfl
@[simp] theorem modLaunch_emsenOut (s : State) (ctx i : Nat) (f : Launch → Launch) : (modLaunch s ctx i f).emsenOut = s.emsenOut := rfl
@[simp] theorem modLaunch_fabIn (s : State) (ctx i : Nat) (f : Launch → Launch) : (modLaunch s ctx i f).fabIn = s.fabIn := rfl
@[simp] theorem modLaunch_hostOut (s : State) (ctx i : Nat) (f : Launch → Launch) : (modLaunch s ctx i f).hostOut = s.hostOut := rfl
@[simp] theorem modLaunch_tiles (s : State) (ctx i : Nat) (f : Launch → Launch) : (modLaunch s ctx i f).tiles = s.tiles := rfl
@[simp] theorem modLaunch_bootClear (s : State) (ctx i : Nat) (f : Launch → Launch) : (modLaunch s ctx i f).bootClear = s.bootClear := rfl
@[simp] theorem modLaunch_images (s : State) (ctx i : Nat) (f : Launch → Launch) : (modLaunch s ctx i f).images = s.images := rfl
@[simp] theorem modLaunch_stopped (s : State) (ctx i : Nat) (f : Launch → Launch) : (modLaunch s ctx i f).stopped = s.stopped := rfl

@[simp] theorem setReg_ticks (s : State) (r : CReg) (v : DWord) : (setReg s r v).ticks = s.ticks := rfl
@[simp] theorem setReg_agenda (s : State) (r : CReg) (v : DWord) : (setReg s r v).agenda = s.agenda := rfl
@[simp] theorem setReg_work (s : State) (r : CReg) (v : DWord) : (setReg s r v).work = s.work := rfl
@[simp] theorem setReg_cur (s : State) (r : CReg) (v : DWord) : (setReg s r v).cur = s.cur := rfl
@[simp] theorem setReg_couple (s : State) (r : CReg) (v : DWord) : (setReg s r v).couple = s.couple := rfl
@[simp] theorem setReg_free (s : State) (r : CReg) (v : DWord) : (setReg s r v).free = s.free := rfl
@[simp] theorem setReg_nextId (s : State) (r : CReg) (v : DWord) : (setReg s r v).nextId = s.nextId := rfl
@[simp] theorem setReg_mem (s : State) (r : CReg) (v : DWord) : (setReg s r v).mem = s.mem := rfl
@[simp] theorem setReg_poison (s : State) (r : CReg) (v : DWord) : (setReg s r v).poison = s.poison := rfl
@[simp] theorem setReg_flagged (s : State) (r : CReg) (v : DWord) : (setReg s r v).flagged = s.flagged := rfl
@[simp] theorem setReg_mixed (s : State) (r : CReg) (v : DWord) : (setReg s r v).mixed = s.mixed := rfl
@[simp] theorem setReg_cores (s : State) (r : CReg) (v : DWord) : (setReg s r v).cores = s.cores := rfl
@[simp] theorem setReg_clusters (s : State) (r : CReg) (v : DWord) : (setReg s r v).clusters = s.clusters := rfl
@[simp] theorem setReg_dies (s : State) (r : CReg) (v : DWord) : (setReg s r v).dies = s.dies := rfl
@[simp] theorem setReg_routers (s : State) (r : CReg) (v : DWord) : (setReg s r v).routers = s.routers := rfl
@[simp] theorem setReg_msgs (s : State) (r : CReg) (v : DWord) : (setReg s r v).msgs = s.msgs := rfl
@[simp] theorem setReg_unpicks (s : State) (r : CReg) (v : DWord) : (setReg s r v).unpicks = s.unpicks := rfl
@[simp] theorem setReg_homeTx (s : State) (r : CReg) (v : DWord) : (setReg s r v).homeTx = s.homeTx := rfl
@[simp] theorem setReg_accs (s : State) (r : CReg) (v : DWord) : (setReg s r v).accs = s.accs := rfl
@[simp] theorem setReg_owed (s : State) (r : CReg) (v : DWord) : (setReg s r v).owed = s.owed := rfl
@[simp] theorem setReg_ctxs (s : State) (r : CReg) (v : DWord) : (setReg s r v).ctxs = s.ctxs := rfl
@[simp] theorem setReg_launches (s : State) (r : CReg) (v : DWord) : (setReg s r v).launches = s.launches := rfl
@[simp] theorem setReg_asyncs (s : State) (r : CReg) (v : DWord) : (setReg s r v).asyncs = s.asyncs := rfl
@[simp] theorem setReg_gather (s : State) (r : CReg) (v : DWord) : (setReg s r v).gather = s.gather := rfl
@[simp] theorem setReg_tokenWait (s : State) (r : CReg) (v : DWord) : (setReg s r v).tokenWait = s.tokenWait := rfl
@[simp] theorem setReg_tokenBar (s : State) (r : CReg) (v : DWord) : (setReg s r v).tokenBar = s.tokenBar := rfl
@[simp] theorem setReg_sensors (s : State) (r : CReg) (v : DWord) : (setReg s r v).sensors = s.sensors := rfl
@[simp] theorem setReg_thermalStop (s : State) (r : CReg) (v : DWord) : (setReg s r v).thermalStop = s.thermalStop := rfl
@[simp] theorem setReg_intervalStart (s : State) (r : CReg) (v : DWord) : (setReg s r v).intervalStart = s.intervalStart := rfl
@[simp] theorem setReg_fns (s : State) (r : CReg) (v : DWord) : (setReg s r v).fns = s.fns := rfl
@[simp] theorem setReg_atomicOpEnable (s : State) (r : CReg) (v : DWord) : (setReg s r v).atomicOpEnable = s.atomicOpEnable := rfl
@[simp] theorem setReg_ports (s : State) (r : CReg) (v : DWord) : (setReg s r v).ports = s.ports := rfl
@[simp] theorem setReg_emsen (s : State) (r : CReg) (v : DWord) : (setReg s r v).emsen = s.emsen := rfl
@[simp] theorem setReg_emsenOut (s : State) (r : CReg) (v : DWord) : (setReg s r v).emsenOut = s.emsenOut := rfl
@[simp] theorem setReg_fabIn (s : State) (r : CReg) (v : DWord) : (setReg s r v).fabIn = s.fabIn := rfl
@[simp] theorem setReg_hostOut (s : State) (r : CReg) (v : DWord) : (setReg s r v).hostOut = s.hostOut := rfl
@[simp] theorem setReg_tiles (s : State) (r : CReg) (v : DWord) : (setReg s r v).tiles = s.tiles := rfl
@[simp] theorem setReg_bootClear (s : State) (r : CReg) (v : DWord) : (setReg s r v).bootClear = s.bootClear := rfl
@[simp] theorem setReg_images (s : State) (r : CReg) (v : DWord) : (setReg s r v).images = s.images := rfl
@[simp] theorem setReg_stopped (s : State) (r : CReg) (v : DWord) : (setReg s r v).stopped = s.stopped := rfl

/-- A core that is written is read back. -/
@[simp] theorem coreOf_setCore (s : State) (c : Nat) (k : Core) : coreOf (setCore s c k) c = k := by
  simp [coreOf, setCore]
/-- Another core is left alone. -/
theorem coreOf_setCore_ne (s : State) (c d : Nat) (k : Core) (h : d ≠ c) : coreOf (setCore s c k) d = coreOf s d := by
  simp [coreOf, setCore, tget_tput_ne _ _ _ _ _ h]
/-- A cluster that is written is read back. -/
@[simp] theorem clusterOf_setCluster (s : State) (c : Nat) (k : Cluster) : clusterOf (setCluster s c k) c = k := by
  simp [clusterOf, setCluster]
/-- Another cluster is left alone. -/
theorem clusterOf_setCluster_ne (s : State) (c d : Nat) (k : Cluster) (h : d ≠ c) :
    clusterOf (setCluster s c k) d = clusterOf s d := by
  simp [clusterOf, setCluster, tget_tput_ne _ _ _ _ _ h]
/-- A leaf that is written is read back. -/
@[simp] theorem leafOf_setLeaf (s : State) (c e : Nat) (l : Leaf) : leafOf (setLeaf s c e l) c e = some l := by
  simp [leafOf, setLeaf]
/-- Another leaf of the core is left alone. -/
theorem leafOf_setLeaf_ne (s : State) (c e d : Nat) (l : Leaf) (h : d ≠ e) : leafOf (setLeaf s c e l) c d = leafOf s c d := by
  simp [leafOf, setLeaf, tfind_tput_ne _ _ _ _ h]
/-- Writing a leaf changes nothing of its core but the leaves. -/
@[simp] theorem coreOf_setLeaf (s : State) (c e : Nat) (l : Leaf) :
    coreOf (setLeaf s c e l) c = { coreOf s c with leaves := tput (coreOf s c).leaves e l } := by
  simp [setLeaf]
/-- Writing a leaf leaves other cores alone. -/
theorem coreOf_setLeaf_ne (s : State) (c e d : Nat) (l : Leaf) (h : d ≠ c) : coreOf (setLeaf s c e l) d = coreOf s d := by
  simp [setLeaf, coreOf_setCore_ne _ _ _ _ h]
/-- Writing a sheet changes nothing of its core but the sheets. -/
@[simp] theorem coreOf_setSheet (s : State) (c i : Nat) (h : Sheet) :
    coreOf (setSheet s c i h) c = { coreOf s c with sheets := tput (coreOf s c).sheets i h } := by
  simp [setSheet]
/-- Writing a sheet leaves other cores alone. -/
theorem coreOf_setSheet_ne (s : State) (c i d : Nat) (x : Sheet) (h : d ≠ c) : coreOf (setSheet s c i x) d = coreOf s d := by
  simp [setSheet, coreOf_setCore_ne _ _ _ _ h]
/-- A sheet that is written is read back. -/
@[simp] theorem sheetOf_setSheet (s : State) (c i : Nat) (h : Sheet) : sheetOf (setSheet s c i h) c i = some h := by
  simp [sheetOf]
/-- A leaf is not touched where a sheet is written. -/
@[simp] theorem leafOf_setSheet (s : State) (c i e : Nat) (h : Sheet) : leafOf (setSheet s c i h) c e = leafOf s c e := by
  simp [leafOf]
/-- A sheet is not touched where a leaf is written. -/
@[simp] theorem sheetOf_setLeaf (s : State) (c e i : Nat) (l : Leaf) : sheetOf (setLeaf s c e l) c i = sheetOf s c i := by
  simp [sheetOf]
/-- A tag that is written is read back. -/
@[simp] theorem tagOf_setTag (s : State) (c n : Nat) (t : Tag) : tagOf (setTag s c n t) c n = t := by
  simp [tagOf, setTag]
/-- Another tag of the core is left alone. -/
theorem tagOf_setTag_ne (s : State) (c n m : Nat) (t : Tag) (h : m ≠ n) : tagOf (setTag s c n t) c m = tagOf s c m := by
  simp [tagOf, setTag, tget_tset_ne _ _ _ _ _ h]
/-- A leaf is not touched where a tag is written. -/
@[simp] theorem leafOf_setTag (s : State) (c n e : Nat) (t : Tag) : leafOf (setTag s c n t) c e = leafOf s c e := by
  simp [leafOf, setTag]
/-- A sheet is not touched where a tag is written. -/
@[simp] theorem sheetOf_setTag (s : State) (c n i : Nat) (t : Tag) : sheetOf (setTag s c n t) c i = sheetOf s c i := by
  simp [sheetOf, setTag]

end Sys2Proof.Machine
end

