-- ==== Sys2Proof/Laws/Regs.lean ====
section
/-!
SUPPORT. What writing an operand element does, once for each of the operations that every result goes through.
-/
namespace Sys2Proof.Machine

theorem RegsOnly.refl (s : State) (x : Iss) : RegsOnly s s x :=
  ⟨rfl, fun _ _ => rfl, rfl, fun _ _ => rfl, fun h hh => ⟨h, hh, rfl⟩, fun _ => rfl⟩

theorem RegsOnly.trans {s t u : State} {x : Iss} (a : RegsOnly s t x) (b : RegsOnly t u x) : RegsOnly s u x := by
  refine ⟨?_, fun c h => (b.others c h).trans (a.others c h), ?_, fun i h => (b.slots i h).trans (a.slots i h), ?_, ?_⟩
  · rw [b.rest, a.rest]
  · rw [b.core, a.core]
  · intro h hh
    obtain ⟨h1, e1, q1⟩ := a.sheet h hh
    obtain ⟨h2, e2, q2⟩ := b.sheet h1 e1
    exact ⟨h2, e2, by rw [q2, q1]; rfl⟩
  · intro e
    rw [b.recs e, a.recs e]

/-- A sheet that is resident is still resident, with its base and size. -/
theorem RegsOnly.base {s t : State} {x : Iss} (a : RegsOnly s t x) {h : Sheet} (hh : sheetOf s x.core x.leaf.slot = some h) :
    ∃ h', sheetOf t x.core x.leaf.slot = some h' ∧ h'.base = h.base := by
  obtain ⟨h', e, q⟩ := a.sheet h hh
  exact ⟨h', e, by rw [q]; rfl⟩

theorem RegsOnly.leaf {s t : State} {x : Iss} (a : RegsOnly s t x) (c e : Nat) : leafOf t c e = leafOf s c e := by
  unfold leafOf
  by_cases h : c = x.core
  · subst h; rw [a.core]
  · rw [a.others c h]

theorem RegsOnly.cycles {s t : State} {x : Iss} (a : RegsOnly s t x) (c : Nat) : now t c = now s c := by
  unfold now
  by_cases h : c = x.core
  · subst h; rw [a.core]
  · rw [a.others c h]

theorem RegsOnly.tags {s t : State} {x : Iss} (a : RegsOnly s t x) (c n : Nat) : tagOf t c n = tagOf s c n := by
  unfold tagOf
  by_cases h : c = x.core
  · subst h; rw [a.core]
  · rw [a.others c h]

theorem RegsOnly.mem {s t : State} {x : Iss} (a : RegsOnly s t x) : t.mem = s.mem := by rw [a.rest]
theorem RegsOnly.ctl {s t : State} {x : Iss} (a : RegsOnly s t x) : t.regs = s.regs := by rw [a.rest]
theorem RegsOnly.clusters {s t : State} {x : Iss} (a : RegsOnly s t x) : t.clusters = s.clusters := by rw [a.rest]

/-- Changing registers of the issuing sheet. -/
theorem regsOnly_setSheet (s : State) (x : Iss) (h h' : Sheet) (hh : sheetOf s x.core x.leaf.slot = some h)
    (q : h' = withRegsOf h h') :
    RegsOnly s (setSheet s x.core x.leaf.slot h') x := by
  refine ⟨rfl, fun c hc => coreOf_setSheet_ne _ _ _ _ _ hc, by simp, ?_, ?_, ?_⟩
  · intro i hi
    simp [sheetOf, tfind_tput_ne _ _ _ _ hi]
  · intro g hg
    rw [hh] at hg
    cases hg
    exact ⟨h', by simp, q⟩
  · intro e; simp

theorem regsOnly_modSheet (s : State) (x : Iss) (f : Sheet → Sheet)
    (q : ∀ h, f h = withRegsOf h (f h)) :
    RegsOnly s (modSheet s x.core x.leaf.slot f) x := by
  unfold modSheet
  split
  · rename_i h hh; exact regsOnly_setSheet s x h (f h) hh (q h)
  · exact RegsOnly.refl s x

theorem regsOnly_addFlight (s : State) (x : Iss) (c : Nat) (m : Mask) (lat : Nat) : RegsOnly s (addFlight s x c m lat) x :=
  regsOnly_modSheet _ _ _ (fun _ => rfl)

theorem regsOnly_dropPending (s : State) (x : Iss) (c : Nat) (m : Mask) : RegsOnly s (dropPending s x c m) x :=
  ⟨rfl, fun _ _ => rfl, rfl, fun _ _ => rfl, fun h hh => ⟨h, hh, rfl⟩, fun _ => rfl⟩

theorem regsOnly_putPhys (s : State) (x : Iss) (g : Nat) (m : Mask) (v : Nat → Word) : RegsOnly s (putPhys s x.core g m v) x := by
  have key : ∀ r p, RegsOnly s (setCore s x.core { coreOf s x.core with regs := r, regPoison := p }) x := by
    intro r p
    refine ⟨rfl, fun c hc => coreOf_setCore_ne _ _ _ _ hc, by simp, fun i _ => by simp [sheetOf], ?_, fun e => by simp⟩
    intro h hh
    exact ⟨h, by simpa [sheetOf] using hh, rfl⟩
  unfold putPhys
  dsimp only
  split
  · exact key _ _
  · split
    · exact RegsOnly.refl s x
    · exact key _ _

theorem regsOnly_putSReg (s : State) (x : Iss) (i : Nat) (v : DWord) : RegsOnly s (putSReg s x i v) x := by
  unfold putSReg
  split
  · refine ⟨rfl, fun c hc => coreOf_setCore_ne _ _ _ _ hc, by simp, fun i _ => by simp [sheetOf], ?_, ?_⟩
    · intro h hh
      exact ⟨h, by simpa [sheetOf] using hh, rfl⟩
    · intro e
      by_cases he : e = x.entry
      · subst he; simp
      · simp [tget_tput_ne _ _ _ _ _ he]
  · exact regsOnly_modSheet _ _ _ (fun _ => rfl)

theorem regsOnly_putElem (s : State) (x : Iss) (c : Nat) (m : Mask) (v : Nat → Nat) : RegsOnly s (putElem s x c m v) x := by
  unfold putElem
  split
  · exact RegsOnly.refl s x
  · split
    · exact regsOnly_putPhys ..
    · split
      · exact regsOnly_putSReg ..
      · split
        · exact regsOnly_modSheet _ _ _ (fun _ => rfl)
        · dsimp only
          split
          · exact regsOnly_modSheet _ _ _ (fun _ => rfl)
          · split
            · exact regsOnly_modSheet _ _ _ (fun _ => rfl)
            · exact RegsOnly.refl s x

/-- Writing an element changes registers only. -/
theorem regsOnly_writeElem (s : State) (x : Iss) (c : Nat) (m : Mask) (lat : Nat) (v : Nat → Nat) :
    RegsOnly s (writeElem s x c m lat v) x := by
  unfold writeElem
  split
  · exact RegsOnly.refl s x
  · exact (regsOnly_addFlight s x c m lat).trans ((regsOnly_dropPending _ x c m).trans (regsOnly_putElem _ x c m v))

/-- Writing a result changes registers only. -/
theorem regsOnly_writeOpd (s : State) (x : Iss) (m : Mask) (c : Nat) (w64 sx : Bool) (lat : Nat) (v : Nat → Nat) :
    RegsOnly s (writeOpd s x m c w64 sx lat v) x := by
  unfold writeOpd
  split
  · dsimp only
    split
    · exact (regsOnly_writeElem ..).trans (regsOnly_writeElem ..)
    · exact regsOnly_writeElem ..
  · split
    · exact regsOnly_writeElem ..
    · split
      · exact regsOnly_writeElem ..
      · exact RegsOnly.refl s x

/-- What an element reads depends on the registers alone. -/
theorem rawElem_congr {s t : State} {x : Iss} (c l : Nat)
    (hr : (coreOf t x.core).regs = (coreOf s x.core).regs) (hc : (coreOf t x.core).recs = (coreOf s x.core).recs)
    (hh : ∃ h h', sheetOf s x.core x.leaf.slot = some h ∧ sheetOf t x.core x.leaf.slot = some h' ∧
      h'.base = h.base ∧ h'.s = h.s ∧ h'.h = h.h ∧ h'.preds = h.preds ∧ h'.flags = h.flags) :
    rawElem t x c l = rawElem s x c l := by
  obtain ⟨h, h', e, e', b1, b2, b3, b4, b5⟩ := hh
  simp [rawElem, physReg, sReg, predRaw, e, e', hr, hc, b1, b2, b3, b4, b5]

theorem rawElem_addFlight (s : State) (x : Iss) (c : Nat) (m : Mask) (lat c' l : Nat) {h : Sheet}
    (hh : sheetOf s x.core x.leaf.slot = some h) : rawElem (addFlight s x c m lat) x c' l = rawElem s x c' l := by
  simp only [addFlight, modSheet, hh]
  exact rawElem_congr c' l (by simp) (by simp) ⟨h, _, hh, by simp; rfl, by simp⟩

theorem rawElem_dropPending (s : State) (x : Iss) (c : Nat) (m : Mask) (c' l : Nat) :
    rawElem (dropPending s x c m) x c' l = rawElem s x c' l := rfl

theorem tget_foldl_tset {α : Type} [DecidableEq α] (d : α) (b : Nat) (v : Nat → α) (ls : List Nat) (t : Tab α) (k : Nat) :
    tget d (ls.foldl (fun t l => tset d t (b + l) (v l)) t) k =
      if ∃ l ∈ ls, k = b + l then v (k - b) else tget d t k := by
  induction ls generalizing t with
  | nil => simp
  | cons a ls ih =>
    rw [List.foldl_cons, ih]
    by_cases h : ∃ l ∈ ls, k = b + l
    · rw [if_pos h, if_pos (by obtain ⟨l, hl, e⟩ := h; exact ⟨l, by simp [hl], e⟩)]
    · rw [if_neg h, tget_tset]
      by_cases hk : k = b + a
      · rw [if_pos hk, if_pos ⟨a, by simp, hk⟩, hk, Nat.add_sub_cancel_left]
      · rw [if_neg hk, if_neg]
        rintro ⟨l, hl, e⟩
        rcases List.mem_cons.1 hl with rfl | hl
        · exact hk e
        · exact h ⟨l, hl, e⟩

theorem mem_lanes (l : Nat) : l ∈ lanes ↔ l < 32 := by simp [lanes]
theorem mem_laneList (m : Mask) (l : Nat) : l ∈ laneList m ↔ l < 32 ∧ m.has l = true := by
  simp [laneList, mem_lanes, Mask.has]
theorem has_lt {m : Mask} {l : Nat} (h : m.has l = true) : l < 32 := by
  by_contra hl
  have : m.has l = false := BitVec.getLsbD_of_ge m l (by omega)
  simp [this] at h
theorem has_allOnes {l : Nat} (h : l < 32) : Mask.has (BitVec.allOnes 32) l = true := by
  rw [Mask.has, BitVec.getLsbD_allOnes]; simpa using h

/-- The lowest lane of a mask is one of it; a mask has one unless it is empty. -/
theorem lowLane_has {m : Mask} {low : Nat} (h : lowLane m = some low) : m.has low = true := by
  have : low ∈ laneList m := List.mem_of_mem_head? h
  exact ((mem_laneList m low).1 this).2
theorem lowLane_isSome {m : Mask} (h : m ≠ 0) : ∃ low, lowLane m = some low := by
  cases e : lowLane m with
  | some l => exact ⟨l, rfl⟩
  | none =>
    exfalso
    apply h
    have hl : laneList m = [] := by simpa [lowLane] using e
    apply BitVec.eq_of_getLsbD_eq
    intro i hi
    by_contra hne
    have : m.has i = true := by simpa [Mask.has] using hne
    have := (mem_laneList m i).2 ⟨hi, this⟩
    rw [hl] at this
    simp at this

theorem foldl_bits (f : Nat → Bool) (n : Nat) :
    (List.range n).foldl (fun a l => a + if f l then 2 ^ l else 0) 0 < 2 ^ n ∧
    ∀ i < n, ((List.range n).foldl (fun a l => a + if f l then 2 ^ l else 0) 0).testBit i = f i := by
  induction n with
  | zero => simp
  | succ n ih =>
    rw [List.range_succ, List.foldl_append]
    simp only [List.foldl_cons, List.foldl_nil]
    obtain ⟨h1, h2⟩ := ih
    constructor
    · split <;> rw [Nat.pow_succ] <;> omega
    · intro i hi
      rcases Nat.lt_succ_iff_lt_or_eq.1 hi with h | rfl
      · split
        · rw [Nat.add_comm, Nat.testBit_two_pow_add_gt h]; exact h2 i h
        · simpa using h2 i h
      · split
        · rename_i hf
          rw [Nat.add_comm, Nat.testBit_two_pow_add_eq, Nat.testBit_lt_two_pow h1, hf]; rfl
        · rename_i hf
          rw [Nat.add_zero, Nat.testBit_lt_two_pow h1]; simpa using hf

/-- A mask has the lanes for which its condition holds. -/
theorem has_maskOf (f : Nat → Bool) (l : Nat) : (maskOf f).has l = (decide (l < 32) && f l) := by
  obtain ⟨_, h2⟩ := foldl_bits f 32
  simp only [Mask.has, maskOf, lanes, BitVec.getLsbD_ofNat]
  by_cases h : l < 32
  · simp only [h, decide_true, Bool.true_and]; exact h2 l h
  · simp [h]

theorem isS_not_isV {c : Nat} (h : isS c = true) : isV c = false := by simp [isS, isV] at *; omega
theorem isH_not {c : Nat} (h : isH c = true) : isV c = false ∧ isS c = false := by simp [isH, isS, isV] at *; omega
theorem isP_not {c : Nat} (h : isP c = true) : isV c = false ∧ isS c = false ∧ isH c = false := by
  simp [isP, isS, isV, isH] at *; omega
theorem isE_not {c : Nat} (h : isE c = true) : isV c = false ∧ isS c = false ∧ isH c = false ∧ isP c = false := by
  simp [isE, isP, isS, isV, isH] at *; omega

/-- A v-register that may be written holds the values of the lanes written and keeps the others; no other changes. -/
theorem physReg_putPhys (s : State) (c g : Nat) (m : Mask) (v : Nat → Word)
    (hw : m = BitVec.allOnes 32 ∨ tget false (coreOf s c).regPoison g = false) (g' l : Nat) (hl : l < 32) :
    physReg (putPhys s c g m v) c g' l = if g' = g ∧ m.has l = true then v l else physReg s c g' l := by
  have key : ∀ ls : List Nat, (∀ i ∈ ls, i < 32) → ∀ t : Tab Word,
      tget 0 (ls.foldl (fun t i => tset 0 t (32 * g + i) (v i)) t) (32 * g' + l) =
        if g' = g ∧ l ∈ ls then v l else tget 0 t (32 * g' + l) := by
    intro ls hls t
    rw [tget_foldl_tset 0 (32 * g) v ls t]
    by_cases h : g' = g ∧ l ∈ ls
    · obtain ⟨rfl, hm⟩ := h
      rw [if_pos ⟨l, hm, rfl⟩, if_pos ⟨rfl, hm⟩, Nat.add_sub_cancel_left]
    · rw [if_neg h, if_neg]
      rintro ⟨i, hi, e⟩
      have := hls i hi
      have hg : g' = g := by omega
      have : i = l := by omega
      subst this
      exact h ⟨hg, hi⟩
  unfold putPhys physReg
  dsimp only
  split
  · rename_i hm
    subst hm
    simp only [coreOf_setCore]
    rw [key lanes (fun i hi => (mem_lanes i).1 hi)]
    simp only [mem_lanes, hl, has_allOnes hl]
  · rename_i hm
    have hp := hw.resolve_left hm
    simp only [hp]
    simp only [Bool.false_eq_true, if_false, coreOf_setCore]
    rw [key (laneList m) (fun i hi => ((mem_laneList m i).1 hi).1)]
    simp [mem_laneList, hl]

/-- The registers other than v-registers are not touched where one is written. -/
theorem rawElem_putPhys (s : State) (x : Iss) (g : Nat) (m : Mask) (v : Nat → Word) (c l : Nat) (hc : isV c = false) :
    rawElem (putPhys s x.core g m v) x c l = rawElem s x c l := by
  have h : ∀ t, (∀ i, sheetOf t x.core i = sheetOf s x.core i) → (coreOf t x.core).recs = (coreOf s x.core).recs →
      rawElem t x c l = rawElem s x c l := by
    intro t h1 h2
    simp [rawElem, hc, sReg, h1, h2]
  apply h
  · intro i; unfold putPhys; dsimp only; split <;> [skip; split] <;> simp [sheetOf]
  · unfold putPhys; dsimp only; split <;> [skip; split] <;> simp

/-- What a sheet's element reads after a change of its s, h, p and e registers. -/
theorem rawElem_setSheet (s : State) (x : Iss) (h' : Sheet) (c l : Nat) :
    rawElem (setSheet s x.core x.leaf.slot h') x c l =
      if isV c then (physReg s x.core (h'.base + c) l).toNat
      else if isS c then
        (if banked x.leaf (c - 0x100) then tget 0 (tget {} (coreOf s x.core).recs x.entry).bank (c - 0x100 - 56)
         else tget 0 h'.s (c - 0x100)).toNat
      else if isH c then (tget 0 h'.h (c - 0x180)).toNat
      else if isP c || isE c then b2n ((predRaw h' c).has l)
      else 0 := by
  simp [rawElem, physReg, sReg]

/-- The same, of the sheet as it stands. -/
theorem rawElem_eq (s : State) (x : Iss) (h : Sheet) (hh : sheetOf s x.core x.leaf.slot = some h) (c l : Nat) :
    rawElem s x c l =
      if isV c then (physReg s x.core (h.base + c) l).toNat
      else if isS c then
        (if banked x.leaf (c - 0x100) then tget 0 (tget {} (coreOf s x.core).recs x.entry).bank (c - 0x100 - 56)
         else tget 0 h.s (c - 0x100)).toNat
      else if isH c then (tget 0 h.h (c - 0x180)).toNat
      else if isP c || isE c then b2n ((predRaw h c).has l)
      else 0 := by
  simp [rawElem, physReg, sReg, hh]

/-- The value that `putElem` leaves in an element of lane `l`. -/
def putVal (c : Nat) (m : Mask) (v : Nat → Nat) (low l old : Nat) : Nat :=
  if isV c then (if m.has l then v l % 2 ^ 32 else old)
  else if isS c then v low % 2 ^ 64
  else if isH c then v low % 2 ^ 32
  else if (isP c && c != 0x197) || isE c then (if m.has l then b2n (v l != 0) else old)
  else old

theorem has_and_not_or (a m b : Mask) (l : Nat) (hl : l < 32) :
    ((a &&& ~~~m) ||| b).has l = ((a.has l && !m.has l) || b.has l) := by
  simp [Mask.has, hl]

theorem putElem_sheet (s : State) (x : Iss) (h : Sheet) (hh : sheetOf s x.core x.leaf.slot = some h) (f : Sheet → Sheet) :
    modSheet s x.core x.leaf.slot f = setSheet s x.core x.leaf.slot (f h) := by
  simp [modSheet, hh]

theorem b2n_inj_has (a : Mask) (l : Nat) (b : Bool) (h : a.has l = b) : b2n (a.has l) = b2n b := by rw [h]

/-- Writing an element: what every element of the issuing sheet reads after. -/
theorem rawElem_putElem (s : State) (x : Iss) (c : Nat) (m : Mask) (v : Nat → Nat) (low : Nat) (hlow : lowLane m = some low)
    {h : Sheet} (hh : sheetOf s x.core x.leaf.slot = some h) (hb : h.base = x.sheet.base)
    (hw : isV c = true → Writable s x m c) (c' l : Nat) (hl : l < 32) :
    rawElem (putElem s x c m v) x c' l =
      if c' = c then putVal c m v low l (rawElem s x c l) else rawElem s x c' l := by
  unfold putElem
  simp only [hlow]
  by_cases hv : isV c = true
  · simp only [hv, if_true]
    by_cases hv' : isV c' = true
    · have hs : ∀ t, (∀ i, sheetOf t x.core i = sheetOf s x.core i) → rawElem t x c' l = (physReg t x.core (h.base + c') l).toNat := by
        intro t ht
        rw [rawElem_eq t x h (by rw [ht, hh])]; simp [hv']
      have hsh : ∀ i, sheetOf (putPhys s x.core (x.sheet.base + c) m fun l => BitVec.ofNat 32 (v l)) x.core i = sheetOf s x.core i := by
        intro i; unfold putPhys; dsimp only; split <;> [skip; split] <;> simp [sheetOf]
      rw [hs _ hsh, physReg_putPhys _ _ _ _ _ (hw hv) _ _ hl, hb]
      by_cases e : c' = c
      · subst e
        rw [rawElem_eq s x h hh]
        simp only [putVal, hv, if_true, true_and, hb]
        split <;> simp
      · have : ¬ (x.sheet.base + c' = x.sheet.base + c) := by omega
        rw [rawElem_eq s x h hh c' l]
        simp [e, hv', hb]
    · have e : c' ≠ c := by rintro rfl; exact hv' hv
      rw [rawElem_putPhys _ _ _ _ _ _ _ (by simpa using hv')]
      simp [e]
  · have hv : isV c = false := by simpa using hv
    simp only [hv, Bool.false_eq_true, if_false]
    by_cases hS : isS c = true
    · simp only [hS, if_true]
      unfold putSReg
      by_cases hbk : banked x.leaf (c - 0x100) = true
      · simp only [hbk, if_true]
        rw [rawElem_eq _ x h (by simpa [sheetOf] using hh), rawElem_eq s x h hh c l]
        by_cases e : c' = c
        · subst e; simp [putVal, hv, hS, hbk]
        · rw [if_neg e, rawElem_eq s x h hh c' l]
          by_cases hS' : isS c' = true
          · have : c' - 0x100 - 56 ≠ c - 0x100 - 56 ∨ ¬ banked x.leaf (c' - 0x100) = true := by
              simp [isS, banked] at *; omega
            simp only [coreOf_setCore, physReg, hS', isS_not_isV hS', Bool.false_eq_true, if_false, if_true]
            rcases this with h1 | h1
            · simp [tget_tset_ne _ _ _ _ _ h1]
            · simp [h1]
          · simp [physReg, hS']
      · simp only [hbk]
        simp only [Bool.false_eq_true, if_false]
        rw [putElem_sheet s x h hh, rawElem_setSheet]
        by_cases e : c' = c
        · subst e; simp [putVal, hv, hS, hbk]
        · rw [if_neg e, rawElem_eq s x h hh c' l]
          by_cases hS' : isS c' = true
          · have : c' - 0x100 ≠ c - 0x100 := by simp [isS] at *; omega
            simp [isS_not_isV hS', hS', tget_tset_ne _ _ _ _ _ this]
          · simp [hS', predRaw]
    · have hS : isS c = false := by simpa using hS
      simp only [hS, Bool.false_eq_true, if_false]
      by_cases hH : isH c = true
      · simp only [hH, if_true]
        rw [putElem_sheet s x h hh, rawElem_setSheet]
        by_cases e : c' = c
        · subst e; simp [putVal, hv, hS, hH]
        · rw [if_neg e, rawElem_eq s x h hh]
          by_cases hH' : isH c' = true
          · have : c' - 0x180 ≠ c - 0x180 := by simp [isH] at *; omega
            simp [tget_tset_ne _ _ _ _ _ this, predRaw]
          · simp [hH', predRaw]
      · have hH : isH c = false := by simpa using hH
        simp only [hH, Bool.false_eq_true, if_false]
        by_cases hP : (isP c && c != 0x197) = true
        · simp only [hP, if_true]
          have hPc : isP c = true ∧ c ≠ 0x197 := by simpa using hP
          rw [putElem_sheet s x h hh, rawElem_setSheet]
          by_cases e : c' = c
          · subst e
            rw [if_pos rfl, rawElem_eq s x h hh]
            simp only [hv, hS, hH, hPc.1, putVal, predRaw, hPc.2, Bool.true_or, if_true, if_false, Bool.false_eq_true,
              tget_tset_same]
            rw [has_and_not_or _ _ _ _ hl, has_maskOf]
            simp only [hl, decide_true, Bool.true_and]
            cases m.has l <;> simp [hPc.2]
          · rw [if_neg e, rawElem_eq s x h hh]
            by_cases hP' : isP c' = true
            · have : c' - 0x190 ≠ c - 0x190 := by simp [isP] at *; omega
              simp [isP_not hP', predRaw, hP', tget_tset_ne _ _ _ _ _ this]
            · simp [hP', predRaw]
        · simp only [hP]
          simp only [Bool.false_eq_true, if_false]
          by_cases hE : isE c = true
          · simp only [hE, if_true]
            rw [putElem_sheet s x h hh, rawElem_setSheet]
            have hn : c ≠ 0x197 := by simp [isE] at hE; omega
            by_cases e : c' = c
            · subst e
              rw [if_pos rfl, rawElem_eq s x h hh]
              simp only [hv, hS, hH, (isE_not hE).2.2.2, hE, putVal, predRaw, hn, Bool.false_and, Bool.false_or, if_true,
                if_false, Bool.false_eq_true, tget_tset_same]
              rw [has_and_not_or _ _ _ _ hl, has_maskOf]
              simp only [hl, decide_true, Bool.true_and]
              cases m.has l <;> simp
            · rw [if_neg e, rawElem_eq s x h hh]
              by_cases hE' : isE c' = true
              · have : c' - 0x198 ≠ c - 0x198 := by simp [isE] at *; omega
                simp [isE_not hE', predRaw, hE', tget_tset_ne _ _ _ _ _ this]
              · simp [hE', predRaw]
          · simp only [hE]
            simp only [Bool.false_eq_true, if_false]
            split
            · rename_i e; subst e; simp [putVal, hv, hS, hH, hE, hP]
            · rfl

end Sys2Proof.Machine
end

