-- ==== Sys2Proof/Laws/Results.lean ====
section
/-!
SUPPORT. What writing a result does, and what an instruction that passes its checks does around its own effect.
-/
namespace Sys2Proof.Machine

/-- The sheet of the issuing leaf is resident, at the base under which it issued. -/
def Home (s : State) (x : Iss) : Prop := ∃ h, sheetOf s x.core x.leaf.slot = some h ∧ h.base = x.sheet.base

theorem RegsOnly.home {s t : State} {x : Iss} (a : RegsOnly s t x) (h : Home s x) : Home t x := by
  obtain ⟨g, hg, hb⟩ := h
  obtain ⟨g', e, b⟩ := a.base hg
  exact ⟨g', e, b.trans hb⟩

theorem writable_congr {s t : State} {x : Iss} (h : (coreOf t x.core).regPoison = (coreOf s x.core).regPoison) (m : Mask)
    (c : Nat) : Writable t x m c ↔ Writable s x m c := by simp [Writable, h]

theorem rawElem_writeElem (s : State) (x : Iss) (c : Nat) (m : Mask) (lat : Nat) (v : Nat → Nat) (low : Nat)
    (hlow : lowLane m = some low) (hm : m ≠ 0) (hh : Home s x) (hw : isV c = true → Writable s x m c) (c' l : Nat) (hl : l < 32) :
    rawElem (writeElem s x c m lat v) x c' l =
      if c' = c then putVal c m v low l (rawElem s x c l) else rawElem s x c' l := by
  obtain ⟨h, hs, hb⟩ := hh
  have hf : sheetOf (dropPending (addFlight s x c m lat) x c m) x.core x.leaf.slot =
      sheetOf (addFlight s x c m lat) x.core x.leaf.slot := rfl
  obtain ⟨h', hs', hb'⟩ := (regsOnly_addFlight s x c m lat).base hs
  have hp : (coreOf (addFlight s x c m lat) x.core).regPoison = (coreOf s x.core).regPoison := by
    simp [addFlight, modSheet, hs]
  unfold writeElem
  rw [if_neg hm, rawElem_putElem _ x c m v low hlow (hf.trans hs') (hb'.trans hb) ?_ c' l hl]
  · rw [rawElem_dropPending, rawElem_dropPending, rawElem_addFlight s x c m lat _ _ hs, rawElem_addFlight s x c m lat _ _ hs]
  · intro hc
    exact (writable_congr hp m c).2 (hw hc)

/-- An element that is not written keeps its value, in every lane. -/
theorem rawElem_ge32 (s : State) (x : Iss) (c l : Nat) (hs : isV c = false) (hl : ¬ l < 32) :
    rawElem s x c l = if isS c then (sReg s x (c - 0x100)).toNat
      else if isH c then (tget 0 ((sheetOf s x.core x.leaf.slot).getD x.sheet).h (c - 0x180)).toNat else 0 := by
  have hg : ∀ m : Mask, m.has l = false := fun m => BitVec.getLsbD_of_ge m l (by omega)
  simp [rawElem, hs, hg, b2n]

theorem writable_writeElem (s : State) (x : Iss) (c : Nat) (m : Mask) (lat : Nat) (v : Nat → Nat) (d : Nat)
    (hw : Writable s x m d) : Writable (writeElem s x c m lat v) x m d := by
  rcases hw with h | h
  · exact .inl h
  · right
    have h1 : ∀ f, tget false (coreOf (modSheet s x.core x.leaf.slot f) x.core).regPoison (x.sheet.base + d) = false := by
      intro f; unfold modSheet; split <;> simp [h]
    have h2 : ∀ (t : State) f, tget false (coreOf t x.core).regPoison (x.sheet.base + d) = false →
        tget false (coreOf (modSheet t x.core x.leaf.slot f) x.core).regPoison (x.sheet.base + d) = false := by
      intro t f ht; unfold modSheet; split <;> simp [ht]
    unfold writeElem
    split
    · exact h
    · have ht : tget false (coreOf (dropPending (addFlight s x c m lat) x c m) x.core).regPoison (x.sheet.base + d) = false := h1 _
      generalize dropPending (addFlight s x c m lat) x c m = t at ht
      unfold putElem
      split
      · exact ht
      · split
        · unfold putPhys; dsimp only; split
          · simp only [coreOf_setCore]; rw [tget_tset]; split <;> simp [ht]
          · split <;> simp [ht]
        · split
          · unfold putSReg; split
            · simp [ht]
            · exact h2 _ _ ht
          · split
            · exact h2 _ _ ht
            · dsimp only; split
              · exact h2 _ _ ht
              · split
                · exact h2 _ _ ht
                · exact ht

/-- A 32-bit result: the register holds it. -/
theorem holds_writeOpd32 (s : State) (x : Iss) (m : Mask) (c : Nat) (sx : Bool) (lat : Nat) (v : Nat → Nat) (hm : m ≠ 0)
    (hh : Home s x) (hw : isV c = true → Writable s x m c) : Holds32 (writeOpd s x m c false sx lat v) x m c sx v := by
  obtain ⟨low, hlow⟩ := lowLane_isSome hm
  refine ⟨?_, ?_, ?_⟩
  · intro hv l hl
    simp only [writeOpd, hv, if_true, Bool.false_eq_true, if_false]
    rw [rawElem_writeElem s x c m lat _ low hlow hm hh hw c l (has_lt hl)]
    simp [putVal, hv, hl]
  · intro hs low' h'
    rw [hlow] at h'
    cases h'
    simp only [writeOpd, isS_not_isV hs, hs, if_true, Bool.false_eq_true, if_false]
    rw [rawElem_writeElem s x c m lat _ low hlow hm hh hw c 0 (by omega)]
    simp only [putVal, isS_not_isV hs, hs, if_true, Bool.false_eq_true, if_false]
    split
    · apply Nat.mod_eq_of_lt
      have : (0 : Int) < ((2 ^ 64 : Nat) : Int) := by decide
      have := Int.emod_lt_of_pos (sgnN 32 (v low)) this
      have := Int.emod_nonneg (sgnN 32 (v low)) (b := ((2 ^ 64 : Nat) : Int)) (by decide)
      unfold wrapZ
      omega
    · omega
  · intro hs low' h'
    rw [hlow] at h'
    cases h'
    obtain ⟨h1, h2⟩ := isH_not hs
    simp only [writeOpd, h1, h2, hs, Bool.true_or, if_true, Bool.false_eq_true, if_false]
    rw [rawElem_writeElem s x c m lat _ low hlow hm hh hw c 0 (by omega)]
    simp [putVal, h1, h2, hs]

/-- A 64-bit result: the register or the pair holds it. -/
theorem holds_writeOpd64 (s : State) (x : Iss) (m : Mask) (c : Nat) (sx : Bool) (lat : Nat) (v : Nat → Nat) (hm : m ≠ 0)
    (hh : Home s x) (hw : isV c = true → Writable s x m c ∧ Writable s x m (c + 1)) (hc : isV c = true → isV (c + 1) = true) :
    Holds64 (writeOpd s x m c true sx lat v) x m c v := by
  obtain ⟨low, hlow⟩ := lowLane_isSome hm
  refine ⟨?_, ?_, ?_⟩
  · intro hv l hl
    simp only [writeOpd, hv, if_true]
    have h1 := (regsOnly_writeElem s x c m lat (fun l => v l % 2 ^ 32)).home hh
    have h2 := writable_writeElem s x c m lat (fun l => v l % 2 ^ 32) (c + 1) (hw hv).2
    have hl' := has_lt hl
    constructor
    · rw [rawElem_writeElem _ x (c + 1) m lat _ low hlow hm h1 (fun _ => h2) c l hl',
        rawElem_writeElem s x c m lat _ low hlow hm hh (fun h => (hw h).1) c l hl']
      simp [putVal, hv, hl]
    · rw [rawElem_writeElem _ x (c + 1) m lat _ low hlow hm h1 (fun _ => h2) (c + 1) l hl']
      simp [putVal, hc hv, hl]
  · intro hs low' h'
    rw [hlow] at h'
    cases h'
    simp only [writeOpd, isS_not_isV hs, hs, if_true, Bool.false_eq_true, if_false]
    rw [rawElem_writeElem s x c m lat _ low hlow hm hh (by simp [isS_not_isV hs]) c 0 (by omega)]
    simp [putVal, isS_not_isV hs, hs]
  · intro hs low' h'
    rw [hlow] at h'
    cases h'
    obtain ⟨h1, h2⟩ := isH_not hs
    simp only [writeOpd, h1, h2, hs, Bool.true_or, if_true, Bool.false_eq_true, if_false]
    rw [rawElem_writeElem s x c m lat _ low hlow hm hh (by simp [h1]) c 0 (by omega)]
    simp [putVal, h1, h2, hs]

/-- A predicate result. -/
theorem holds_writeOpdP (s : State) (x : Iss) (m : Mask) (c : Nat) (sx : Bool) (lat : Nat) (v : Nat → Bool) (hm : m ≠ 0)
    (hh : Home s x) : HoldsPred (writeOpd s x m c false sx lat (fun l => b2n (v l))) x m c v := by
  obtain ⟨low, hlow⟩ := lowLane_isSome hm
  intro hp hn l hl
  obtain ⟨h1, h2, h3⟩ := isP_not hp
  simp only [writeOpd, h1, h2, h3, hp, Bool.false_eq_true, if_false, Bool.or_true, if_true]
  rw [rawElem_writeElem s x c m lat _ low hlow hm hh (by simp [h1]) c l (has_lt hl)]
  simp only [putVal, h1, h2, h3, hp, Bool.false_eq_true, if_false, hl, if_true]
  simp [hn]
  cases v l <;> rfl

/-- A result of either width. -/
theorem holds_writeOpd (s : State) (x : Iss) (m : Mask) (c : Nat) (w64 sx : Bool) (lat : Nat) (v : Nat → Nat) (hm : m ≠ 0)
    (hh : Home s x) (hw : isV c = true → Writable s x m c ∧ (w64 = true → Writable s x m (c + 1)))
    (hc : w64 = true → isV c = true → isV (c + 1) = true) :
    Holds (writeOpd s x m c w64 sx lat v) x m c w64 sx v := by
  cases w64
  · exact holds_writeOpd32 s x m c sx lat v hm hh (fun h => (hw h).1)
  · exact holds_writeOpd64 s x m c sx lat v hm hh (fun h => ⟨(hw h).1, (hw h).2 rfl⟩) (hc rfl)

/-- A result leaves every other element alone. -/
theorem rawElem_writeOpd_other (s : State) (x : Iss) (m : Mask) (c : Nat) (w64 sx : Bool) (lat : Nat) (v : Nat → Nat) (hm : m ≠ 0)
    (hh : Home s x) (hw : isV c = true → Writable s x m c ∧ (w64 = true → Writable s x m (c + 1))) (c' l : Nat)
    (hc : c' ∉ resultCodes c w64) (hl : l < 32) :
    rawElem (writeOpd s x m c w64 sx lat v) x c' l = rawElem s x c' l := by
  obtain ⟨low, hlow⟩ := lowLane_isSome hm
  have one : ∀ (t : State) d w, Home t x → (isV d = true → Writable t x m d) → c' ≠ d →
      rawElem (writeElem t x d m lat w) x c' l = rawElem t x c' l := by
    intro t d w ht hd hne
    rw [rawElem_writeElem t x d m lat w low hlow hm ht hd c' l hl, if_neg hne]
  have hne : c' ≠ c := by
    rintro rfl; apply hc; unfold resultCodes; split <;> simp
  unfold writeOpd
  split
  · rename_i hv
    dsimp only
    split
    · rename_i h64
      have : c' ≠ c + 1 := by
        rintro rfl; apply hc; unfold resultCodes; simp [hv, h64]
      rw [one _ (c + 1) _ ((regsOnly_writeElem ..).home hh) (fun _ => writable_writeElem _ _ _ _ _ _ _ ((hw hv).2 h64)) this,
        one s c _ hh (fun h => (hw h).1) hne]
    · exact one s c _ hh (fun h => (hw h).1) hne
  · rename_i hv
    have hnv : isV c = true → Writable s x m c := fun h => absurd h hv
    split
    · exact one s c _ hh hnv hne
    · split
      · exact one s c _ hh hnv hne
      · rfl

/-- The issuing leaf and its sheet are in the state. -/
theorem issuer_some {s : State} {x : Iss} (h : issuer s = some x) :
    leafOf s x.core x.entry = some x.leaf ∧ sheetOf s x.core x.leaf.slot = some x.sheet := by
  unfold issuer at h
  split at h
  · cases h
  · split at h
    · cases h
    · split at h
      · cases h
      · rename_i hl _ hg
        cases h
        exact ⟨by assumption, by assumption⟩

theorem coreOf_consumeTag (s : State) (c n d : Nat) :
    coreOf (consumeTag s c n) d = { coreOf s d with windows := (coreOf (consumeTag s c n) d).windows } := by
  unfold consumeTag
  dsimp only
  split
  · by_cases h : d = c
    · subst h; simp
    · simp [coreOf_setCore_ne _ _ _ _ h]
  · rfl

theorem consumeTag_rest (s : State) (c n : Nat) : consumeTag s c n = { s with cores := (consumeTag s c n).cores } := by
  unfold consumeTag
  dsimp only
  split <;> rfl

/-- Consuming tags ends undefined windows and changes nothing else. -/
theorem coreOf_consumeSrc (s : State) (x : Iss) (u : List (Opd × Role)) (act : Mask) (d : Nat) :
    coreOf (consumeSrc s x u act) d = { coreOf s d with windows := (coreOf (consumeSrc s x u act) d).windows } := by
  unfold consumeSrc
  split
  · rfl
  · induction u generalizing s with
    | nil => rfl
    | cons a u ih =>
      simp only [List.foldl_cons]
      rw [ih]
      split
      · split
        · rw [coreOf_consumeTag]
        · rfl
      · rfl

@[simp] theorem core_regs_consumeSrc (s : State) (x : Iss) (u : List (Opd × Role)) (act : Mask) (d : Nat) :
    (coreOf (consumeSrc s x u act) d).regs = (coreOf s d).regs := by rw [coreOf_consumeSrc]
@[simp] theorem core_recs_consumeSrc (s : State) (x : Iss) (u : List (Opd × Role)) (act : Mask) (d : Nat) :
    (coreOf (consumeSrc s x u act) d).recs = (coreOf s d).recs := by rw [coreOf_consumeSrc]
@[simp] theorem core_sheets_consumeSrc (s : State) (x : Iss) (u : List (Opd × Role)) (act : Mask) (d : Nat) :
    (coreOf (consumeSrc s x u act) d).sheets = (coreOf s d).sheets := by rw [coreOf_consumeSrc]
@[simp] theorem core_leaves_consumeSrc (s : State) (x : Iss) (u : List (Opd × Role)) (act : Mask) (d : Nat) :
    (coreOf (consumeSrc s x u act) d).leaves = (coreOf s d).leaves := by rw [coreOf_consumeSrc]
@[simp] theorem core_tags_consumeSrc (s : State) (x : Iss) (u : List (Opd × Role)) (act : Mask) (d : Nat) :
    (coreOf (consumeSrc s x u act) d).tags = (coreOf s d).tags := by rw [coreOf_consumeSrc]
@[simp] theorem core_cycles_consumeSrc (s : State) (x : Iss) (u : List (Opd × Role)) (act : Mask) (d : Nat) :
    (coreOf (consumeSrc s x u act) d).cycles = (coreOf s d).cycles := by rw [coreOf_consumeSrc]
@[simp] theorem core_regPoison_consumeSrc (s : State) (x : Iss) (u : List (Opd × Role)) (act : Mask) (d : Nat) :
    (coreOf (consumeSrc s x u act) d).regPoison = (coreOf s d).regPoison := by rw [coreOf_consumeSrc]

theorem consumeSrc_rest (s : State) (x : Iss) (u : List (Opd × Role)) (act : Mask) :
    consumeSrc s x u act = { s with cores := (consumeSrc s x u act).cores } := by
  unfold consumeSrc
  split
  · rfl
  · induction u generalizing s with
    | nil => rfl
    | cons a u ih =>
      simp only [List.foldl_cons]
      rw [ih]
      split
      · split
        · rw [consumeTag_rest]
        · rfl
      · rfl

/-- An instruction that passes its checks has its effect. -/
theorem issueOp_runs {s : State} {x : Iss} {h : Hdr} {g : Sig} {act : Mask} (r : Runs s x h g act)
    (body : State → Iss → Mask → State) : issueOp s h g body = .next (body (consumeSrc s x g.uses act) x act) := by
  simp [issueOp, r.issues, r.passes]

/-- An instruction that changes no control and passes its checks has its effect, and its leaf goes on. -/
theorem plainOp_runs {s : State} {x : Iss} {h : Hdr} {g : Sig} {act : Mask} (r : Runs s x h g act)
    (f : State → Iss → Mask → State) :
    plainOp s h g f = .next (doneOp (f (consumeSrc s x g.uses act) x act) x h) := by
  rw [plainOp, issueOp_runs r]

theorem Runs.home {s : State} {x : Iss} {h : Hdr} {g : Sig} {act : Mask} (r : Runs s x h g act) :
    Home (consumeSrc s x g.uses act) x := by
  refine ⟨x.sheet, ?_, rfl⟩
  have := (issuer_some r.issues).2
  unfold sheetOf at *
  rw [coreOf_consumeSrc]; exact this

theorem leafOf_consumeSrc (s : State) (x : Iss) (u : List (Opd × Role)) (act : Mask) (c e : Nat) :
    leafOf (consumeSrc s x u act) c e = leafOf s c e := by
  unfold leafOf; rw [coreOf_consumeSrc]

theorem writable_consumeSrc (s : State) (x : Iss) (u : List (Opd × Role)) (act m : Mask) (c : Nat) :
    Writable (consumeSrc s x u act) x m c ↔ Writable s x m c :=
  writable_congr (by rw [coreOf_consumeSrc]) m c

/-- Consuming tags leaves every element as it is. -/
theorem rawElem_consumeSrc (s : State) (x : Iss) (u : List (Opd × Role)) (act : Mask) (c l : Nat) :
    rawElem (consumeSrc s x u act) x c l = rawElem s x c l := by
  simp only [rawElem, physReg, sReg, sheetOf, core_regs_consumeSrc, core_recs_consumeSrc, core_sheets_consumeSrc]

theorem now_consumeSrc (s : State) (x : Iss) (u : List (Opd × Role)) (act : Mask) (c : Nat) :
    now (consumeSrc s x u act) c = now s c := by unfold now; rw [coreOf_consumeSrc]

theorem flightVal_congr {s t : State} (x : Iss) (c l : Nat) (h1 : t.couple = s.couple) (h2 : now t x.core = now s x.core)
    (h3 : t.free = s.free) (fs : List InFlight) (v : Nat) : flightVal t x c l fs v = flightVal s x c l fs v := by
  induction fs generalizing v with
  | nil => rfl
  | cons f fs ih => simp only [flightVal, byFirst, h1, h2, h3, ih]; cases f.sets <;> rfl

/-- Consuming tags leaves what a reader gets as it is. -/
theorem readElem_consumeSrc (s : State) (x : Iss) (u : List (Opd × Role)) (act : Mask) (c l : Nat) :
    readElem (consumeSrc s x u act) x c l = readElem s x c l := by
  have hc : (consumeSrc s x u act).couple = s.couple := by rw [consumeSrc_rest]
  have hf : (consumeSrc s x u act).free = s.free := by rw [consumeSrc_rest]
  have hi : flightsOn (consumeSrc s x u act) x c l = flightsOn s x c l := by
    simp only [flightsOn, sheetOf, core_sheets_consumeSrc]
  simp only [readElem, hi, rawElem_consumeSrc, flightVal_congr x c l hc (now_consumeSrc s x u act x.core) hf]

theorem readOpd_consumeSrc (s : State) (x : Iss) (u : List (Opd × Role)) (act : Mask) (t : RdTy) (c l : Nat) :
    readOpd (consumeSrc s x u act) x t c l = readOpd s x t c l := by
  have hl : (consumeSrc s x u act).launches = s.launches := by rw [consumeSrc_rest]
  have ht : (consumeSrc s x u act).ticks = s.ticks := by rw [consumeSrc_rest]
  have hr : launchRec (consumeSrc s x u act) x.sheet = launchRec s x.sheet := by simp [launchRec, launchOf, hl]
  have hk : sheetTask (consumeSrc s x u act) x.sheet = sheetTask s x.sheet := by simp [sheetTask, taskOf, launchOf, hl]
  have hp : ∀ c, readPred (consumeSrc s x u act) x c = readPred s x c := by
    intro c; simp only [readPred, readElem_consumeSrc]
  have hc : (consumeSrc s x u act).couple = s.couple := by rw [consumeSrc_rest]
  have hg : ∀ n, tagSeen (consumeSrc s x u act) x.core n = tagSeen s x.core n := by
    intro n
    have hk : (coreOf (consumeSrc s x u act) x.core).tags = (coreOf s x.core).tags := by rw [coreOf_consumeSrc]
    simp only [tagSeen, tagOf, now_consumeSrc, hc, hk]; rfl
  have hs : ∀ c l, specialVal (consumeSrc s x u act) x c l = specialVal s x c l := by
    intro c l
    simp only [specialVal, hr, hk, now_consumeSrc, ht]
  simp only [readOpd, readElem_consumeSrc, hp, hg, hs]

theorem readBit_consumeSrc (s : State) (x : Iss) (u : List (Opd × Role)) (act : Mask) (c l : Nat) :
    readBit (consumeSrc s x u act) x c l = readBit s x c l := by
  simp only [readBit, readElem_consumeSrc]

/-- The leaf goes on at `pc`. -/
theorem retireAt_stands {s : State} {x : Iss} (hl : leafOf s x.core x.entry = some x.leaf) (h : Hdr) (e : Bool) (pc : DWord) :
    StandsAt (retireAt s x.core x.entry h e pc) x x.leaf.mask pc := by
  simp only [retireAt, hl]
  exact ⟨_, leafOf_setLeaf .., rfl, rfl, rfl, rfl, rfl⟩

theorem doneOp_gone {s : State} {x : Iss} (hl : leafOf s x.core x.entry = some x.leaf) (h : Hdr) : GoneOn (doneOp s x h) x :=
  retireAt_stands hl h false _

/-- Going on touches no register. -/
theorem rawElem_retireAt (s : State) (x : Iss) (h : Hdr) (e : Bool) (pc : DWord) (c l : Nat) :
    rawElem (retireAt s x.core x.entry h e pc) x c l = rawElem s x c l := by
  unfold retireAt
  split
  · rfl
  · simp [rawElem, physReg, sReg]

theorem rawElem_doneOp (s : State) (x : Iss) (h : Hdr) (c l : Nat) : rawElem (doneOp s x h) x c l = rawElem s x c l :=
  rawElem_retireAt ..

theorem holds_doneOp {s : State} {x : Iss} {h : Hdr} {m : Mask} {c : Nat} {w64 sx : Bool} {v : Nat → Nat}
    (hh : Holds s x m c w64 sx v) : Holds (doneOp s x h) x m c w64 sx v := by
  unfold Holds Holds64 Holds32 at *
  simpa only [rawElem_doneOp] using hh

theorem holdsPred_doneOp {s : State} {x : Iss} {h : Hdr} {m : Mask} {c : Nat} {v : Nat → Bool}
    (hh : HoldsPred s x m c v) : HoldsPred (doneOp s x h) x m c v := by
  unfold HoldsPred at *
  simpa only [rawElem_doneOp] using hh

/-- An instruction that passes its checks names only operands that its uses accept (10 R237), and its modifiers are accepted. -/
theorem Runs.legal {s : State} {x : Iss} {h : Hdr} {g : Sig} {act : Mask} (r : Runs s x h g act) :
    g.ok = true ∧ ∀ u ∈ g.uses, opdLegal x.sheet u.2 u.1.toNat = true := by
  have hp := r.passes
  unfold vet at hp
  split at hp
  · cases hp
  · rename_i hn
    simp only [Bool.or_eq_true, Bool.not_eq_true', not_or, Bool.not_eq_false] at hn
    exact ⟨hn.1, List.all_eq_true.1 hn.2⟩

/-- A pair of v-registers that a use accepts lies in the v-registers. -/
theorem pair_isV {h : Sheet} {c : Nat} (hl : opdLegal h (.dst true) c = true) (hv : isV c = true) : isV (c + 1) = true := by
  have hs : isS c = false := by simp [isS, isV] at *; omega
  have hn : (c == 0x1FF) = false := by simp [isV] at hv ⊢; omega
  simp only [opdLegal, hs, hn, Bool.or_false, if_true, Bool.and_eq_true, isV, decide_eq_true_eq, beq_iff_eq] at *
  omega

/-- A one-result instruction completes and its destination holds the result. -/
theorem gives_plain {i : Instr} {h : Hdr} {g : Sig} {c : Nat} {w64 sx : Bool} {P : State → Iss → Mask → Nat → Nat → Prop}
    (lat : Nat) (v : State → Iss → Mask → Nat → Nat)
    (hex : ∀ s, exec i s = plainOp s h g (fun s x act => writeOpd s x act c w64 sx lat (v s x act)))
    (hc : ∀ s x act, Runs s x h g act → w64 = true → isV c = true → isV (c + 1) = true)
    (hP : ∀ s x act l, Runs s x h g act → act.has l = true → P s x act l (v (consumeSrc s x g.uses act) x act l)) :
    Gives i h g c w64 sx P := by
  intro s x act r hw
  refine ⟨_, v (consumeSrc s x g.uses act) x act, (hex s).trans (plainOp_runs r _), ?_, ?_, fun l hl => hP s x act l r hl⟩
  · apply doneOp_gone
    rw [(regsOnly_writeOpd ..).leaf, leafOf_consumeSrc]
    exact (issuer_some r.issues).1
  · apply holds_doneOp
    refine holds_writeOpd _ x act c w64 sx lat _ r.some_lane r.home ?_ (hc s x act r)
    intro hv
    obtain ⟨h1, h2⟩ := hw hv
    exact ⟨(writable_consumeSrc ..).2 h1, fun h => (writable_consumeSrc ..).2 (h2 h)⟩

end Sys2Proof.Machine
end

