-- ==== Sys2Proof/Laws/Flags.lean ====
section
/-!
SUPPORT. What raising and clearing the sticky flags does (11 R287), and the bounds of what an operand reads.
-/
namespace Sys2Proof.Machine

theorem isE_code {i : Nat} (hi : i < 5) : isE (0x198 + i) = true := by simp [isE]; omega

/-- Writing flag `i`: the other elements are left alone. -/
theorem rawElem_writeFlag (s : State) (x : Iss) (i : Nat) (hi : i < 5) (m : Mask) (lat : Nat) (v : Nat → Nat) (hm : m ≠ 0)
    (hh : Home s x) (c' l : Nat) (hl : l < 32) :
    rawElem (writeElem s x (0x198 + i) m lat v) x c' l =
      if c' = 0x198 + i then (if m.has l then b2n (v l != 0) else rawElem s x (0x198 + i) l) else rawElem s x c' l := by
  obtain ⟨low, hlow⟩ := lowLane_isSome hm
  have he := isE_code hi
  obtain ⟨h1, h2, h3, h4⟩ := isE_not he
  rw [rawElem_writeElem s x (0x198 + i) m lat v low hlow hm hh (by simp [h1]) c' l hl]
  simp only [putVal, h1, h2, h3, h4, he, Bool.false_and, Bool.false_or, Bool.false_eq_true, if_false, if_true]

/-- A fold of writes to the flags below `n`, each from what the flag held before. -/
theorem foldFlags (x : Iss) (m : Mask) (w : State → Nat → State) (b : Nat → Nat → Bool → Bool)
    (hw : ∀ s i, Home s x → i < 5 → RegsOnly s (w s i) x ∧ ∀ c' l, l < 32 → rawElem (w s i) x c' l =
      if c' = 0x198 + i then (if m.has l then b2n (b i l (flagBit s x i l)) else rawElem s x (0x198 + i) l) else rawElem s x c' l)
    (n : Nat) (hn : n ≤ 5) (s : State) (hh : Home s x) :
    RegsOnly s ((List.range n).foldl w s) x ∧
    (∀ c' l, l < 32 → (∀ i, i < n → c' ≠ 0x198 + i) → rawElem ((List.range n).foldl w s) x c' l = rawElem s x c' l) ∧
    ∀ i, i < n → ∀ l, m.has l = true → flagBit ((List.range n).foldl w s) x i l = b i l (flagBit s x i l) := by
  induction n with
  | zero => exact ⟨RegsOnly.refl s x, fun _ _ _ _ => rfl, fun _ h => absurd h (by omega)⟩
  | succ n ih =>
    obtain ⟨i1, i2, i3⟩ := ih (by omega)
    rw [List.range_succ, List.foldl_append]
    simp only [List.foldl_cons, List.foldl_nil]
    generalize (List.range n).foldl w s = t at i1 i2 i3
    obtain ⟨j1, j2⟩ := hw t n (i1.home hh) (by omega)
    refine ⟨i1.trans j1, ?_, ?_⟩
    · intro c' l hl hc
      rw [j2 c' l hl, if_neg (hc n (by omega)), i2 c' l hl (fun i hi => hc i (by omega))]
    · intro i hi l hl
      have hl' := has_lt hl
      rcases Nat.lt_succ_iff_lt_or_eq.1 hi with h | rfl
      · rw [← i3 i h l hl]
        unfold flagBit
        rw [j2 _ l hl', if_neg (by omega)]
      · have : flagBit t x i l = flagBit s x i l := by
          unfold flagBit
          rw [i2 _ l hl' (fun j hj => by omega)]
        rw [← this]
        conv_lhs => unfold flagBit
        rw [j2 _ l hl', if_pos rfl, if_pos hl]
        generalize b i l (flagBit t x i l) = z
        cases z <;> rfl

theorem rawElem_flag (s : State) (x : Iss) (i l : Nat) (hi : i < 5) :
    rawElem s x (0x198 + i) l = b2n ((predRaw ((sheetOf s x.core x.leaf.slot).getD x.sheet) (0x198 + i)).has l) := by
  obtain ⟨h1, h2, h3, h4⟩ := isE_not (isE_code hi)
  simp [rawElem, h1, h2, h3, h4, isE_code hi]

theorem flagBit_raw (s : State) (x : Iss) (i l : Nat) (hi : i < 5) :
    flagBit s x i l = (predRaw ((sheetOf s x.core x.leaf.slot).getD x.sheet) (0x198 + i)).has l := by
  unfold flagBit
  rw [rawElem_flag s x i l hi]
  cases (predRaw ((sheetOf s x.core x.leaf.slot).getD x.sheet) (0x198 + i)).has l <;> rfl

theorem b2n_bne (b : Bool) : (b2n b != 0) = b := by cases b <;> rfl

theorem regsOnly_markRaise (s : State) (x : Iss) (m k : Mask) : RegsOnly s (markRaise s x m k) x := by
  unfold markRaise
  split
  · exact RegsOnly.refl s x
  · exact regsOnly_modSheet _ _ _ (fun _ => rfl)

theorem rawElem_markRaise (s : State) (x : Iss) (m k : Mask) (hh : Home s x) (c l : Nat) :
    rawElem (markRaise s x m k) x c l = rawElem s x c l := by
  obtain ⟨h, hs, _⟩ := hh
  unfold markRaise
  split
  · rfl
  · simp only [modSheet, hs]
    exact rawElem_congr c l (by simp) (by simp) ⟨h, _, hs, by simp; rfl, by simp⟩

/-- Raising flags: registers only; no other element changes; a flag is set where it was or is raised. -/
theorem raiseFlags_spec (s : State) (x : Iss) (m : Mask) (lat : Nat) (f : Nat → Flags) (hm : m ≠ 0) (hh : Home s x) :
    RegsOnly s (raiseFlags s x m lat f) x ∧
    (∀ c' l, l < 32 → isE c' = false → rawElem (raiseFlags s x m lat f) x c' l = rawElem s x c' l) ∧
    FlagsRaised s (raiseFlags s x m lat f) x m f := by
  obtain ⟨h1, h2, h3⟩ := foldFlags x m (fun s i => markRaise (writeElem s x (0x198 + i) m lat (fun l =>
      b2n ((predRaw ((sheetOf s x.core x.leaf.slot).getD x.sheet) (0x198 + i)).has l || (f l).getLsbD i))) x m
      (maskOf (fun l => m.has l && (f l).getLsbD i)))
    (fun i l o => o || (f l).getLsbD i) (fun t i ht hi => ⟨(regsOnly_writeElem ..).trans (regsOnly_markRaise ..), fun c' l hl => by
      rw [rawElem_markRaise _ x m _ ((regsOnly_writeElem ..).home ht)]
      rw [rawElem_writeFlag t x i hi m lat _ hm ht c' l hl]
      simp only [b2n_bne, flagBit_raw t x i l hi]⟩) 5 (by omega) s hh
  refine ⟨h1, fun c' l hl hc => h2 c' l hl (fun i hi e => ?_), fun l hl i hi => h3 i hi l hl⟩
  rw [e, isE_code hi] at hc
  cases hc

/-- Clearing flags: registers only; no other element changes; a flag is clear where it is named. -/
theorem clearFlags_spec (s : State) (x : Iss) (m : Mask) (lat : Nat) (sel : Flags) (hm : m ≠ 0) (hh : Home s x) :
    RegsOnly s (clearFlags s x m lat sel) x ∧
    (∀ c' l, l < 32 → isE c' = false → rawElem (clearFlags s x m lat sel) x c' l = rawElem s x c' l) ∧
    ∀ l, m.has l = true → ∀ i, i < 5 → flagBit (clearFlags s x m lat sel) x i l = (flagBit s x i l && !sel.getLsbD i) := by
  obtain ⟨h1, h2, h3⟩ := foldFlags x m (fun s i => if sel.getLsbD i then writeElem s x (0x198 + i) m lat (fun _ => 0) else s)
    (fun i _ o => o && !sel.getLsbD i) (fun t i ht hi => by
      split
      · rename_i hs
        refine ⟨regsOnly_writeElem .., fun c' l hl => ?_⟩
        rw [rawElem_writeFlag t x i hi m lat _ hm ht c' l hl]
        simp only [hs, Bool.not_true, Bool.and_false]
        rfl
      · rename_i hs
        refine ⟨RegsOnly.refl t x, fun c' l hl => ?_⟩
        split
        · rename_i e
          subst e
          split
          · rw [rawElem_flag t x i l hi, flagBit_raw t x i l hi]; simp [hs]
          · rfl
        · rfl) 5 (by omega) s hh
  refine ⟨h1, fun c' l hl hc => h2 c' l hl (fun i hi e => ?_), fun l hl i hi => h3 i hi l hl⟩
  rw [e, isE_code hi] at hc
  cases hc

theorem holds32_congr {s t : State} {x : Iss} {m : Mask} {c : Nat} {sx : Bool} {v : Nat → Nat}
    (hc : ∀ l, l < 32 → rawElem t x c l = rawElem s x c l) (h : Holds32 s x m c sx v) : Holds32 t x m c sx v := by
  obtain ⟨h1, h2, h3⟩ := h
  refine ⟨fun hv l hl => by rw [hc l (has_lt hl), h1 hv l hl], fun hs low hl => by rw [hc 0 (by omega), h2 hs low hl],
    fun hs low hl => by rw [hc 0 (by omega), h3 hs low hl]⟩

theorem isV_not_isE {c : Nat} (h : isV c = true) : isE c = false := by simp [isV, isE] at *; omega

/-- A register result stands when flags are raised after it. -/
theorem holds_noE {s t : State} {x : Iss} {m : Mask} {c : Nat} {w64 sx : Bool} {v : Nat → Nat}
    (hc : ∀ c' l, l < 32 → isE c' = false → rawElem t x c' l = rawElem s x c' l)
    (hp : w64 = true → isV c = true → isV (c + 1) = true) (h : Holds s x m c w64 sx v) : Holds t x m c w64 sx v := by
  cases w64
  · obtain ⟨h1, h2, h3⟩ := h
    refine ⟨fun hv l hl => ?_, fun hs low hl => ?_, fun hs low hl => ?_⟩
    · rw [hc c l (has_lt hl) (isV_not_isE hv), h1 hv l hl]
    · rw [hc c 0 (by omega) (by simp [isS, isE] at *; omega), h2 hs low hl]
    · rw [hc c 0 (by omega) (by simp [isH, isE] at *; omega), h3 hs low hl]
  · obtain ⟨h1, h2, h3⟩ := h
    refine ⟨fun hv l hl => ?_, fun hs low hl => ?_, fun hs low hl => ?_⟩
    · rw [hc c l (has_lt hl) (isV_not_isE hv), hc (c + 1) l (has_lt hl) (isV_not_isE (hp rfl hv))]; exact h1 hv l hl
    · rw [hc c 0 (by omega) (by simp [isS, isE] at *; omega), h2 hs low hl]
    · rw [hc c 0 (by omega) (by simp [isH, isE] at *; omega), h3 hs low hl]

theorem holdsPred_noE {s t : State} {x : Iss} {m : Mask} {c : Nat} {v : Nat → Bool}
    (hc : ∀ c' l, l < 32 → isE c' = false → rawElem t x c' l = rawElem s x c' l) (h : HoldsPred s x m c v) :
    HoldsPred t x m c v := by
  intro hp hn l hl
  rw [hc c l (has_lt hl) (by simp [isP, isE] at *; omega)]
  exact h hp hn l hl

theorem flagBit_doneOp (s : State) (x : Iss) (h : Hdr) (i l : Nat) : flagBit (doneOp s x h) x i l = flagBit s x i l := by
  simp only [flagBit, rawElem_doneOp]

theorem flagBit_consumeSrc (s : State) (x : Iss) (u : List (Opd × Role)) (act : Mask) (i l : Nat) :
    flagBit (consumeSrc s x u act) x i l = flagBit s x i l := by simp only [flagBit, rawElem_consumeSrc]

/-- A data destination is no flag. -/
theorem dst_isE {s : State} {x : Iss} {h : Hdr} {g : Sig} {act : Mask} (r : Runs s x h g act) (c : Opd) (b : Bool)
    (hu : (c, Role.dst b) ∈ g.uses) : isE c.toNat = false := by
  have := r.legal.2 _ hu
  simp only [opdLegal, Bool.or_eq_true, Bool.and_eq_true] at this
  rcases this with (⟨⟨h, _⟩, _⟩ | h) | h
  · exact isV_not_isE h
  · simp [isS, isE] at *; omega
  · have : c.toNat = 0x1FF := by simpa using h
    rw [this]; decide

/-- A one-result instruction that raises flags. -/
theorem gives_float {i : Instr} {h : Hdr} {g : Sig} {c : Nat} {op : State → Iss → Mask → Nat → Out} (lat : Nat)
    (hc : ∀ s x act, Runs s x h g act → isE c = false) (r : State → Iss → Mask → Nat → Out)
    (hex : ∀ s, exec i s = plainOp s h g (fun s x act => raiseFlags
      (writeOpd s x act c false false lat (fun l => (r s x act l).code)) x act lat (fun l => (r s x act l).flags)))
    (hr : ∀ s x act l, Runs s x h g act → act.has l = true → r (consumeSrc s x g.uses act) x act l = op s x act l) :
    FloatGives i h g c op := by
  intro s x act rr hw
  have hh := rr.home
  have hm := rr.some_lane
  set s0 := consumeSrc s x g.uses act with hs0
  set t1 := writeOpd s0 x act c false false lat (fun l => (r s0 x act l).code) with ht1
  obtain ⟨q1, q2, q3⟩ := raiseFlags_spec t1 x act lat (fun l => (r s0 x act l).flags) hm ((regsOnly_writeOpd ..).home hh)
  have hr' : ∀ l, act.has l = true → r s0 x act l = op s x act l := fun l hl => hr s x act l rr hl
  have hv : isV c = true → Writable s0 x act c := fun hv => (writable_consumeSrc ..).2 (hw hv).1
  have hold : Holds t1 x act c false false (fun l => (r s0 x act l).code) :=
    holds_writeOpd32 s0 x act c false lat _ hm hh hv
  refine ⟨_, (hex s).trans (plainOp_runs rr _), doneOp_gone ?_ _, ?_, ?_⟩
  · rw [q1.leaf, (regsOnly_writeOpd ..).leaf, leafOf_consumeSrc]
    exact (issuer_some rr.issues).1
  · have := holds_doneOp (h := h) (holds_noE q2 (by simp) hold)
    obtain ⟨h1, h2, h3⟩ := this
    refine ⟨fun hv l hl => ?_, fun hs low hl => ?_, fun hs low hl => ?_⟩
    · rw [h1 hv l hl]; dsimp only; rw [hr' l hl]
    · rw [h2 hs low hl]; dsimp only; rw [hr' low (lowLane_has hl)]
    · rw [h3 hs low hl]; dsimp only; rw [hr' low (lowLane_has hl)]
  · intro l hl i hi
    rw [flagBit_doneOp, q3 l hl i hi]
    dsimp only
    rw [hr' l hl]
    congr 1
    unfold flagBit
    rw [rawElem_writeOpd_other s0 x act c false false lat _ hm hh (fun h => ⟨hv h, by simp⟩) _ l ?_ (has_lt hl), rawElem_consumeSrc]
    simp only [resultCodes, Bool.and_false, Bool.false_eq_true, if_false, List.mem_singleton]
    rintro rfl
    have := hc s x act rr
    rw [isE_code hi] at this
    cases this

theorem rawElem_lt (s : State) (x : Iss) (c l : Nat) : rawElem s x c l < 2 ^ (if isV c then 32 else 64) := by
  unfold rawElem
  dsimp only
  split
  · exact BitVec.isLt _
  · split
    · exact BitVec.isLt _
    · split
      · exact lt_of_lt_of_le (BitVec.isLt _) (by decide)
      · split
        · unfold b2n; split <;> decide
        · decide

theorem flightVal_lt (s : State) (x : Iss) (c l : Nat) (fs : List InFlight) (v : Nat) (hv : v < 2 ^ (if isV c then 32 else 64)) :
    flightVal s x c l fs v < 2 ^ (if isV c then 32 else 64) := by
  have hm : ∀ n, n % (if isV c then 2 ^ 32 else 2 ^ 64) < 2 ^ (if isV c then 32 else 64) := by
    intro n; split <;> exact Nat.mod_lt _ (by decide)
  induction fs generalizing v with
  | nil => exact hv
  | cons f fs ih =>
    unfold flightVal
    dsimp only
    split
    · split
      · exact hv
      · exact ih _ (hm _)
    · split
      · split <;> decide
      · exact ih _ (hm _)

theorem readElem_lt (s : State) (x : Iss) (c l : Nat) : readElem s x c l < 2 ^ (if isV c then 32 else 64) :=
  flightVal_lt s x c l _ _ (rawElem_lt s x c l)

theorem wrapZ_lt (w : Nat) (z : Int) : wrapZ w z < 2 ^ w := by
  have hp : (0 : Int) < ((2 ^ w : Nat) : Int) := by exact_mod_cast Nat.two_pow_pos w
  have h1 := Int.emod_nonneg z (ne_of_gt hp)
  have h2 := Int.emod_lt_of_pos z hp
  unfold wrapZ
  omega

theorem fconst_lt (c : Nat) : fconst c < 2 ^ 32 := by
  unfold fconst
  split <;> decide

/-- An operand read at an integer type is a value of its width. -/
theorem readOpd_lt (s : State) (x : Iss) (w : Nat) (hw : w = 32 ∨ w = 64) (c l : Nat) : readOpd s x (rdW w) c l < 2 ^ w := by
  have hr := readElem_lt s x c l
  have hc32 : constVal .i32 c < 2 ^ 32 := by
    simp only [constVal]
    split
    · omega
    · split
      · exact wrapZ_lt 32 _
      · exact fconst_lt c
  have hc64 : constVal .i64 c < 2 ^ 64 := by
    simp only [constVal]
    split
    · omega
    · split
      · exact wrapZ_lt 64 _
      · exact lt_trans (fconst_lt c) (by decide)
  have ht := (tagSeen s x.core (tagNo x.sheet c)).status.isLt
  have hp := (readPred s x c).isLt
  rcases hw with rfl | rfl
  · simp only [rdW, readOpd]
    norm_num
    split
    · rename_i hv; simpa [hv] using hr
    · split
      · exact Nat.mod_lt _ (by decide)
      · split
        · omega
        · split
          · exact hp
          · split
            · exact Nat.mod_lt _ (by decide)
            · split
              · exact hc32
              · omega
  · simp only [rdW, readOpd]
    norm_num
    split
    · rename_i hv
      simp only [hv, if_true] at hr
      omega
    · split
      · exact Nat.mod_lt _ (by decide)
      · split
        · omega
        · split
          · omega
          · split
            · exact Nat.mod_lt _ (by decide)
            · split
              · exact hc64
              · omega

end Sys2Proof.Machine
end

