-- ==== Sys2Proof/Laws/Memory.lean ====
section
/-!
SUPPORT. The laws of memory: a byte written is read back, no other byte changes, and every operation that writes memory keeps
its canonical form.
-/
namespace Sys2Proof.Machine

@[simp] theorem putByte_mem (s : State) (a : Nat) (b : Byte) : (putByte s a b).mem = tset 0 s.mem a b := rfl

/-- A byte after a byte was written. -/
theorem memByte_putByte (s : State) (a j : Nat) (b : Byte) : memByte (putByte s a b) j = if j = a then b else memByte s j :=
  tget_tset 0 s.mem a j b

/-- A byte after bytes were written: one of them, or what stood there. -/
theorem memByte_putBytes (s : State) (a j : Nat) (bs : List Byte) :
    memByte (putBytes s a bs) j = if a ≤ j ∧ j < a + bs.length then bs.getD (j - a) 0 else memByte s j := by
  induction bs generalizing s a with
  | nil => have : ¬ (a ≤ j ∧ j < a) := by omega
           simp [putBytes, this]
  | cons b t ih =>
    rw [putBytes, ih, memByte_putByte]
    by_cases h : j = a
    · subst h
      have : ¬ (j + 1 ≤ j ∧ j < j + 1 + t.length) := by omega
      simp [this]
    · by_cases h2 : a + 1 ≤ j ∧ j < a + 1 + t.length
      · have h3 : a ≤ j ∧ j < a + (b :: t).length := by simp only [List.length_cons]; omega
        have h4 : j - a = (j - (a + 1)) + 1 := by omega
        rw [if_pos h2, if_pos h3, h4, List.getD_cons_succ]
      · have h3 : ¬ (a ≤ j ∧ j < a + (b :: t).length) := by simp only [List.length_cons]; omega
        rw [if_neg h2, if_neg h3, if_neg h]

/-- Bytes written are read back. -/
theorem memBytes_putBytes (s : State) (a : Nat) (bs : List Byte) : memBytes (putBytes s a bs) a bs.length = bs := by
  refine List.ext_getElem (by simp [memBytes]) fun i h1 h2 => ?_
  simp only [memBytes, List.getElem_map, List.getElem_range, memByte_putBytes]
  have : a ≤ a + i ∧ a + i < a + bs.length := by omega
  simp [this, List.getElem?_eq_getElem h2]

/-- Memory after bytes were written, away from them. -/
theorem memKept_putBytes (s : State) (a : Nat) (bs : List Byte) : MemKeptBut s (putBytes s a bs) a bs.length := by
  intro j h
  rw [memByte_putBytes, if_neg (by omega)]

theorem wf_putByte {s : State} (a : Nat) (b : Byte) (h : MemoryWf s) : MemoryWf (putByte s a b) := twf_tset 0 s.mem a b h

theorem wf_putBytes {s : State} (a : Nat) (bs : List Byte) (h : MemoryWf s) : MemoryWf (putBytes s a bs) := by
  induction bs generalizing s a with
  | nil => exact h
  | cons b t ih => exact ih _ (wf_putByte a b h)

theorem wf_storeMem {s : State} (a : Nat) (bs : List Byte) (h : MemoryWf s) : MemoryWf (storeMem s a bs) := wf_putBytes a bs h

theorem wf_writeHome {s : State} (line : Nat) (bs : List Byte) (pz : BitVec 16) (h : MemoryWf s) :
    MemoryWf (writeHome s line bs pz) := wf_putBytes (128 * line) bs h

@[simp] theorem dropPrivate_mem (s : State) (k line : Nat) : (dropPrivate s k line).mem = s.mem := rfl
@[simp] theorem dropHeld_mem (s : State) (k line : Nat) : (dropHeld s k line).mem = s.mem := rfl
@[simp] theorem dropStitches_mem (s : State) (line : Nat) : (dropStitches s line).mem = s.mem := rfl

theorem foldl_dropHeld_mem (hs : List (Nat × CLine)) (line : Nat) (s : State) :
    (hs.foldl (fun s h => dropHeld s h.1 line) s).mem = s.mem := by
  induction hs generalizing s with
  | nil => rfl
  | cons h t ih => simp [ih]

@[simp] theorem discard_mem (s : State) (line : Nat) : (discard s line).mem = s.mem := by
  simp [discard, foldl_dropHeld_mem]

theorem wf_collapse {s : State} (line : Nat) (h : MemoryWf s) : MemoryWf (collapse s line) := by
  unfold collapse
  dsimp only
  split
  · simpa [MemoryWf] using h
  · simpa [MemoryWf, foldl_dropHeld_mem] using wf_writeHome line _ _ h

theorem wf_coherentWrite {s : State} (a : Nat) (bs : List Byte) (h : MemoryWf s) : MemoryWf (coherentWrite s a bs) :=
  wf_storeMem a bs (wf_collapse _ h)

@[simp] theorem setFlag_mem (s : State) (region : Nat) (v : Bool) : (setFlag s region v).mem = s.mem := by
  unfold setFlag
  split <;> rfl

/-- Memory that loses bytes keeps its form. -/
theorem wf_filter {s t : State} (p : Host.Cell → Bool) (h : MemoryWf s) (ht : t.mem = s.mem.filter p) : MemoryWf t := by
  simp only [MemoryWf, ht]
  exact twf_filter 0 s.mem p h

theorem wf_of_mem {s t : State} (h : MemoryWf s) (ht : t.mem = s.mem) : MemoryWf t := by simpa [MemoryWf, ht] using h

theorem foldl_setFlag_mem (rs : List (Nat × Bool)) (s : State) : (rs.foldl (fun t r => setFlag t r.1 false) s).mem = s.mem := by
  induction rs generalizing s with
  | nil => rfl
  | cons r t ih => simp [ih]

/-- The bytes of a range that are written to zero (19 R451) leave memory in its form. -/
theorem wf_zeroRange {s : State} (lo hi : Nat) (h : MemoryWf s) : MemoryWf (zeroRange s lo hi) :=
  wf_filter (fun c => c.1 < lo || hi ≤ c.1) h (by rw [zeroRange, foldl_setFlag_mem])

/-- Where no window stands and no mapping is mixed, an access sees the bytes as they are. -/
theorem seenMem_plain {s : State} {a : Nat} {bs : List Byte} (hm : s.mixed = []) (h : memWins s a bs.length = []) : seenMem s a bs = bs := by
  simp [seenMem, seenMixed, hm, h]

@[simp] theorem noteTable_mem (s : State) (a n : Nat) : (noteTable s a n).mem = s.mem := by
  unfold noteTable
  dsimp only
  split <;> rfl

/-- Where no window stands, a write leaves undefined no more than the descriptors that it reaches. -/
theorem spoilMem_plain {s : State} {a n : Nat} (store : Bool) (h : memWins (noteTable s a n) a n = []) :
    spoilMem s a n store = noteTable s a n := by
  simp [spoilMem, h]

@[simp] theorem chipPut_mem (s : State) (c : Nat) (acc : Bool) (o : Nat) (bs : List Byte) : (chipPut s c acc o bs).mem = s.mem := by
  unfold chipPut
  split <;> rfl

@[simp] theorem noteHit_mem (s : State) (w : Nat × Window) (lo hi : Nat) : (noteHit s w lo hi).mem = s.mem := rfl

theorem foldl_chipPut_mem (ws : List Window) (c : Nat) (f : State → Window → List Byte) (s : State) :
    (ws.foldl (fun s w => chipPut s c true w.lo (f s w)) s).mem = s.mem := by
  induction ws generalizing s with
  | nil => rfl
  | cons w t ih => simp [ih]

@[simp] theorem spoilOp_mem (s : State) (c op : Nat) : (spoilOp s c op).mem = s.mem := by
  unfold spoilOp
  dsimp only
  rw [foldl_chipPut_mem]
  split <;> rfl

/-- What a write leaves undefined is still written byte by byte, so memory keeps its form. -/
theorem wf_spoilMem {s : State} (a n : Nat) (store : Bool) (h : MemoryWf s) : MemoryWf (spoilMem s a n store) := by
  unfold spoilMem
  dsimp only
  have h1 : MemoryWf (noteTable s a n) := wf_of_mem h (by simp)
  split
  · exact h1
  · have hs : MemoryWf { noteTable s a n with free := (noteTable s a n).free + 1 } := h1
    generalize ({ noteTable s a n with free := (noteTable s a n).free + 1 } : State) = u at hs ⊢
    generalize List.filter _ (memWins (noteTable s a n) a n) = ws
    clear * - hs
    induction ws generalizing u with
    | nil => exact hs
    | cons w t ih =>
      refine ih _ (wf_coherentWrite _ _ (wf_of_mem hs ?_))
      split <;> simp

/-- Memory at reset has the form. -/
theorem wf_reset : MemoryWf State.reset := by decide

/-- Writing bytes changes nothing but memory. -/
theorem putBytes_rest (s : State) (a : Nat) (bs : List Byte) : putBytes s a bs = { s with mem := (putBytes s a bs).mem } := by
  induction bs generalizing s a with
  | nil => rfl
  | cons b t ih => rw [putBytes, ih]; rfl

/-- A line that no cache holds, of which nothing is on its way and no word of which is poisoned reads as memory. -/
theorem coherentLine_plain (s : State) (line : Nat) (hc : s.clusters = []) (hm : s.msgs = []) (hu : s.unpicks = []) (hp : s.poison = []) :
    coherentLine s line = (memBytes s (128 * line) 128, 0) := by
  simp [coherentLine, currentHolder, holdersOf, movingLine, hc, hm, hu, hp, tget, tfind]

@[simp] theorem toBytes_length (n x : Nat) : (toBytes n x).length = n := by
  induction n generalizing x with
  | zero => rfl
  | succ n ih => simp [toBytes, ih]

/-- Bytes that follow one another, block by block. -/
theorem memBytes_append (s : State) (a n m : Nat) : memBytes s a (n + m) = memBytes s a n ++ memBytes s (a + n) m := by
  simp [memBytes, List.range_add, Nat.add_assoc]

end Sys2Proof.Machine
end

