-- ==== Sys2Proof/Laws/Pack.lean ====
section
/-!
SUPPORT. The laws of packing fields into a number and reading them back.
-/
namespace Sys2Proof.Laws

/-- A packed number stays below the sum of its widths. -/
theorem pack_lt : ∀ fs : List (Nat × Nat), pack fs < 2 ^ (fs.map Prod.fst).sum
  | [] => by simp [pack]
  | (w, v) :: t => by
    have h := pack_lt t
    have hv : v % 2 ^ w < 2 ^ w := Nat.mod_lt _ (Nat.two_pow_pos w)
    have : 2 ^ w * (pack t + 1) ≤ 2 ^ w * 2 ^ (t.map Prod.fst).sum := Nat.mul_le_mul_left _ h
    rw [Nat.mul_add, Nat.mul_one] at this
    simp only [pack, List.map_cons, List.sum_cons, Nat.pow_add]
    omega

/-- Reading packed fields back gives each its value. -/
theorem unpack_pack : ∀ fs : List (Nat × Nat), unpack (fs.map Prod.fst) (pack fs) = fs.map (fun f => f.2 % 2 ^ f.1)
  | [] => rfl
  | (w, v) :: t => by
    have hv : v % 2 ^ w < 2 ^ w := Nat.mod_lt _ (Nat.two_pow_pos w)
    simp only [pack, List.map_cons, unpack, Nat.add_mul_mod_self_left, Nat.mod_mod]
    rw [Nat.add_mul_div_left _ _ (Nat.two_pow_pos w), Nat.div_eq_of_lt hv, Nat.zero_add, unpack_pack t]

/-- Packing what was read from a number below the sum of the widths gives the number. -/
theorem pack_unpack : ∀ (ws : List Nat) (x : Nat), x < 2 ^ ws.sum → pack (ws.zip (unpack ws x)) = x
  | [], x, h => by simp at h; simp [unpack, pack, h]
  | w :: t, x, h => by
    have hx : x / 2 ^ w < 2 ^ t.sum := by
      rw [Nat.div_lt_iff_lt_mul (Nat.two_pow_pos w), Nat.mul_comm, ← Nat.pow_add]
      simpa using h
    simp only [unpack, List.zip_cons_cons, pack, Nat.mod_mod, pack_unpack t _ hx]
    exact Nat.mod_add_div x (2 ^ w)

/-- The header and the major stand in 24 bits. -/
theorem packHdr_lt (opc : Nat) (h : Hdr) : packHdr opc h < 2 ^ 24 :=
  pack_lt [(3, h.cls.toNat), (1, b2n h.gc), (4, h.gb.toNat), (4, h.ga.toNat), (4, h.stall.toNat), (1, b2n h.e), (7, opc)]

/-- Fields of 72 bits under a header are a word of 96. -/
theorem word_lt {p : Nat} (opc : Nat) (h : Hdr) (hp : p < 2 ^ 72) : p + 2 ^ 72 * packHdr opc h < 2 ^ 96 := by
  have := packHdr_lt opc h
  omega

theorem encR_lt (opc : Nat) (f : FmtR) : encR opc f < 2 ^ 96 := word_lt opc f.h (pack_lt _)
theorem encI_lt (opc : Nat) (f : FmtI) : encI opc f < 2 ^ 96 := word_lt opc f.h (pack_lt _)
theorem encM_lt (opc : Nat) (f : FmtM) : encM opc f < 2 ^ 96 := word_lt opc f.h (pack_lt _)
theorem encB_lt (opc : Nat) (f : FmtB) : encB opc f < 2 ^ 96 := word_lt opc f.h (pack_lt _)
theorem encA_lt (opc : Nat) (f : FmtA) : encA opc f < 2 ^ 96 := word_lt opc f.h (pack_lt _)
theorem encX_lt (opc : Nat) (f : FmtX) : encX opc f < 2 ^ 96 := word_lt opc f.h (pack_lt _)
theorem encG_lt (opc : Nat) (f : FmtG) : encG opc f < 2 ^ 96 := word_lt opc f.h (pack_lt _)

/-- The major and the header can be read back from a word of fields below 2^72. -/
theorem unpackHdr_word {p opc : Nat} (h : Hdr) (hp : p < 2 ^ 72) (ho : opc < 128) :
    unpackHdr ((p + 2 ^ 72 * packHdr opc h) / 2 ^ 72 % 2 ^ 24) = (opc, h) := by
  have hd : (p + 2 ^ 72 * packHdr opc h) / 2 ^ 72 % 2 ^ 24 = packHdr opc h := by
    have := packHdr_lt opc h
    omega
  rw [hd, unpackHdr, packHdr,
    show hdrWidths = List.map Prod.fst [(3, h.cls.toNat), (1, b2n h.gc), (4, h.gb.toNat), (4, h.ga.toNat), (4, h.stall.toNat),
      (1, b2n h.e), (7, opc)] from rfl, unpack_pack]
  obtain ⟨e, st, ga, gb, gc, cls⟩ := h
  simp only [List.map_cons, List.map_nil, Nat.mod_eq_of_lt (show opc < 2 ^ 7 from ho), Nat.pow_one,
    Prod.mk.injEq, true_and]
  simp [b2n, Nat.mod_eq_of_lt cls.isLt, Nat.mod_eq_of_lt ga.isLt, Nat.mod_eq_of_lt gb.isLt, Nat.mod_eq_of_lt st.isLt]
  cases e <;> cases gc <;> simp

end Sys2Proof.Laws
end

