-- ==== Sys2Proof/Laws/PerInstr.lean ====
section
/-!
SUPPORT. What every instruction's encoding is, constructor by constructor.
-/
namespace Sys2Proof.Laws.Encoding

/-- A well-formed instruction is no event and has a word of 96 bits (10 R234). -/
def Statement (i : Instr) : Prop := WellFormed i = true → i.isEvent = false ∧ encode i < 2 ^ 96

theorem bra (f : FmtB) : Statement (.bra f) := fun _ => ⟨rfl, encB_lt _ f⟩
theorem brx (f : FmtB) : Statement (.brx f) := fun _ => ⟨rfl, encB_lt _ f⟩
theorem call (f : FmtB) : Statement (.call f) := fun _ => ⟨rfl, encB_lt _ f⟩
theorem callInd (f : FmtB) : Statement (.callInd f) := fun _ => ⟨rfl, encB_lt _ f⟩
theorem ret (f : FmtB) : Statement (.ret f) := fun _ => ⟨rfl, encB_lt _ f⟩
theorem split (f : FmtR) : Statement (.split f) := fun _ => ⟨rfl, encR_lt _ f⟩
theorem join (f : FmtB) : Statement (.join f) := fun _ => ⟨rfl, encB_lt _ f⟩
theorem exitL (f : FmtR) : Statement (.exitL f) := fun _ => ⟨rfl, encR_lt _ f⟩
theorem yield (f : FmtR) : Statement (.yield f) := fun _ => ⟨rfl, encR_lt _ f⟩
theorem nop (f : FmtR) : Statement (.nop f) := fun _ => ⟨rfl, encR_lt _ f⟩
theorem trap (f : FmtG) : Statement (.trap f) := fun _ => ⟨rfl, encG_lt _ f⟩
theorem syscall (f : FmtG) : Statement (.syscall f) := fun _ => ⟨rfl, encG_lt _ f⟩
theorem rtt (f : FmtG) : Statement (.rtt f) := fun _ => ⟨rfl, encG_lt _ f⟩
theorem bkpt (f : FmtG) : Statement (.bkpt f) := fun _ => ⟨rfl, encG_lt _ f⟩
theorem iadd (f : FmtR) : Statement (.iadd f) := fun _ => ⟨rfl, encR_lt _ f⟩
theorem iadd3 (f : FmtR) : Statement (.iadd3 f) := fun _ => ⟨rfl, encR_lt _ f⟩
theorem isub (f : FmtR) : Statement (.isub f) := fun _ => ⟨rfl, encR_lt _ f⟩
theorem imul (f : FmtR) : Statement (.imul f) := fun _ => ⟨rfl, encR_lt _ f⟩
theorem imulh (f : FmtR) : Statement (.imulh f) := fun _ => ⟨rfl, encR_lt _ f⟩
theorem imad (f : FmtR) : Statement (.imad f) := fun _ => ⟨rfl, encR_lt _ f⟩
theorem imin (f : FmtR) : Statement (.imin f) := fun _ => ⟨rfl, encR_lt _ f⟩
theorem imax (f : FmtR) : Statement (.imax f) := fun _ => ⟨rfl, encR_lt _ f⟩
theorem iabs (f : FmtR) : Statement (.iabs f) := fun _ => ⟨rfl, encR_lt _ f⟩
theorem andB (f : FmtR) : Statement (.andB f) := fun _ => ⟨rfl, encR_lt _ f⟩
theorem orB (f : FmtR) : Statement (.orB f) := fun _ => ⟨rfl, encR_lt _ f⟩
theorem xorB (f : FmtR) : Statement (.xorB f) := fun _ => ⟨rfl, encR_lt _ f⟩
theorem notB (f : FmtR) : Statement (.notB f) := fun _ => ⟨rfl, encR_lt _ f⟩
theorem shl (f : FmtR) : Statement (.shl f) := fun _ => ⟨rfl, encR_lt _ f⟩
theorem shr (f : FmtR) : Statement (.shr f) := fun _ => ⟨rfl, encR_lt _ f⟩
theorem sar (f : FmtR) : Statement (.sar f) := fun _ => ⟨rfl, encR_lt _ f⟩
theorem rot (f : FmtR) : Statement (.rot f) := fun _ => ⟨rfl, encR_lt _ f⟩
theorem bfe (f : FmtR) : Statement (.bfe f) := fun _ => ⟨rfl, encR_lt _ f⟩
theorem bfi (f : FmtR) : Statement (.bfi f) := fun _ => ⟨rfl, encR_lt _ f⟩
theorem popc (f : FmtR) : Statement (.popc f) := fun _ => ⟨rfl, encR_lt _ f⟩
theorem clz (f : FmtR) : Statement (.clz f) := fun _ => ⟨rfl, encR_lt _ f⟩
theorem brev (f : FmtR) : Statement (.brev f) := fun _ => ⟨rfl, encR_lt _ f⟩
theorem sel (f : FmtR) : Statement (.sel f) := fun _ => ⟨rfl, encR_lt _ f⟩
theorem mov (f : FmtR) : Statement (.mov f) := fun _ => ⟨rfl, encR_lt _ f⟩
theorem movi (f : FmtI) : Statement (.movi f) := fun _ => ⟨rfl, encI_lt _ f⟩
theorem lea (f : FmtR) : Statement (.lea f) := fun _ => ⟨rfl, encR_lt _ f⟩
theorem icmp (f : FmtR) : Statement (.icmp f) := fun _ => ⟨rfl, encR_lt _ f⟩
theorem pset (f : FmtR) : Statement (.pset f) := fun _ => ⟨rfl, encR_lt _ f⟩
theorem plop (f : FmtR) : Statement (.plop f) := fun _ => ⟨rfl, encR_lt _ f⟩
theorem pmov (f : FmtR) : Statement (.pmov f) := fun _ => ⟨rfl, encR_lt _ f⟩
theorem iaddImm (f : FmtI) : Statement (.iaddImm f) := fun _ => ⟨rfl, encI_lt _ f⟩
theorem isubImm (f : FmtI) : Statement (.isubImm f) := fun _ => ⟨rfl, encI_lt _ f⟩
theorem imulImm (f : FmtI) : Statement (.imulImm f) := fun _ => ⟨rfl, encI_lt _ f⟩
theorem imulhImm (f : FmtI) : Statement (.imulhImm f) := fun _ => ⟨rfl, encI_lt _ f⟩
theorem iminImm (f : FmtI) : Statement (.iminImm f) := fun _ => ⟨rfl, encI_lt _ f⟩
theorem imaxImm (f : FmtI) : Statement (.imaxImm f) := fun _ => ⟨rfl, encI_lt _ f⟩
theorem andImm (f : FmtI) : Statement (.andImm f) := fun _ => ⟨rfl, encI_lt _ f⟩
theorem orImm (f : FmtI) : Statement (.orImm f) := fun _ => ⟨rfl, encI_lt _ f⟩
theorem xorImm (f : FmtI) : Statement (.xorImm f) := fun _ => ⟨rfl, encI_lt _ f⟩
theorem shlImm (f : FmtI) : Statement (.shlImm f) := fun _ => ⟨rfl, encI_lt _ f⟩
theorem shrImm (f : FmtI) : Statement (.shrImm f) := fun _ => ⟨rfl, encI_lt _ f⟩
theorem sarImm (f : FmtI) : Statement (.sarImm f) := fun _ => ⟨rfl, encI_lt _ f⟩
theorem rotImm (f : FmtI) : Statement (.rotImm f) := fun _ => ⟨rfl, encI_lt _ f⟩
theorem leaImm (f : FmtI) : Statement (.leaImm f) := fun _ => ⟨rfl, encI_lt _ f⟩
theorem icmpImm (f : FmtI) : Statement (.icmpImm f) := fun _ => ⟨rfl, encI_lt _ f⟩
theorem fadd (f : FmtR) : Statement (.fadd f) := fun _ => ⟨rfl, encR_lt _ f⟩
theorem fsub (f : FmtR) : Statement (.fsub f) := fun _ => ⟨rfl, encR_lt _ f⟩
theorem fmul (f : FmtR) : Statement (.fmul f) := fun _ => ⟨rfl, encR_lt _ f⟩
theorem ffma (f : FmtR) : Statement (.ffma f) := fun _ => ⟨rfl, encR_lt _ f⟩
theorem fmin (f : FmtR) : Statement (.fmin f) := fun _ => ⟨rfl, encR_lt _ f⟩
theorem fmax (f : FmtR) : Statement (.fmax f) := fun _ => ⟨rfl, encR_lt _ f⟩
theorem fcmp (f : FmtR) : Statement (.fcmp f) := fun _ => ⟨rfl, encR_lt _ f⟩
theorem fclass (f : FmtR) : Statement (.fclass f) := fun _ => ⟨rfl, encR_lt _ f⟩
theorem frnd (f : FmtR) : Statement (.frnd f) := fun _ => ⟨rfl, encR_lt _ f⟩
theorem faddImm (f : FmtI) : Statement (.faddImm f) := fun _ => ⟨rfl, encI_lt _ f⟩
theorem fsubImm (f : FmtI) : Statement (.fsubImm f) := fun _ => ⟨rfl, encI_lt _ f⟩
theorem fmulImm (f : FmtI) : Statement (.fmulImm f) := fun _ => ⟨rfl, encI_lt _ f⟩
theorem fminImm (f : FmtI) : Statement (.fminImm f) := fun _ => ⟨rfl, encI_lt _ f⟩
theorem fmaxImm (f : FmtI) : Statement (.fmaxImm f) := fun _ => ⟨rfl, encI_lt _ f⟩
theorem fcmpImm (f : FmtI) : Statement (.fcmpImm f) := fun _ => ⟨rfl, encI_lt _ f⟩
theorem cvt (f : FmtR) : Statement (.cvt f) := fun _ => ⟨rfl, encR_lt _ f⟩
theorem rcp (f : FmtR) : Statement (.rcp f) := fun _ => ⟨rfl, encR_lt _ f⟩
theorem rsq (f : FmtR) : Statement (.rsq f) := fun _ => ⟨rfl, encR_lt _ f⟩
theorem sqrt (f : FmtR) : Statement (.sqrt f) := fun _ => ⟨rfl, encR_lt _ f⟩
theorem exp2 (f : FmtR) : Statement (.exp2 f) := fun _ => ⟨rfl, encR_lt _ f⟩
theorem log2 (f : FmtR) : Statement (.log2 f) := fun _ => ⟨rfl, encR_lt _ f⟩
theorem sin (f : FmtR) : Statement (.sin f) := fun _ => ⟨rfl, encR_lt _ f⟩
theorem cos (f : FmtR) : Statement (.cos f) := fun _ => ⟨rfl, encR_lt _ f⟩
theorem shfl (f : FmtR) : Statement (.shfl f) := fun _ => ⟨rfl, encR_lt _ f⟩
theorem vote (f : FmtR) : Statement (.vote f) := fun _ => ⟨rfl, encR_lt _ f⟩
theorem redux (f : FmtR) : Statement (.redux f) := fun _ => ⟨rfl, encR_lt _ f⟩
theorem scan (f : FmtR) : Statement (.scan f) := fun _ => ⟨rfl, encR_lt _ f⟩
theorem matchV (f : FmtR) : Statement (.matchV f) := fun _ => ⟨rfl, encR_lt _ f⟩
theorem flagclr (f : FmtR) : Statement (.flagclr f) := fun _ => ⟨rfl, encR_lt _ f⟩
theorem ld (f : FmtM) : Statement (.ld f) := fun _ => ⟨rfl, encM_lt _ f⟩
theorem st (f : FmtM) : Statement (.st f) := fun _ => ⟨rfl, encM_lt _ f⟩
theorem stt (f : FmtA) : Statement (.stt f) := fun _ => ⟨rfl, encA_lt _ f⟩
theorem atom (f : FmtM) : Statement (.atom f) := fun _ => ⟨rfl, encM_lt _ f⟩
theorem red (f : FmtM) : Statement (.red f) := fun _ => ⟨rfl, encM_lt _ f⟩
theorem pref (f : FmtM) : Statement (.pref f) := fun _ => ⟨rfl, encM_lt _ f⟩
theorem cflush (f : FmtM) : Statement (.cflush f) := fun _ => ⟨rfl, encM_lt _ f⟩
theorem cinv (f : FmtM) : Statement (.cinv f) := fun _ => ⟨rfl, encM_lt _ f⟩
theorem fence (f : FmtM) : Statement (.fence f) := fun _ => ⟨rfl, encM_lt _ f⟩
theorem xlate (f : FmtA) : Statement (.xlate f) := fun _ => ⟨rfl, encA_lt _ f⟩
theorem tdset (f : FmtA) : Statement (.tdset f) := fun _ => ⟨rfl, encA_lt _ f⟩
theorem tdget (f : FmtA) : Statement (.tdget f) := fun _ => ⟨rfl, encA_lt _ f⟩
theorem cpy (f : FmtA) : Statement (.cpy f) := fun _ => ⟨rfl, encA_lt _ f⟩
theorem cpyr (f : FmtA) : Statement (.cpyr f) := fun _ => ⟨rfl, encA_lt _ f⟩
theorem rinit (f : FmtA) : Statement (.rinit f) := fun _ => ⟨rfl, encA_lt _ f⟩
theorem rwait (f : FmtA) : Statement (.rwait f) := fun _ => ⟨rfl, encA_lt _ f⟩
theorem rrel (f : FmtA) : Statement (.rrel f) := fun _ => ⟨rfl, encA_lt _ f⟩
theorem wait (f : FmtA) : Statement (.wait f) := fun _ => ⟨rfl, encA_lt _ f⟩
theorem waitany (f : FmtA) : Statement (.waitany f) := fun _ => ⟨rfl, encA_lt _ f⟩
theorem waitall (f : FmtA) : Statement (.waitall f) := fun _ => ⟨rfl, encA_lt _ f⟩
theorem tfirst (f : FmtA) : Statement (.tfirst f) := fun _ => ⟨rfl, encA_lt _ f⟩
theorem ttest (f : FmtA) : Statement (.ttest f) := fun _ => ⟨rfl, encA_lt _ f⟩
theorem tcancel (f : FmtA) : Statement (.tcancel f) := fun _ => ⟨rfl, encA_lt _ f⟩
theorem mxrdy (f : FmtX) : Statement (.mxrdy f) := fun _ => ⟨rfl, encX_lt _ f⟩
theorem mxa (f : FmtX) : Statement (.mxa f) := fun _ => ⟨rfl, encX_lt _ f⟩
theorem mxsp (f : FmtX) : Statement (.mxsp f) := fun _ => ⟨rfl, encX_lt _ f⟩
theorem mxld (f : FmtX) : Statement (.mxld f) := fun _ => ⟨rfl, encX_lt _ f⟩
theorem mxst (f : FmtX) : Statement (.mxst f) := fun _ => ⟨rfl, encX_lt _ f⟩
theorem mxzero (f : FmtX) : Statement (.mxzero f) := fun _ => ⟨rfl, encX_lt _ f⟩
theorem mxsave (f : FmtX) : Statement (.mxsave f) := fun _ => ⟨rfl, encX_lt _ f⟩
theorem mxrest (f : FmtX) : Statement (.mxrest f) := fun _ => ⟨rfl, encX_lt _ f⟩
theorem cbset (f : FmtX) : Statement (.cbset f) := fun _ => ⟨rfl, encX_lt _ f⟩
theorem cbswap (f : FmtX) : Statement (.cbswap f) := fun _ => ⟨rfl, encX_lt _ f⟩
theorem tmask (f : FmtX) : Statement (.tmask f) := fun _ => ⟨rfl, encX_lt _ f⟩
theorem cred (f : FmtX) : Statement (.cred f) := fun _ => ⟨rfl, encX_lt _ f⟩
theorem mcast (f : FmtX) : Statement (.mcast f) := fun _ => ⟨rfl, encX_lt _ f⟩
theorem gnew (f : FmtG) : Statement (.gnew f) := fun _ => ⟨rfl, encG_lt _ f⟩
theorem gjoin (f : FmtG) : Statement (.gjoin f) := fun _ => ⟨rfl, encG_lt _ f⟩
theorem gleave (f : FmtG) : Statement (.gleave f) := fun _ => ⟨rfl, encG_lt _ f⟩
theorem garrive (f : FmtG) : Statement (.garrive f) := fun _ => ⟨rfl, encG_lt _ f⟩
theorem gvote (f : FmtG) : Statement (.gvote f) := fun _ => ⟨rfl, encG_lt _ f⟩
theorem gred (f : FmtG) : Statement (.gred f) := fun _ => ⟨rfl, encG_lt _ f⟩
theorem gwait (f : FmtG) : Statement (.gwait f) := fun _ => ⟨rfl, encG_lt _ f⟩
theorem gstat (f : FmtG) : Statement (.gstat f) := fun _ => ⟨rfl, encG_lt _ f⟩
theorem gabort (f : FmtG) : Statement (.gabort f) := fun _ => ⟨rfl, encG_lt _ f⟩
theorem gfree (f : FmtG) : Statement (.gfree f) := fun _ => ⟨rfl, encG_lt _ f⟩
theorem launch (f : FmtG) : Statement (.launch f) := fun _ => ⟨rfl, encG_lt _ f⟩
theorem ctradd (f : FmtG) : Statement (.ctradd f) := fun _ => ⟨rfl, encG_lt _ f⟩
theorem ctrwait (f : FmtG) : Statement (.ctrwait f) := fun _ => ⟨rfl, encG_lt _ f⟩
theorem cancel (f : FmtG) : Statement (.cancel f) := fun _ => ⟨rfl, encG_lt _ f⟩
theorem sysrd (f : FmtG) : Statement (.sysrd f) := fun _ => ⟨rfl, encG_lt _ f⟩
theorem syswr (f : FmtG) : Statement (.syswr f) := fun _ => ⟨rfl, encG_lt _ f⟩
theorem tlbinv (f : FmtG) : Statement (.tlbinv f) := fun _ => ⟨rfl, encG_lt _ f⟩
theorem rfclr (f : FmtG) : Statement (.rfclr f) := fun _ => ⟨rfl, encG_lt _ f⟩
theorem mbox (f : FmtG) : Statement (.mbox f) := fun _ => ⟨rfl, encG_lt _ f⟩
theorem irq (f : FmtG) : Statement (.irq f) := fun _ => ⟨rfl, encG_lt _ f⟩
theorem halt (f : FmtG) : Statement (.halt f) := fun _ => ⟨rfl, encG_lt _ f⟩
theorem issueGrant (core : Nat) : Statement (.issueGrant core) := fun h => nomatch h
theorem fetchLine (core entry : Nat) : Statement (.fetchLine core entry) := fun h => nomatch h
theorem loadDataReturn (acc : Nat) : Statement (.loadDataReturn acc) := fun h => nomatch h
theorem parkedLeafVector (core entry : Nat) : Statement (.parkedLeafVector core entry) := fun h => nomatch h
theorem splitStallRetry (core entry : Nat) : Statement (.splitStallRetry core entry) := fun h => nomatch h
theorem leafExhaustedStall (core entry : Nat) : Statement (.leafExhaustedStall core entry) := fun h => nomatch h
theorem joinRelease (core entry : Nat) : Statement (.joinRelease core entry) := fun h => nomatch h
theorem sheetComplete (core slot : Nat) : Statement (.sheetComplete core slot) := fun h => nomatch h
theorem tagComplete (op : Nat) : Statement (.tagComplete op) := fun h => nomatch h
theorem copyStart (op : Nat) : Statement (.copyStart op) := fun h => nomatch h
theorem copyComplete (op : Nat) : Statement (.copyComplete op) := fun h => nomatch h
theorem descriptorWriteComplete (op : Nat) : Statement (.descriptorWriteComplete op) := fun h => nomatch h
theorem fenceComplete (op : Nat) : Statement (.fenceComplete op) := fun h => nomatch h
theorem mxrdyComplete (op : Nat) : Statement (.mxrdyComplete op) := fun h => nomatch h
theorem passStart (core : Nat) : Statement (.passStart core) := fun h => nomatch h
theorem fusionWaitExpiry (core : Nat) : Statement (.fusionWaitExpiry core) := fun h => nomatch h
theorem passComplete (core : Nat) : Statement (.passComplete core) := fun h => nomatch h
theorem arrayFreeze (core : Nat) : Statement (.arrayFreeze core) := fun h => nomatch h
theorem mxsaveComplete (op : Nat) : Statement (.mxsaveComplete op) := fun h => nomatch h
theorem mxrestComplete (op : Nat) : Statement (.mxrestComplete op) := fun h => nomatch h
theorem writeBackComplete (op : Nat) : Statement (.writeBackComplete op) := fun h => nomatch h
theorem cbsetComplete (op : Nat) : Statement (.cbsetComplete op) := fun h => nomatch h
theorem credRoundComplete (cluster round : Nat) : Statement (.credRoundComplete cluster round) := fun h => nomatch h
theorem rangeOpComplete (op : Nat) : Statement (.rangeOpComplete op) := fun h => nomatch h
theorem tlbinvComplete (op : Nat) : Statement (.tlbinvComplete op) := fun h => nomatch h
theorem rfclrComplete (op : Nat) : Statement (.rfclrComplete op) := fun h => nomatch h
theorem mboxComplete (op : Nat) : Statement (.mboxComplete op) := fun h => nomatch h
theorem xlateReadReturn (op : Nat) : Statement (.xlateReadReturn op) := fun h => nomatch h
theorem tlbMissWalk (die : Nat) : Statement (.tlbMissWalk die) := fun h => nomatch h
theorem walkReadReturn (die walk : Nat) : Statement (.walkReadReturn die walk) := fun h => nomatch h
theorem hostCasCompletion (acc : Nat) (refused : Bool) (seen : BitVec 128) : Statement (.hostCasCompletion acc refused seen) := fun h => nomatch h
theorem atomicopCompletion (acc : Nat) (refused : Bool) (old : BitVec 128) : Statement (.atomicopCompletion acc refused old) := fun h => nomatch h
theorem readRequest (msg : Nat) : Statement (.readRequest msg) := fun h => nomatch h
theorem readResponse (msg : Nat) : Statement (.readResponse msg) := fun h => nomatch h
theorem writeRequest (msg : Nat) : Statement (.writeRequest msg) := fun h => nomatch h
theorem invalidation (msg : Nat) : Statement (.invalidation msg) := fun h => nomatch h
theorem invalidationAck (msg : Nat) : Statement (.invalidationAck msg) := fun h => nomatch h
theorem writeGrant (msg : Nat) : Statement (.writeGrant msg) := fun h => nomatch h
theorem prune (msg : Nat) : Statement (.prune msg) := fun h => nomatch h
theorem dropNotice (msg : Nat) : Statement (.dropNotice msg) := fun h => nomatch h
theorem anchorRelease (msg : Nat) : Statement (.anchorRelease msg) := fun h => nomatch h
theorem foldDelivery (msg : Nat) : Statement (.foldDelivery msg) := fun h => nomatch h
theorem joinRequest (msg : Nat) : Statement (.joinRequest msg) := fun h => nomatch h
theorem commutativeGather (msg : Nat) : Statement (.commutativeGather msg) := fun h => nomatch h
theorem gatherStart (msg : Nat) : Statement (.gatherStart msg) := fun h => nomatch h
theorem collect (msg : Nat) : Statement (.collect msg) := fun h => nomatch h
theorem unpickRequest (msg : Nat) : Statement (.unpickRequest msg) := fun h => nomatch h
theorem uncachedAccess (acc : Nat) : Statement (.uncachedAccess acc) := fun h => nomatch h
theorem renewalSend (cluster : Nat) : Statement (.renewalSend cluster) := fun h => nomatch h
theorem renewal (msg : Nat) : Statement (.renewal msg) := fun h => nomatch h
theorem leaseWindowEnd (router line : Nat) : Statement (.leaseWindowEnd router line) := fun h => nomatch h
theorem branchLossReport (msg : Nat) : Statement (.branchLossReport msg) := fun h => nomatch h
theorem leaseLost (msg : Nat) : Statement (.leaseLost msg) := fun h => nomatch h
theorem tileGrant (req : Nat) (state : Nat) (data : List Byte) : Statement (.tileGrant req state data) := fun h => nomatch h
theorem tileInvalidation (tile : Nat) : Statement (.tileInvalidation tile) := fun h => nomatch h
theorem tileRenewal (fab : Nat) : Statement (.tileRenewal fab) := fun h => nomatch h
theorem hostPostedWrite (w : HostReq) : Statement (.hostPostedWrite w) := fun h => nomatch h
theorem hostReadRequest (r : HostReq) : Statement (.hostReadRequest r) := fun h => nomatch h
theorem taskDistribution : Statement (.taskDistribution) := fun h => nomatch h
theorem distributionWaitLimit (ctx launch task : Nat) : Statement (.distributionWaitLimit ctx launch task) := fun h => nomatch h
theorem controlIntervalStart (amps : Nat) (temps : List (Nat × Nat)) : Statement (.controlIntervalStart amps temps) := fun h => nomatch h
theorem quotaReport (cluster ctx : Nat) : Statement (.quotaReport cluster ctx) := fun h => nomatch h
theorem governorWindowEnd (core : Nat) : Statement (.governorWindowEnd core) := fun h => nomatch h
theorem voltageSlewDone (core : Nat) : Statement (.voltageSlewDone core) := fun h => nomatch h
theorem tokenGrant : Statement (.tokenGrant) := fun h => nomatch h
theorem tokenReturn (core : Nat) : Statement (.tokenReturn core) := fun h => nomatch h
theorem preemptDelivery (core entry : Nat) : Statement (.preemptDelivery core entry) := fun h => nomatch h
theorem principalDelivery (core slot : Nat) : Statement (.principalDelivery core slot) := fun h => nomatch h
theorem sheetLeaveResidency (core slot : Nat) : Statement (.sheetLeaveResidency core slot) := fun h => nomatch h
theorem taskResume (ctx launch task : Nat) : Statement (.taskResume ctx launch task) := fun h => nomatch h
theorem cancelKillTimeout (core slot : Nat) : Statement (.cancelKillTimeout core slot) := fun h => nomatch h
theorem cancelComplete (ctx cid : Nat) : Statement (.cancelComplete ctx cid) := fun h => nomatch h
theorem launchKill (ctx launch : Nat) (why : KillWhy) : Statement (.launchKill ctx launch why) := fun h => nomatch h
theorem snapshotPageCopy (ctx launch page : Nat) : Statement (.snapshotPageCopy ctx launch page) := fun h => nomatch h
theorem launchRollback (ctx launch : Nat) : Statement (.launchRollback ctx launch) := fun h => nomatch h
theorem phaseDeadlineExpiry (idx : Nat) : Statement (.phaseDeadlineExpiry idx) := fun h => nomatch h
theorem pauseCapExpiry (idx : Nat) : Statement (.pauseCapExpiry idx) := fun h => nomatch h
theorem phaseBegun (handle : Word) (dev : Nat) (kind op : Nat) : Statement (.phaseBegun handle dev kind op) := fun h => nomatch h
theorem phaseStart (handle : Word) (phase : Nat) : Statement (.phaseStart handle phase) := fun h => nomatch h
theorem shadowArrival (handle : Word) (dev lanes : Nat) (part : Partial) : Statement (.shadowArrival handle dev lanes part) := fun h => nomatch h
theorem phaseOutcome (handle : Word) (phase : Nat) (status : BitVec 4) (value : Word) : Statement (.phaseOutcome handle phase status value) := fun h => nomatch h
theorem shadowTimerExpiry (idx : Nat) : Statement (.shadowTimerExpiry idx) := fun h => nomatch h
theorem shadowGone (handle : Word) (dev : Nat) : Statement (.shadowGone handle dev) := fun h => nomatch h
theorem shadowCountReport (handle : Word) (dev lanes : Nat) : Statement (.shadowCountReport handle dev lanes) := fun h => nomatch h
theorem flitCrcRetry (port : Nat) (good : Bool) : Statement (.flitCrcRetry port good) := fun h => nomatch h
theorem portIdleTimeout (port : Nat) : Statement (.portIdleTimeout port) := fun h => nomatch h
theorem portUp (port : Nat) : Statement (.portUp port) := fun h => nomatch h
theorem emsenDeadlineExpiry (req : Nat) : Statement (.emsenDeadlineExpiry req) := fun h => nomatch h
theorem emsenRequest (m : FabMsg) : Statement (.emsenRequest m) := fun h => nomatch h
theorem emsenResponse (req : Nat) (status : Nat) (data : List Byte) : Statement (.emsenResponse req status data) := fun h => nomatch h
theorem msixUnmask (fn vector : Nat) : Statement (.msixUnmask fn vector) := fun h => nomatch h
theorem functionLevelReset (fn : Nat) : Statement (.functionLevelReset fn) := fun h => nomatch h
theorem lockInterfaceRequest (fn : Nat) : Statement (.lockInterfaceRequest fn) := fun h => nomatch h
theorem startInterfaceRequest (fn : Nat) : Statement (.startInterfaceRequest fn) := fun h => nomatch h
theorem stopInterfaceRequest (fn : Nat) : Statement (.stopInterfaceRequest fn) := fun h => nomatch h
theorem getDeviceInterfaceReport (fn : Nat) : Statement (.getDeviceInterfaceReport fn) := fun h => nomatch h
theorem ideIntegrityFailure (fn : Nat) : Statement (.ideIntegrityFailure fn) := fun h => nomatch h
theorem frozenRegisterWrite (w : RegWr) : Statement (.frozenRegisterWrite w) := fun h => nomatch h
theorem powerOn (b : BootPlan) : Statement (.powerOn b) := fun h => nomatch h
theorem warmReset (b : BootPlan) : Statement (.warmReset b) := fun h => nomatch h
theorem version (op : Nat) : Statement (.version op) := fun h => nomatch h
theorem bootRead (op : Nat) : Statement (.bootRead op) := fun h => nomatch h
theorem stitchDump (op : Nat) : Statement (.stitchDump op) := fun h => nomatch h
theorem gatherDump (op : Nat) : Statement (.gatherDump op) := fun h => nomatch h
theorem debugResume (op : Nat) : Statement (.debugResume op) := fun h => nomatch h
theorem bootClear (op : Nat) : Statement (.bootClear op) := fun h => nomatch h
theorem sclimWrite (w : RegWr) : Statement (.sclimWrite w) := fun h => nomatch h
theorem cleaseWrite (w : RegWr) : Statement (.cleaseWrite w) := fun h => nomatch h
theorem preqWrite (w : RegWr) : Statement (.preqWrite w) := fun h => nomatch h
theorem tokpoolWrite (w : RegWr) : Statement (.tokpoolWrite w) := fun h => nomatch h
theorem cbudgetWrite (w : RegWr) : Statement (.cbudgetWrite w) := fun h => nomatch h
theorem counterBankWrite (w : RegWr) : Statement (.counterBankWrite w) := fun h => nomatch h
theorem cxpendClear (w : RegWr) : Statement (.cxpendClear w) := fun h => nomatch h
theorem partitionRegisterWrite (w : RegWr) : Statement (.partitionRegisterWrite w) := fun h => nomatch h
theorem evctlWrite (w : RegWr) : Statement (.evctlWrite w) := fun h => nomatch h
theorem mbtailWrite (w : RegWr) : Statement (.mbtailWrite w) := fun h => nomatch h
theorem fabricRegisterWrite (w : RegWr) : Statement (.fabricRegisterWrite w) := fun h => nomatch h
theorem registerWrite (w : RegWr) : Statement (.registerWrite w) := fun h => nomatch h
theorem ctrwaitTimeout (core entry : Nat) : Statement (.ctrwaitTimeout core entry) := fun h => nomatch h
theorem hostAtomicopRequest (r : HostReq) : Statement (.hostAtomicopRequest r) := fun h => nomatch h
theorem hostReadCompletion (acc : Nat) (data : BitVec 128) : Statement (.hostReadCompletion acc data) := fun h => nomatch h
theorem idleFlit (port : Nat) (received : Bool) : Statement (.idleFlit port received) := fun h => nomatch h
theorem contextCreation (ctx : Nat) (root table : DWord) : Statement (.contextCreation ctx root table) := fun h => nomatch h
theorem contextDestruction (ctx : Nat) : Statement (.contextDestruction ctx) := fun h => nomatch h

end Sys2Proof.Laws.Encoding
end

