-- ==== Sys2Proof/Laws/Shared.lean ====
section
/-!
SUPPORT. What the shared operations of the integer, logic, shift and floating instructions give: one lemma for each.
-/
namespace Sys2Proof.Machine

/-- The two ways of forming an integer result agree. -/
theorem formed_eq (w : Nat) (hw : w = 32 ∨ w = 64) (sgn sat : Bool) (z : Int) : intResult w sgn sat z = formed w sgn sat z := by
  rcases hw with rfl | rfl <;> cases sgn <;> cases sat <;> simp [intResult, formed, typeBounds, tyMin, tyMax, wrapZ, min_def, max_def] <;>
   (congr 1; split <;> split <;> omega)

theorem asClass_eq (w : Nat) (hw : w = 32 ∨ w = 64) (sgn : Bool) (v : Nat) : asInt w sgn v = asClass w sgn v := by
  rcases hw with rfl | rfl <;> cases sgn <;> simp [asInt, asClass, sgnN, BitVec.toInt_eq_toNat_cond] <;> split <;> split <;> omega

theorem intTy_w {h : Hdr} {tw : BitVec 2} {w : Nat} {sgn : Bool} (e : intTy h tw = some (w, sgn)) : w = 32 ∨ w = 64 := by
  unfold intTy at e; split at e
  · split at e
    · cases e; simp
    · split at e
      · cases e; simp
      · cases e
  · cases e

theorem immInt_eq (w : Nat) (hw : w = 32 ∨ w = 64) (sgn : Bool) (i : BitVec 32) : asInt w sgn (immInt sgn w i) = immClass sgn i := by
  have := i.isLt
  rcases hw with rfl | rfl <;> cases sgn <;> simp [asInt, immClass, immInt, sgnN, wrapZ, BitVec.toInt_eq_toNat_cond] <;> (try split) <;> (try split) <;> omega

/-- Integer arithmetic: what `intOp` gives. -/
theorem int_gives (i : Instr) (f : FmtR) (w : Nat) (sgn : Bool) (e : intTy f.h f.tw = some (w, sgn)) (imm : Option (BitVec 32))
   (hasB hasC satOk so : Bool) (lat : Nat) (op : Nat → Int → Int → Int → Int) (z : Int → Int → Int → Int)
   (hz : op w = z) (hex : ∀ s, exec i s = intOp f imm hasB hasC satOk so lat op s) :
   IntGives i f (sigIntOp f imm hasB hasC satOk so) w sgn (imm.map (immClass sgn)) z := by
  have hw := intTy_w e
  refine gives_plain lat (fun s x act l =>
        intResult w sgn f.sat (op w (asInt w sgn (readOpd s x (rdW w) f.opa.toNat l)) (asInt w sgn (srcB s x (rdW w) f (imm.map (immInt sgn w)) l))
          (asInt w sgn (readOpd s x (rdW w) f.opc.toNat l)))) ?_ ?_ ?_
  · intro s; rw [hex]; simp only [intOp, e, Option.getD_some]
  · intro s x act r h64
    apply pair_isV (h := x.sheet)
    have := r.legal.2 (f.dst, .dst (decide (w = 64))) (by simp [sigIntOp, usesR, e])
    rw [h64] at this
    exact this
  · intro s x act l r hl
    simp only [readOpd_consumeSrc, formed_eq w hw, asClass_eq w hw, hz]
    congr 2
    cases imm with
    | none => simp [srcB, readOpd_consumeSrc]
    | some b => simp [srcB, ← asClass_eq w hw, immInt_eq w hw]


theorem bitsTy_w {h : Hdr} {tw : BitVec 2} {w : Nat} (e : bitsTy h tw = some w) : w = 32 ∨ w = 64 := by
  unfold bitsTy at e; split at e
  · split at e
    · cases e; simp
    · split at e
      · cases e; simp
      · cases e
  · cases e

/-- A destination of 64 bits is a pair that the sheet has. -/
theorem dst_pair {s : State} {x : Iss} {h : Hdr} {g : Sig} {act : Mask} (r : Runs s x h g act) (c : Opd) (b : Bool)
    (hu : (c, Role.dst b) ∈ g.uses) (hb : b = true) (hv : isV c.toNat = true) : isV (c.toNat + 1) = true := by
  subst hb
  exact pair_isV (h := x.sheet) (r.legal.2 _ hu) hv

theorem ofNat_toNat_lt {w a : Nat} (h : a < 2 ^ w) : (BitVec.ofNat w a).toNat = a := by
  simpa using Nat.mod_eq_of_lt h

/-- Logic on bits: what `logicOp` gives. -/
theorem logic_gives (i : Instr) (f : FmtR) (w : Nat) (e : bitsTy f.h f.tw = some w) (imm : Option (BitVec 32)) (hasB : Bool)
    (op : Nat → Nat → Nat → Nat) (P : State → Iss → Mask → Nat → Nat → Prop)
    (hP : ∀ s x act l, Runs s x f.h (sigLogicOp f imm hasB) act → act.has l = true →
      P s x act l (op w (readOpd s x (rdW w) f.opa.toNat l)
        ((imm.map (immInt true w)).getD (readOpd s x (rdW w) f.opb.toNat l))))
    (hex : ∀ s, exec i s = logicOp f imm hasB op s) :
    Gives i f.h (sigLogicOp f imm hasB) f.dst.toNat (w = 64) false P := by
  refine gives_plain latInt (fun s x act l => op w (readOpd s x (rdW w) f.opa.toNat l)
    (srcB s x (rdW w) f (imm.map (immInt true w)) l)) ?_ ?_ ?_
  · intro s; rw [hex]; simp only [logicOp, e, Option.getD_some]
  · intro s x act r h64
    exact dst_pair r f.dst (decide (w = 64)) (by simp [sigLogicOp, usesR, e]) h64
  · intro s x act l r hl
    have := hP s x act l r hl
    cases imm <;> simpa [srcB, readOpd_consumeSrc] using this

/-- A shift: what `shiftOp` gives. -/
theorem shift_gives (i : Instr) (f : FmtR) (w : Nat) (e : bitsTy f.h f.tw = some w) (imm : Option (BitVec 32)) (modOk : Bool)
    (op : Nat → Nat → Nat → Nat) (z : BitVec w → Nat → BitVec w)
    (hz : ∀ a n, a < 2 ^ w → n < 2 ^ 32 → op w a n = (z (BitVec.ofNat w a) n).toNat)
    (hex : ∀ s, exec i s = shiftOp f imm modOk op s) :
    ShiftGives i f (sigShiftOp f imm modOk) w (imm.map (·.toNat)) z := by
  refine gives_plain latInt (fun s x act l => op w (readOpd s x (rdW w) f.opa.toNat l)
    (srcB s x .i32 f (imm.map (fun i => i.toNat)) l)) ?_ ?_ ?_
  · intro s; rw [hex]; simp only [shiftOp, e, Option.getD_some]
  · intro s x act r h64
    exact dst_pair r f.dst (decide (w = 64)) (by simp [sigShiftOp, usesR, e]) h64
  · intro s x act l r hl
    have ha := readOpd_lt s x w (bitsTy_w e) f.opa.toNat l
    cases imm with
    | none =>
      have hb : readOpd s x .i32 f.opb.toNat l < 2 ^ 32 := readOpd_lt s x 32 (.inl rfl) f.opb.toNat l
      simpa [srcB, readOpd_consumeSrc] using hz _ _ ha hb
    | some b => simpa [srcB, readOpd_consumeSrc] using hz _ _ ha b.isLt

/-- Floating arithmetic: what `floatOp` gives. -/
theorem float_gives (i : Instr) (f : FmtR) (imm : Option (BitVec 32)) (hasB hasC modsIn satIn : Bool)
    (op : Bool → RMode → Bool → Fmt → Nat → Nat → Nat → Out)
    (hex : ∀ s, exec i s = floatOp f imm hasB hasC modsIn satIn op s) :
    FloatGives i f.h (sigFloatOp f imm hasB hasC modsIn satIn) f.dst.toNat (floatSrc f (imm.map (immFloat f.tw)) op) := by
  refine gives_float latFloat (fun _ _ _ r => dst_isE r f.dst false (by simp [sigFloatOp, usesR])) (fun s x act l => ((lanes.map (fun l => if act.has l then
      perHalf f.tw (op x.sheet.ftz (rmode f.rnd) f.sat) (readOpd s x (floatRd f.tw) f.opa.toNat l)
        (srcB s x (floatRd f.tw) f (imm.map (immFloat f.tw)) l) (readOpd s x (floatRd f.tw) f.opc.toNat l)
      else { code := 0 }))[l]?).getD { code := 0 }) ?_ ?_
  · intro s; rw [hex]; rfl
  · intro s x act l r hl
    have hl' := has_lt hl
    simp only [lanes, List.getElem?_map, List.getElem?_range hl', Option.map_some, Option.getD_some, hl, if_true, floatSrc]
    cases imm <;> simp [srcB, readOpd_consumeSrc]

theorem has_pred_lt {c : Nat} (h : isP c = true) : 0x190 ≤ c ∧ c < 0x198 := by simpa [isP] using h

/-- Writing a predicate: registers only; no other element changes. -/
theorem writePred_spec (s : State) (x : Iss) (m : Mask) (c lat : Nat) (v : Nat → Bool) (hm : m ≠ 0) (hh : Home s x)
    (hc : isP c = true ∨ c = 0x1FF) :
    RegsOnly s (writeOpd s x m c false false lat (fun l => b2n (v l))) x ∧
    (∀ c' l, l < 32 → c' ≠ c → rawElem (writeOpd s x m c false false lat (fun l => b2n (v l))) x c' l = rawElem s x c' l) ∧
    HoldsPred (writeOpd s x m c false false lat (fun l => b2n (v l))) x m c v := by
  have hnv : isV c = false := by
    rcases hc with h | rfl
    · exact (isP_not h).1
    · decide
  refine ⟨regsOnly_writeOpd .., fun c' l hl hne => ?_, holds_writeOpdP s x m c false lat v hm hh⟩
  exact rawElem_writeOpd_other s x m c false false lat _ hm hh (by simp [hnv]) c' l (by simp [resultCodes, hne]) hl

/-- A predicate operand and a complement: what `writePreds` does. -/
theorem writePreds_spec (s : State) (x : Iss) (m : Mask) (lat : Nat) (p q : Opd) (v w : Nat → Bool) (hm : m ≠ 0) (hh : Home s x)
    (hp : isP p.toNat = true) (hq : isP q.toNat = true ∨ q.toNat = 0x1FF) :
    RegsOnly s (writePreds s x m lat p q v w) x ∧
    (∀ c' l, l < 32 → c' ≠ p.toNat → c' ≠ q.toNat → rawElem (writePreds s x m lat p q v w) x c' l = rawElem s x c' l) ∧
    (p.toNat ≠ q.toNat → HoldsPred (writePreds s x m lat p q v w) x m p.toNat v) ∧
    HoldsPred (writePreds s x m lat p q v w) x m q.toNat w := by
  obtain ⟨a1, a2, a3⟩ := writePred_spec s x m p.toNat lat v hm hh (.inl hp)
  unfold writePreds
  dsimp only
  by_cases h : isP q.toNat = true
  · simp only [h, if_true]
    obtain ⟨b1, b2, b3⟩ := writePred_spec _ x m q.toNat lat w hm (a1.home hh) (.inl h)
    refine ⟨a1.trans b1, fun c' l hl h1 h2 => by rw [b2 c' l hl h2, a2 c' l hl h1], fun hne => ?_, b3⟩
    intro hp' hn l hl
    rw [b2 _ l (has_lt hl) hne]
    exact a3 hp' hn l hl
  · have h' : isP q.toNat = false := by simpa using h
    simp only [h', Bool.false_eq_true, if_false]
    exact ⟨a1, fun c' l hl h1 _ => a2 c' l hl h1, fun _ => a3, fun hp' => absurd hp' h⟩

/-- A comparison: what an instruction that writes predicates gives. -/
theorem gives_pred {i : Instr} {h : Hdr} {g : Sig} (p q : Opd) {P Q : State → Iss → Mask → Nat → Bool → Prop} (lat : Nat)
    (v w : State → Iss → Mask → Nat → Bool)
    (hex : ∀ s, exec i s = plainOp s h g (fun s x act => writePreds s x act lat p q (v s x act) (w s x act)))
    (hu : (p, Role.dstP) ∈ g.uses) (hq : q = 0x1FF ∨ (q, Role.dstPN) ∈ g.uses)
    (hP : ∀ s x act l, Runs s x h g act → act.has l = true →
      P s x act l (v (consumeSrc s x g.uses act) x act l) ∧ Q s x act l (w (consumeSrc s x g.uses act) x act l)) :
    GivesPred i h g p.toNat q.toNat P Q := by
  intro s x act r
  have hp : isP p.toNat = true := r.legal.2 _ hu
  have hq' : isP q.toNat = true ∨ q.toNat = 0x1FF := by
    rcases hq with rfl | hq
    · right; rfl
    · have := r.legal.2 _ hq
      simpa [opdLegal] using this
  obtain ⟨h1, -, h3, h4⟩ := writePreds_spec (consumeSrc s x g.uses act) x act lat p q (v (consumeSrc s x g.uses act) x act)
    (w (consumeSrc s x g.uses act) x act) r.some_lane r.home hp hq'
  refine ⟨_, _, _, (hex s).trans (plainOp_runs r _), doneOp_gone ?_ _, fun hne => holdsPred_doneOp (h3 hne), holdsPred_doneOp h4,
    fun l hl => hP s x act l r hl⟩
  rw [h1.leaf, leafOf_consumeSrc]
  exact (issuer_some r.issues).1

end Sys2Proof.Machine
end

