-- ==== Sys2Proof/Tests/Slice0.lean ====
section
/-!
SUPPORT. Small tests: words of the manual decode to their instructions, single steps give the values that the manual gives, ill-formed
terms are refused, and the hypotheses of the statements can be met.
-/
namespace Sys2Proof.Tests
open Sys2Proof Sys2Proof.Machine
set_option Elab.async false

/-- A header of class `c` without a guard. -/
def hd (c : BitVec 3) : Hdr := ⟨false, 0, 7, 7, false, c⟩

/-- Format R: class, width, destination and sources. -/
def fR (c : BitVec 3) (tw : BitVec 2) (dst : Opd) (a b k d2 : Opd := 0x1FF) (sub : BitVec 8 := 0) (mod : BitVec 4 := 0)
    (sat : Bool := false) (sty : BitVec 5 := 0) : FmtR := ⟨hd c, dst, a, b, k, d2, sub, 0, sat, false, false, mod, tw, sty⟩

/-- Format I: class, width, row of the immediate major, destination, source and immediate. -/
def fI (c : BitVec 3) (tw : BitVec 2) (sub : BitVec 8) (dst a : Opd) (imm : BitVec 32) (mod : BitVec 4 := 0) (sat : Bool := false) : FmtI :=
  ⟨hd c, dst, a, imm, sub, sat, 0, tw, mod⟩

def fM (c : BitVec 3) (data bse : Opd) (idx : Opd := 0x1FF) (wid : BitVec 3 := 2) (subop : BitVec 7 := 0) (scope : BitVec 3 := 2)
    (ord : BitVec 2 := 0) : FmtM := ⟨hd c, data, bse, idx, 0, ord, scope, 0, 0, wid, subop⟩

def fB (loff : BitVec 24) (slot : BitVec 3) (a b : Opd := 0x1FF) (sub : BitVec 8 := 0) (fp : Bool := false) : FmtB :=
  ⟨hd 0, loff, slot, fp, a, b, sub⟩

def fA (dst : Opd) (a b c d : Opd := 0x1FF) (sub : BitVec 8 := 0) (mod : BitVec 13 := 0) (scope : BitVec 3 := 2) : FmtA :=
  ⟨hd 0, dst, a, b, c, d, sub, scope, 0, mod⟩

def fX (dst : Opd) (a b c d : Opd := 0x1FF) (sub : BitVec 8 := 0) (mod : BitVec 4 := 0) (cls : BitVec 3 := 0) : FmtX :=
  ⟨hd cls, dst, a, b, c, d, sub, 0, false, false, false, mod⟩

def fG (dst : Opd) (a b c : Opd := 0x1FF) (imm : BitVec 16 := 0) (sub : BitVec 8 := 0) (mod : BitVec 9 := 0) (scope : BitVec 3 := 0)
    (cls : BitVec 3 := 0) : FmtG := ⟨hd cls, dst, a, b, c, imm, sub, scope, mod⟩

/-- The instruction passes its checks with an active lane, and no register of its core is poisoned. -/
def fits (s : State) (i : Instr) : Bool :=
  match sigOf i, issuer s with
  | some (h, g), some x => (match vet s x h g with | .go a => a != 0 | _ => false) && (coreOf s x.core).regPoison == []
  | _, _ => false

/-- Such an instruction meets the hypotheses of the statements about its results. -/
theorem fits_runs {s : State} {i : Instr} (h : fits s i = true) :
    ∃ h g x act, sigOf i = some (h, g) ∧ Runs s x h g act ∧ ∀ c, Writable s x act c := by
  unfold fits at h
  split at h
  · rename_i hh g x e1 e2
    simp only [Bool.and_eq_true, beq_iff_eq] at h
    obtain ⟨h1, h2⟩ := h
    split at h1
    · rename_i a e3
      exact ⟨hh, g, x, a, e1, ⟨e2, e3, by simpa using h1⟩, fun c => .inr (by simp [h2, tget, tfind])⟩
    · cases h1
  · cases h

/-- What `Plain` asks for, as it can be decided. -/
def plainB (s : State) (lo n : Nat) : Bool :=
  memWins s lo n == [] && s.mixed == [] && s.ctxs.all (fun c => decide (lo + n ≤ c.2.table) || decide (c.2.table + 2 ^ 18 ≤ lo)) &&
    !regionFlagged s lo

theorem plainB_plain {s : State} {lo n : Nat} (h : plainB s lo n = true) : Plain s lo n := by
  simp only [plainB, Bool.and_eq_true, beq_iff_eq, List.all_eq_true, Bool.or_eq_true, decide_eq_true_eq, Bool.not_eq_true'] at h
  exact ⟨h.1.1.1, h.1.1.2, h.1.2, h.2⟩

/-- What `HomeFree` asks for, as it can be decided. -/
def homeFreeB (s : State) (line home : Nat) (before : List Msg) : Bool :=
  !homeBusy s line && before.all (fun m => !(m.line == line && m.at' == home && isRequest m)) && !lineFlagged s line &&
    stitchOf s home line == none

theorem homeFreeB_free {s : State} {line home : Nat} {before : List Msg} (h : homeFreeB s line home before = true) :
    HomeFree s line home before := by
  simp only [homeFreeB, Bool.and_eq_true, beq_iff_eq, List.all_eq_true, Bool.not_eq_true', Bool.and_eq_false_iff, beq_eq_false_iff_ne] at h
  exact ⟨h.1.1.1, fun m hm h1 h2 => (h.1.1.2 m hm).elim (fun g => (g.elim (absurd h1) (absurd h2))) id, h.1.2, h.2⟩

/-- A leaf of lanes 0 and 1 at 0x10000 in slot 0, about to issue. -/
def leaf0 : Leaf := { slot := 0, pc := 0x10000, mask := 3, inRun := true }

/-- Its sheet: 64 registers, 16 tags, s0 = 5, s1 = 2^63, h0 = 7, p0 in lane 0. -/
def sheet0 : Sheet :=
  { ctx := 1, launch := 0, task := 0, index := 0, base := 0, nregs := 64, tbase := 0, ntags := 16,
    s := [(0, 5), (1, 0x8000000000000000), (2, 0x20000)], h := [(0, 7)], preds := [(0, 1)] }

/-- v0 = 3 and -1, v1 = 1, v2 = 0x3F800000 (1.0), v3 = 0x7FC00000 (NaN), by lane. -/
def core0 : Core :=
  { leaves := [(0, leaf0)], sheets := [(0, sheet0)],
    regs := [(0, 3), (1, 0xFFFFFFFF), (32, 1), (33, 1), (64, 0x3F800000), (65, 0x3F800000), (96, 0x7FC00000), (97, 0x40000000)] }

/-- A device with that leaf. -/
def dev0 : State := { cores := [(0, core0)], cur := some (0, 0) }

/-- The same with a core of one's own. -/
def devC (k : Core) : State := { dev0 with cores := [(0, k)] }

/-- Lane `l` of register `c` of the sheet after instruction `i`. -/
def after (s : State) (i : Instr) (c l : Nat) : Option Nat :=
  match issuer s, exec i s with
  | some x, .next t => some (rawElem t x c l)
  | _, _ => none

theorem test_witness_integer : ∀ i ∈ [Instr.iadd (fR 1 2 4 0 1), .iadd3 (fR 1 2 4 0 1 0x100), .isub (fR 2 3 4 0x100 0x101), .imul (fR 1 2 4 0 1),
    .imulh (fR 1 2 4 0 1), .imad (fR 1 2 4 0 1 1), .imin (fR 1 2 4 0 1), .imax (fR 2 2 4 0 1), .iabs (fR 1 2 4 0)],
    fits dev0 i = true := by decide +kernel

theorem test_witness_integerImmediate : ∀ i ∈ [Instr.iaddImm (fI 1 2 0x10 4 0 9), .isubImm (fI 1 3 0x12 4 0 9), .imulImm (fI 2 2 0x13 4 0 9),
    .imulhImm (fI 1 2 0x14 4 0 9), .iminImm (fI 1 2 0x16 4 0 9), .imaxImm (fI 2 3 0x17 4 0 0xFFFFFFFF)],
    fits dev0 i = true ∧ WellFormed i = true := by decide +kernel

theorem test_witness_logic : ∀ i ∈ [Instr.andB (fR 3 2 4 0 1), .orB (fR 3 2 4 0 1), .xorB (fR 3 3 4 0 2), .notB (fR 3 2 4 0), .shl (fR 3 2 4 0 1),
    .shr (fR 3 2 4 0 1), .sar (fR 3 2 4 0 1), .rot (fR 3 2 4 0 1 0x1FF 0x1FF 0 1), .andImm (fI 3 2 0x19 4 0 9), .orImm (fI 3 2 0x1A 4 0 9),
    .xorImm (fI 3 2 0x1B 4 0 9), .shlImm (fI 3 2 0x1D 4 0 9), .shrImm (fI 3 2 0x1E 4 0 9), .sarImm (fI 3 2 0x1F 4 0 9),
    .rotImm (fI 3 2 0x20 4 0 9 1)], fits dev0 i = true := by decide +kernel

theorem test_witness_bitField : ∀ i ∈ [Instr.bfe (fR 1 2 4 0 1 0x100), .bfi (fR 3 2 4 0 1 0x100 1), .popc (fR 3 2 4 0), .clz (fR 3 3 4 0),
    .brev (fR 3 2 4 0)], fits dev0 i = true := by decide +kernel

theorem test_witness_selectMoveAddress : ∀ i ∈ [Instr.sel (fR 3 2 4 0 1 0x190), .mov (fR 3 2 0x180 0), .lea (fR 1 3 4 0x100 0),
    .leaImm (fI 2 3 0x29 4 0x100 9 2)], fits dev0 i = true := by decide +kernel

theorem test_witness_moveImmediate : ∀ f ∈ [fI 1 2 0 4 0x1FF 9, fI 3 3 0 4 0x1FF 9, fI 2 3 0 4 0x1FF 9, fI 4 0 0 4 0x1FF 9, fI 4 1 0 4 0x1FF 9,
    fI 4 2 0 4 0x1FF 9, fI 4 3 0 0x100 0x1FF 9, fI 3 3 0 4 0x1FF 9 1, fI 3 3 0 0x101 0x1FF 9 1], fits dev0 (.movi f) = true := by decide +kernel

theorem test_witness_predicates : ∀ i ∈ [Instr.icmp (fR 1 2 0x191 0 1 0x1FF 0x192 0 2), .icmpImm (fI 1 2 0x2A 0x191 0 9 5),
    .pset (fR 3 2 0x191 0 0x1FF 0x1FF 0x1FF 0 1), .plop (fR 0 0 0x191 0x190 0x198 0x197 0x1FF 0xCA), .pmov (fR 3 2 4),
    .pmov (fR 3 2 0x1FF 0 0x1FF 0x1FF 0x1FF 0 1), .pmov (fR 3 2 0x1FF 0 0x1FF 0x1FF 0x1FF 0 2),
    .flagclr (fR 0 0 0x1FF 0x1FF 0x1FF 0x1FF 0x1FF 0x1F)], fits dev0 i = true := by decide +kernel

theorem test_witness_float : ∀ i ∈ [Instr.fadd (fR 4 0 4 2 3), .fsub (fR 4 1 4 2 3), .fmul (fR 4 2 4 2 3), .ffma (fR 4 3 4 2 3 2), .fmin (fR 4 0 4 2 3),
    .fmax (fR 4 0 4 2 3), .frnd (fR 4 0 4 2), .faddImm (fI 4 0 0x30 4 2 9), .fsubImm (fI 4 3 0x31 4 2 9), .fmulImm (fI 4 0 0x32 4 2 9),
    .fminImm (fI 4 0 0x34 4 2 9), .fmaxImm (fI 4 0 0x35 4 2 9)], fits dev0 i = true := by decide +kernel

theorem test_witness_floatCompare : ∀ i ∈ [Instr.fcmp (fR 4 0 0x191 2 3 0x1FF 0x192 0 2), .fcmpImm (fI 4 0 0x36 0x191 2 9 7), .fclass (fR 4 0 4 3)],
    fits dev0 i = true := by decide +kernel

theorem test_witness_special : ∀ f ∈ [fR 4 0 4 2], ∀ i ∈ [Instr.rcp f, .rsq f, .sqrt f, .exp2 f, .log2 f, .sin f, .cos f],
    fits dev0 i = true := by decide +kernel

/-- Codes that meet each clause of the statement of special cases: NaN, infinities, zeros. -/
theorem test_witness_floatSpecial : isNaN (decodeF .f32 0x7FC00000) = true ∧ isSig (decodeF .f32 0x7F800001) = true ∧
    decodeF .f32 0x7F800000 = .inf false ∧ decodeF .f16 0xFC00 = .inf true ∧ (∃ e, decodeF .bf16 0x8000 = .fin true 0 e) ∧
    isNaN (decodeF .f32 0x3F800000) = false := ⟨by decide, by decide, by decide, by decide, ⟨_, by rfl⟩, by decide⟩

theorem test_witness_conversion : cvtTy 4 0 = some (.flt .f32) ∧ cvtTy 1 2 = some (.int 32 true) ∧
    fits dev0 (.cvt { fR 1 2 4 2 with sty := 16 }) = true ∧
    cvtTy 5 0 = some (.flt .e4m3) ∧ fits dev0 (.cvt { fR 5 0 4 2 0x1FF 0x1FF 5 with sty := 16, asc := true, sat := true }) = true := by decide +kernel

theorem test_witness_crossLane : ∀ i ∈ [Instr.shfl (fR 3 2 4 0 1 0x1FF 0x191 6), .vote (fR 0 0 0x191 0x190 0x1FF 0x1FF 0x1FF 2), .vote (fR 3 2 4 0x190 0x1FF 0x1FF 0x1FF 3),
    .matchV (fR 3 2 4 0 0x1FF 0x1FF 0x191), .redux (fR 1 2 4 0), .redux (fR 4 0 4 2), .redux (fR 0 0 4 0x190 0x1FF 0x1FF 0x1FF 6),
    .scan (fR 1 2 4 0), .scan (fR 4 0 4 2 0x1FF 0x1FF 0x1FF 0 1)], fits dev0 i = true := by decide +kernel

/-- A line of five NOPs, each a target. -/
def lineT : List Byte := makeLine [canonicalNop, canonicalNop, canonicalNop, canonicalNop, canonicalNop] 31

/-- Bytes at an address as memory lists them. -/
def cells (a : Nat) (bs : List Byte) : List Host.Cell :=
  ((List.range bs.length).zip bs).filterMap (fun p => if p.2 = 0 then none else some (a + p.1, p.2))

/-- Pages 0x10000 (code), 0x20000 (data) and 0x30000 (code of handlers) mapped for context 1, lines of NOPs at 0x10000, 0x10100 and 0x30100,
and the trap table at 0x20000 with 0x30100 as handler of the causes 15 to 17. -/
def core1 : Core :=
  { core0 with tlb := [⟨1, 0x10000, 0x10000, 0x102A3⟩, ⟨1, 0x20000, 0x10000, 0x20263⟩, ⟨1, 0x30000, 0x10000, 0x303A3⟩] }
def dev1 : State :=
  let s := { dev0 with cores := [(0, core1)], ctxs := [(1, { root := 0x40000, table := 0x80000 })] }
  let s := setReg s (.ctrap 1) 0x20000
  { s with mem := cells 0x10000 lineT ++ cells 0x10100 lineT ++
      cells 0x20078 (List.replicate 3 [0x00, 0x01, 0x03, 0, 0, 0, 0, 0]).flatten ++ cells 0x30100 lineT }

/-- The issuing leaf of a state. -/
def iss (s : State) : Iss := (issuer s).getD ⟨0, 0, leaf0, sheet0⟩

theorem test_witness_transfer :
    (∀ i ∈ [Instr.bra (fB 4 0), .bra (fB 4 0 0x190), .call (fB 4 0 0x1FF 4), .callInd (fB 0 0 0x102 4 1),
      .split (fR 0 0 0x1FF 0x190 0x102), .split (fR 0 0 0x1FF 0x100 0x102 0x1FF 0x1FF 0 1)], fits dev1 i = true) ∧
    (checkTarget dev1 0 1 false 0x10100 true).1 = 0 ∧ (checkTarget dev1 0 1 false 0x10104 true).1 ≠ 0 ∧ poolFree dev1 0 ≠ [] ∧
    (readLine dev1 0 1 false 0x10100).toOption.isSome = true ∧ lineParity lineT = true ∧ lineReserved lineT = false := by decide +kernel

/-- Every pool entry taken. -/
def full : State := devC { core0 with leaves := (0, leaf0) :: (List.range 16).map (fun e => (48 + e, { leaf0 with mask := 4 <<< e })) }
theorem test_witness_transferFull : fits full (.split (fR 0 0 0x1FF 0x190 0x102)) = true ∧ poolFree full 0 = [] := by decide +kernel

/-- v4, v5: targets 0x10100 in lane 0 and 0x10000 in lane 1. -/
def devT : State := { dev1 with cores := [(0, { core1 with regs := [(128, 0x10100), (129, 0x10000)] })] }
theorem test_witness_scatter : (∀ i ∈ [Instr.brx (fB 0 0 4), .ret (fB 0 0 4)], fits devT i = true) ∧
    (∀ l < 2, (checkTarget devT 0 1 false (BitVec.ofNat 64 (readOpd devT (iss devT) .i64 4 l)) true).1 = 0) ∧
    (groups 3 3 (fun l => (BitVec.ofNat 64 (readOpd devT (iss devT) .i64 4 l), false))).length = 2 ∧
    (poolFree devT 0).length = 16 := by decide +kernel

/-- The leaf of slot 0 with a field of one's own. -/
def devL (l : Leaf) : State := devC { core0 with leaves := [(0, l)] }

theorem test_witness_leafControl :
    (∀ s ∈ [dev0, devL { leaf0 with joined := true }], ∀ i ∈ [Instr.join (fB 0xFFFFFF 0), .join (fB 0 0), .join (fB 1 0)], fits s i = true) ∧
    (∀ i ∈ [Instr.nop (fR 0 0 0x1FF), .yield (fR 0 0 0x1FF), .exitL (fR 0 0 0x1FF), .exitL { fR 0 0 0x1FF with h := { hd 0 with ga := 0 } }],
      fits dev0 i = true) ∧
    fits (devL { leaf0 with priv := true, handler := cPreempt }) (.yield (fR 0 0 0x1FF)) = true := by decide +kernel

/-- An outstanding load of lane 0 of the leaf. -/
def acc0 : Acc :=
  { id := 9, kind := .load, core := 0, slot := 0, lane := 0, pc := 0x10000, pa := 0x20000, va := 0x20000, bytes := 4, pte := 0x20263,
    uncached := false, ord := 0, scope := 2, evp := 0, subop := 0, cls := 3, dst := 8, live := 1, d := 0, c := 0, deps := [] }

theorem test_witness_codeTrap :
    (∀ s ∈ [dev1, { dev1 with accs := [acc0] }], ∀ f ∈ [fG 0x1FF 0x1FF 0x1FF 0x1FF 7],
      ∀ i ∈ [Instr.bkpt f, .trap f, .syscall f], fits s i = true) ∧
    outstanding dev1 0 leaf0 = [] ∧ outstanding { dev1 with accs := [acc0] } 0 leaf0 ≠ [] ∧
    trapVector dev1 0 1 15 = some (0x30100, false) ∧ trapVector dev1 0 1 17 = some (0x30100, false) ∧
    fits (devL { leaf0 with priv := true }) (.trap (fG 0x1FF)) = true := by decide +kernel

/-- A leaf in a handler, with its record. -/
def devH (r : FaultRec) : State :=
  devC { core0 with leaves := [(0, { leaf0 with priv := true, handler := cBreakpoint, st := .trapped })], recs := [(0, r)] }

theorem test_witness_return :
    (∀ s ∈ [devH { v := true, pc := 0x10030, cause := 15 }, devH { v := true, klaunch := true }],
      ∀ f ∈ [fG 0x1FF, fG 0x1FF 0x1FF 0x1FF 0x1FF 0 0 1, fG 0x1FF 0x102 0x1FF 0x1FF 0 0 2], fits s (.rtt f) = true) ∧
    pcForm 0x10030 = true ∧ pcForm (nextPc 0x10030) = true ∧ pcForm 0x20000 = true := by decide +kernel

/-- An access of every lane of `i` to its place passes its checks and lies in local HBM in a line that the cluster does not hold. -/
def reaches (s : State) (i : Instr) (f : FmtM) (chk bytes : Nat) : Bool :=
  fits s i && (List.range 2).all (fun l => match laneCheck s (iss s) f.asp.toNat chk bytes f.h.cls f.subop (memAddr s (iss s) f l) with
    | .ok pte pa => (match placeOf s (storeOf s pte pa) with | .hbm _ => true | _ => false) &&
        cacheLine s ((iss s).core / 4) (lineOf (storeOf s pte pa)) == none
    | _ => false)

theorem test_witness_accesses : reaches dev1 (.ld (fM 3 8 0x102)) (fM 3 8 0x102) 0 4 = true ∧
    reaches dev1 (.st (fM 3 2 0x102)) (fM 3 2 0x102) 1 4 = true ∧ reaches dev1 (.atom (fM 2 8 0x102)) (fM 2 8 0x102) 2 4 = true ∧
    reaches dev1 (.atom (fM 3 8 0x102 0x1FF 2 7)) (fM 3 8 0x102 0x1FF 2 7) 2 4 = true ∧
    reaches dev1 (.red (fM 2 8 0x102)) (fM 2 8 0x102) 4 4 = true ∧
    reaches dev1 (.pref (fM 0 0x1FF 0x102 0x1FF 0)) (fM 0 0x1FF 0x102 0x1FF 0) 0 1 = true ∧
    reaches dev1 (.pref (fM 0 0x1FF 0x102 0x1FF 0 1)) (fM 0 0x1FF 0x102 0x1FF 0 1) 1 1 = true := by decide +kernel

/-- Addresses that fault and addresses that no cached translation covers: 0x100, odd addresses through v0 as index. -/
theorem test_witness_faults : (∀ i ∈ [Instr.ld (fM 3 8 0x102 0x1C1), .st (fM 3 2 0x102 0x1C1), .atom (fM 2 8 0x102 0x1C1), .red (fM 2 8 0x102 0x1C1)],
      fits dev1 i = true) ∧
    (∀ l < 2, laneCheck dev1 (iss dev1) 0 0 4 3 0 (memAddr dev1 (iss dev1) (fM 3 8 0x102 0x1C1) l) = .fault 3 1) ∧
    fits dev1 (.ld (fM 3 8 0x1C0)) = true ∧ laneCheck dev1 (iss dev1) 0 0 4 3 0 (memAddr dev1 (iss dev1) (fM 3 8 0x1C0) 0) = .miss 0 := by
  decide +kernel

/-- The image of a descriptor: format, flags (bits 127:64 beside the format, rank and pitch), rank, pitch in 16 bytes, dimensions, tile, stride. -/
def image (fmt flags rank pitch base d0 d1 t0 t1 st1 : Nat) : List DWord :=
  [BitVec.ofNat 64 base, BitVec.ofNat 64 (flags + pitch * 2 ^ 8 + rank * 2 ^ 57 + fmt * 2 ^ 60), BitVec.ofNat 64 (d0 + d1 * 2 ^ 32), 0,
    BitVec.ofNat 64 (t0 * 2 ^ 32 + t1 * 2 ^ 48), 0, BitVec.ofNat 64 st1] ++ List.replicate 25 0

def descCells (id : Nat) (d : List DWord) : List Host.Cell := cells (0x80000 + 256 * id) (d.map (fun w => toBytes 8 w.toNat)).flatten

/-- 0 and 1: E4M3 operands of an operation in planes; 2: FP32, 16 × 32; 3: a KV table; 4: S8, 16 elements; 5 and 6: operands of a sparse one. -/
def table0 : List Host.Cell :=
  descCells 0 (image 6 (2 ^ 50) 2 5 0x20000 64 16 64 16 80) ++ descCells 1 (image 6 (2 ^ 50) 2 5 0x20000 64 32 64 32 80) ++
  descCells 2 (image 3 0 2 8 0x20000 32 16 32 16 128) ++
  descCells 3 ((image 6 (2 ^ 32) 2 4 0x20000 64 16 64 16 64).set 9 0x0004000000000000 |>.set 12 0x28000) ++
  descCells 4 (image 0 0 1 1 0x20000 16 0 16 0 0) ++
  descCells 5 (image 6 (2 ^ 50) 2 9 0x20000 128 16 128 16 144) ++ descCells 6 (image 6 (2 ^ 50 + 2 ^ 42) 2 5 0x20000 64 32 64 32 80)

/-- The launch of the sheet: scratch blocks of 0x8000 bytes, four tiles. -/
def launch0 : Launch := { ctx := 1, index := 0, queue := 0, rec' := [0, 0, BitVec.ofNat 64 (4 * 2 ^ 37), 0x8000] ++ List.replicate 28 0 }

/-- s3 names descriptor 1 as an operand of a matrix operation, s4 and s5 descriptors 5 and 6, s6 is a good word for a ring of two slots. -/
def sheet2 : Sheet := { sheet0 with s := sheet0.s ++ [(3, 0x80000), (4, 0x280000), (5, 0x300000), (6, BitVec.ofNat 64 (2 ^ 63 + 2 ^ 35 + 2 ^ 39))] }

def core2 : Core := { core1 with sheets := [(0, sheet2)] }
def dev2 : State := { dev1 with cores := [(0, core2)], mem := table0, launches := [launch0] }

/-- The same with the leaf privileged. -/
def priv (s : State) : State := { s with cores := s.cores.map (fun c => (c.1, { c.2 with leaves := c.2.leaves.map (fun l => (l.1, { l.2 with priv := true })) })) }

/-- The same with the first tag pending. -/
def pend (s : State) : State := { s with cores := s.cores.map (fun c => (c.1, { c.2 with tags := [(0, { ready := false })] })) }

theorem test_witness_maintenance :
    (∀ i ∈ [Instr.fence (fM 0 0x140 0x1FF 0x1FF 0 0 2 3), .fence (fM 0 0x140 0x1FF 0x1FF 0 0 0 3), .cflush (fM 0 0x140 0x102 0x1D0 0 0 5),
      .cflush (fM 0 0x140 0x102 0x1C0 0 0 5), .cinv (fM 0 0x140 0x102 0x1D0 0 0 5)],
      fits { dev1 with accs := [acc0] } i = true ∧ fits (pend dev1) i = true) ∧
    accsOfLanes { dev1 with accs := [acc0] } (iss dev1) 3 = [9] ∧ owedLeft dev1 = false ∧
    (∀ i ∈ [Instr.tlbinv (fG 0x140 0x102 0x1C1 0x1C1 0 0 0 5), .tlbinv (fG 0x140 0x102 0x1C1 0x1C1 0 0 1 5), .tlbinv (fG 0x140 0x102 0x1C1 0x1C1 0 0 2 5),
      .rfclr (fG 0x140 0x102 0x1C1 0x1FF 0 1), .mbox (fG 0x140 0x102), .mbox (fG 0x140 0x102 0x1FF 0x1FF 0 0 1)],
      fits (priv dev1) i = true ∧ fits (pend (priv dev1)) i = true) ∧
    (∀ i ∈ [Instr.tlbinv (fG 0x140 0x102 0x1C0 0x1C1 0 0 0 5), .tlbinv (fG 0x140 0x1C1 0x1C1 0x1C1 0 0 0 5), .tlbinv (fG 0x140 0x102 0x1C1 0x104 0 0 0 5),
      .rfclr (fG 0x140 0x1C1 0x1C1 0x1FF 0 1)], fits
      (priv (setReg (devC { core1 with sheets := [(0, { sheet0 with s := sheet0.s ++ [(4, 9)] })] }) (.part 3 4) 0x100090000)) i = true) ∧
    ctxFn (setReg dev1 (.part 3 4) 0x100090000) 9 = 3 ∧ regionRange (setReg dev1 (.part 3 2) 0x10000) 0 0x20000 1 = (true, false) ∧
    (rangeRows dev1 0 1 false true 0 0x20000 16 = [.ok 0x20263 (0x20000, 16)] ∧ pteDisc 0x20263 = false ∧
      rangeRows dev1 0 1 false true 0 0x100000 16 = [.bad cPage stNotPresent 0x100000]) ∧
    ctxFn dev1 1 = 0 ∧ regionRange dev1 0 0x20000 1 = (true, true) ∧ mailboxHeld dev1 none = 0 ∧ (tagOf dev1 0 (tagNo sheet0 0x140)).ready = true ∧
    (tagOf (pend dev1) 0 (tagNo sheet0 0x140)).ready = false := by decide +kernel

/-- An image at 0x20000, and a ring of two slots of 128 bytes, with none or one full slot. -/
def devD (w : DWord := 0) : State :=
  { dev2 with mem := cells 0x20000 ((image 0 0 1 1 0x20000 16 0 16 0 0).map (fun w => toBytes 8 w.toNat)).flatten ++ table0,
              clusters := [(0, { rings := [(0, { w0 := BitVec.ofNat 64 (2 ^ 63 + 2 ^ 35 + 2 ^ 39 + 2) ||| w })] })] }

theorem test_witness_copies :
    (∀ i ∈ [Instr.tdset (fA 0x140 0x1C1 0x1FF 0x1FF 0x1FF 0 1 0), .tdset (fA 0x140 0x1C1 0x102 0x1FF 0x1FF 0 0 0),
      .tdget (fA 0x140 0x1C1 0x102 0x1FF 0x1FF 1), .cpy (fA 0x140 0x1C4 6 0x1C0), .cpy (fA 0x140 0x1C4 0x102 0x1C0), .cpyr (fA 0x1FF 0x1C4 6 0x1FF 0x1C0),
      .stt (fA 0x140 0x1C2 2 8), .xlate (fA 10 0x1C3 0 1 0x191)], fits (devD) i = true) ∧
    imageCheck (descOf devD 1 4) = none ∧
    (leaderRead (afterChecks devD (iss devD) (sigTdset (fA 0x140 0x1C1 0x102 0x1FF 0x1FF 0 0 0)) 3) (iss devD) 0x20000 256).toOption.isSome = true ∧
    CoordsPass devD (iss devD) 3 0x1C4 6 ∧ destOk (descOf devD 1 4) (scratchSize launch0.rec') 0 = true ∧
    copyCheck (descOf devD 1 4) 4 [16] = dsCoordRange ∧
    (rgV (ringOf devD 0 0) = true ∧ rgF (ringOf devD 0 0) 12 1 = 1 ∧ footprint (descOf devD 1 4) ≤ rgZ (ringOf devD 0 0) ∧
      rgF (ringOf devD 0 0) 22 18 < rgS (ringOf devD 0 0)) ∧
    (match sttLane devD (iss devD) (descOf devD 1 2) [0, 0] with | .ok _ _ _ => true | _ => false) = true ∧
    tKvb (descOf devD 1 3) = 1 ∧ tRank (descOf devD 1 2) = 2 := by
  refine ⟨?_, ?_, ?_, ⟨?_, ⟨?_, ?_, ?_⟩, ?_⟩, ?_⟩ <;> decide +kernel

theorem test_witness_rings :
    (∀ s ∈ [devD, devD (2 ^ 18 + 2 ^ 13)], ∀ i ∈ [Instr.rinit (fA 0x1FF 0x1C0 0x106 0x1FF 0x1FF 0 0 0), .rinit (fA 0x1FF 0x1C0 0x1C0 0x1FF 0x1FF 0 0 0),
      .rwait (fA 10 0x1C0 0x1C0 0x1FF 0x1FF 1 0 0), .rwait (fA 10 0x1C0 0x1C1 0x1FF 0x1FF 1 0 0), .rwait (fA 10 0x1C0 0x1C2 0x1FF 0x1FF 1 0 0),
      .rrel (fA 0x1FF 0x1C0 0x1FF 0x1FF 0x1FF 2 0 0)], fits s i = true) ∧
    rgS (ringOf devD 0 0) = 2 ∧ rgF (ringOf devD 0 0) 17 13 = 0 ∧ rgF (ringOf devD 0 0) 22 18 = 0 ∧
    rgF (ringOf (devD (2 ^ 18 + 2 ^ 13)) 0 0) 17 13 = 1 ∧
    (let w : DWord := sheet2.s.lookup 6 |>.getD 0
     w.getLsbD 63 = true ∧ fld w 38 35 ≠ 0 ∧ fld w 48 39 ≠ 0 ∧ fld w 48 39 ≤ 512 ∧ fld w 34 0 = 0 ∧
     128 * fld w 60 49 + (fld w 38 35 + 1) * (128 * fld w 48 39) ≤ scratchSize (launchRec devD sheet2)) := by decide +kernel

/-- Operation 5 of the sheet, on its tag 0. -/
def async0 (k : AsyncKind) : Async :=
  { id := 5, core := 0, slot := 0, ctx := 1, launch := 0, task := 0, tag := 0, scope := 2, mask := 3, priv := false, kind := k }

/-- Tags: 0 pending, 1 ready with status 4 and an address, 2 with BOUNDS, 3 with status 1. -/
def devTags (ts : Tab Tag) : State := { dev2 with cores := [(0, { core2 with tags := ts })], asyncs := [async0 (.tdget 1 0x20000)] }
def tags0 : Tab Tag := [(0, { ready := false, op := .tdget }), (1, { status := 4, op := .other, va := 0x123 }), (2, { status := 0xB, op := .copy }),
  (3, { status := 1, op := .copy })]

theorem test_witness_tags :
    (∀ i ∈ [Instr.wait (fA 10 0x140 0x1FF 0x1FF 0x1FF 0 0 0), .wait (fA 10 0x141 0x1FF 0x1FF 0x1FF 0 0 0), .wait (fA 10 0x142 0x1FF 0x1FF 0x1FF 0 0 0),
      .waitany (fA 10 0x1FF 0x1FF 0x1FF 0x1CB 1 0 0), .waitall (fA 10 0x1FF 0x1FF 0x1FF 0x1CA 2 0 0), .tfirst (fA 10 0x1FF 0x1FF 0x1FF 0x1CB 3 0 0),
      .ttest (fA 12 0x141 0x1FF 0x1FF 10 4 0 0), .tcancel (fA 0x1FF 0x1FF 0x1FF 0x1FF 0x1C1 5 0 0)], fits (devTags tags0) i = true) ∧
    namedTags (devTags tags0) (iss dev2) 0xB true = [0, 1, 3] ∧ namedTags (devTags tags0) (iss dev2) 1 true = [0] ∧
    namedTags (devTags tags0) (iss dev2) 0 true = [] ∧ namedTags (devTags tags0) (iss dev2) 1 false = [0] := by decide +kernel

/-- An operation in the queue of core 0, of the sheet's task. -/
def qop0 : QOp :=
  { id := 3, ctx := 1, launch := 0, task := 0, sheet := 0, slot := 0, quarter := 0, sparse := false, imgA := image 6 (2 ^ 50) 2 5 0x20000 64 16 64 16 80,
    imgB := image 6 (2 ^ 50) 2 5 0x20000 64 32 64 32 80, idB := 1, bankA := 2, bankB := 2, xa := 0, xb := 0, k0 := 0, m0 := 0, n0 := 0, tile := 0,
    tag := 0, group := 3 }

/-- dev2 with a core of one's own. -/
def dev2C (k : Core) : State := { dev2 with cores := [(0, k)] }

theorem test_witness_matrix :
    (∀ s ∈ [dev2, dev2C { core2 with queue := List.replicate 8 qop0 }], ∀ i ∈ [Instr.mxa (fX 0x140 0x1C0 0x103 0x1C0 0x1C0),
      .mxsp (fX 0x140 0x104 0x105 0x1C0 0x1C0), .mxa (fX 0x140 0x1C0 0x103 0x1C0 0x1C4)], fits s i = true) ∧
    activeQuarters 3 = [(0, 0)] ∧ quarterCheck dev2 (iss dev2) false ⟨0, 0, 0x80000, 0, 0⟩ = 0 ∧
    quarterCheck dev2 (iss dev2) true ⟨0, 0x280000, 0x300000, 0, 0⟩ = 0 ∧
    quarterCheck dev2 (iss dev2) false ⟨0, 0, 0x80000, 0, 4⟩ = dsAccRange := by decide +kernel

theorem test_witness_tiles :
    (∀ i ∈ [Instr.mxrdy (fX 0x140), .mxld (fX 8 0x1C0 0x1C0), .mxzero (fX 0x1FF 0x1C1), .mxst (fX 0x140 0x1C2 0x1C0 0x1C0 0x1FF 0 2)],
      fits dev2 i = true) ∧ (tilesOf dev2 sheet2).1 = 4 ∧ spoiledOps core2 true 0x800 0x800 = [] ∧ chipPoison dev2 0 true 0 4 = false ∧
    storeCheck dev2 (iss dev2) (fX 0x140 0x1C2 0x1C0 0x1C0 0x1FF 0 2) ⟨0, 2, 0, 0, 0⟩ = 0 ∧ tBact (descOf dev2 1 2) = 0 ∧
    tDim (descOf dev2 1 2) 0 = 32 := by decide +kernel

/-- The task's one operation stands in the queue, and memory is as one likes. -/
def image1 : ArrayImage := { id := 7, ops := [qop0], runs := [] }
def devS (m : List Host.Cell) : State := { priv (dev2C { core2 with queue := [qop0] }) with images := [image1], mem := m }

theorem test_witness_images :
    fits (devS []) (.mxsave (fX 0x141 0x102)) = true ∧ fits (devS []) (.mxrest (fX 0x141 0x102 0x1FF 0x1FF 0x1FF 1)) = true ∧
    imageFault (devS []) (iss (devS [])) 0x20000 1 = none ∧ imageFault (devS []) (iss (devS [])) 0x20000 0 = none ∧
    savedOps (coreOf (devS []) 0) sheet2 = [qop0] ∧ (sheetTags (coreOf (devS []) 0) sheet2 0).isSome = true ∧
    (tagOf (devS []) 0 0).ready = true := by decide +kernel

/-- Every line of the image's place is read from memory. -/
theorem devS_reads (m : List Host.Cell) (k : Nat) (h : k < 128) :
    engRead (devS m) (leafEng ⟨0, 0, { leaf0 with priv := true }, sheet2⟩) (0x20000 + 128 * k) 128 =
      .ok (memBytes (devS m) (0x20000 + 128 * k) 128) := by
  have ht : translateNow (devS m) 0 1 (0x20000 + 128 * k) = .ok (0x20263, 0x20000 + 128 * k) := by
    have h0 : tlbLookup (devS m) 0 1 (0x20000 + 128 * k) = some ⟨1, 0x20000, 0x10000, 0x20263⟩ :=
      (by decide +kernel : ∀ k < 128, tlbLookup (devS []) 0 1 (0x20000 + 128 * k) = some ⟨1, 0x20000, 0x10000, 0x20263⟩) k h
    have h1 : canonical (0x20000 + 128 * k) = true := (by decide +kernel : ∀ k < 128, canonical (0x20000 + 128 * k) = true) k h
    have h2 : paUnder 0x20263 0x10000 (0x20000 + 128 * k) = 0x20000 + 128 * k :=
      (by decide +kernel : ∀ k < 128, paUnder 0x20263 0x10000 (0x20000 + 128 * k) = 0x20000 + 128 * k) k h
    have h3 : frameCheck (devS m) (pteImode 0x20263) (0x20000 + 128 * k) = 0 :=
      (by decide +kernel : ∀ k < 128, frameCheck (devS []) (pteImode 0x20263) (0x20000 + 128 * k) = 0) k h
    simp only [translateNow, h0, h1, h2, h3]
    rfl
  have hp : permCheck (devS m) 1 true 0 0x20263 (0x20000 + 128 * k) = 0 :=
    (by decide +kernel : ∀ k < 128, permCheck (devS []) 1 true 0 0x20263 (0x20000 + 128 * k) = 0) k h
  have hs : storeOf (devS m) 0x20263 (0x20000 + 128 * k) = 0x20000 + 128 * k :=
    (by decide +kernel : ∀ k < 128, storeOf (devS []) 0x20263 (0x20000 + 128 * k) = 0x20000 + 128 * k) k h
  have hf : (frameLocal (devS m) (0x20000 + 128 * k) && regionFlagged (devS m) (0x20000 + 128 * k)) = false :=
    (by decide +kernel : ∀ k < 128, (frameLocal (devS []) (0x20000 + 128 * k) && regionFlagged (devS []) (0x20000 + 128 * k)) = false) k h
  have hl : placeOf (devS m) (0x20000 + 128 * k) = .hbm (0x20000 + 128 * k) :=
    (by decide +kernel : ∀ k < 128, placeOf (devS []) (0x20000 + 128 * k) = .hbm (0x20000 + 128 * k)) k h
  have hq : 128 * lineOf (0x20000 + 128 * k) = 0x20000 + 128 * k := by simp only [lineOf]; omega
  have ha : (0x20000 + 128 * k) % 128 = 0 := by omega
  have hx (bs : List Byte) : seenMixed (devS m) (0x20000 + 128 * k) bs = bs := rfl
  have hw (n : Nat) : memWins (devS m) (0x20000 + 128 * k) n = [] := rfl
  have hn : ((coreOf (devS m) 0).queue.any (fun q => q.id == leafReqs 0 0)) = false := rfl
  have he : engAddr (devS m) ⟨0, 1, true, leafReqs 0 0⟩ (0x20000 + 128 * k) 0 = .ok (0x20263, 0x20000 + 128 * k) := by
    simp only [engAddr, ht, hp, hs, hf]; rfl
  change engRead (devS m) ⟨0, 1, true, leafReqs 0 0⟩ _ _ = _
  simp only [engRead, he, hs, hl, coherentRead, coherentLine_plain (devS m) _ rfl rfl rfl rfl, hq, ha, seenMem, hx, hw, hn]
  simp [List.take_of_length_le, memBytes]

/-- An image of the operation stands in memory at 0x20000. -/
theorem test_witness_imageRead :
    leaderRead (devS (putBytes (devS []) 0x20000 (imageBytes image1)).mem) ⟨0, 0, { leaf0 with priv := true }, sheet2⟩ 0x20000 imageLen =
      .ok (imageBytes image1) := by
  generalize hm : (putBytes (devS []) 0x20000 (imageBytes image1)).mem = m
  have hf : ∀ n ≤ 128, (List.range n).foldl (fun (r : Except (Nat × Nat) (List Byte)) i => match r with
      | .error e => .error e
      | .ok bs => match engRead (devS m) (leafEng ⟨0, 0, { leaf0 with priv := true }, sheet2⟩) (0x20000 + 128 * i) 128 with
        | .ok b => .ok (bs ++ b)
        | .error e => .error (lanesFault e)) (.ok []) = .ok (memBytes (devS m) 0x20000 (128 * n)) := by
    intro n hn
    induction n with
    | zero => rfl
    | succ n ih =>
      rw [List.range_succ, List.foldl_append, ih (by omega), Nat.mul_succ, memBytes_append]
      simp [devS_reads m n (by omega)]
  have hlen : (imageBytes image1).length = imageLen := by simp [imageBytes, imageLen, toBytes_length]
  have hd : devS m = putBytes (devS []) 0x20000 (imageBytes image1) := by rw [putBytes_rest, hm]; rfl
  have : memBytes (devS m) 0x20000 imageLen = imageBytes image1 := by rw [hd, ← hlen, memBytes_putBytes]
  exact (hf 128 (by omega)).trans (congrArg _ this)

theorem test_witness_attention :
    (∀ i ∈ [Instr.cbset (fX 0x140 0x102 0x1C0 0x1C2), .cbset (fX 0x140 0x102 0x1C0 0x1C0), .cbswap (fX 0x1FF 0x1FF 0x1FF 0x1FF 0x1FF 1),
      .tmask (fX 10 0x104 0x1C0 0x1FF 12 0 2), .tmask (fX 10 0x104 0x1C0 0x1FF 0x1FF 0 4), .mcast (fX 0x140 0x1C4 6 0x1C0 0x1FF 0 3),
      .cred (fX 0x140 0x1C0 0x1C1 0x1C3)], fits dev2 i = true) ∧
    bankPending dev2 0 1 = false ∧ bankHeld (coreOf dev2 0) 1 = false ∧
    bankPending { dev2 with asyncs := [async0 (.cbset 1 0x20000 0 2)] } 0 1 = true ∧
    (let os : List RedOpds := [⟨0, 0, 1, 3⟩]; ∀ o ∈ os, redMismatch dev2 (iss dev2) os o = false) := by decide +kernel

/-- Gathering 0 of context 1, of the core, lanes 0 and 1 members in slot 0; `p`: a phase in progress, `a`: lanes that have arrived. -/
def gath (p : Bool) (a : Mask) (g : GEntry := {}) : State :=
  let e : GEntry := { g with name := 9, owner := 1, gen := 1, role := 1, scope := 2, pip := p, dl := 16, memb := 2, arrv := (laneList a).length, phase := 1, kind := 1 }
  let h : Sheet := { sheet0 with h := [(0, 1)], slots := [(0, { handle := 1, member := 3, arrived := a })] }
  { devC { core0 with sheets := [(0, h)] } with gather := [(0, e)] }

/-- The gatherings of a state where none is live. -/
def gathNone : State := { gath true 1 with gather := [] }

/-- A gathering without a member, and one homed on another device. -/
def gathEmpty : State := { gath false 0 with gather := [(0, { gEntry (gath false 0) 0 with memb := 0 })] }
def gathShadow : State :=
  let s := gath false 0
  let h : Sheet := { sheet0 with h := [(0, 0x400001)] }
  { devC { core0 with sheets := [(0, h)] } with gather := [(0, { gEntry s 0 with role := 3, homedev := 4, homeHandle := 0x400001, owner := 0 })] }

theorem test_witness_gatheringsWait :
    (∀ f ∈ [fG 0x140 0x180], ∀ u ∈ [gath false 0, { gath false 0 with accs := [acc0] }], fits u (.garrive f) = true) ∧
    accsOfLanes { gath false 0 with accs := [acc0] } (iss { gath false 0 with accs := [acc0] }) 3 ≠ [] ∧
    accsOfLanes (gath false 0) (iss (gath false 0)) 3 = [] ∧
    joinSlot (gath true 1) 0 (iss (gath true 1)).sheet 1 = some 0 ∧ slotOf (iss (gath true 1)).sheet 1 = some 0 := by decide +kernel

theorem test_witness_gatherings :
    (∀ i ∈ [Instr.gnew (fG 0x180 0x1C9 0x1D0 10 0 0 0 2), .gnew (fG 0x180 0x1C9 0x1C0 10 0 0 0 2), .gjoin (fG 10 0x180), .gleave (fG 10 0x180 0x1FF 0x1FF 0 1),
      .garrive (fG 0x140 0x180), .gvote (fG 0x140 0x180 0x190 0x1FF 0 1), .gred (fG 0x140 0x180 0 0x1FF 0 2), .gstat (fG 10 0x180 0x1FF 0x1FF 0 1),
      .gabort (fG 10 0x180), .gfree (fG 10 0x180 0x1FF 0x1FF 0 1)],
      fits (gath false 0) i = true ∧ fits (gath true 1) i = true ∧ fits gathNone i = true) := by decide +kernel

theorem test_witness_gatheringStates :
    liveG (gath true 1) 1 1 = some 0 ∧ slotOf (iss (gath true 1)).sheet 1 = some 0 ∧ handleOf (gath true 1) 0 = 1 ∧
    namedG (gath false 0) 1 = some 0 ∧ liveG gathNone 1 1 = none ∧ freeEntry (gath true 1) 1 = some 1 ∧ scopeInst 2 0 = 0 ∧
    liveG gathEmpty 1 1 = some 0 ∧ freeSlot (gath false 0) 0 (iss (gath false 0)).sheet = some 1 ∧ liveG gathShadow 1 0x400001 = some 0 := by decide +kernel

/-- A tag that a gathering made, with its result. -/
def gathTag (r : Bool) : State := devC { core0 with tags := [(0, { ready := r, op := .gathering, handle := 1, phase := 1, value := 5 })] }
theorem test_witness_gwait : ∀ s ∈ [gathTag true, gathTag false, dev0], fits s (.gwait (fG 10 0x140)) = true := by decide +kernel

/-- s7 = `v`; queue 0 serves context 1 with room for four launches; the launch record at 0x20000 asks for one task of one sheet; the
counters of launch 0 (of `lv`). -/
def devW (v : DWord) (lv : Level := {}) : State :=
  let s := { dev2C { core2 with sheets := [(0, { sheet2 with s := sheet2.s ++ [(7, v)] })] } with
    ctxs := [(1, { root := 0x40000, table := 0x80000, levels := [(2 ^ 29, lv)] })], launches := [],
    mem := cells 0x20010 [1, 0x40, 0x20] }
  setReg s (.qctl 0) (BitVec.ofNat 64 (2 ^ 63 + 2 ^ 38 + 4))

theorem test_witness_work : ∀ s ∈ [devW 0xA0000000, devW 0x20000000, devW 0x20000000 { done := true, cancelled := true }, devW 0xFFFFFFFF],
    fits s (.launch (fG 10 0x102 0x1C0)) = true ∧ fits s (.ctradd (fG 10 0x107 0x1C5 0x1FF 0 0 0 2)) = true ∧
    fits s (.ctrwait (fG 10 0x107 0x1C0 0x1FF 0 1 0 2)) = true ∧ fits s (.ctrwait (fG 10 0x107 0x1C9 0x1FF 3 1 0 2)) = true ∧
    fits s (.cancel (fG 10 0x107 0x1FF 0x1FF 0 2)) = true ∧ accsOfLanes s (iss s) 3 = [] := by decide +kernel

theorem test_witness_workStates :
    queueOk (devW 0) 1 0 = true ∧ queueOk (devW 0) 1 1 = false ∧
    (leaderRead (afterChecks (devW 0) (iss (devW 0)) (sigLaunch (fG 10 0x102 0x1C0)) 3) (iss (devW 0)) 0x20000 256).toOption.isSome = true ∧
    recordOk (devW 0) 1 ([0, 0, 0x204001] ++ List.replicate 29 0) = true ∧ recordOk (devW 0) 1 (List.replicate 32 0) = false ∧
    pendingIn (devW 0) 0 = 0 ∧ (counterAt (devW 0) 1 0xA0000000).isSome = true ∧ counterAt (devW 0) 1 0xFFFFFFFF = none ∧
    (counterAt (devW 0) 1 0x20000000).isSome = true ∧ (counterAt (devW 0) 1 0x20000000).map (·.done) = some false := by decide +kernel

/-- Task 0 of launch 0 on the core, for HALT; selectors in s7. -/
def devY (v : DWord) : State :=
  let s := priv (dev2C { core2 with sheets := [(0, { sheet2 with s := sheet2.s ++ [(7, v)] })] })
  { s with launches := [{ launch0 with tasks := [(0, { index := 0 })] }] }

theorem test_witness_system : ∀ s ∈ [devY 0x1000000, devY 0x2000001, devY 0x3000000, devY 0x3000040, devY 0x5000000, pend (devY 0x3000000)],
    ∀ i ∈ [Instr.sysrd (fG 10 0x107), .syswr (fG 0x1FF 0x107 0x106 0x1FF 0 1), .irq (fG 0x1FF 0x1C1 0x1FF 0x1FF 0 1),
      .irq (fG 0x1FF 0x107 0x1FF 0x1FF 0 1), .halt (fG 0x1FF)], fits s i = true := by decide +kernel

theorem test_witness_systemStates :
    (sysSel (devY 0) (iss (devY 0)) 0x1000000).toOption = some (.ring 0 0) ∧ (sysSel (devY 0) (iss (devY 0)) 0x2000001).toOption = some (.disc 1) ∧
    (sysSel (devY 0) (iss (devY 0)) 0x3000040).toOption = some (.tag 1 0) ∧ (sysSel (devY 0) (iss (devY 0)) 0x5000000).toOption = none ∧
    (taskOf (devY 0) 1 0 0).isSome = true ∧ (tagOf (pend (devY 0)) 0 0).ready = false ∧ accsOfLanes (devY 0) (iss (devY 0)) 3 = [] := by
  decide +kernel

/-- Line 1024 (at 0x20000; its home is router 128, by port 1 of router 2) in a cluster's cache, with all its bytes alike. -/
def line0 (st : Moesic) (b : Byte := 7) (has : Nat := 0) : CLine :=
  { line := 1024, st := st, data := List.replicate 128 b, poison := 0, prot := 0, pte := 0x20263, has := has }

/-- One outstanding access, with lines in caches of clusters. -/
def devA (a : Acc) (ls : List (Nat × CLine) := []) : State :=
  { dev1 with accs := [a], clusters := ls.map (fun p => (p.1, { cache := [p.2] })), nextId := 50 }
def acc1 (k : AccKind) (unc : Bool := false) (sub : BitVec 7 := 0) : Acc := { acc0 with kind := k, uncached := unc, subop := sub, d := 5 }

/-- A state of one access in which it may go on. -/
def accReady (s : State) (a : Acc) (r : Reach) : Bool :=
  accOf s 9 == some a && a.fail == 0 && depsDone s a && !snapNeeded s a && reachOf s a == r

theorem test_witness_accessEvents :
    (∀ k ∈ [AccKind.load, .store], accReady (devA (acc1 k)) (acc1 k) .cache = true ∧ cacheLine (devA (acc1 k)) 0 1024 = none ∧
      requested (devA (acc1 k)) 0 1024 = false) ∧
    accReady (devA (acc1 .load) [(0, line0 .e)]) (acc1 .load) .cache = true ∧
    cacheLine (devA (acc1 .load) [(0, line0 .e)]) 0 1024 = some (line0 .e) ∧ linePoison (line0 .e).poison 0 4 = false ∧
    accReady (devA (acc1 .store) [(0, line0 .e)]) (acc1 .store) .cache = true ∧
    (∀ k ∈ [AccKind.load, .store], plainB (devA (acc1 k) [(0, line0 .e)]) 0x20000 4 = true) ∧
    (let a := { acc1 .store with ord := 2, scope := 3, soft := [8] }
     let s := { devA a [(0, line0 .e)] with accs := [a, { acc0 with id := 8, pa := 0x30000 }] }
     accReady s a .cache = true ∧ plainB s 0x20000 4 = true ∧ a.soft.contains 8 = true) ∧
    (let o : Owed := { pa := 0x20000, bytes := 4, core := 3, slot := 0, lane := 0, scope := 3, ids := [8] }
     let s (a : Acc) : State := { devA a with accs := [a, { acc0 with id := 8, pa := 0x30000 }], owed := [o] }
     ∀ k ∈ [AccKind.load, .atom], ∀ q ∈ [(0, 0), (1, 3)],
       let a := { acc1 k with ord := q.1, scope := q.2 }
       accOf (s a) 9 = some a ∧ covers 3 (3, 0, 0) (a.core, a.slot, a.lane) = true ∧ idsLeft (s a) [8] = true ∧ mayRead (s a) a = false ∧
         mayRead (s { a with core := 4 }) { a with core := 4 } = true) ∧
    (∀ k ∈ [AccKind.load, .store, .atom], plainB (devA (acc1 k true)) 0x20000 4 = true) ∧
    (∀ k ∈ [AccKind.load, .store, .atom], accReady (devA (acc1 k true)) (acc1 k true) .home = true ∧
      homeFreeB (devA (acc1 k true)) 1024 (lineHome (devA (acc1 k true)) 1024) [] = true ∧
      tileReady (devA (acc1 k true)) 1024 true = true ∧ memPoison (devA (acc1 k true)) 0x20000 4 = false) := by decide +kernel

/-- A miss of page 5 of context 1 that waits for a walker, and a walk of it at `lv` that reads entry `e`. -/
def walk0 (lv : Nat) : Walk := { id := 3, ctx := 1, page := 5, level := lv, table := 0x60000, cluster := 0, waiters := [(0, 0)] }
def devM : State := { dev1 with dies := [(0, { missed := [walk0 9] })] }
def devN (e : DWord) (lv : Nat := 4) : State :=
  let s := { dev1 with dies := [(0, { active := [walk0 lv] })] }
  { s with mem := cells (entryAddr 0x60000 lv 0x50000) (toBytes 8 e.toNat) }

/-- What a walk reads, and that nothing stands in its way. -/
def walkSees (s : State) (lv : Nat) : Option DWord :=
  let a := entryAddr 0x60000 lv 0x50000
  let r := coherentRead s a 8
  if (tget {} s.dies 0).walkCache.all (fun p => p.1 != a) && quiet s (lineOf a) && !r.2 && walkOf s 0 3 == some (walk0 lv)
  then some (BitVec.ofNat 64 (leBytes r.1)) else none

/-- An atomic of host memory, with an operator of its own and tries behind it. -/
def accH (sub : BitVec 7) (n seen : Nat := 0) : Acc :=
  { acc0 with kind := .atom, uncached := true, subop := sub, pa := 0x8000000020000, sent := true, attempt := n, seen := seen, d := 5 }

theorem test_witness_walks :
    ((tget {} devM.dies 0).missed = [walk0 9] ∧ (tget {} devM.dies 0).active = [] ∧ (ctxOf devM 1).isSome = true) ∧
    walkSees (devN 0) 4 = some 0 ∧ walkSees (devN 0x70001) 4 = some 0x70001 ∧ placeOf (devN 0x70001) 0x70000 = .hbm 0x70000 ∧
    stackPresent (devN 0x70001) 0 = true ∧ walkSees (devN 0x50263 0) 0 = some 0x50263 ∧ leafCheck (devN 0x50263 0) 1 0 0x50263 = 0 ∧
    (coherentRead { devN 0 with poison := [(entryAddr 0x60000 4 0x50000 / 8, true)] } (entryAddr 0x60000 4 0x50000) 8).2 = true := by decide +kernel

theorem test_witness_hostAtomics :
    (∀ a ∈ [accH 0, accH 3, accH 3 1 0x77, accH 3 256 0x77], accReady (devA a) a .hostAtom = true) ∧
    atomicOpOf (accH 0) ≠ 0 ∧ atomicOpOf (accH 3) = 0 ∧ enclosing 4 = 4 ∧ leafOfLane (devA { accH 3 256 0x77 with slot := 5 }) 0 5 0 = none := by
  decide +kernel

/-- A mesh with one message, stitches at routers, lines in clusters, an unpick and a home transaction. -/
def mesh (m : Msg) (rs : List (Nat × Stitch) := []) (cs : List (Nat × CLine) := []) (us : List Unpick := []) (tx : List HomeTx := []) : State :=
  { msgs := [m], routers := rs.map (fun p => (p.1, { stitches := [p.2] })), clusters := cs.map (fun p => (p.1, { cache := [p.2] })),
    unpicks := us, homeTx := tx, nextId := 50 }
def msg0 (k : MsgKind) (at' port src : Nat) (path : List (Nat × Nat) := []) : Msg := { newMsg k 1024 at' port 128 src with id := 7, path := path }
def st0 (mask : BitVec 5) (root home : Nat) (comm : Bool := false) : Stitch :=
  { set := 0, way := 0, line := 1024, mask := mask, root := root, home := home, comm := comm }
/-- An answer with data. -/
def rr (k : MsgKind) (st : Moesic) (unc : Bool) (at' : Nat) (path : List (Nat × Nat)) (port : Nat := 3) : Msg :=
  { msg0 k at' port 0 path with uncached := unc, st := st, data := some (List.replicate 128 9), aux := 7 }
def up0 (why : Nat) : Unpick := { router := 128, line := 1024, port := 0, left := 0b01000, why := why }

/-- The message stands, and nothing holds its line back at the home. -/
def stands (s : State) (k : MsgKind) : Bool := (arrived s 7).map (·.kind) == some k
def homeFree (s : State) : Bool := homeFreeB s 1024 128 (ahead s 7) && !peerLine s 1024 && tileReady s 1024 true

theorem test_witness_mesh : lineHome {} 1024 = 128 ∧ neighbour 0 (routePort 0 128) = some (1, 4) ∧ neighbour 1 2 = some (2, 4) ∧
    neighbour 128 3 = some (2, 1) ∧ routePort 2 128 = 1 ∧ tileOf 1024 = 32 := by decide +kernel

theorem test_witness_reads :
    (stands (mesh (msg0 .read 0 0 0)) .read = true ∧ stitchOf (mesh (msg0 .read 0 0 0)) 0 1024 = none) ∧
    homeFree (mesh (msg0 .read 128 3 0)) = true ∧
    (let s := mesh (msg0 .read 1 4 0 [(0, 0)]) [(1, st0 0b00101 0 2)] [(1, line0 .m)]
     stands s .read = true ∧ stitchOf s 1 1024 = some (st0 0b00101 0 2) ∧ steerPort (st0 0b00101 0 2) 4 = some 0 ∧
       cacheLine s 1 1024 = some (line0 .m)) ∧
    (let s := mesh (rr .readResp .e false 2 [(2, 4), (1, 4), (0, 0)] 1)
     stands s .readResp = true ∧ stitchOf s 2 1024 = none ∧ freeWay s 2 1024 = some 0) ∧
    (let s := mesh (rr .readResp .e false 0 [(0, 0)] 2)
     stands s .readResp = true ∧ roomFor s 0 1024 = true ∧ freeWay s 0 1024 = some 0) ∧
    (let a := { acc1 .load true with sent := true, msg := 7 }
     let s := { devA a with msgs := [rr .readResp .e true 0 [(0, 0)] 2] }
     stands s .readResp = true ∧ accsFor s 7 = [a] ∧ mayRead s a = true ∧ linePoison 0 0 4 = false ∧ plainB s a.pa a.bytes = true) := by decide +kernel

theorem test_witness_writes :
    stands (mesh (msg0 .write 0 0 0)) .write = true ∧ homeFree (mesh (msg0 .write 128 3 0)) = true ∧
    (let s := mesh (msg0 .write 128 3 0) [(128, st0 0b01000 3 0)]
     stands s .write = true ∧ mustWait s (msg0 .write 128 3 0) = false ∧ stitchOf s 128 1024 = some (st0 0b01000 3 0) ∧ 3 ∈ portsOf (clearPort 0b01000 0)) ∧
    stitchOf (mesh (msg0 .inval 1 2 0)) 1 1024 = none ∧
    (let s := mesh (msg0 .inval 1 2 0) [(1, st0 0b00101 0 2)] [(1, line0 .m)]
     stands s .inval = true ∧ unpickOf s 1 1024 = none ∧ fabCopies s 1 1024 = [] ∧ clearPort (clearPort 0b00101 0) 2 = 0 ∧ cacheLine s 1 1024 = some (line0 .m)) ∧
    (let s := mesh (rr .invalAck .m false 128 []) [(128, st0 0b01000 3 0)] [] [up0 2] [⟨1024, msg0 .write 128 3 0⟩]
     stands s .invalAck = true ∧ unpickOf s 128 1024 = some (up0 2) ∧ clearPort (up0 2).left 3 = 0 ∧ (txOf s 1024).isSome = true) ∧
    (let s := mesh (rr .grant .m false 0 [(0, 0)] 2)
     stands s .grant = true ∧ freeWay s 0 1024 = some 0 ∧ roomFor s 0 1024 = true ∧ cacheLine s 0 1024 = none) := by decide +kernel

theorem test_witness_prunes :
    clearPort 0b10101 4 = 0b00101 ∧ clearPort 0b01000 3 = 0 ∧ portsOf (clearPort 0b10100 4) = [2] ∧ portsOf (clearPort 0b00101 0) = [2] ∧
    (∀ m ∈ [msg0 .prune 1 4 0, msg0 .dropNotice 1 0 1], ∀ k ∈ [0b10101, 0b10100, 0b00101],
      stitchOf (mesh m [(1, st0 k 0 2)]) 1 1024 = some (st0 k 0 2)) ∧
    (let s := mesh (rr .anchorRelease .m false 128 []) [(128, st0 0b01000 3 0)]
     stands s .anchorRelease = true ∧ livePort s (rr .anchorRelease .m false 128 []) = true ∧ unpickOf s 128 1024 = none ∧
       mustWait s (rr .anchorRelease .m false 128 []) = false) := by
  decide +kernel

theorem test_witness_commutative :
    stands (mesh (msg0 .join 0 0 0)) .join = true ∧ homeFree (mesh (msg0 .join 128 3 0)) = true ∧
    (let s := mesh (msg0 .join 1 4 0) [(1, st0 0b00101 0 2 true)]
     (stitchOf s 1 1024).map (fun g => (g.unpk, g.comm)) = some (false, true)) ∧
    (let m := msg0 .commRead 128 3 0 [(2, 4), (1, 4), (0, 0)]
     homeFree (mesh m) = true ∧ stitchOf (mesh m) 1 1024 = none ∧ stitchOf (mesh m) 2 1024 = none ∧
       mustWait (mesh m [(128, st0 0b01000 3 0 true)]) m = false ∧ (stitchOf (mesh m [(1, st0 0b00101 0 2 true)]) 1 1024).isSome = true ∧
       homeFree (mesh m [(1, st0 0b00101 0 2 true)]) = true) ∧
    stands (mesh (msg0 .gatherStart 128 0 0 [(128, 3), (2, 4), (1, 4)])) .gatherStart = true ∧
    (∀ m ∈ [msg0 .gatherStart 1 2 0 [(1, 2)], msg0 .collect 1 2 0], let s := mesh m [(1, st0 0b00101 0 2 true)] [(1, line0 .c 3 0xFFFFFFFF)]
     cacheLine s 1 1024 = some (line0 .c 3 0xFFFFFFFF) ∧ unpickOf s 1 1024 = none) ∧
    stands (mesh (msg0 .unpickReq 128 3 0) [(128, st0 0b01000 3 0 true)]) .unpickReq = true ∧
    (let m := { rr .foldDelivery .c false 128 [] with has := 5, pte := 0x10000000020263 }
     livePort (mesh m [(128, st0 0b01000 3 0 true)]) m = true ∧ mustWait (mesh m [(128, st0 0b01000 3 0 true)]) m = false ∧ elemBytes (pteCfmt m.pte) = 4 ∧
       lineFlagged { mesh m [(128, st0 0b01000 3 0 true)] with flagged := [(32, true)] } 1024 = true) := by decide +kernel

/-- A line of peer 1, and a request for its tile. -/
def pline : Nat := 0xC010000000000 / 128
def ereq : EmsenReq := { id := 7, dev := 1, use := .tile pline true 0, deadline := 100 }
/-- A loss report of commutative lines or of the root's branch. -/
def loss (comm root : Bool) : Msg := { msg0 .branchLoss 128 3 1 with aux := 4 + 8 * b2n root + 16 * b2n comm }

theorem test_witness_leases :
    (clusterOf (mesh (msg0 .renewal 1 4 0) [] [(0, line0 .e)]) 0).cache = [line0 .e] ∧
    stands (mesh (msg0 .renewal 1 4 0) [(1, st0 0b10101 0 2)]) .renewal = true ∧ maskBit (st0 0b10101 0 2) 4 = true ∧
    neighbour 1 (st0 0b10101 0 2).home = some (2, 4) ∧ expired { st0 0b10101 0 2 with rnwd := 1 } = [4] ∧
    (let s := mesh (msg0 .renewal 1 4 0) [(1, { st0 0b10101 0 2 with rnwd := 1 })]
     unpickOf s 1 1024 = none ∧ (stitchOf s 1 1024).map (fun g => (g.lwin, g.unpk)) = some (0, false) ∧ lineHome s 1024 ≠ 1) ∧
    ([loss true false, loss false false, loss false true].map (fun m => (lossComm m, lossRoot m)) = [(true, false), (false, false), (false, true)]) ∧
    (let s := mesh (loss false true) [(128, { st0 0b01000 3 0 with own := true })]
     stands s .branchLoss = true ∧ mustWait s (loss false true) = false ∧ (stitchOf s 128 1024).map (·.own) = some true) ∧
    stands (mesh (msg0 .leaseLost 0 0 0) [] [(0, line0 .s)]) .leaseLost = true ∧
    peerLine { emsen := [ereq] } pline = true ∧ tileOf pline * 32 = pline ∧ tileState { tiles := [(tileOf pline, 3)] } (tileOf pline) ≠ 0 ∧
    (tileWay { emsen := [ereq] } (lineHome {} pline) (tileOf pline)).isSome = true ∧
    (let s : State := { clusters := [(200, { cache := [{ line0 .e with prot := 153 }] })] }
     tsorted s.clusters = true ∧ (clusterOf s 200).cache ≠ []) := by decide +kernel

/-- Operation 5 of kind `k` on tag 0, pending. -/
def devO (k : AsyncKind) (m : List Host.Cell := table0) : State :=
  { dev2C { core2 with tags := [(0, { ready := false })] } with asyncs := [async0 k], mem := m, nextId := 50 }
/-- The operation stands, is ready, and was not cancelled. -/
def opStands (s : State) : Bool := match asyncOf s 5 with
  | some a => opReady s a && !a.cancelled
  | none => false
/-- Two bytes that a write-back writes. -/
def ew : ElemWrite := { va := 0x20010, bytes := 2, nibble := none, code := 0x1234 }
def reg2 : List DWord := image 3 0 2 8 0x20000 32 16 32 16 128

/-- A place that an engine reaches as it stands. -/
theorem test_engine_reaches : EngReaches (devO (.fence 0 [])) (async0 (.fence 0 [])) 1 0x20010 0x20010 := by
  have h : (translateNow (devO (.fence 0 [])) 0 1 0x20010).toOption = some (0x20263, 0x20010) := by decide +kernel
  refine ⟨0x20263, 0x20010, 0x20010, ?_, by decide +kernel, by decide +kernel, by decide +kernel, by decide +kernel⟩
  change translateNow (devO (.fence 0 [])) 0 1 0x20010 = _
  cases e : translateNow (devO (.fence 0 [])) 0 1 0x20010 with
  | error x => rw [e] at h; cases h
  | ok v => rw [e] at h; exact congrArg _ (Option.some.inj h)

theorem test_witness_completions :
    (∀ k ∈ [AsyncKind.fence 3 [9], .mxrdy [9], .tdset 4 reg2, .tdget 4 0x20000, .tdget 4 0x20001, .stt [ew] 0 0x20010 6, .mxst [ew] 0 0x20010,
      .range true 0 0x20000 128 none, .range false 0 0x20000 128 (some (0, 0)), .tlbinv 0 0x20000 1 1, .rfclr 0x20000 1, .mxrest 0x20000], opStands (devO k) = true) ∧
    tableQuiet (devO (.tdset 4 reg2)) 1 4 = true ∧ (ctxOf (devO (.tdset 4 reg2)) 1).map (·.table) = some 0x80000 ∧ reg2.length = 32 ∧
    (∀ j < 2, holdersOf (devO (.tdset 4 reg2)) ((0x80000 + 1024) / 128 + j) = [] ∧ movingLine (devO (.tdset 4 reg2)) ((0x80000 + 1024) / 128 + j) = none) ∧
    (∀ k ∈ [AsyncKind.stt [ew] 0 0x20010 6, .mxst [ew] 0 0x20010], beforeWrite (devO k) (async0 k) [ew] = none ∧
      plainB (devO k) 0x20010 2 = true ∧ tlbLookup (devO k) 0 1 0x20010 ≠ none ∧ holdersOf (devO k) (0x20010 / 128) = []) ∧
    beforeWrite (devO (.tdget 4 0x20000)) (async0 (.tdget 4 0x20000)) (byteWrites 0x20000 (List.replicate 256 0)) = none ∧
    idsLeft { devO (.fence 3 [9]) with accs := [acc0] } [9] = true ∧ idsLeft (devO (.fence 3 [9])) [9] = false ∧
    owedLeft (devO (.fence 3 [9])) = false ∧
    owedLeft { devO (.fence 3 []) with accs := [acc0], owed := [{ pa := 0, bytes := 4, core := 0, slot := 0, lane := 1, scope := 2, ids := [9] }] } = true ∧
    placeOf (devO (.rfclr 0x20000 1)) 0x20000 = .hbm 0x20000 := by decide +kernel

/-- Line 1024 dirty in cluster 0, in the range of the operation; and with the line's transaction on its way. -/
def devR (inv : Bool) (found : Option (Nat × DWord) := none) (ms : List Msg := []) : State :=
  { devO (.range inv 0 0x20000 128 found) [] with clusters := [(0, { cache := [line0 .m] })], msgs := ms }
theorem test_witness_ranges : ∀ inv ∈ [true, false],
    rangeRows (devR inv) 0 1 false inv 0 0x20000 128 = [.ok 0x20263 (0x20000, 128)] ∧ heldLines (devR inv) (0x20000, 128) = [1024] ∧
    (let m := { msg0 (if inv then .rangeInv else .rangeFlush) 128 0 128 with aux := 5 }
     let s := devR inv (some (0, 0)) [m]
     s.msgs.filter (ofRange 5) = [m] ∧ mustWait s m = false ∧ stitchOf s m.home m.line = none ∧ tsorted s.clusters = true ∧
       holdersOf s 1024 = [(0, line0 .m)]) := by decide +kernel

/-- Two codebook entries at 0x20000, and a page of a KV table there. -/
theorem test_witness_codebookAndLookup :
    (let s := devO (.cbset 1 0x20000 2 2) (cells 0x20000 [1, 2, 3, 4])
     rangesQuiet s (engOf (async0 (.cbset 1 0x20000 2 2))) [(0x20000, 4)] = true ∧ opWaits s 5 = false ∧
       peerParts s (engOf (async0 (.cbset 1 0x20000 2 2))) 0x20000 4 0 = [] ∧
       (engRead s (engOf (async0 (.cbset 1 0x20000 2 2))) 0x20002 2).toOption = some (toBytes 2 0x403)) ∧
    (let k : AsyncKind := .xlate 10 0x191 reg2 [(1, 0x20000, 2)]
     ∀ e ∈ [0x30001, 0x30000], rangesQuiet (devO k (cells 0x20000 (toBytes 8 e))) (engOf (async0 k)) [(0x20000, 8)] = true ∧
       (engRead (devO k (cells 0x20000 (toBytes 8 e))) (engOf (async0 k)) 0x20000 8).toOption = some (toBytes 8 e) ∧ e < 2 ^ 64) ∧
    beforeWrite { devS [] with asyncs := [async0 (.mxsave 0x20000 7)] } (async0 (.mxsave 0x20000 7)) (byteWrites 0x20000 [1]) = none := by
  decide +kernel

/-- A copy of one byte at 0x20000 to the scratchpad. -/
def cp0 : CopyArgs := { kind := 0, img := image 0 0 1 1 0x20000 1 0 1 0 0, coords := [0], dest := 0 }
def devK (started : Bool) : State := { devO (.copy cp0) (cells 0x20000 [0x5A]) with asyncs := [{ async0 (.copy cp0) with started := started }] }
theorem test_witness_copyCompletion :
    opStands (devK false) = true ∧ overQuota (devK false) 1 = false ∧ ((copyQueue (devK false) 0).filter (·.started)).length < 2 ∧
    (∀ r ∈ copyReads cp0, peerParts (devK false) (engOf (async0 (.copy cp0))) r.1 r.2 0 = []) ∧
    (let s := devK true
     let a := { async0 (.copy cp0) with started := true }
     opWaits s 5 = false ∧ heldTile s (engOf a) (copyReads cp0 ++ copyWrites cp0) = none ∧ snapPages s a (copyWrites cp0) = [] ∧
       rangesQuiet s (engOf a) (copyReads cp0 ++ copyWrites cp0) = true ∧ farWrites (noteEngineOut s a (copyWrites cp0)) a false (packedRows (noteEngineOut s a (copyWrites cp0)) a cp0) = none ∧
       (coreOf s 0).windows = [] ∧ tileRows cp0.img = 1 ∧ tTile cp0.img 0 = 1 ∧ eltBits (tFmt cp0.img) = 8 ∧ tPl cp0.img = false ∧
       (eltCoords cp0.img cp0.coords 0 0).2 = true ∧ coherentRead s 0x20000 1 = ([0x5A], false) ∧
       spoiledOps (coreOf s 0) false 0 1 = [] ∧ (eltAddr cp0.img [0]).1 = 0x20000 ∧ plainB s 0x20000 1 = true) := by decide +kernel

/-- A store of a lane to the destination of a copy is noted, and one beside it is not (05 R125). -/
theorem test_copy_destination_stored :
    let w : Window := { tag := 0, op := 5, acc := false, lo := 16, hi := 32, at' := .chip 0, wr := true }
    let s := dev2C { core2 with windows := [w] }
    ((coreOf (chipStore s 0 false 12 (List.replicate 8 1)) 0).windows.map (·.hits)) = [[(16, 20)]] ∧
      chipStore s 0 false 32 [1] = chipWrite s 0 false 32 [1] := by decide +kernel

/-- 08 R200: consuming the tag of an operation in an image leaves the operation's tile undefined; another tag does not. -/
theorem test_saved_tile_lost :
    let w : Window := { tag := 3, op := 7, acc := true, lo := 0, hi := 0x800, at' := .saved }
    undefAt { windows := afterConsume [w] 3 true } true 5 = true ∧ undefAt { windows := afterConsume [w] 4 true } true 5 = false ∧
      undefAt { windows := [w] } true 5 = false := by decide +kernel

/-- The bytes at which a copy of 4 rows of 16 bytes to memory must not be stored to (05 R125). -/
theorem test_copy_windows :
    (copyWindows dev1 (iss dev1) 3 7 { cp0 with kind := 2, img := image 0 0 2 1 0x20000 16 4 16 4 16, dest := 0x30000 }).map
      (fun w => (w.lo, w.hi, w.wr, w.tag, w.op)) = [(0x30000, 0x30010, true, 3, 7), (0x30000 + 16, 0x30020, true, 3, 7),
        (0x30020, 0x30030, true, 3, 7), (0x30030, 0x30040, true, 3, 7)] := by decide +kernel

/-- The array of core 0 with operation 3 at its head and a token. -/
def devP (f : Core → Core := id) : State := dev2C (f { core2 with queue := [qop0], token := true, tags := [(0, { ready := false })] })

/-- A dense operation whose operands have no scales and whose bytes are not poisoned computes its tile. -/
theorem quarterOut_plain (s : State) (c : Nat) (q : QOp) (scr tile : Nat) (hs : q.sparse = false) (ha : tBlk q.imgA = 0) (hb : tBlk q.imgB = 0)
    (hk : (coreOf s c).scrPoison = []) (hp : chipPoison s c true (tileOff tile q.tile) 0x800 = false) :
    ∃ codes st es, quarterOut s c q scr tile = .ok (codes, st, es) ∧ codes.length = 512 := by
  have hop (g : Eng) (d : Img) (p r : Nat) (hd : tBlk d = 0) : operandScale s g d p r = .ok (none, .fin false 1 0, []) := by simp [operandScale, hd]
  unfold quarterOut
  simp only [hk, hp, tget, tfind, hs]
  rw [if_neg (by simp [List.any_eq_true])]
  split
  · rename_i e es h
    refine absurd ?_ (List.cons_ne_nil e es)
    rw [← h]
    refine List.append_eq_nil_iff.mpr ⟨List.filterMap_eq_nil_iff.mpr ?_, List.filterMap_eq_nil_iff.mpr ?_⟩
    · intro x hx
      obtain ⟨n, -, rfl⟩ := List.mem_map.mp hx
      rfl
    · intro x hx
      simp only [List.mem_append, List.mem_flatten, List.mem_map] at hx
      obtain ⟨l, ⟨m, -, rfl⟩, hx⟩ | ⟨l, ⟨m, -, rfl⟩, hx⟩ := hx <;> obtain ⟨i, -, rfl⟩ := List.mem_map.mp hx
      · rw [hop _ _ _ _ ha]
      · rw [hop _ _ _ _ hb]
  · exact ⟨_, _, _, rfl, by simp [List.length_flatten, Function.comp_def]⟩

theorem test_witness_passResult : ∃ codes st es,
    quarterOut (setCore (devP (fun k => { k with pass := some ⟨[3], 0, 0⟩, cycles := 9 })) 0 { core2 with queue := [qop0] }) 0 qop0 0 0 = .ok (codes, st, es) ∧
      codes.length = 512 :=
  quarterOut_plain _ _ _ _ _ rfl (by decide +kernel) (by decide +kernel) rfl (by decide +kernel)

/-- A contribution of core `c`, whose maxima are 2.0 and whose other values are 1.0. -/
def contrib (c : Nat) : Contribution :=
  { core := c, j := 0, j2 := 1, tag := 0, slot := 0, o := List.replicate 16 (List.replicate 32 0x3F800000), m := List.replicate 16 0x40000000,
    l := List.replicate 16 0x3F800000, poisoned := false }
def round0 : Round := { id := 4, ctx := 1, launch := 0, task := 0, number := 2, mask := 0b0011, parts := [contrib 0, contrib 1] }

theorem test_witness_arrays :
    overQuota (devP) 1 = false ∧ (coreOf (devP) 0).queue = [qop0] ∧ (coreOf (devP) 0).pass = none ∧ (coreOf (devP) 0).headAt = 0 ∧
    quarterQuiet (devP) 0 qop0 = true ∧ passSteps qop0.imgB ≤ 9 ∧
    (coreOf (devP (fun k => { k with freezing := [(1, 0, 0)] })) 0).freezing ≠ [] ∧ qop0.spoiled = false ∧ opWaits (devP) 3 = false ∧
    (let p : Pass := ⟨[3], 2, 0⟩
     (coreOf (devP (fun k => { k with resume := [p] })) 0).resume.find? (fun p => p.ops.contains 3) = some p) ∧
    tokensHeld { devP (fun k => { k with token := false }) with tokenWait := [0] } < fld (rawReg (devP) .tokpool) 9 0 ∧
    roundFull round0 = true ∧ (round0.parts.map (·.core)).Nodup ∧ (∀ p ∈ round0.parts, p.core / 4 = 0 ∧ (tagOf (devP) p.core p.tag).status = 0) ∧
    (let g := rawReg (setReg (devP) .govcfg 0x80508040) .govcfg
     g.getLsbD 31 = true ∧ fld g 7 0 = 64 ∧ fld g 15 8 = 128 ∧ fld g 23 20 = 5) ∧ windowTicks ≤ 1000000 ∧ 20 * usTicks ≤ 1000000 := by
  decide +kernel

/-- Core 0 with one leaf of the sheet in entry 0, between runs, and its line of NOPs. -/
def devE (l : Leaf) (f : Core → Core := id) : State := { dev1 with cores := [(0, f { core1 with leaves := [(0, l)] })], cur := none }
def leafE : Leaf := { leaf0 with inRun := false, line := some ⟨0x10000, lineT⟩ }

theorem test_witness_leaves :
    eligible (devE leafE) 0 leafE = true ∧
    (let l := { leafE with st := .blocked (.tag 0) }
     waitMet (devE l) 0 0 l (.tag 0) = true ∧ waitMet (devE l (fun k => { k with tags := [(0, { ready := false })] })) 0 0 l (.tag 0) = false) ∧
    eligible (devE leafE (fun k => { k with leaves := [(0, leafE), (48, { leafE with mask := 12 })] })) 0 { leafE with mask := 12 } = true ∧
    (let l := { leaf0 with line := none }
     let s := devE l
     needsFetch l = true ∧ tlbLookup s 0 1 0x10000 = some ⟨1, 0x10000, 0x10000, 0x102A3⟩ ∧ paUnder 0x102A3 0x10000 0x10000 = 0x10000 ∧
       frameCheck s 0 0x10000 = 0 ∧ permCheck s 1 false 3 0x102A3 0x10000 = 0 ∧
       storeOf s 0x102A3 0x10000 = 0x10000 ∧ (frameLocal s 0x10000 && regionFlagged s 0x10000) = false ∧ cacheLine s 0 512 = none ∧
       pteC 0x102A3 = true ∧ plainB s 0x10000 64 = true ∧
       (let cl : CLine := { line0 .e with line := 512, data := lineT ++ lineT }
        cacheLine { s with clusters := [(0, { cache := [cl] })] } 0 512 = some cl ∧ linePoison cl.poison 0 64 = false ∧
          (cl.data.drop 0).take 64 = lineT) ∧
       lineParity lineT = true ∧ lineReserved lineT = false ∧ pcForm 0x10000 = true ∧ lineTarget lineT 0 = true ∧
       lineParity (1 :: List.replicate 63 0) = false) ∧
    (let l := { leafE with st := .parked }
     let s := devE l (fun k => { k with recs := [(0, { v := true, cause := 16, status := 1, pc := 0x10000, lanes := 3 })] })
     atRest s 0 l = true ∧ trapVector s 0 1 16 = some (0x30100, false)) ∧
    poolFree (devE { leafE with st := .splitStalled 0 }) 0 ≠ [] ∧
    (let l := { leafE with st := .splitStalled 0 }
     let s := devE l (fun k => { k with cycles := 5000, leaves := (0, l) :: (List.range 16).map (fun e => (48 + e, { leaf0 with mask := 4 <<< e, st := .parked })) })
     let s := { s with mem := cells 0x20068 [0, 1, 3] ++ cells 0x30100 lineT }
     exhausted s 0 0 = true ∧ outstanding s 0 l = [] ∧ trapVector s 0 1 cLeafExhausted = some (0x30100, false)) := by decide +kernel

/-- A launch of one task of one sheet at 0x10000, and the tasks it has. -/
def lrec (snap : Bool := false) : List DWord := [0x10000, 0, 0x204001 + (if snap then 0x400000000000 else 0)] ++ List.replicate 29 0
def lch (st : LaunchSt) (t : Task) : Launch := { ctx := 1, index := 0, queue := 0, rec' := lrec, st := st, tasks := [(0, t)] }
/-- The trap table and the handlers of PREEMPT and RESUME at 0x30100. -/
def hmem : List Host.Cell := cells 0x20090 [0, 1, 3, 0, 0, 0, 0, 0, 0, 1, 3] ++ cells 0x30100 lineT
/-- A leaf in entry `e`, its sheet asked to leave, and its launch. -/
def devQ (e : Nat) (p : Nat := 1) (f : Core → Core := id) : State :=
  let k := { core1 with leaves := [(e, { leaf0 with inRun := false })], sheets := [(0, { sheet0 with preempt := p })] }
  { dev1 with cores := [(0, f k)], cur := none, mem := hmem, launches := [lch .eligible { index := 0, st := 1, left := 1 }] }
/-- No leaf and no sheet, and a task to place. -/
def devU (t : Task) : State := { devQ 0 0 (fun k => { k with leaves := [], sheets := [] }) with launches := [lch .eligible t], ticks := 1000000 }
/-- A CTRWAIT that waits with a limit. -/
def fcw : FmtG := fG 10 0x107 0x1C9 0x1FF 3 1 0 2
def devZ : State :=
  let l : Leaf := { leaf0 with st := .blocked (.counter 0xA0000000 9 (some 100)),
                               line := some ⟨0x10000, makeLine [encode (.ctrwait fcw), canonicalNop, canonicalNop, canonicalNop, canonicalNop] 31⟩ }
  let h := { sheet2 with s := sheet2.s ++ [(7, 0xA0000000)] }
  { devW 0xA0000000 with cores := [(0, { core2 with leaves := [(0, l)], sheets := [(0, h)] })], ticks := 200 }

theorem test_witness_scheduling :
    (nextTask (devU { index := 0 })).map (fun p => (p.1.task.st, p.2.2)) = some (0, [(0, 0, 0)]) ∧
    (launchOf (devU { index := 0 }) 1 0).map (·.st) = some .eligible ∧ (taskOf (devU { index := 0 }) 1 0 0).isSome = true ∧
    intervalTicks ≤ 1000000 ∧ (ctxOf dev1 1).isSome = true ∧
    sheetOver (devQ 0 0 (fun k => { k with leaves := [] })) 0 0 = true ∧
    ((leafIss devZ 0 0).bind (ctrTimeout devZ)) = some (fcw, 0) ∧
    cancelReady { devW 0x20000000 { cancelling := true } with cores := [] } 1 0x20000000 = true ∧
    (sheetOf (devQ 0 2) 0 0).map (fun h => (h.preempt, h.preemptAt)) = some (2, 0) := by decide +kernel

theorem test_witness_preemption :
    preemptDue (devQ 48) 0 48 = true ∧ trapVector (notePreempt (devQ 48) 0 { sheet0 with preempt := 1 }) 0 1 cPreempt = some (0x30100, false) ∧
    principalDue (devQ 0) 0 0 = true ∧
    (let u := modSheet (notePreempt (devQ 0) 0 { sheet0 with preempt := 1 }) 0 0 (fun x => { x with list := leafList (devQ 0) 0 0 })
     trapVector u 0 1 cPreempt = some (0x30100, false)) ∧
    leaveDue (devQ 0 1 (fun k => { k with leaves := [(0, { leafE with st := .blocked .yielded, priv := true, handler := cPreempt })] })) 0 0 = true ∧
    cancelling (devQ 0) (lch .eligible { index := 0, st := 1, left := 1 }) 0 = false ∧
    (match nextTask (devU { index := 0, st := 2, resume := [(0, 77)] }) with
      | some (c, u, [p]) => c.task.st == 2 && (sheetOf (resumeState u c p) p.2.1 p.2.2).isSome &&
          trapVector (resumeState u c p) p.2.1 1 cResume == some (0x30100, false)
      | _ => false) = true := by decide +kernel

/-- A launch with snapshots, its saved pages, room for `n` pages, and up to three replays. -/
def lsn (pages : List Nat) (st : LaunchSt) : Launch := { lch st { index := 0, st := 1 } with rec' := lrec true, pages := pages }
def devJ (pages : List Nat) (st : LaunchSt) (n : DWord) : State :=
  setReg (setReg (setReg { devQ 0 with launches := [lsn pages st] } .roll 3) (.qsnapc 0) n) (.qsnapb 0) 0x100000
theorem test_witness_kills :
    replays (devJ [] .eligible 4) (lsn [] .eligible) .klaunch = true ∧ replays (devJ [] .eligible 4) (lsn [] .eligible) .trapTable = false ∧
    replays (devJ [] .eligible 4) (lsn [] .eligible) .reset = false ∧ launchOf (devJ [] .eligible 4) 1 0 = some (lsn [] .eligible) ∧
    fld (rawReg (devJ [] .eligible 4) (.qsnapc 0)) 12 0 = 4 ∧ fld (rawReg (devJ [] .eligible 0) (.qsnapc 0)) 12 0 = 0 ∧
    quietRange (devJ [] .eligible 4) 0x20000 0x10000 = true ∧ snapBase (devJ [] .eligible 4) 0 = 0x100000 ∧
    (∀ i < 512, holdersOf (devJ [] .eligible 4) (1024 + i) = [] ∧ movingLine (devJ [] .eligible 4) (1024 + i) = none) ∧
    launchOf (devJ [2] .killed 4) 1 0 = some (lsn [2] .killed) := by decide +kernel

/-- A home entry of four devices' gathering in a phase, two of its shadows known; the entry of a shadow. -/
def homeG (p : Bool := true) (a : Nat := 1) : GEntry :=
  { name := 9, gen := 1, scope := 7, role := 2, dl := 16, memb := 2, arrv := a, phase := 1, kind := 2, pip := p,
    shadows := [{ dev := 4, lanes := 3 }, { dev := 5, lanes := 2, arrived := true }] }
def shadowG (p : Bool := true) (a : Nat := 1) : GEntry :=
  { name := 9, gen := 1, scope := 7, role := 3, homedev := 4, homeHandle := 0x400001, dl := 16, memb := 2, arrv := a, phase := 1, pip := p }
def devG (g : GEntry) (tk : Nat := 0) : State := { gathTag false with gather := [(0, g)], ticks := tk }

theorem test_witness_gatheringEvents :
    (homeG).dl ≤ elapsed (devG homeG 100000) homeG ∧ (shadowG.dl + shadowG.fmarg) * usTicks ≤ 1000000 ∧
    gEntry (devG { homeG with pausedAt := some 0, pmax := 1 }) 0 = { homeG with pausedAt := some 0, pmax := 1 } ∧ usTicks ≤ 1000 ∧
    (∀ g ∈ [homeG, homeG false, homeG true 2], homeEntry (devG g) 1 4 = some 0 ∧ gEntry (devG g) 0 = g) ∧
    (∀ g ∈ [shadowG, shadowG false 2, shadowG false 1], shadowEntry (devG g) 0x400001 = some 0 ∧ gEntry (devG g) 0 = g) ∧
    shadowG.pip = true ∧ shadowG.arrv < shadowG.memb ∧
    (homeG.shadows.any (fun x => !x.arrived) = true) ∧ (∀ x ∈ homeG.shadows, x.dev ≠ 4 → x.arrived = true ∧ x.bad = false) := by decide +kernel

/-- Port 2, up or not, with nine tries behind it or none; requests outstanding. -/
def devF (up : Bool) (p : Port := {}) : State :=
  let s : State := { ports := [(2, p)], ticks := 10000 }
  if up then setReg s (.fport 2) 1 else s
def er (u : EmsenUse) : EmsenReq := { id := 7, dev := 1, use := u, deadline := 100 }
theorem test_witness_fabric :
    portIsUp (devF true) 2 = true ∧ portIsUp (devF false) 2 = false ∧ portPresent (devF false) 2 = true ∧ routes (devF true) = [] ∧
    (tget {} (devF true { retries := 8 }).ports 2).retries = 8 ∧ 10 * usTicks ≤ 10000 ∧
    fabAddr {} 0x20000 4 = some 0x20000 ∧ placeOf {} 0x20000 = .hbm 0x20000 ∧ holdersOf {} 1024 = [] ∧ movingLine {} 1024 = none ∧ plainB {} 0x20000 4 = true ∧
    (let s := { devA acc0 with emsen := [er (.access 9)] }
     s.emsen.find? (fun r => r.id = 7) = some (er (.access 9)) ∧ accOf s 9 = some acc0) ∧
    (let s := { devA acc0 with accs := [], emsen := [er (.access 9)], ticks := 200 }
     s.emsen.find? (fun r => r.id = 7) = some (er (.access 9)) ∧ accOf s 9 = none ∧ (er (.access 9)).reply = none) ∧
    (let s := { devO (.copy cp0) with emsen := [er (.copy 5)] }
     s.emsen.find? (fun r => r.id = 7) = some (er (.copy 5)) ∧ s.ticks ≤ 100 ∧ (er (.copy 5)).reply = none) := by decide +kernel

/-- A function's interface in a state, with a GiB of HBM of its own. -/
def devX (d : Tdisp) (ide res : Bool) : State := setReg { fns := [(3, { tdisp := d, ide := ide, resetting := res, pending := [3] })] } (.part 3 2) 0x10000
theorem test_witness_host :
    (∀ d ∈ [Tdisp.configUnlocked, .configLocked, .run, .error], (tget {} (devX d true false).fns 3).tdisp = d) ∧
    fld (rawReg (devX .run true false) (.part 3 2)) 25 16 ≠ 0 ∧ (tget {} (devX .run true true).fns 3).resetting = true ∧
    bar2Addr {} 0 0x20000 16 = some 0x20000 ∧ plainB {} 0x20000 16 = true ∧ holdersOf {} 1024 = [] ∧ movingLine {} 1024 = none ∧
    ctxFn (setReg {} (.part 3 4) 0x100090000) 9 = 3 ∧ ownerFn (devX .run true false) 1 0 = 3 ∧ regOf 0x2D0008 = some .cclu0 ∧ (tget {} ({} : State).fns 0).tdisp ≠ .error ∧
    ctxOf {} 5 = none ∧ (ctxOf dev1 1).isSome = true ∧
    ∃ g, tfind ({ dev1 with gather := [(0, { homeG with ctx := 1 })] } : State).gather 0 = some g ∧ g.role ≠ 0 ∧ g.ctx = 1 := by
  refine ⟨by decide +kernel, by decide +kernel, by decide +kernel, by decide +kernel, by decide +kernel, by decide +kernel, by decide +kernel,
    by decide +kernel, by decide +kernel, by decide +kernel, by decide +kernel, by decide +kernel, by decide +kernel, ⟨_, rfl, by decide, rfl⟩⟩

/-- A write of a register. -/
def rw0 (r : CReg) (v : DWord) : RegWr := { off := regOff r, part := .full, val := v }
theorem test_witness_registerWrites :
    (∀ r ∈ [CReg.clease, .tokpool, .cbudget 3, .ctr 2 1, .cxpend 0, .part 2 5, .part 2 6, .part 0 3, .part 2 3, .fpeer 1, .mbtail, .fport 2, .froute 3, .cfabj 4, .fabcfg, .sched,
      .sclim 5, .preq], regOf (regOff r / 8 * 8) = some r ∧ frozenFn {} r = none) ∧
    regRow {} (rw0 .sched 7) = .registerWrite (rw0 .sched 7) ∧ regRow {} (rw0 .sched 7) ≠ .cleaseWrite (rw0 .sched 7) ∧
    (rawReg (setReg {} (.fpeer 1) 0x1000) (.fpeer 1)).getLsbD 12 = true ∧ (rawReg {} (.fpeer 1)).getLsbD 12 = false ∧ peerHeld {} = false ∧
    peerHeld { clusters := [(0, { cache := [{ line0 .e with line := pline }] })] } = true ∧ regOf 0x2FFFF8 = none ∧
    (∀ g < 64, 0 < g → g ≠ 2 → sharesItem (setReg {} (.part 2 0) 1) 2 g = false) ∧ sharesItem (setReg (setReg {} (.part 4 0) 1) (.part 2 0) 1) 2 4 = true ∧
    frozenFn { setReg {} (.part 2 0) 1 with fns := [(2, { tdisp := .run })] } (.part 2 0) = some 2 ∧
    (let s := setReg (setReg {} (.fport 2) 1) (.froute 3) 4
     allDown s (rawReg s (.froute 3)).toNat = false ∧ allDown s (afterWrite (.froute 3) (rawReg s (.froute 3)) .full 0).toNat = true ∧
       allDown s (afterWrite (.froute 3) (rawReg s (.froute 3)) .full 12).toNat = false) ∧
    ((tasksNamed (devQ 0) 0).map (fun p => (p.1.ctx, p.1.index, p.2.index)) = [(1, 0, 0)]) := by decide +kernel

/-- A mailbox message of a command. -/
def mmsg (op : Nat) (d : List Byte := []) : List Byte := toBytes 2 op ++ [0, 0, 5, 6, 7, 8] ++ d ++ List.replicate (56 - d.length) 0
def devB (k : AsyncKind) (m : List Host.Cell := []) : State := devO k m
theorem test_witness_boot :
    (let p : BootPlan := ⟨2, 2, 0, 0, 3, 1, 0, 0, none⟩
     p.prim.getLsbD 1 = true ∧ p.alt.getLsbD 1 = true ∧ (p.cluPrim &&& p.cluAlt) ≠ BitVec.allOnes 128) ∧
    fld (rawReg {} .cmem) 11 0 ≠ 0 ∧ rawReg {} .cclu0 ≠ 0 ∧
    (let s := devB (.mbox false 0x20000 [] false) (cells 0x20000 (mmsg 9))
     rangesQuiet s (engOf (async0 (.mbox false 0x20000 [] false))) [(0x20000, 64)] = true ∧
       peerParts s (engOf (async0 (.mbox false 0x20000 [] false))) 0x20000 64 0 = [] ∧ opWaits s 5 = false ∧
       (engRead s (engOf (async0 (.mbox false 0x20000 [] false))) 0x20000 64).toOption = some (mmsg 9)) ∧
    mailboxHeld { devB (.mbox false 0 [] false) with asyncs := List.replicate 16 (async0 (.mbox false 0 [] false)) } none = 16 ∧
    (∀ op ∈ [1, 2, 9, 0x10, 0x11, 0x20, 0x30], (mmsg op).length = 64 ∧ leBytes ((mmsg op).take 2) = op) ∧
    beforeWrite (devB (.mbox false 0x20000 (mmsg 9) true)) (async0 (.mbox false 0x20000 (mmsg 9) true)) (byteWrites 0x20000 (mmsg 9)) = none ∧
    (let s := { devB (.mbox false 0x20000 (mmsg 0x20) false) with launches := [{ launch0 with tasks := [(0, { index := 0, halted := true })] }] }
     ((tasksNamed s 0).filter (fun q => q.2.halted)).length = 1) := by decide +kernel

/-- Bits written from the highest down, each field with its width (10 R234, R242 to R248). -/
def word (fs : List (Nat × Nat)) : Nat := fs.foldl (fun a f => a * 2 ^ f.1 + f.2) 0
/-- A header with every field set to something of its own, under a major opcode, and what it reads as. -/
def hdrBits (opc : Nat) : List (Nat × Nat) := [(7, opc), (1, 1), (4, 3), (4, 0b1010), (4, 0b0111), (1, 1), (3, 5)]
def hd1 : Hdr := ⟨true, 3, 0b1010, 0b0111, true, 5⟩

/-- The opcode map of 10 R249, format R. -/
theorem test_decode_formatR : ∀ p ∈ [
    (0x05, (Instr.split : FmtR → Instr)), (0x07, .exitL), (0x08, .yield), (0x09, .nop), (0x10, .iadd), (0x11, .iadd3), (0x12, .isub),
    (0x13, .imul), (0x14, .imulh), (0x15, .imad), (0x16, .imin), (0x17, .imax), (0x18, .iabs), (0x19, .andB), (0x1A, .orB), (0x1B, .xorB),
    (0x1C, .notB), (0x1D, .shl), (0x1E, .shr), (0x1F, .sar), (0x20, .rot), (0x21, .bfe), (0x22, .bfi), (0x23, .popc), (0x24, .clz),
    (0x25, .brev), (0x26, .sel), (0x27, .mov), (0x29, .lea), (0x2A, .icmp), (0x2B, .pset), (0x2C, .plop), (0x2D, .pmov), (0x30, .fadd),
    (0x31, .fsub), (0x32, .fmul), (0x33, .ffma), (0x34, .fmin), (0x35, .fmax), (0x36, .fcmp), (0x37, .fclass), (0x38, .frnd), (0x40, .cvt),
    (0x41, .rcp), (0x42, .rsq), (0x43, .sqrt), (0x44, .exp2), (0x45, .log2), (0x46, .sin), (0x47, .cos), (0x48, .shfl), (0x49, .vote),
    (0x4A, .redux), (0x4B, .scan), (0x4C, .matchV), (0x4D, .flagclr)],
    decode (word (hdrBits p.1 ++ [(9, 1), (9, 2), (9, 3), (9, 4), (9, 5), (8, 6), (2, 2), (1, 1), (1, 0), (1, 1), (4, 9), (2, 2), (5, 17), (3, 0)])) =
      .ok (p.2 ⟨hd1, 1, 2, 3, 4, 5, 6, 2, true, false, true, 9, 2, 17⟩) := by
  simp only [List.forall_mem_cons, List.not_mem_nil, false_implies, implies_true, and_true]
  exact ⟨rfl, rfl, rfl, rfl, rfl, rfl, rfl, rfl, rfl, rfl, rfl, rfl, rfl, rfl, rfl, rfl, rfl, rfl, rfl, rfl, rfl, rfl, rfl, rfl, rfl, rfl, rfl, rfl, rfl, rfl, rfl, rfl, rfl, rfl, rfl, rfl, rfl, rfl, rfl, rfl, rfl, rfl, rfl, rfl, rfl, rfl, rfl, rfl, rfl, rfl, rfl, rfl, rfl, rfl, rfl, rfl⟩

/-- The immediate majors of 10 R251 and MOVI, format I. -/
theorem test_decode_formatI : (∀ p ∈ [
    (0x10, (Instr.iaddImm : FmtI → Instr)), (0x12, .isubImm), (0x13, .imulImm), (0x14, .imulhImm), (0x16, .iminImm), (0x17, .imaxImm),
    (0x19, .andImm), (0x1A, .orImm), (0x1B, .xorImm), (0x1D, .shlImm), (0x1E, .shrImm), (0x1F, .sarImm), (0x20, .rotImm), (0x29, .leaImm),
    (0x2A, .icmpImm)],
    decode (word (hdrBits 0x2E ++ [(9, 1), (9, 2), (32, 0x89ABCDEF), (8, p.1), (1, 1), (2, 2), (2, 1), (4, 9), (5, 0)])) =
      .ok (p.2 ⟨hd1, 1, 2, 0x89ABCDEF, BitVec.ofNat 8 p.1, true, 2, 1, 9⟩)) ∧
    (∀ p ∈ [
    (0x30, (Instr.faddImm : FmtI → Instr)), (0x31, .fsubImm), (0x32, .fmulImm), (0x34, .fminImm), (0x35, .fmaxImm), (0x36, .fcmpImm)],
    decode (word (hdrBits 0x39 ++ [(9, 1), (9, 2), (32, 0x89ABCDEF), (8, p.1), (1, 1), (2, 2), (2, 1), (4, 9), (5, 0)])) =
      .ok (p.2 ⟨hd1, 1, 2, 0x89ABCDEF, BitVec.ofNat 8 p.1, true, 2, 1, 9⟩)) ∧
    decode (word (hdrBits 0x28 ++ [(9, 1), (9, 2), (32, 0x89ABCDEF), (8, 7), (1, 1), (2, 2), (2, 1), (4, 9), (5, 0)])) =
      .ok (.movi ⟨hd1, 1, 2, 0x89ABCDEF, 7, true, 2, 1, 9⟩) := by
  simp only [List.forall_mem_cons, List.not_mem_nil, false_implies, implies_true, and_true]
  exact ⟨⟨rfl, rfl, rfl, rfl, rfl, rfl, rfl, rfl, rfl, rfl, rfl, rfl, rfl, rfl, rfl⟩, ⟨rfl, rfl, rfl, rfl, rfl, rfl⟩, rfl⟩

/-- Format M. -/
theorem test_decode_formatM : ∀ p ∈ [
    (0x50, (Instr.ld : FmtM → Instr)), (0x51, .st), (0x53, .atom), (0x54, .red), (0x55, .pref), (0x56, .cflush), (0x57, .cinv),
    (0x58, .fence)],
    decode (word (hdrBits p.1 ++ [(9, 1), (9, 2), (9, 3), (24, 0xABCDEF), (2, 2), (3, 5), (3, 4), (3, 6), (3, 3), (7, 0x55)])) =
      .ok (p.2 ⟨hd1, 1, 2, 3, 0xABCDEF, 2, 5, 4, 6, 3, 0x55⟩) := by
  simp only [List.forall_mem_cons, List.not_mem_nil, false_implies, implies_true, and_true]
  exact ⟨rfl, rfl, rfl, rfl, rfl, rfl, rfl, rfl⟩

/-- Format B; SUB<0> tells the two forms of CALL apart (11 R291). -/
theorem test_decode_formatB : ∀ p ∈ [(0x01, 0, (Instr.bra : FmtB → Instr)), (0x02, 0, .brx), (0x03, 2, .call), (0x03, 3, .callInd), (0x04, 0, .ret), (0x06, 0, .join)],
    decode (word (hdrBits p.1 ++ [(24, 0xABCDEF), (3, 4), (1, 1), (9, 1), (9, 2), (8, p.2.1), (18, 0)])) =
      .ok (p.2.2 ⟨hd1, 0xABCDEF, 4, true, 1, 2, BitVec.ofNat 8 p.2.1⟩) := by
  simp only [List.forall_mem_cons, List.not_mem_nil, false_implies, implies_true, and_true]
  exact ⟨rfl, rfl, rfl, rfl, rfl, rfl⟩

/-- Format A; SUB<3:0> tells the mnemonics of a shared major apart (10 R250). -/
theorem test_decode_formatA : ∀ p ∈ [
    (0x52, 0x30, (Instr.stt : FmtA → Instr)), (0x59, 0x30, .xlate), (0x60, 0x30, .tdset), (0x60, 0x31, .tdget), (0x61, 0x30, .cpy),
    (0x62, 0x30, .cpyr), (0x63, 0x30, .rinit), (0x63, 0x31, .rwait), (0x63, 0x32, .rrel), (0x64, 0x30, .wait), (0x64, 0x31, .waitany),
    (0x64, 0x32, .waitall), (0x64, 0x33, .tfirst), (0x64, 0x34, .ttest), (0x64, 0x35, .tcancel)],
    decode (word (hdrBits p.1 ++ [(9, 1), (9, 2), (9, 3), (9, 4), (9, 5), (8, p.2.1), (3, 5), (3, 4), (13, 0x1234)])) =
      .ok (p.2.2 ⟨hd1, 1, 2, 3, 4, 5, BitVec.ofNat 8 p.2.1, 5, 4, 0x1234⟩) := by
  simp only [List.forall_mem_cons, List.not_mem_nil, false_implies, implies_true, and_true]
  exact ⟨rfl, rfl, rfl, rfl, rfl, rfl, rfl, rfl, rfl, rfl, rfl, rfl, rfl, rfl, rfl⟩

/-- Format X. -/
theorem test_decode_formatX : ∀ p ∈ [
    (0x65, 0x30, (Instr.mxrdy : FmtX → Instr)), (0x66, 0x30, .mxa), (0x67, 0x30, .mxsp), (0x68, 0x30, .mxld), (0x69, 0x30, .mxst),
    (0x6A, 0x30, .mxzero), (0x6B, 0x30, .mxsave), (0x6B, 0x31, .mxrest), (0x6C, 0x30, .cbset), (0x6C, 0x31, .cbswap), (0x70, 0x30, .tmask),
    (0x71, 0x30, .cred), (0x72, 0x30, .mcast)],
    decode (word (hdrBits p.1 ++ [(9, 1), (9, 2), (9, 3), (9, 4), (9, 5), (8, p.2.1), (2, 2), (1, 1), (1, 0), (1, 1), (4, 9), (10, 0)])) =
      .ok (p.2.2 ⟨hd1, 1, 2, 3, 4, 5, BitVec.ofNat 8 p.2.1, 2, true, false, true, 9⟩) := by
  simp only [List.forall_mem_cons, List.not_mem_nil, false_implies, implies_true, and_true]
  exact ⟨rfl, rfl, rfl, rfl, rfl, rfl, rfl, rfl, rfl, rfl, rfl, rfl, rfl⟩

/-- Format G. -/
theorem test_decode_formatG : ∀ p ∈ [
    (0x0A, 0x30, (Instr.trap : FmtG → Instr)), (0x0B, 0x30, .syscall), (0x0C, 0x30, .rtt), (0x0D, 0x30, .bkpt), (0x73, 0x30, .gnew),
    (0x74, 0x30, .gjoin), (0x74, 0x31, .gleave), (0x75, 0x30, .garrive), (0x75, 0x31, .gvote), (0x75, 0x32, .gred), (0x76, 0x30, .gwait),
    (0x76, 0x31, .gstat), (0x77, 0x30, .gabort), (0x77, 0x31, .gfree), (0x78, 0x30, .launch), (0x79, 0x30, .ctradd),
    (0x79, 0x31, .ctrwait), (0x79, 0x32, .cancel), (0x7A, 0x30, .sysrd), (0x7A, 0x31, .syswr), (0x7B, 0x30, .tlbinv), (0x7B, 0x31, .rfclr),
    (0x7C, 0x30, .mbox), (0x7C, 0x31, .irq), (0x7D, 0x30, .halt)],
    decode (word (hdrBits p.1 ++ [(9, 1), (9, 2), (9, 3), (9, 4), (16, 0xABCD), (8, p.2.1), (3, 5), (9, 0x155)])) =
      .ok (p.2.2 ⟨hd1, 1, 2, 3, 4, 0xABCD, BitVec.ofNat 8 p.2.1, 5, 0x155⟩) := by
  simp only [List.forall_mem_cons, List.not_mem_nil, false_implies, implies_true, and_true]
  exact ⟨rfl, rfl, rfl, rfl, rfl, rfl, rfl, rfl, rfl, rfl, rfl, rfl, rfl, rfl, rfl, rfl, rfl, rfl, rfl, rfl, rfl, rfl, rfl, rfl, rfl⟩

/-- Whole words that the manual writes out: 11 (the BRA after R289), 12 (the LD after R305), 14 (GNEW). -/
theorem test_decode_examples :
    decode (word [(24, 0x020170), (24, 0xFFFFFF), (48, 0x2C9FFC000000)]) =
      .ok (.bra ⟨⟨false, 0, 1, 7, false, 0⟩, 0xFFFFFF, 1, false, 0x193, 0x1FF, 0⟩) ∧
    decode 0xA007_7204_0080_8000_080D_8080 = .ok (.ld ⟨⟨false, 0, 7, 7, false, 2⟩, 8, 2, 4, 0x40, 1, 5, 4, 0, 1, 0⟩) ∧
    decode 0xE607_70C0_C120_C0A0_0000_0E00 = .ok (.gnew ⟨⟨false, 0, 7, 7, false, 0⟩, 0x181, 0x104, 0x106, 0xA, 0, 0, 7, 0⟩) :=
  ⟨rfl, rfl, rfl⟩

/-- Selector bits that belong to no row or to another row are refused, and so are events. -/
theorem test_wellFormed_refuses :
    (∀ c ∈ [
    (Instr.iaddImm : FmtI → Instr), .isubImm, .imulImm, .imulhImm, .iminImm, .imaxImm, .andImm, .orImm, .xorImm, .shlImm, .shrImm, .sarImm,
    .rotImm, .leaImm, .icmpImm, .faddImm, .fsubImm, .fmulImm, .fminImm, .fmaxImm, .fcmpImm], WellFormed (c (fI 1 2 0x0F 4 0 9)) = false) ∧
    (∀ c ∈ [(Instr.tdset : FmtA → Instr), .tdget, .rinit, .rwait, .rrel, .wait, .waitany, .waitall, .tfirst, .ttest, .tcancel],
      WellFormed (c (fA 4 0 0 0 0 0x0F)) = false) ∧
    (∀ c ∈ [(Instr.mxsave : FmtX → Instr), .mxrest, .cbset, .cbswap], WellFormed (c (fX 4 0 0 0 0 0x0F)) = false) ∧
    (∀ c ∈ [
      (Instr.gjoin : FmtG → Instr), .gleave, .garrive, .gvote, .gred, .gwait, .gstat, .gabort, .gfree, .ctradd, .ctrwait, .cancel, .sysrd,
      .syswr, .tlbinv, .rfclr, .mbox, .irq],
      WellFormed (c (fG 4 0 0 0 0 0x0F)) = false) ∧
    WellFormed (.call (fB 0 0 0 0 1)) = false ∧ WellFormed (.callInd (fB 0 0 0 0 2)) = false ∧
    WellFormed .tokenGrant = false ∧ WellFormed (.fetchLine 0 0) = false := by decide +kernel

/-- A word of the table runs as the first instruction after reset; an event has no word. -/
theorem test_first_step : (State.reset.withFetchWord 96 canonicalNop).stopped = false ∧
    decodeTableWord 96 canonicalNop = some (.nop ⟨⟨false, 0, 7, 7, false, 0⟩, 0x1FF, 0x1FF, 0x1FF, 0x1FF, 0x1FF, 0, 0, false, false, false, 0, 0, 0⟩) ∧
    (match step (State.reset.withFetchWord 96 canonicalNop) with
      | .next t => ((coreOf t 0).leaves.head?.map (fun l => l.2.pc)) == some 0x1000C
      | _ => false) = true := by decide +kernel

/-- 11 R260: 3 + 1 and -1 + 1; a signed sum saturates; the high half of -1 × 1; the unsigned 0xFFFFFFFF - 1. -/
theorem test_value_integer :
    after dev0 (.iadd (fR 1 2 4 0 1)) 4 0 = some 4 ∧ after dev0 (.iadd (fR 1 2 4 0 1)) 4 1 = some 0 ∧
    after dev0 (.iaddImm (fI 1 2 0x10 4 0 0x7FFFFFFF 0 true)) 4 0 = some 0x7FFFFFFF ∧
    after dev0 (.iaddImm (fI 2 2 0x10 4 0 1 0 true)) 4 1 = some 0xFFFFFFFF ∧
    after dev0 (.imulh (fR 1 2 4 0 1)) 4 1 = some 0xFFFFFFFF ∧ after dev0 (.imulh (fR 2 2 4 0 0)) 4 1 = some 0xFFFFFFFE ∧
    after dev0 (.iabs (fR 1 2 4 0)) 4 1 = some 1 ∧ after dev0 (.imin (fR 1 2 4 0 1)) 4 1 = some 0xFFFFFFFF ∧
    after dev0 (.imin (fR 2 2 4 0 1)) 4 1 = some 1 ∧ after dev0 (.imad (fR 1 2 4 0 0 1)) 4 0 = some 10 ∧
    after dev0 (.isub (fR 1 2 4 1 0)) 4 0 = some 0xFFFFFFFE := by decide +kernel

/-- 11 R261, R262: shifts of -1, a count of the width, counts of bits, fields. -/
theorem test_value_bits :
    after dev0 (.shr (fR 3 2 4 0 1)) 4 1 = some 0x7FFFFFFF ∧ after dev0 (.sar (fR 3 2 4 0 1)) 4 1 = some 0xFFFFFFFF ∧
    after dev0 (.shlImm (fI 3 2 0x1D 4 0 32)) 4 1 = some 0 ∧ after dev0 (.rotImm (fI 3 2 0x20 4 0 4)) 4 0 = some 0x30 ∧
    after dev0 (.rotImm (fI 3 2 0x20 4 0 4 1)) 4 0 = some 0x30000000 ∧ after dev0 (.popc (fR 3 2 4 0)) 4 1 = some 32 ∧
    after dev0 (.clz (fR 3 2 4 0)) 4 0 = some 30 ∧ after dev0 (.brev (fR 3 2 4 0)) 4 0 = some 0xC0000000 ∧
    after dev0 (.bfe (fR 1 2 4 0 0x1C1 0x1C1)) 4 0 = some 0xFFFFFFFF ∧ after dev0 (.bfe (fR 2 2 4 0 0x1C1 0x1C1)) 4 0 = some 1 ∧
    after dev0 (.bfi (fR 3 2 4 0 0x1C0 0x1C4 0x1C4)) 4 1 = some 0xFFFFFF0F ∧ after dev0 (.xorB (fR 3 2 4 0 1)) 4 0 = some 2 := by decide +kernel

/-- 11 R268 to R275: 1.0 + 2.0, 1.0 × 2.0 + 1.0, the smaller of 1.0 and a NaN, 1.0 < 2.0, and 1.0 to an integer. -/
theorem test_value_float :
    after dev0 (.fadd (fR 4 0 4 2 3)) 4 1 = some 0x40400000 ∧ after dev0 (.ffma (fR 4 0 4 2 3 2)) 4 1 = some 0x40400000 ∧
    after dev0 (.fmin (fR 4 0 4 2 3)) 4 0 = some 0x3F800000 ∧ after dev0 (.fcmp (fR 4 0 0x191 2 3 0x1FF 0x192 0 2)) 0x191 1 = some 1 ∧
    after dev0 (.fcmp (fR 4 0 0x191 2 3 0x1FF 0x192 0 2)) 0x191 0 = some 0 ∧
    after dev0 (.fsub (fR 4 0 4 2 3)) 4 1 = some 0xBF800000 ∧ after dev0 (.rcp (fR 4 0 4 3)) 4 1 = some 0x3F000000 := by decide +kernel

/-- Four lanes that hold 2^24, 1, 1, 1. -/
def devR4 : State :=
  devC { core0 with leaves := [(0, { leaf0 with mask := 15 })], regs := [(0, 0x4B800000), (1, 0x3F800000), (2, 0x3F800000), (3, 0x3F800000)] }

/-- The example after 11 R286: REDUX gives 16,777,218, SCAN 16,777,216 in each of the lanes 0 to 3; e4. -/
theorem test_value_reduxScan :
    (∀ l < 4, after devR4 (.redux (fR 4 0 4 0)) 4 l = some 0x4B800001 ∧ after devR4 (.redux (fR 4 0 4 0)) 0x19C l = some 1 ∧
      after devR4 (.scan (fR 4 0 4 0)) 4 l = some 0x4B800000) ∧
    after devR4 (.scan (fR 4 0 4 0)) 0x19C 0 = some 0 ∧ after devR4 (.scan (fR 4 0 4 0)) 0x19C 1 = some 1 := by decide +kernel

/-- The examples of 02 R23 (striping), 07 R166 (a lattice code, in halves), 07 R173 (the generator), 05 R122 (the swizzle of row 5) and 11 R289
(a direct target). -/
theorem test_value_examples :
    stackOf 2 0x200000000 = 8 ∧ stackOf 2 0x200001000 = 9 ∧
    latticeWeights 0xB193 0x2A35 = [7, -1, 3, -5, -3, 1, 7, -5] ∧ xorshift 1 = 0x00042021 ∧
    (let d := image 8 (2 ^ 50 + 2 ^ 54) 2 16 0 64 16 64 16 0
     [0, 8, 0x10, 0x18].map (layoutOff d 0 5) = [0x550, 0x558, 0x540, 0x548]) ∧
    directTarget 0x4018 (fB 0xFFFFFF 1) = 0x3FCC := by decide +kernel

/-- The example after 13 R352: m = 5, l = 3.25 and O = 6.5. -/
theorem test_value_merge :
    let p (c : Nat) (m l o : Word) : Contribution := { contrib c with m := [m], l := [l], o := [[o]] }
    let r := redRow [p 0 0x40400000 0x40A00000 0x41200000, p 1 0x40A00000 0x40000000 0x40800000] 0
    r.1 = 0x40A00000 ∧ r.2.1 = 0x40500000 ∧ r.2.2.headD 0 = 0x40D00000 := by decide +kernel

/-- 10 R237: a field that R266 does not accept, a privileged instruction and a register code that the sheet does not have take a sheet trap. -/
theorem test_witness_issueChecks :
    issuer dev0 = some (iss dev0) ∧
    (∃ u ∈ (sigMov (fR 3 2 4 0x50)).uses, opdLegal (iss dev0).sheet u.2 u.1.toNat = false) ∧
    (sigHalt (fG 0x1FF)).ok = true ∧ (sigHalt (fG 0x1FF)).priv = true ∧ (iss dev0).leaf.priv = false ∧ issuer {} = none ∧
    (let h : Hdr := { hd 1 with ga := 0b1111 }
     (iss dev0).leaf.mask &&& guardMask dev0 (iss dev0) h = 0 ∧ pendingOn dev0 (iss dev0) (guardCodes h) 3 = []) := by decide +kernel

/-- Instructions of both kinds of frame run and go on. -/
theorem test_witness_frames :
    (∀ i ∈ [Instr.iadd (fR 1 2 4 0 1), .fadd (fR 4 0 4 2 3), .cvt { fR 1 2 4 2 with sty := 16 }, .mxzero (fX 0x1FF 0x1C1), .cbswap (fX 0x1FF 0x1FF 0x1FF 0x1FF 0x1FF 1)],
      fits dev2 i = true ∧ ((regShape i).isSome || (opShape i).isSome) = true ∧
      (match exec i dev2 with | .next t => (leafOf t 0 0).map (·.pc) == some 0x1000C | _ => false) = true) := by decide +kernel

/-- A leaf in a run whose next slot holds a NOP, as the agenda names it, as the couple's second, and as the first that can issue; a slot of
zeros; an event; a row of the device's work; a device that has stopped. -/
def devI (w : Nat) (a : List Agendum := []) : State :=
  { devE { leaf0 with line := some ⟨0x10000, makeLine [w, canonicalNop, canonicalNop, canonicalNop, canonicalNop] 31⟩ } with agenda := a }
theorem test_witness_step :
    (∀ w ∈ [canonicalNop, 0], ((devI w [.issue 0 0]).stopped = false ∧ (devI w [.issue 0 0]).couple = false) ∧
      (leafOf (devI w) 0 0).map (fun l => (l.inRun, decide (l.nextIssue ≤ now (devI w) 0))) = some (true, true) ∧
      lineSlot (makeLine [w, canonicalNop, canonicalNop, canonicalNop, canonicalNop] 31) 0 = w) ∧
    (decode canonicalNop).toOption.isSome = true ∧ (decode 0).toOption = none ∧
    nextIssuer (devI canonicalNop) = some (0, 0) ∧ (deviceRows (devI canonicalNop)).all (fun i => (effect (devI canonicalNop) i).isNone) = true ∧
    Instr.tokenGrant.isEvent = true ∧ heldBack (devI canonicalNop [.event .tokenGrant]) .tokenGrant = none ∧
    restarts [] = false ∧ twf (0 : Byte) dev1.mem = true := by decide +kernel

end Sys2Proof.Tests
end

section
/-!
SUPPORT. The control view of a state: the registers of the control range that only writes of software change, and the states of the
interfaces. The small updates of the state leave it alone (00 R4, 19 R453).
-/
namespace Sys2Proof.Machine

/-- The offsets of the registers that the device writes by itself: the flag counts RFCNT (03 R87), the snapshot counts QSNAPC
(17 R433) and EVCTL, whose HEAD and LOST its event records move (19 R449). -/
def selfWritten (o : Nat) : Bool :=
  decide (0x201100 ≤ o ∧ o < 0x201100 + 8 * 24) || decide (0x260000 ≤ o ∧ o < 0x260000 + 16 * 256 ∧ o % 16 = 8) ||
    decide (0x2A0000 ≤ o ∧ o < 0x2A0000 + 64 * 64 ∧ o % 64 = 48)

theorem selfWritten_iff (o : Nat) : selfWritten o = true ↔ (0x201100 ≤ o ∧ o < 0x2011C0) ∨
    (0x260000 ≤ o ∧ o < 0x261000 ∧ o % 16 = 8) ∨ (0x2A0000 ≤ o ∧ o < 0x2A1000 ∧ o % 64 = 48) := by
  simp [selfWritten, or_assoc]

theorem selfWritten_rfcnt {m : Nat} (h : m < 24) : selfWritten (regOff (.rfcnt m)) = true := by
  rw [selfWritten_iff, regOff]; omega

theorem selfWritten_evctl {f : Nat} (h : f < 64) : selfWritten (regOff (.part f 6)) = true := by
  rw [selfWritten_iff, regOff]; omega

theorem selfWritten_qsnapc {q : Nat} (h : q < 256) : selfWritten (regOff (.qsnapc q)) = true := by
  rw [selfWritten_iff, regOff]; omega

theorem selfWritten_eq_false {o : Nat} : selfWritten o = false ↔ ¬ (0x201100 ≤ o ∧ o < 0x2011C0) ∧
    ¬ (0x260000 ≤ o ∧ o < 0x261000 ∧ o % 16 = 8) ∧ ¬ (0x2A0000 ≤ o ∧ o < 0x2A1000 ∧ o % 64 = 48) := by
  rw [← Bool.not_eq_true, selfWritten_iff, not_or, not_or]

/-- The control view of a state: the stored registers, but those that the device writes by itself, and the state of each
function's interface. -/
def control (s : State) : (Nat → Option DWord) × (Nat → Tdisp) :=
  (fun o => if selfWritten o then none else tfind s.regs o, fun f => (tget {} s.fns f).tdisp)

theorem rawReg_of_control {s t : State} (h : control t = control s) {r : CReg} (hr : selfWritten (regOff r) = false) :
    rawReg t r = rawReg s r := by
  have := congrFun (congrArg Prod.fst h) (regOff r)
  simp only [control, hr, Bool.false_eq_true, if_false] at this
  simp [rawReg, tget, this]

theorem tdisp_of_control {s t : State} (h : control t = control s) (f : Nat) :
    (tget {} t.fns f).tdisp = (tget {} s.fns f).tdisp := congrFun (congrArg Prod.snd h) f

/-- An update of other fields. (Stated by this lemma, not by `rfl`, so that `simp` can use it below the binders of a fold.) -/
theorem control_of_eq {s t : State} (hr : t.regs = s.regs) (hf : t.fns = s.fns) : control t = control s := by
  simp [control, hr, hf]

/-- A change of a register that the device writes by itself is not seen. -/
theorem control_setReg {r : CReg} (h : selfWritten (regOff r) = true) (s : State) (v : DWord) :
    control (setReg s r v) = control s := by
  refine Prod.ext (funext fun o => ?_) rfl
  by_cases ho : o = regOff r
  · simp [control, ho, h]
  · simp only [control, setReg, tset]
    split
    · rfl
    · split
      · rw [tfind_tdel_ne _ _ _ ho]
      · rw [tfind_tput_ne _ _ _ _ ho]

/-- A function's entry changes, but not its interface's state. -/
theorem control_putFn (s : State) {fns : Tab Fn} (hs : fns = s.fns) (k : Nat) {v : Fn} (h : v.tdisp = (tget {} fns k).tdisp) :
    control { s with fns := tput fns k v } = control s := by
  subst hs
  refine Prod.ext rfl (funext fun f => ?_)
  by_cases hf : f = k
  · simp [control, hf, h]
  · simp [control, tget_tput_ne _ _ _ _ _ hf]

@[simp] theorem control_ite (p : Prop) [Decidable p] (a b : State) :
    control (if p then a else b) = if p then control a else control b := apply_ite control p a b

/-- A fold whose step keeps the view of the state that it carries keeps it. -/
theorem control_foldl_of {β γ : Type} (g : γ → State) {f : γ → β → γ} (h : ∀ a b, control (g (f a b)) = control (g a))
    (l : List β) (a : γ) : control (g (l.foldl f a)) = control (g a) := by
  induction l generalizing a with
  | nil => rfl
  | cons b l ih => exact (ih _).trans (h a b)

@[simp] theorem control_foldl {β : Type} {f : State → β → State} (l : List β) (s : State)
    (h : ∀ s b, control (f s b) = control s) : control (l.foldl f s) = control s := control_foldl_of id h l s

@[simp] theorem control_emit (s : State) (m : EmsenOut) : control (emit s m) = control s := control_of_eq rfl rfl
@[simp] theorem control_postNow (s : State) (a : Agendum) : control (postNow s a) = control s := control_of_eq rfl rfl
@[simp] theorem control_postWork (s : State) (i : Instr) : control (postWork s i) = control s := control_of_eq rfl rfl
@[simp] theorem control_setCore (s : State) (c : Nat) (k : Core) : control (setCore s c k) = control s := control_of_eq rfl rfl
@[simp] theorem control_setLeaf (s : State) (c e : Nat) (l : Leaf) : control (setLeaf s c e l) = control s := control_of_eq rfl rfl
@[simp] theorem control_setSheet (s : State) (c i : Nat) (h : Sheet) : control (setSheet s c i h) = control s := control_of_eq rfl rfl
@[simp] theorem control_setTag (s : State) (c n : Nat) (t : Tag) : control (setTag s c n t) = control s := control_of_eq rfl rfl
@[simp] theorem control_setCluster (s : State) (c : Nat) (k : Cluster) : control (setCluster s c k) = control s := control_of_eq rfl rfl
@[simp] theorem control_setStitches (s : State) (r : Nat) (ts : List Stitch) : control (setStitches s r ts) = control s := control_of_eq rfl rfl
@[simp] theorem control_modStitch (s : State) (r line : Nat) (f : Stitch → Stitch) :
    control (modStitch s r line f) = control s := control_of_eq rfl rfl
@[simp] theorem control_dropStitch (s : State) (r line : Nat) : control (dropStitch s r line) = control s := control_of_eq rfl rfl
@[simp] theorem control_dropStitches (s : State) (line : Nat) : control (dropStitches s line) = control s := control_of_eq rfl rfl
@[simp] theorem control_dropHeld (s : State) (c line : Nat) : control (dropHeld s c line) = control s := control_of_eq rfl rfl
@[simp] theorem control_dropMsg (s : State) (id : Nat) : control (dropMsg s id) = control s := control_of_eq rfl rfl
@[simp] theorem control_dropUnpick (s : State) (r line : Nat) : control (dropUnpick s r line) = control s := control_of_eq rfl rfl
@[simp] theorem control_setUnpick (s : State) (u : Unpick) : control (setUnpick s u) = control s := control_of_eq rfl rfl
@[simp] theorem control_closeTx (s : State) (line : Nat) : control (closeTx s line) = control s := control_of_eq rfl rfl
@[simp] theorem control_dropAcc (s : State) (id : Nat) : control (dropAcc s id) = control s := control_of_eq rfl rfl
@[simp] theorem control_dropYounger (s : State) (c slot lane id : Nat) :
    control (dropYounger s c slot lane id) = control s := control_of_eq rfl rfl
@[simp] theorem control_unsent (s : State) (id : Nat) : control (unsent s id) = control s := control_of_eq rfl rfl
@[simp] theorem control_modLaunch (s : State) (ctx i : Nat) (f : Launch → Launch) :
    control (modLaunch s ctx i f) = control s := control_of_eq rfl rfl

@[simp] theorem control_killLaunch (s : State) (ctx l : Nat) (why : KillWhy) (cause status : Nat) (pc : DWord) :
    control (killLaunch s ctx l why cause status pc) = control s := control_of_eq rfl rfl

@[simp] theorem control_fresh (s : State) : control (fresh s).2 = control s := control_of_eq rfl rfl
@[simp] theorem control_noteHit (s : State) (w : Nat × Window) (lo hi : Nat) :
    control (noteHit s w lo hi) = control s := control_of_eq rfl rfl
@[simp] theorem control_touchIcache (s : State) (c line : Nat) : control (touchIcache s c line) = control s := control_of_eq rfl rfl
@[simp] theorem control_setG (s : State) (i : Nat) (g : GEntry) : control (setG s i g) = control s := control_of_eq rfl rfl
@[simp] theorem control_mapSlots (s : State) (w : Word) (f : Member → Member) :
    control (mapSlots s w f) = control s := control_of_eq rfl rfl
@[simp] theorem control_endTags (s : State) (w : Word) (ph st : Nat) (v : Word) :
    control (endTags s w ph st v) = control s := control_of_eq rfl rfl
@[simp] theorem control_dropReqs (s : State) (op : Nat) : control (dropReqs s op) = control s := control_of_eq rfl rfl
@[simp] theorem control_dropAsync (s : State) (id : Nat) : control (dropAsync s id) = control s := control_of_eq rfl rfl
@[simp] theorem control_setRing (s : State) (k r : Nat) (g : Ring) : control (setRing s k r g) = control s := control_of_eq rfl rfl
@[simp] theorem control_completeTag (s : State) (c n status : Nat) (va : DWord) :
    control (completeTag s c n status va) = control s := control_of_eq rfl rfl
@[simp] theorem control_makeEligible (s : State) : control (makeEligible s) = control s := control_of_eq rfl rfl
@[simp] theorem control_modLine (s : State) (k line : Nat) (f : CLine → CLine) : control (modLine s k line f) = control s := control_of_eq rfl rfl
@[simp] theorem control_putCopy (s : State) (k : Nat) (l : CLine) : control (putCopy s k l) = control s := control_of_eq rfl rfl

@[simp] theorem control_putBytes (s : State) (a : Nat) (bs : List Byte) : control (putBytes s a bs) = control s := by
  rw [putBytes_rest]; rfl

@[simp] theorem control_storeMem (s : State) (a : Nat) (bs : List Byte) : control (storeMem s a bs) = control s :=
  control_putBytes s a bs

@[simp] theorem control_writeHome (s : State) (line : Nat) (bs : List Byte) (pz : BitVec 16) :
    control (writeHome s line bs pz) = control s := control_putBytes s (128 * line) bs

@[simp] theorem control_collapse (s : State) (line : Nat) : control (collapse s line) = control s := by
  simp [collapse]

@[simp] theorem control_discard (s : State) (line : Nat) : control (discard s line) = control s := by
  simp [discard]

@[simp] theorem control_coherentWrite (s : State) (a : Nat) (bs : List Byte) : control (coherentWrite s a bs) = control s := by
  simp [coherentWrite]

end Sys2Proof.Machine
end

section
/-!
SUPPORT. Faults, wakes and the coherence of lines leave the control view alone: of the registers they touch RFCNT only (03 R87).
-/
namespace Sys2Proof.Machine

/-- RFCNT of both routers of a stack is the device's own count. -/
@[simp] theorem control_setFlag (s : State) (region : Nat) (v : Bool) : control (setFlag s region v) = control s := by
  unfold setFlag
  split
  · rfl
  · rename_i h
    have hm : region / 2 ^ 24 < 12 := by omega
    dsimp only
    rw [control_setReg (selfWritten_rfcnt (by omega)), control_setReg (selfWritten_rfcnt (by omega))]
    rfl

@[simp] theorem control_useStitch (s : State) (r line : Nat) : control (useStitch s r line) = control s := by
  unfold useStitch
  split <;> rfl

@[simp] theorem control_sendMsg (s : State) (m : Msg) : control (sendMsg s m) = control s := control_useStitch _ _ _

@[simp] theorem control_sendPort (s : State) (r p : Nat) (m : Msg) : control (sendPort s r p m) = control s := by
  unfold sendPort
  split <;> simp

@[simp] theorem control_flagRegion (s : State) (line : Nat) : control (flagRegion s line) = control s := by
  simp [flagRegion]

@[simp] theorem control_askLine (s : State) (dev : Nat) (use : EmsenUse) (m : Nat → Nat → EmsenOut) :
    control (askLine s dev use m) = control s := by
  unfold askLine
  split <;> rfl

@[simp] theorem control_recallTile (s : State) (dev line r : Nat) : control (recallTile s dev line r) = control s := by
  simp [recallTile]

@[simp] theorem control_evictTile (s : State) (r : Nat) (t : Stitch) : control (evictTile s r t) = control s := by
  unfold evictTile
  dsimp only
  have h := control_foldl (List.range 32) s (fun s i => control_collapse s (32 * tileOf t.line + i))
  generalize (List.range 32).foldl (fun s i => collapse s (32 * tileOf t.line + i)) s = u at h ⊢
  exact (control_of_eq rfl rfl).trans h

@[simp] theorem control_takePartial (s : State) (r line : Nat) : control (takePartial s r line).1 = control s := by
  unfold takePartial
  split
  · exact control_foldl_of Prod.fst (fun a h => by simp) _ _
  · split
    · split <;> simp
    · rfl

@[simp] theorem control_wakeStalled (s : State) (c : Nat) : control (wakeStalled s c) = control s := by
  refine control_foldl _ _ fun s p => ?_
  split <;> rfl

@[simp] theorem control_promote (s : State) (c slot : Nat) : control (promote s c slot) = control s := by
  unfold promote moveEntry
  dsimp only
  split
  · rfl
  · split
    · split <;> rfl
    · rfl

@[simp] theorem control_freeLeaf (s : State) (c e : Nat) : control (freeLeaf s c e) = control s := by
  unfold freeLeaf
  split <;> simp

@[simp] theorem control_setMask (s : State) (c e : Nat) (m : Mask) : control (setMask s c e m) = control s := by
  unfold setMask
  split <;> rfl

@[simp] theorem control_joinParked (s : State) (c e : Nat) (l : Leaf) (n : Nat) (p : Leaf) (f : LaneFault) :
    control (joinParked s c e l n p f) = control s := by
  simp [joinParked]

@[simp] theorem control_enterHandler (s : State) (c e : Nat) (l : Leaf) (h : Sheet) (r : FaultRec) :
    control (enterHandler s c e l h r) = control s := by
  unfold enterHandler
  split <;> rfl

@[simp] theorem control_blockLeaf (s : State) (c e : Nat) (w : Wait) : control (blockLeaf s c e w) = control s := by
  unfold blockLeaf
  split <;> rfl

@[simp] theorem control_trapRec (s : State) (c e : Nat) (r : FaultRec) : control (trapRec s c e r) = control s := by
  unfold trapRec
  split
  · rfl
  · split <;> simp

/-- The state that parking leaves. -/
def Parked.state : Parked → State
  | .some' t => t
  | .all t => t

@[simp] theorem control_parkLanes (s : State) (c e : Nat) (pc : DWord) (fs : List LaneFault) (late : Option Nat) :
    control (parkLanes s c e pc fs late).state = control s := by
  unfold parkLanes
  split
  · split
    · rfl
    · dsimp only
      split
      · rfl
      · split
        · rfl
        · split
          · rfl
          · split <;> simp [Parked.state]
  · rfl

/-- Parking, whichever way it ends. -/
theorem control_parked {s t : State} {c e : Nat} {pc : DWord} {fs : List LaneFault} {late : Option Nat}
    (h : parkLanes s c e pc fs late = .some' t ∨ parkLanes s c e pc fs late = .all t) : control t = control s := by
  rw [← control_parkLanes s c e pc fs late]
  rcases h with h | h <;> rw [h] <;> rfl

@[simp] theorem control_fetchFault (s : State) (c e : Nat) (l : Leaf) (cause status : Nat) :
    control (fetchFault s c e l cause status) = control s := by
  unfold fetchFault
  split <;> rename_i h
  · exact control_parked (.inr h)
  · exact control_parked (.inl h)

@[simp] theorem control_parkLate (s : State) (c slot issue : Nat) (pc : DWord) (fs : List LaneFault) :
    control (parkLate s c slot issue pc fs) = control s := by
  refine control_foldl _ _ fun s p => ?_
  dsimp only
  split
  · refine control_foldl _ _ fun s f => ?_
    split <;> simp
  · split
    · split <;> rename_i h
      · exact control_parked (.inl h)
      · exact control_parked (.inr h)
    · rfl

@[simp] theorem control_faultAccs (s : State) (fs : List (Acc × Nat × Nat)) : control (faultAccs s fs) = control s := by
  simp [faultAccs]

@[simp] theorem control_staleMsg (s : State) (m : Msg) : control (staleMsg s m) = control s := by
  let mine (f : FabIn) : Bool := f.router == m.src && f.tile.isSome && tileOf f.line == tileOf m.line
  have h : control ((s.fabIn.filter mine).foldl (fun s f => emit s (.response f.dev false [])) (dropMsg s m.id)) = control s := by
    simp
  exact (control_faultAccs _ _).trans ((control_of_eq rfl rfl).trans h)

@[simp] theorem control_staleTx (s : State) (m : Msg) : control (staleTx s m) = control s := by
  simp [staleTx]

@[simp] theorem control_performed (s : State) (a : Acc) : control (performed s a) = control s := by
  unfold performed
  dsimp only
  split <;> rfl

/-- Accesses perform by a function that keeps the view. -/
theorem control_performAll {f : State → Acc → Except (Nat × Nat) State} (hf : ∀ s a t, f s a = .ok t → control t = control s)
    (s : State) (as : List Acc) : control (performAll s as f) = control s := by
  unfold performAll
  dsimp only
  rw [control_ite, control_faultAccs, ite_self]
  refine control_foldl_of Prod.fst (fun r a => ?_) as (s, [])
  split
  · simp
  · split
    · rename_i t h
      rw [control_performed]
      exact hf r.1 a t h
    · rfl

@[simp] theorem control_checkFetched (s : State) (c e : Nat) (l : Leaf) (bs : List Byte) : control (checkFetched s c e l bs) = control s := by
  simp [checkFetched]

@[simp] theorem control_takeFetch (s : State) (a : Acc) (bs : List Byte) : control (takeFetch s a bs) = control s := by
  unfold takeFetch
  split <;> simp

@[simp] theorem control_putPhys (s : State) (c g : Nat) (m : Mask) (v : Nat → Word) : control (putPhys s c g m v) = control s := by
  simp [putPhys]

@[simp] theorem control_writeWords (s : State) (a : Acc) (ws : List Nat) : control (writeWords s a ws) = control s := by
  unfold writeWords
  split <;> simp

@[simp] theorem control_noteTable (s : State) (a n : Nat) : control (noteTable s a n) = control s := by
  unfold noteTable
  dsimp only
  split <;> rfl

@[simp] theorem control_chipPut (s : State) (c : Nat) (acc : Bool) (o : Nat) (bs : List Byte) :
    control (chipPut s c acc o bs) = control s := by
  simp [chipPut]

@[simp] theorem control_spoilOp (s : State) (c op : Nat) : control (spoilOp s c op) = control s := by
  unfold spoilOp
  dsimp only
  refine (control_foldl _ _ fun _ _ => control_chipPut ..).trans ((control_of_eq rfl rfl).trans ?_)
  split <;> rfl

@[simp] theorem control_spoilMem (s : State) (a n : Nat) (store : Bool) : control (spoilMem s a n store) = control s := by
  unfold spoilMem
  dsimp only
  split
  · simp
  · refine (control_foldl _ _ fun _ _ => ?_).trans ((control_of_eq rfl rfl).trans (control_noteTable s a n))
    simp

/-- An access that performs at the home. -/
theorem control_performHome (s : State) (a : Acc) (t : State) (h : performHome s a = .ok t) : control t = control s := by
  unfold performHome at h
  split at h
  · cases h
  · split at h
    · cases h
    · cases h
      rw [control_writeWords]
      split <;> simp [accSpoil]

@[simp] theorem control_homeRespond (s : State) (m : Msg) (k : MsgKind) (st : Moesic) (own : Bool) (d : List Byte × BitVec 16) :
    control (homeRespond s m k st own d) = control s := control_sendMsg _ _

@[simp] theorem control_finishTx (s : State) (u : Unpick) : control (finishTx s u) = control s := by
  unfold finishTx
  split
  · rfl
  · dsimp only
    split
    case h_1 => cases u.data <;> simp [control_performAll control_performHome]
    all_goals cases u.data <;> simp

@[simp] theorem control_foldAcross (s : State) (line : Nat) (pte : DWord) (v : PartialLine) : control (foldAcross s line pte v) = control s := by
  simp [foldAcross]

@[simp] theorem control_foldMemory (s : State) (line : Nat) (pte : DWord) (v : PartialLine) (pz : BitVec 16) :
    control (foldMemory s line pte v pz) = control s := by
  simp [foldMemory]

@[simp] theorem control_ackThrough (s : State) (r p line : Nat) (u : Unpick) : control (ackThrough s r p line u) = control s := by
  simp [ackThrough]

@[simp] theorem control_finishNode (s : State) (u : Unpick) : control (finishNode s u) = control s := by
  unfold finishNode
  split
  · simp
  · dsimp only
    split <;> split <;> simp
  · simp
  · simp

@[simp] theorem control_advanceNode (s : State) (u : Unpick) (collects : Bool) : control (advanceNode s u collects) = control s := by
  unfold advanceNode
  dsimp only
  split
  · simp
  · split
    · split <;> simp
    · simp

@[simp] theorem control_countDiscard (s : State) (line : Nat) (st : Moesic) : control (countDiscard s line st) = control s := by
  unfold countDiscard countFor
  split
  · split
    · split
      · split <;> rfl
      · rfl
    · rfl
  · rfl

@[simp] theorem control_invalLocal (s : State) (r line : Nat) (keep : Option Nat) : control (invalLocal s r line keep).1 = control s := by
  unfold invalLocal
  split
  · rfl
  · dsimp only
    refine (control_foldl_of Prod.fst (fun v h => ?_) _ _).trans ?_
    · split <;> simp
    · split <;> simp

@[simp] theorem control_evictStitch (s : State) (r : Nat) (t : Stitch) : control (evictStitch s r t) = control s := by
  unfold evictStitch
  split
  · simp
  · dsimp only
    split
    · split
      · split <;> simp
      · split <;> simp
    · simp

/-- Evicting stitches leaves the control view alone. -/
theorem control_trimStitches (s : State) (r n : Nat) : control (trimStitches s r n) = control s := by
  induction n generalizing s with
  | zero => rfl
  | succ n ih =>
    unfold trimStitches
    dsimp only
    split
    · rfl
    · split
      · simp [ih]
      · rfl

end Sys2Proof.Machine
end

section
/-!
SUPPORT. Event records and lost links leave the control view alone: a record touches EVCTL only (19 R449).
-/
namespace Sys2Proof.Machine

/-- A control view is kept by a record to a function: its EVCTL is the device's, and its pending vectors are not seen. -/
@[simp] theorem control_signalVec (s : State) (fn vec : Nat) : control (signalVec s fn vec) = control s := by
  unfold signalVec
  dsimp only
  split
  · rfl
  · split
    · rfl
    · exact control_putFn s rfl fn rfl

@[simp] theorem storeMem_fns (s : State) (a : Nat) (bs : List Byte) : (storeMem s a bs).fns = s.fns := by
  simp only [storeMem]
  rw [putBytes_rest]

/-- The state that a record leaves before its vector is signalled. -/
theorem control_recorded (s : State) (a : Nat) (bs : List Byte) {k : Nat} (hk : k < 64) (v : DWord) {f : Fn}
    (hf : f.tdisp = (tget {} s.fns k).tdisp) {u : State} (hu : u = setReg (storeMem s a bs) (.part k 6) v) :
    control { u with fns := tput u.fns k f } = control s := by
  refine (control_putFn u rfl k (by simpa [hu] using hf)).trans ?_
  rw [hu, control_setReg (selfWritten_evctl hk), control_storeMem]

/-- A record changes no more than EVCTL and the function's sequence number and pending vectors. -/
@[simp] theorem control_postRecord (s : State) {r : EventRec} (h : r.fn < 64) : control (postRecord s r) = control s := by
  unfold postRecord
  extract_lets base ctl size head tail f u v
  split
  · rfl
  · split
    · exact control_setReg (selfWritten_evctl h) s _
    · rw [control_signalVec]
      have hv : v = setReg (storeMem s (hostPa (base.toNat + 64 * (head % size))) (recordBytes s r f.seq)) (.part r.fn 6)
        (BitVec.ofNat 64 (putSlice ctl.toNat 47 35 (head + 1))) := rfl
      clear_value v
      exact control_recorded s _ _ h _ (f := { f with seq := (f.seq + 1) % 2 ^ 32 }) rfl hv

@[simp] theorem control_tileFailed (s : State) (line status : Nat) : control (tileFailed s line status) = control s :=
  control_foldl _ _ fun _ _ => control_of_eq rfl rfl

@[simp] theorem control_loseTrees (s : State) (d : Nat) : control (loseTrees s d) = control s := by
  unfold loseTrees
  extract_lets mine held lost asked u v w
  have hu : control u = control s := by simp [u]
  have hv : control v = control s := (control_of_eq rfl rfl).trans hu
  rw [control_faultAccs]
  clear_value v
  cases hh : held with
  | nil => simpa [w, hh] using hv
  | cons l _ => simpa [w, hh] using hv

@[simp] theorem control_abortHere (s : State) (i status : Nat) : control (abortHere s i status) = control s := by
  simp [abortHere]

@[simp] theorem control_abortG (s : State) (i status : Nat) : control (abortG s i status) = control s := by
  simp [abortG]

@[simp] theorem control_gatherPathLost (s : State) (dev : Nat) : control (gatherPathLost s dev) = control s := by
  simp [gatherPathLost, homeLoses]

@[simp] theorem control_gatherLeaseLost (s : State) (c : Nat) : control (gatherLeaseLost s c) = control s := by
  simp [gatherLeaseLost]

@[simp] theorem control_prune (s : State) (r line : Nat) : control (prune s r line) = control s := by
  unfold prune
  split
  · rfl
  · dsimp only
    split
    · rfl
    · split
      · simp
      · split
        · rfl
        · split <;> simp

@[simp] theorem control_cutBranches (s : State) (router line : Nat) (t : Stitch) (dead : List Nat) (link : Bool) :
    control (cutBranches s router line t dead link) = control s := by
  unfold cutBranches
  dsimp only
  split <;> simp

@[simp] theorem control_localDone (s : State) (r line : Nat) : control (localDone s r line) = control s := by
  unfold localDone
  split
  · split <;> simp
  · rfl

@[simp] theorem control_loseCopies (s : State) (dev : Nat) (p : CLine → Bool) (link : Bool) :
    control (loseCopies s dev p link) = control s := by
  refine control_foldl _ _ fun s l => ?_
  dsimp only
  split
  · simp
  · simp

@[simp] theorem control_collectDone (s : State) (line r : Nat) (v : PartialLine) : control (collectDone s line r v) = control s := by
  unfold collectDone
  split
  · rfl
  · simp

@[simp] theorem control_renewLine (s : State) (k line : Nat) : control (renewLine s k line) = control s := by
  simp [renewLine]

@[simp] theorem control_askFor (s : State) (r line : Nat) (write : Bool) : control (askFor s r line write) = control s := by
  simp [askFor]

@[simp] theorem control_tileStep (s : State) (f : FabIn) : control (tileStep s f) = control s := by
  unfold tileStep
  extract_lets k w tile lines have' clash held st
  clear_value clash st
  split
  · simp
  · split
    · exact (control_emit ..).trans (control_of_eq rfl rfl)
    · refine control_foldl _ _ fun s l => ?_
      split <;> simp

@[simp] theorem control_tileSteps (s : State) (r tile : Nat) : control (tileSteps s r tile) = control s := by
  unfold tileSteps
  split <;> simp

@[simp] theorem control_loseBranches (s : State) (dev : Nat) : control (loseBranches s dev) = control s := by
  unfold loseBranches
  dsimp only
  refine (control_foldl _ _ fun s r => ?_).trans ((control_loseCopies ..).trans (control_of_eq rfl rfl))
  split <;> simp

end Sys2Proof.Machine
end

section
/-!
SUPPORT. Kills leave the control view alone: of the registers they touch QSNAPC only (17 R432, R433).
-/
namespace Sys2Proof.Machine

@[simp] theorem control_modSheet (s : State) (c slot : Nat) (f : Sheet → Sheet) : control (modSheet s c slot f) = control s := by
  unfold modSheet
  split <;> simp

@[simp] theorem control_settle (s : State) (i : Nat) : control (settle s i) = control s := by
  have hr (s : State) : control (repause s i) = control s := by
    unfold repause
    dsimp only
    split <;> simp
  have hf (s : State) (st : Nat) (v : Word) : control (finishPhase s i st v) = control s := by simp [finishPhase]
  simp [settle, tellHome, tryComplete, hr, hf]

@[simp] theorem control_reportCount (s : State) (i : Nat) : control (reportCount s i) = control s := by
  simp [reportCount]

@[simp] theorem control_departSlot (s : State) (c slot k : Nat) (m : Mask) (killed : Bool) :
    control (departSlot s c slot k m killed) = control s := by
  unfold departSlot
  split
  · rfl
  · dsimp only
    split <;> simp

@[simp] theorem control_departAll (s : State) (c slot : Nat) (m : Mask) (killed : Bool) :
    control (departAll s c slot m killed) = control s := by
  simp [departAll]

@[simp] theorem control_departAway (s : State) (p : Away → Bool) : control (departAway s p) = control s := by
  simp [departAway]

@[simp] theorem control_endOp (s : State) (a : Async) (status : Nat) (va : DWord) : control (endOp s a status va) = control s := by
  unfold endOp
  dsimp only
  split <;> simp

@[simp] theorem control_noteEngineOut (s : State) (a : Async) (rs : List (Nat × Nat)) : control (noteEngineOut s a rs) = control s := by
  simp [noteEngineOut]

@[simp] theorem control_windowRegs (s : State) (c off : Nat) (words : List Word) (store : Bool) :
    control (windowRegs s c off words store) = control s := by
  unfold windowRegs
  extract_lets g l0 put t
  have hp (s : State) (ws : List Word) : control (put s ws) = control s := control_putPhys ..
  split
  · rfl
  · split
    · exact hp s words
    · refine (hp _ _).trans ((control_of_eq rfl rfl).trans ((control_foldl _ _ fun _ _ => control_noteHit ..).trans (hp s words)))

@[simp] theorem control_chipWrite (s : State) (c : Nat) (acc : Bool) (o : Nat) (bs : List Byte) :
    control (chipWrite s c acc o bs) = control s := by
  unfold chipWrite
  split <;> simp

@[simp] theorem control_chipStore (s : State) (c : Nat) (acc : Bool) (o : Nat) (bs : List Byte) :
    control (chipStore s c acc o bs) = control s := by
  have hd (s : State) (lo n : Nat) : control (dropDests s c lo n) = control s := by simp [dropDests]
  unfold chipStore
  extract_lets t
  have ht : control t = control s := by simp [t, hd]
  clear_value t
  split
  · exact ht
  · refine (control_foldl _ _ fun _ _ => ?_).trans ((control_of_eq rfl rfl).trans ht)
    simp

@[simp] theorem control_putCtlWord (s : State) (c o : Nat) (w : Word) : control (putCtlWord s c o w) = control s := by
  simp [putCtlWord]

@[simp] theorem control_windowWrite (s : State) (c off : Nat) (bs : List Byte) : control (windowWrite s c off bs) = control s := by
  simp [windowWrite]

@[simp] theorem control_engWindow (s : State) (c o : Nat) (bs : List Byte) : control (engWindow s c o bs) = control s := by
  simp [engWindow]

@[simp] theorem control_sendWrites (s : State) (op : Nat) (runs : List (Nat × Nat × List Byte)) :
    control (sendWrites s op runs) = control s := by
  refine control_foldl _ _ fun s r => control_foldl _ _ fun s p => control_of_eq rfl rfl

@[simp] theorem control_leavePart (s : State) (a : Async) (c : CopyArgs) : control (leavePart s a c) = control s := by
  unfold leavePart
  extract_lets rs u rows t v far w
  have hu : control u = control s := control_noteEngineOut ..
  have ht : control t = control u := by
    refine control_foldl _ _ fun s r => control_foldl _ _ fun s run => ?_
    dsimp only
    split
    · split <;> simp
    · simp
  have hv : control v = control t := by
    refine control_foldl _ _ fun s w => control_foldl _ _ fun s r => ?_
    split
    · split <;> simp
    · rfl
  have hw : control w = control v := by
    simp only [w]
    split <;> simp
  clear_value w v t u
  split
  · rfl
  · exact (control_of_eq rfl rfl).trans (hw.trans (hv.trans (ht.trans hu)))

@[simp] theorem control_endEarly (s : State) (a : Async) : control (endEarly s a) = control s := by
  unfold endEarly
  split <;> simp

@[simp] theorem control_noteEmpty (s : State) (c : Nat) : control (noteEmpty s c) = control s := by
  unfold noteEmpty
  dsimp only
  split <;> rfl

@[simp] theorem control_endQuarter (s : State) (c : Nat) (q : QOp) (status : Nat) : control (endQuarter s c q status) = control s := by
  simp [endQuarter]

@[simp] theorem control_endRound (s : State) (k : Nat) (r : Round) (status : Nat) : control (endRound s k r status) = control s := by
  simp [endRound, endPart]

@[simp] theorem control_endOps (s : State) (p : Nat → Nat → Nat → Bool) (all : Bool) : control (endOps s p all) = control s := by
  unfold endOps
  extract_lets u mine v
  have hu : control u = control s := by
    simp only [u]
    split
    · simp
    · rfl
  have hv : control v = control u := by simp [v]
  clear_value v
  simp [hv, hu]

@[simp] theorem control_freeRings (s : State) (p : Nat → Nat → Nat → Bool) : control (freeRings s p) = control s := by
  unfold freeRings
  dsimp only
  split <;> rfl

@[simp] theorem control_spoilTiles (s : State) (l : Launch) (t : Task) : control (spoilTiles s l t) = control s := by
  unfold spoilTiles
  split
  · rfl
  · exact (control_foldl _ _ fun _ _ => control_chipPut ..).trans (control_of_eq rfl rfl)

@[simp] theorem control_dropSheet (s : State) (c slot : Nat) : control (dropSheet s c slot) = control s := by
  unfold dropSheet
  dsimp only
  split
  · rfl
  · exact (control_wakeStalled ..).trans (control_of_eq rfl rfl)

@[simp] theorem control_killWork (s : State) (ctx launch : Nat) : control (killWork s ctx launch) = control s := by
  unfold killWork
  extract_lets p hs departed away ended freed spoiled dropped
  have h1 : control freed = control s := by simp [freed, ended, away, departed]
  have h2 : control spoiled = control freed :=
    control_foldl _ _ fun s l => control_foldl _ _ fun s t => control_spoilTiles ..
  have h3 : control dropped = control spoiled := control_foldl _ _ fun s h => control_dropSheet ..
  exact (control_modLaunch ..).trans (h3.trans (h2.trans h1))

@[simp] theorem control_modCtx (s : State) (ctx : Nat) (f : Ctx → Ctx) : control (modCtx s ctx f) = control s := by
  unfold modCtx
  split <;> rfl

@[simp] theorem control_modLevel (s : State) (ctx cid : Nat) (f : Level → Level) : control (modLevel s ctx cid f) = control s :=
  control_modCtx ..

@[simp] theorem control_endLevel (s : State) (ctx cid : Nat) (c : Bool) : control (endLevel s ctx cid c) = control s :=
  control_modLevel ..

@[simp] theorem control_graphDone (s : State) (ctx g : Nat) (c : Bool) : control (graphDone s ctx g c) = control s := by
  simp [graphDone]

@[simp] theorem control_dropLaunch (s : State) (l : Launch) (ok : Bool) : control (dropLaunch s l ok) = control s := by
  unfold dropLaunch
  extract_lets u r q v g up w lv left
  have hu : control u = control s := control_of_eq rfl rfl
  have hv : control v = control u := by
    simp only [v]
    split
    · exact control_setReg (selfWritten_qsnapc (Nat.mod_lt _ (by omega))) u _
    · rfl
  have hw : control w = control v := by simp [w]
  clear_value w v u
  simp [hw, hv, hu]

@[simp] theorem control_cancelLaunch (s : State) (l : Launch) : control (cancelLaunch s l) = control s := by
  simp [cancelLaunch]

@[simp] theorem control_cascade (s : State) (n : Nat) : control (cascade s n) = control s := by
  induction n generalizing s with
  | zero => rfl
  | succ n ih =>
    unfold cascade
    split
    · simp [ih]
    · rfl

@[simp] theorem control_settleStore (s : State) : control (settleStore s) = control s := by
  simp [settleStore]

@[simp] theorem control_cancelJob (s : State) (ctx : Nat) : control (cancelJob s ctx) = control s := by
  simp [cancelJob]

theorem ownerFn_lt (s : State) (kind n : Nat) : ownerFn s kind n < 64 := by
  unfold ownerFn
  cases h : (List.range 64).find? (fun f => 0 < f && vfHolds s f kind n) with
  | none => simp
  | some f => simpa using List.mem_range.mp (List.mem_of_find?_eq_some h)

@[simp] theorem control_killRecord (s : State) (l : Launch) (why : KillWhy) (again : Bool) :
    control (killRecord s l why again) = control s := control_postRecord s (ownerFn_lt s 3 l.ctx)

/-- Killing a function's launches leaves the control view alone. -/
theorem control_killFunction (s : State) (fn : Nat) : control (killFunction s fn) = control s := by
  simp [killFunction]

end Sys2Proof.Machine
end

section
/-!
SUPPORT. Bits and fields of a register after a write (00 R4, 02 R471), and where registers stand.
-/
namespace Sys2Proof.Machine

theorem bitN_toNat (x : DWord) (i : Nat) : bitN x.toNat i = x.getLsbD i := by
  simp [bitN, BitVec.getLsbD, Nat.testBit_eq_decide_div_mod_eq]; rfl

theorem getLsbD_bitsMask {h l : Nat} (hl : l ≤ h) (hh : h < 64) (i : Nat) :
    (bitsMask h l).getLsbD i = decide (l ≤ i ∧ i ≤ h) := by
  have e : 2 ^ (h + 1) - 2 ^ l = 2 ^ l * (2 ^ (h + 1 - l) - 1) := by
    rw [Nat.mul_sub, ← Nat.pow_add, Nat.mul_one, Nat.add_sub_cancel' (by omega)]
  rw [bitsMask, BitVec.getLsbD_ofNat, e, Nat.testBit_two_pow_mul, Nat.testBit_two_pow_sub_one]
  rw [Bool.eq_iff_iff]
  simp only [Bool.and_eq_true, decide_eq_true_eq]
  omega

/-- Two values that agree on the bits of a field have the same field. -/
theorem fld_congr {x y : DWord} {h l : Nat} (e : ∀ i, l ≤ i → i ≤ h → x.getLsbD i = y.getLsbD i) (hl : l ≤ h) :
    fld x h l = fld y h l := by
  refine Nat.eq_of_testBit_eq fun i => ?_
  simp only [fld, slice, Nat.testBit_mod_two_pow, Nat.testBit_div_two_pow]
  by_cases hi : i < h + 1 - l
  · have := e (l + i) (by omega) (by omega)
    simpa [hi, BitVec.getLsbD, Nat.add_comm] using this
  · simp [hi]

theorem getLsbD_merged {i : Nat} (hi : i < 64) (r : CReg) (old : DWord) (p : Part) (v : DWord) :
    (merged r old p v).getLsbD i =
      (((old.getLsbD i && !((rwMask r).getLsbD i && (partMask p).getLsbD i)) ||
          ((partVal p v).getLsbD i && ((rwMask r).getLsbD i && (partMask p).getLsbD i))) &&
        !((partVal p v).getLsbD i && (w1cMask r).getLsbD i && (partMask p).getLsbD i)) := by
  simp [merged, hi]

/-- A software-written bit takes the bit that a write of its part brings. -/
theorem getLsbD_merged_rw {r : CReg} {i : Nat} (hi : i < 64) (hr : (rwMask r).getLsbD i = true) (hc : w1cMask r = 0) (old : DWord)
    {p : Part} (hp : p = .full ∨ p = .low ∧ i < 32) (v : DWord) : (merged r old p v).getLsbD i = v.getLsbD i := by
  rw [getLsbD_merged hi, hr, hc]
  rcases hp with rfl | ⟨rfl, h32⟩
  · have : (partMask .full).getLsbD i = true := by
      rw [partMask, getLsbD_bitsMask (by omega) (by omega)]; simp; omega
    simp [this, partVal]
  · have : (bitsMask 31 0).getLsbD i = true := by
      rw [getLsbD_bitsMask (by omega) (by omega)]; simp; omega
    simp [this, partVal, partMask]

/-- A field of software-written bits takes the value that a write of its part brings. -/
theorem fld_merged {r : CReg} {h l : Nat} (hl : l ≤ h) (hr : ∀ i, l ≤ i → i ≤ h → (rwMask r).getLsbD i = true) (hc : w1cMask r = 0)
    (old : DWord) {p : Part} (hp : p = .full ∧ h < 64 ∨ p = .low ∧ h < 32) (v : DWord) : fld (merged r old p v) h l = fld v h l := by
  refine fld_congr (fun i h1 h2 => getLsbD_merged_rw (by omega) (hr i h1 h2) hc old ?_ v) hl
  rcases hp with ⟨rfl, _⟩ | ⟨rfl, _⟩
  · exact .inl rfl
  · exact .inr ⟨rfl, by omega⟩

/-- A field from bit 0 takes the value that a full or a low write brings. -/
theorem fld_merged_low {r : CReg} {h : Nat} (hr : rwMask r = bitsMask h 0) (hc : w1cMask r = 0) (hh : h < 32) (old : DWord) {p : Part}
    (hp : p ≠ .high) (v : DWord) : fld (merged r old p v) h 0 = fld v h 0 := by
  refine fld_merged (Nat.zero_le h) (fun i _ hi => ?_) hc old ?_ v
  · rw [hr, getLsbD_bitsMask (Nat.zero_le h) (by omega)]
    simpa using hi
  · cases p with
    | full => exact .inl ⟨rfl, by omega⟩
    | low => exact .inr ⟨rfl, hh⟩
    | high => exact absurd rfl hp

/-- A register all of whose bits software writes takes a full write whole. -/
theorem merged_full {r : CReg} (hr : rwMask r = bitsMask 63 0) (hc : w1cMask r = 0) (old v : DWord) : merged r old .full v = v :=
  BitVec.eq_of_getLsbD_eq fun i hi =>
    getLsbD_merged_rw hi (by rw [hr, getLsbD_bitsMask (by omega) (by omega)]; simp; omega) hc old (.inl rfl) v

/-- Replacing the TAIL field of EVCTL leaves the bits outside it as they were. -/
theorem testBit_putTail (x n : Nat) {i : Nat} (hi : i < 22 ∨ 34 < i) : (putSlice x 34 22 n).testBit i = x.testBit i := by
  rcases hi with hi | hi
  · have e : putSlice x 34 22 n % 2 ^ 22 = x % 2 ^ 22 := by simp only [putSlice]; omega
    simpa only [-Nat.reducePow, Nat.testBit_mod_two_pow, hi, decide_true, Bool.true_and] using congrArg (Nat.testBit · i) e
  · have e : putSlice x 34 22 n / 2 ^ 35 = x / 2 ^ 35 := by simp only [putSlice]; omega
    simpa only [-Nat.reducePow, Nat.testBit_div_two_pow, Nat.sub_add_cancel (show 35 ≤ i by omega)] using congrArg (Nat.testBit · (i - 35)) e

@[simp] theorem rawReg_setReg_same (s : State) (r : CReg) (v : DWord) : rawReg (setReg s r v) r = v := by
  simp [rawReg, setReg]

theorem rawReg_setReg_ne (s : State) {r q : CReg} (v : DWord) (h : regOff q ≠ regOff r) : rawReg (setReg s r v) q = rawReg s q := by
  simp only [rawReg, setReg, tget, tset]
  split
  · rw [tfind_tdel_ne _ _ _ h]
  · rw [tfind_tput_ne _ _ _ _ h]

theorem rawReg_congr {s t : State} (h : t.regs = s.regs) (q : CReg) : rawReg t q = rawReg s q := by
  simp [rawReg, h]

/-- The plain case of a register write: the register takes its value, and nothing else changes. -/
theorem takesWrite_putReg (s : State) (w : RegWr) (r : CReg) : TakesWrite s (putReg s w r) w r :=
  ⟨rawReg_setReg_same .., fun _ hq => rawReg_setReg_ne _ _ hq, rfl⟩

/-- A row that carries a write out on a register that is not frozen. -/
theorem regEvent_of {s : State} {w : RegWr} {r : CReg} (hr : regOf (w.off / 8 * 8) = some r) (hf : frozenFn s r = none)
    (f : CReg → State) : regEvent s w f = .next (f r) := by
  simp [regEvent, hr, hf]

/-- A row that does nothing with any register that it could find there. -/
theorem regEvent_idle {s : State} {w : RegWr} {f : CReg → State}
    (h : ∀ r, regOf (w.off / 8 * 8) = some r → frozenFn s r = none → f r = s) : regEvent s w f = .next s := by
  unfold regEvent
  split
  · rfl
  · rename_i r hr
    split
    · rfl
    · rename_i hf
      rw [h r hr (by simpa using hf)]

/-- The bounds of the banks of registers (field maps of 03 R84, 15 R396, 16 R415, 17 R433, 19 R448). -/
def CReg.InBank : CReg → Prop
  | .sclim n => n < 157
  | .gquota f => f < 64
  | .cbudget c => c < 128
  | .qctl q => q < 256
  | .cquota n => n < 4096
  | .ctrap n => n < 4096
  | .part f _ => f < 64
  | _ => True

theorem inBank_ite {c : Prop} [Decidable c] {a b : Option CReg} (ha : c → ∀ r ∈ a, r.InBank) (hb : ¬ c → ∀ r ∈ b, r.InBank) :
    ∀ r ∈ (if c then a else b), r.InBank := by
  split
  · exact ha ‹_›
  · exact hb ‹_›

theorem inBank_orElse {a b : Option CReg} (ha : ∀ r ∈ a, r.InBank) (hb : ∀ r ∈ b, r.InBank) : ∀ r ∈ (a <|> b), r.InBank := by
  cases a with
  | none => simpa using hb
  | some x => simpa using ha

/-- A bank of `n` registers from `base`. -/
theorem inBank_at {off base n : Nat} {k : Nat → CReg} (h : ∀ i < n, (k i).InBank) :
    ∀ r ∈ (if base ≤ off ∧ off < base + 8 * n ∧ off % 8 = 0 then some (k ((off - base) / 8)) else none), r.InBank :=
  inBank_ite (fun hc => by simpa using h _ (by omega)) (fun _ => by simp)

/-- A register that stands somewhere in the range lies inside its bank. -/
theorem regOf_inBank {off : Nat} : ∀ r ∈ regOf off, r.InBank := by
  unfold regOf
  refine inBank_ite (fun _ => by simp) fun _ => ?_
  iterate 17 refine inBank_ite (fun _ => by simp [CReg.InBank]) fun _ => ?_
  refine inBank_ite (fun _ => inBank_ite (fun _ => by simp [CReg.InBank]) fun _ =>
    inBank_ite (fun _ => by simp [CReg.InBank]) fun _ => by simp) fun _ => ?_
  refine inBank_ite (fun _ => inBank_ite (fun _ => by simp [CReg.InBank]) fun _ => by simp [CReg.InBank]) fun _ => ?_
  refine inBank_ite (fun hp => inBank_ite (fun _ => ?_) fun _ => by simp) fun _ => ?_
  · simp only [CReg.InBank, Option.mem_def, Option.some.injEq, forall_eq']
    omega
  · exact inBank_orElse (inBank_at fun _ h => h) <| inBank_orElse (inBank_at fun _ _ => trivial) <|
      inBank_orElse (inBank_at fun _ h => h) <| inBank_orElse (inBank_at fun _ h => h) <| inBank_orElse (inBank_at fun _ h => h) <|
      inBank_orElse (inBank_at fun _ h => h) <| inBank_orElse (inBank_at fun _ h => h) <| inBank_orElse (inBank_at fun _ _ => trivial) <|
      inBank_orElse (inBank_at fun _ _ => trivial) <| inBank_orElse (inBank_at fun _ _ => trivial) <|
      inBank_orElse (inBank_at fun _ _ => trivial) <| inBank_orElse (inBank_at fun _ _ => trivial) <|
      inBank_orElse (inBank_at fun _ _ => trivial) (inBank_at fun _ _ => trivial)

end Sys2Proof.Machine
end

section
/-!
SUPPORT. Registers that an interface freezes, and what a lost path leaves (19 R453, R457).
-/
namespace Sys2Proof.Machine

theorem not_selfWritten_sclim {n : Nat} (h : n < 157) : selfWritten (regOff (.sclim n)) = false := by
  rw [selfWritten_eq_false, regOff]; omega

theorem not_selfWritten_froute (n : Nat) : selfWritten (regOff (.froute n)) = false := by
  rw [selfWritten_eq_false, regOff]; omega

theorem not_selfWritten_fpeer {d : Nat} (h : d < 16) : selfWritten (regOff (.fpeer d)) = false := by
  rw [selfWritten_eq_false, regOff]; omega

/-- A register that an interface freezes (19 R453) is one that the device does not write by itself, and the function is one of
the 64. -/
theorem frozenFn_some {s : State} {r : CReg} {f : Nat} (hr : r.InBank) (h : frozenFn s r = some f) :
    selfWritten (regOff r) = false ∧ f < 64 := by
  simp only [frozenFn, Option.ite_none_right_eq_some, Option.some.injEq] at h
  obtain ⟨⟨h0, -⟩, rfl⟩ := h
  rw [selfWritten_eq_false]
  cases r
  case gquota g => simp only [CReg.InBank] at hr; simp only [regOff]; omega
  case cbudget c => have := ownerFn_lt s 0 c; simp only [CReg.InBank] at hr; simp only [regOff]; omega
  case qctl q => have := ownerFn_lt s 2 q; simp only [CReg.InBank] at hr; simp only [regOff]; omega
  case cquota n => have := ownerFn_lt s 3 n; simp only [CReg.InBank] at hr; simp only [regOff]; omega
  case ctrap n => have := ownerFn_lt s 3 n; simp only [CReg.InBank] at hr; simp only [regOff]; omega
  case part g k =>
    have hk : k ≤ 4 := by
      by_contra hk
      exact h0 (if_neg hk)
    simp only [CReg.InBank] at hr
    simp only [regOff, hk, if_true]
    omega
  all_goals exact absurd rfl h0

/-- The peers of a device are among the sixteen of the domain. -/
theorem lt_of_mem_peersOf {s : State} {dev d : Nat} (h : d ∈ peersOf s dev) : d < 16 :=
  List.mem_range.mp (List.mem_filter.mp h).1

theorem peersOf_congr {s t : State} (h : ∀ d < 16, rawReg t (.fpeer d) = rawReg s (.fpeer d)) (dev : Nat) :
    peersOf t dev = peersOf s dev := by
  refine List.filter_congr fun d hd => ?_
  rw [h d (List.mem_range.mp hd)]

/-- Losing the trees of peers marks each as lost, and takes no mark from any (19 R457). -/
theorem fpeer_marked (ds : List Nat) (s : State) (hs : ∀ d ∈ ds, d < 16) (d : Nat) (hd : d < 16)
    (h : d ∈ ds ∨ (rawReg s (.fpeer d)).getLsbD 13 = true) :
    (rawReg (ds.foldl (fun s d => loseTrees (setReg s (.fpeer d) (rawReg s (.fpeer d) ||| 0x2000)) d) s)
      (.fpeer d)).getLsbD 13 = true := by
  induction ds generalizing s with
  | nil => simpa using h
  | cons e ds ih =>
    refine ih _ (fun x hx => hs x (List.mem_cons_of_mem _ hx)) ?_
    rw [rawReg_of_control (control_loseTrees ..) (not_selfWritten_fpeer hd)]
    by_cases he : d = e
    · subst he
      right
      simp
    · rw [rawReg_setReg_ne _ _ (by simp only [regOff]; omega)]
      simpa [he] using h

/-- Losing the trees of peers leaves every register but FPEER that the device does not write by itself. -/
theorem rawReg_loseTrees_fold (ds : List Nat) (s : State) {q : CReg} (hq : selfWritten (regOff q) = false)
    (hne : ∀ d ∈ ds, regOff q ≠ regOff (.fpeer d)) :
    rawReg (ds.foldl (fun s d => loseTrees (setReg s (.fpeer d) (rawReg s (.fpeer d) ||| 0x2000)) d) s) q = rawReg s q := by
  induction ds generalizing s with
  | nil => rfl
  | cons e ds ih =>
    rw [List.foldl_cons, ih _ fun d hd => hne d (List.mem_cons_of_mem _ hd),
      rawReg_of_control (control_loseTrees ..) hq, rawReg_setReg_ne _ _ (hne e (List.mem_cons_self ..))]

/-- A lost path marks the peers that the device was, and leaves FROUTE as it stands (19 R457). -/
theorem rawReg_pathLost (s : State) (n : Nat) :
    rawReg (pathLost s n) (.froute n) = rawReg s (.froute n) ∧
      ∀ d ∈ peersOf s n, (rawReg (pathLost s n) (.fpeer d)).getLsbD 13 = true := by
  unfold pathLost
  extract_lets u v w
  have hu : control u = control s := control_postRecord s (by simp)
  have hw : control w = control v := (control_gatherPathLost ..).trans (control_loseBranches ..)
  have hp : peersOf u n = peersOf s n := peersOf_congr (fun d hd => rawReg_of_control hu (not_selfWritten_fpeer hd)) n
  have h16 : ∀ d ∈ peersOf u n, d < 16 := fun d hd => lt_of_mem_peersOf hd
  clear_value u
  constructor
  · refine (rawReg_congr rfl _).trans ((rawReg_of_control hw (not_selfWritten_froute n)).trans ?_)
    refine (rawReg_loseTrees_fold _ u (not_selfWritten_froute n) fun d hd => ?_).trans (rawReg_of_control hu (not_selfWritten_froute n))
    have := h16 d hd
    simp only [regOff]; omega
  · intro d hd
    rw [← hp] at hd
    change (rawReg w (.fpeer d)).getLsbD 13 = true
    rw [rawReg_of_control hw (not_selfWritten_fpeer (h16 d hd))]
    exact fpeer_marked _ u h16 d (h16 d hd) (.inl hd)

/-- Routing masks are judged by FPORT alone. -/
theorem allDown_congr {s t : State} (h : ∀ p < 18, rawReg t (.fport p) = rawReg s (.fport p)) (m : Nat) : allDown t m = allDown s m := by
  unfold allDown
  rw [Bool.eq_iff_iff]
  simp only [List.all_eq_true, List.mem_range]
  refine forall₂_congr fun p hp => ?_
  rw [portIsUp, portIsUp, h p hp]

/-- A write of FROUTE changes no port. -/
theorem allDown_putRoute (s : State) (w : RegWr) (n m : Nat) : allDown (putReg s w (.froute n)) m = allDown s m :=
  allDown_congr (fun p hp => rawReg_setReg_ne _ _ (by simp only [regOff]; omega)) m

end Sys2Proof.Machine
end

section
/-!
SUPPORT. A request to pre-empt reaches every sheet of its task (17 R425, R433).
-/
namespace Sys2Proof.Machine

/-- A sheet that is asked to take PREEMPT (17 R425). -/
def askPreempt (h : Sheet) : Sheet := if h.preempt = 0 then { h with preempt := 1 } else h

theorem askPreempt_ne_zero (h : Sheet) : (askPreempt h).preempt ≠ 0 := by
  unfold askPreempt
  split
  · simp
  · assumption

/-- The sheet `h'` is the sheet `h` of the same task, and no request to it has been taken back. -/
def SheetKeeps (h h' : Sheet) : Prop := (h'.ctx = h.ctx ∧ h'.launch = h.launch ∧ h'.task = h.task) ∧ (h.preempt ≠ 0 → h'.preempt ≠ 0)

theorem SheetKeeps.trans {a b c : Sheet} (x : SheetKeeps a b) (y : SheetKeeps b c) : SheetKeeps a c := by
  obtain ⟨⟨xc, xl, xt⟩, xp⟩ := x
  obtain ⟨⟨yc, yl, yt⟩, yp⟩ := y
  exact ⟨⟨yc.trans xc, yl.trans xl, yt.trans xt⟩, yp ∘ xp⟩

theorem sheetKeeps_refl (h : Sheet) : SheetKeeps h h := ⟨⟨rfl, rfl, rfl⟩, id⟩

theorem sheetKeeps_askPreempt (h : Sheet) : SheetKeeps h (askPreempt h) := by
  refine ⟨?_, fun _ => askPreempt_ne_zero h⟩
  unfold askPreempt
  split <;> exact ⟨rfl, rfl, rfl⟩

theorem sheetOf_setSheet_ne {s : State} {c k c' k' : Nat} (h : Sheet) (hne : ¬ (c' = c ∧ k' = k)) :
    sheetOf (setSheet s c k h) c' k' = sheetOf s c' k' := by
  by_cases hc : c' = c
  · subst hc
    have hk : k' ≠ k := fun e => hne ⟨rfl, e⟩
    simp only [sheetOf, coreOf_setSheet]
    exact tfind_tput_ne _ _ _ _ hk
  · simp only [sheetOf, coreOf_setSheet_ne s c k c' h hc]

theorem sheetOf_modSheet_same (s : State) (c k : Nat) (f : Sheet → Sheet) :
    sheetOf (modSheet s c k f) c k = (sheetOf s c k).map f := by
  unfold modSheet
  split <;> simp_all

theorem sheetOf_modSheet_ne {s : State} {c k c' k' : Nat} (f : Sheet → Sheet) (hne : ¬ (c' = c ∧ k' = k)) :
    sheetOf (modSheet s c k f) c' k' = sheetOf s c' k' := by
  unfold modSheet
  split
  · exact sheetOf_setSheet_ne _ hne
  · rfl

theorem mem_of_tfind {α : Type} {t : Tab α} {k : Nat} {v : α} (h : tfind t k = some v) : (k, v) ∈ t := by
  induction t with
  | nil => simp [tfind] at h
  | cons e t ih =>
    obtain ⟨i, w⟩ := e
    simp only [tfind] at h
    split at h
    · simp_all
    · exact List.mem_cons_of_mem _ (ih h)

/-- A resident sheet is among those that satisfy what it satisfies. -/
theorem mem_sheetsWhere {s : State} {c k : Nat} {h : Sheet} {p : Sheet → Bool} (hs : sheetOf s c k = some h) (hp : p h = true) :
    (c, k, h) ∈ sheetsWhere s p := by
  have hk : (k, h) ∈ (coreOf s c).sheets := mem_of_tfind hs
  cases hc : tfind s.cores c with
  | none => simp [coreOf, tget, hc] at hk
  | some x =>
    have hx : coreOf s c = x := by simp [coreOf, tget, hc]
    rw [hx] at hk
    refine List.mem_flatten.mpr ⟨_, List.mem_map.mpr ⟨(c, x), mem_of_tfind hc, rfl⟩, ?_⟩
    exact List.mem_map.mpr ⟨(k, h), List.mem_filter.mpr ⟨hk, hp⟩, rfl⟩

/-- One sheet is asked: every sheet stands, and that one is marked. -/
theorem sheetOf_ask {s : State} {c k : Nat} {h : Sheet} (e : sheetOf s c k = some h) (a b : Nat) :
    ∃ h', sheetOf (modSheet s a b askPreempt) c k = some h' ∧ SheetKeeps h h' ∧ (c = a ∧ k = b → h'.preempt ≠ 0) := by
  by_cases hx : c = a ∧ k = b
  · obtain ⟨rfl, rfl⟩ := hx
    exact ⟨askPreempt h, by rw [sheetOf_modSheet_same, e]; rfl, sheetKeeps_askPreempt h, fun _ => askPreempt_ne_zero h⟩
  · exact ⟨h, by rw [sheetOf_modSheet_ne _ hx, e], sheetKeeps_refl h, fun x => absurd x hx⟩

/-- The named sheets are asked in turn. -/
def askSheets (s : State) (hs : List (Nat × Nat × Sheet)) : State :=
  hs.foldl (fun s h => modSheet s h.1 h.2.1 askPreempt) s

/-- The sheets of the named tasks are asked (17 R433). -/
def askTasks (s : State) (ps : List (Launch × Task)) : State :=
  ps.foldl (fun s p => askSheets s (sheetsWhere s (ofTask p.1.ctx p.1.index p.2.index))) s

theorem sheetOf_askSheets {s : State} (hs : List (Nat × Nat × Sheet)) {c k : Nat} {h : Sheet} (e : sheetOf s c k = some h) :
    ∃ h', sheetOf (askSheets s hs) c k = some h' ∧ SheetKeeps h h' ∧ ((∃ x, (c, k, x) ∈ hs) → h'.preempt ≠ 0) := by
  induction hs generalizing s h with
  | nil => exact ⟨h, e, sheetKeeps_refl h, by simp⟩
  | cons y hs ih =>
    obtain ⟨h₁, e₁, k₁, m₁⟩ := sheetOf_ask e y.1 y.2.1
    obtain ⟨h₂, e₂, k₂, m₂⟩ := ih e₁
    refine ⟨h₂, e₂, k₁.trans k₂, fun ⟨x, hx⟩ => ?_⟩
    rcases List.mem_cons.mp hx with rfl | hx
    · exact k₂.2 (m₁ ⟨rfl, rfl⟩)
    · exact m₂ ⟨x, hx⟩

/-- Each resident sheet of a named task is marked. -/
theorem sheetOf_askTasks {s : State} (ps : List (Launch × Task)) {c k : Nat} {h : Sheet} (e : sheetOf s c k = some h) :
    ∃ h', sheetOf (askTasks s ps) c k = some h' ∧ SheetKeeps h h' ∧
      ((∃ p ∈ ps, ofTask p.1.ctx p.1.index p.2.index h = true) → h'.preempt ≠ 0) := by
  induction ps generalizing s h with
  | nil => exact ⟨h, e, sheetKeeps_refl h, by simp⟩
  | cons q ps ih =>
    obtain ⟨h₁, e₁, k₁, m₁⟩ := sheetOf_askSheets (sheetsWhere s (ofTask q.1.ctx q.1.index q.2.index)) e
    obtain ⟨h₂, e₂, k₂, m₂⟩ := ih e₁
    refine ⟨h₂, e₂, k₁.trans k₂, fun ⟨p, hp, ht⟩ => ?_⟩
    rcases List.mem_cons.mp hp with rfl | hp
    · exact k₂.2 (m₁ ⟨h, mem_sheetsWhere e ht⟩)
    · obtain ⟨hc, hl, hx⟩ := k₁.1
      refine m₂ ⟨p, hp, ?_⟩
      simpa [ofTask, hc, hl, hx] using ht

@[simp] theorem modSheet_mem (s : State) (c k : Nat) (f : Sheet → Sheet) : (modSheet s c k f).mem = s.mem := by
  unfold modSheet
  split <;> rfl

theorem askSheets_mem (s : State) (hs : List (Nat × Nat × Sheet)) : (askSheets s hs).mem = s.mem := by
  induction hs generalizing s with
  | nil => rfl
  | cons h hs ih => exact (ih _).trans (modSheet_mem ..)

theorem askTasks_mem (s : State) (ps : List (Launch × Task)) : (askTasks s ps).mem = s.mem := by
  induction ps generalizing s with
  | nil => rfl
  | cons p ps ih => exact (ih _).trans (askSheets_mem ..)

end Sys2Proof.Machine
end

section
/-!
SUPPORT. What each row of a register write does (02 R471).
-/
namespace Sys2Proof.Machine

/-- A row that carries a write out, on a register that is not frozen. -/
theorem exec_row {s : State} {w : RegWr} {r : CReg} {i : Instr} {f : CReg → State} (hx : exec i s = regEvent s w f)
    (hr : regOf (w.off / 8 * 8) = some r) (hf : frozenFn s r = none) : exec i s = .next (f r) :=
  hx.trans (regEvent_of hr hf f)

theorem fld_afterWrite_clease (old : DWord) {p : Part} (hp : p ≠ .high) (v : DWord) :
    fld (afterWrite .clease old p v) 4 0 = if 12 ≤ fld v 4 0 ∧ fld v 4 0 ≤ 26 then fld v 4 0 else fld old 4 0 := by
  have e : fld (merged .clease old p v) 4 0 = fld v 4 0 := fld_merged_low rfl rfl (by omega) old hp v
  simp only [afterWrite, e, Bool.and_eq_true, decide_eq_true_eq]
  split <;> simp [e]

theorem fld_afterWrite_tokpool (old : DWord) {p : Part} (hp : p ≠ .high) (v : DWord) :
    fld (afterWrite .tokpool old p v) 9 0 = if fld v 9 0 ≤ 512 then fld v 9 0 else fld old 9 0 := by
  have e : fld (merged .tokpool old p v) 9 0 = fld v 9 0 := fld_merged_low rfl rfl (by omega) old hp v
  simp only [afterWrite, e, decide_eq_true_eq]
  split <;> simp [e]

theorem fld_afterWrite_cbudget (old v : DWord) (n : Nat) :
    fld (afterWrite (.cbudget n) old .full v) 15 0 = fld v 15 0 ∧ fld (afterWrite (.cbudget n) old .full v) 47 32 = fld v 47 32 := by
  have hr (i : Nat) (h : i ≤ 15 ∨ 32 ≤ i ∧ i ≤ 47) : (rwMask (.cbudget n)).getLsbD i = true := by
    simp only [rwMask, BitVec.getLsbD_or]
    rw [getLsbD_bitsMask (by omega) (by omega), getLsbD_bitsMask (by omega) (by omega)]
    simp; omega
  exact ⟨fld_merged (by omega) (fun i _ h => hr i (by omega)) rfl old (.inl ⟨rfl, by omega⟩) v,
    fld_merged (by omega) (fun i _ h => hr i (by omega)) rfl old (.inl ⟨rfl, by omega⟩) v⟩

/-- A written 1 clears a bit of CXPEND, and nothing else changes one (07 R185). -/
theorem getLsbD_afterWrite_cxpend (old v : DWord) (b : Nat) {i : Nat} (hi : i < 64) :
    (afterWrite (.cxpend b) old .full v).getLsbD i = (old.getLsbD i && !(v.getLsbD i && decide (i < 45))) := by
  have hm : (bitsMask 63 0).getLsbD i = true := by
    rw [getLsbD_bitsMask (by omega) (by omega)]; simp; omega
  have hc : (bitsMask 44 0).getLsbD i = decide (i < 45) := by
    rw [getLsbD_bitsMask (by omega) (by omega)]; simp; omega
  simp only [afterWrite]
  rw [getLsbD_merged hi]
  simp [rwMask, w1cMask, partMask, partVal, hm, hc]

/-- A router that holds no more stitches than SCLIM evicts none. -/
theorem trimStitches_idle {s : State} {n : Nat} (h : (routerOf s n).stitches.length ≤ fld (rawReg s (.sclim n)) 13 0) (k : Nat) :
    trimStitches s n k = s := by
  cases k with
  | zero => rfl
  | succ k =>
    unfold trimStitches
    exact if_pos ((List.length_filter_le ..).trans h)

theorem leads_sclimWrite {s : State} {w : RegWr} {n : Nat} (hr : regOf (w.off / 8 * 8) = some (.sclim n))
    (hf : frozenFn s (.sclim n) = none) :
    ((routerOf s n).stitches.length ≤ fld (afterWrite (.sclim n) (rawReg s (.sclim n)) w.part w.val) 13 0 →
      Leads s (.sclimWrite w) (fun t => TakesWrite s t w (.sclim n))) ∧
    Leads s (.sclimWrite w) (fun t => rawReg t (.sclim n) = afterWrite (.sclim n) (rawReg s (.sclim n)) w.part w.val) := by
  have hx : exec (.sclimWrite w) s = .next (trimStitches (putReg s w (.sclim n)) n (routerOf s n).stitches.length) :=
    exec_row (i := .sclimWrite w) rfl hr hf
  refine ⟨fun hl => ⟨_, hx, ?_⟩, _, hx, ?_⟩
  · rw [trimStitches_idle (by rw [putReg, rawReg_setReg_same]; exact hl)]
    exact takesWrite_putReg s w _
  · have hn : n < 157 := regOf_inBank _ hr
    dsimp only
    rw [rawReg_of_control (control_trimStitches ..) (not_selfWritten_sclim hn)]
    exact rawReg_setReg_same ..

/-- Replacing TAIL of a register changes no bit outside it. -/
theorem getLsbD_putTail (x : DWord) (n : Nat) {i : Nat} (hi : i < 22 ∨ 34 < i) :
    (BitVec.ofNat 64 (putSlice x.toNat 34 22 n)).getLsbD i = x.getLsbD i := by
  rw [BitVec.getLsbD_ofNat, testBit_putTail _ _ hi]
  by_cases h64 : i < 64
  · simp [h64, BitVec.getLsbD]
  · simp [h64, BitVec.getLsbD_of_ge x i (by omega)]

/-- EVCTL after its TAIL has been judged: it stands, or its TAIL is replaced. -/
theorem putEvctl_cases (s : State) (r : CReg) (old : DWord) : putEvctl s r old = s ∨
    ∃ m, putEvctl s r old = { setReg s r (BitVec.ofNat 64 (putSlice (rawReg s r).toNat 34 22 m)) with free := s.free + 1 } := by
  unfold putEvctl
  simp only
  split
  · exact .inl rfl
  · exact .inr ⟨_, rfl⟩

/-- A register is written and a free value drawn: what stands. -/
theorem setReg_free_spec (s : State) (r : CReg) (v : DWord) (n : Nat) :
    ({ setReg s r v with free := n } : State).mem = s.mem ∧ rawReg { setReg s r v with free := n } r = v ∧
      ∀ q, regOff q ≠ regOff r → rawReg { setReg s r v with free := n } q = rawReg s q :=
  ⟨rfl, rawReg_setReg_same s r v, fun _ hq => rawReg_setReg_ne s v hq⟩

/-- Nothing of EVCTL but its TAIL moves where TAIL is judged, nor does any other register. -/
theorem putEvctl_spec (s : State) (r : CReg) (old : DWord) :
    (putEvctl s r old).mem = s.mem ∧ (∀ q, regOff q ≠ regOff r → rawReg (putEvctl s r old) q = rawReg s q) ∧
      ∀ i, i < 22 ∨ 34 < i → (rawReg (putEvctl s r old) r).getLsbD i = (rawReg s r).getLsbD i := by
  rcases putEvctl_cases s r old with h | ⟨m, h⟩
  · rw [h]
    exact ⟨rfl, fun _ _ => rfl, fun _ _ => rfl⟩
  · obtain ⟨hm, hv, hq⟩ := setReg_free_spec s r (BitVec.ofNat 64 (putSlice (rawReg s r).toNat 34 22 m)) (s.free + 1)
    rw [← h] at hm hv hq
    exact ⟨hm, hq, fun i hi => by rw [hv]; exact getLsbD_putTail _ _ hi⟩

/-- A write of EVCTL moves TAIL as written where it stays between the old TAIL and HEAD; elsewhere TAIL is left open (19 R449). -/
theorem leads_evctlWrite {s : State} {w : RegWr} {f : Nat} (hr : regOf (w.off / 8 * 8) = some (.part f 6))
    (hf : frozenFn s (.part f 6) = none) :
    let r : CReg := .part f 6
    let n := afterWrite r (rawReg s r) w.part w.val
    let ahead (v : DWord) (hi lo : Nat) : Nat := (fld v hi lo + 2 ^ 13 - fld (rawReg s r) 34 22) % 2 ^ 13
    (ahead n 34 22 ≤ ahead (rawReg s r) 47 35 → Leads s (.evctlWrite w) (fun t => TakesWrite s t w r)) ∧
    Leads s (.evctlWrite w) (fun t => t.mem = s.mem ∧ (∀ q, regOff q ≠ regOff r → rawReg t q = rawReg s q) ∧
      ∀ i, i < 22 ∨ 34 < i → (rawReg t r).getLsbD i = n.getLsbD i) := by
  intro r n ahead
  have hx : exec (.evctlWrite w) s = .next (putEvctl (putReg s w r) r (rawReg s r)) := exec_row (i := .evctlWrite w) rfl hr hf
  have hn : rawReg (putReg s w r) r = n := rawReg_setReg_same ..
  obtain ⟨hem, heq, heb⟩ := putEvctl_spec (putReg s w r) r (rawReg s r)
  refine ⟨fun hok => ⟨_, hx, ?_⟩, _, hx, hem, fun q hq => (heq q hq).trans (rawReg_setReg_ne _ _ hq), fun i hi => ?_⟩
  · rw [putEvctl, hn, if_pos hok]
    exact takesWrite_putReg s w r
  · rw [heb i hi, hn]

/-- Function 0's partition registers are read-only (19 R445). -/
theorem exec_partitionWrite_zero {s : State} {w : RegWr} {k : Nat} (hr : regOf (w.off / 8 * 8) = some (.part 0 k))
    (hf : frozenFn s (.part 0 k) = none) : exec (.partitionRegisterWrite w) s = .next s :=
  exec_row (i := .partitionRegisterWrite w) rfl hr hf

/-- A partition that overlaps no other is taken, and one that does changes nothing (19 R445). -/
theorem exec_partitionWrite {s : State} {w : RegWr} {f k : Nat} (hr : regOf (w.off / 8 * 8) = some (.part f k))
    (hf : frozenFn s (.part f k) = none) (hk : k ≤ 4) (h0 : f ≠ 0) :
    let u := putReg s w (.part f k)
    ((∀ g, 0 < g → g < 64 → g ≠ f → sharesItem u f g = false) → exec (.partitionRegisterWrite w) s = .next u) ∧
    (∀ g, 0 < g → g < 64 → g ≠ f → sharesItem u f g = true → exec (.partitionRegisterWrite w) s = .next s) := by
  intro u
  have hx : exec (.partitionRegisterWrite w) s = .next (if f = 0 ∨ 4 < k then s
      else if (List.range 64).any (fun g => g != 0 && g != f && sharesItem u f g) then s else u) :=
    exec_row (i := .partitionRegisterWrite w) rfl hr hf
  rw [if_neg (by omega)] at hx
  constructor
  · intro hno
    rw [hx, if_neg]
    simp only [List.any_eq_true, List.mem_range, Bool.and_eq_true, bne_iff_ne, not_exists, not_and]
    intro g hg ⟨hg0, hgf⟩
    simp [hno g (by omega) hg hgf]
  · intro g hg0 hg hgf hs
    rw [hx, if_pos]
    simp only [List.any_eq_true, List.mem_range, Bool.and_eq_true, bne_iff_ne]
    exact ⟨g, hg, ⟨by omega, hgf⟩, hs⟩

theorem leads_mbtailWrite {s : State} {w : RegWr} (hr : regOf (w.off / 8 * 8) = some .mbtail) (hf : frozenFn s .mbtail = none) :
    Leads s (.mbtailWrite w) (fun t => t.mem = s.mem ∧ t.regs = s.regs ∧
      (w.part = .full → (tget {} t.fns 0).mbtail = w.val)) := by
  refine ⟨putTail s 0 w.part w.val, exec_row (i := .mbtailWrite w) rfl hr hf, rfl, rfl, fun hp => ?_⟩
  simp only [putTail, tget_tput_same, hp]
  exact merged_full rfl rfl ..

/-- A mask whose ports are all down, where one was up, loses the path (19 R457). -/
theorem leads_frouteWrite_lost {s : State} {w : RegWr} {n : Nat} (hr : regOf (w.off / 8 * 8) = some (.froute n))
    (hf : frozenFn s (.froute n) = none) (hup : allDown s (rawReg s (.froute n)).toNat = false)
    (hdn : allDown s (afterWrite (.froute n) (rawReg s (.froute n)) w.part w.val).toNat = true) :
    Leads s (.fabricRegisterWrite w) (fun t => rawReg t (.froute n) = afterWrite (.froute n) (rawReg s (.froute n)) w.part w.val ∧
      ∀ d ∈ peersOf s n, (rawReg t (.fpeer d)).getLsbD 13 = true) := by
  have hx := exec_row (i := .fabricRegisterWrite w) (s := s) rfl hr hf
  obtain ⟨hv, hq, -⟩ := takesWrite_putReg s w (.froute n)
  obtain ⟨hroute, hpeer⟩ := rawReg_pathLost (putReg s w (.froute n)) n
  have hp : peersOf (putReg s w (.froute n)) n = peersOf s n :=
    peersOf_congr (fun d hd => hq _ (by simp only [regOff]; omega)) n
  rw [hp] at hpeer
  refine ⟨_, hx, ?_⟩
  simp only [hup, allDown_putRoute, hv, hdn, Bool.not_false, Bool.and_self, if_true]
  exact ⟨hroute.trans hv, hpeer⟩

/-- FABCFG stands while a line of a peer is held, and so does the FPEER of a peer that is mapped (19 R459). -/
theorem exec_fabricWrite_held {s : State} {w : RegWr} {r : CReg} (hr : regOf (w.off / 8 * 8) = some r) (hf : frozenFn s r = none)
    (h : r = .fabcfg ∨ (∃ d, r = .fpeer d ∧ (rawReg s r).getLsbD 12 = true)) (hp : peerHeld s = true) :
    exec (.fabricRegisterWrite w) s = .next s := by
  have hx := exec_row (i := .fabricRegisterWrite w) (s := s) rfl hr hf
  rcases h with rfl | ⟨d, rfl, h12⟩
  · simpa [hp] using hx
  · simpa [hp, bitN_toNat, h12] using hx

/-- PREQ asks every resident sheet of the tasks that its counter id names (17 R425, R433). -/
theorem leads_preqWrite {s : State} {w : RegWr} (hr : regOf (w.off / 8 * 8) = some .preq) (hf : frozenFn s .preq = none)
    (hp : w.part ≠ .high) :
    Leads s (.preqWrite w) (fun t => t.mem = s.mem ∧
      ∀ c k h l x, sheetOf s c k = some h → (l, x) ∈ tasksNamed s (w.val.toNat % 2 ^ 32) → h.ctx = l.ctx → h.launch = l.index →
        h.task = x.index → ∃ h', sheetOf t c k = some h' ∧ h'.preempt ≠ 0) := by
  have hx : exec (.preqWrite w) s = .next (askTasks s (tasksNamed s (w.val.toNat % 2 ^ 32))) := by
    refine (exec_row (i := .preqWrite w) rfl hr hf).trans ?_
    rw [if_neg (by simp [hp])]
    rfl
  refine ⟨_, hx, askTasks_mem .., fun c k h l x hs hm hc hl ht => ?_⟩
  obtain ⟨h', e', -, hmark⟩ := sheetOf_askTasks (tasksNamed s (w.val.toNat % 2 ^ 32)) hs
  exact ⟨h', e', hmark ⟨(l, x), hm, by simp [ofTask, hc, hl, ht]⟩⟩

/-- The row of a register that has no row of its own carries out the write itself. -/
theorem eq_of_regRow_registerWrite {s : State} {w v : RegWr} (h : regRow s w = .registerWrite v) : v = w := by
  unfold regRow at h
  split at h
  · cases h; rfl
  · split at h
    · cases h
    · split at h
      case h_8 => split at h <;> cases h
      all_goals cases h
      rfl

/-- A row that acts only on registers whose row it is does nothing where its register does not stand (02 R471). -/
theorem exec_idle {s : State} {w : RegWr} {i : Instr} {f : CReg → State} (hx : exec i s = regEvent s w f)
    (h : regOf (w.off / 8 * 8) = none ∨ regRow s w ≠ i)
    (hf : ∀ r, regOf (w.off / 8 * 8) = some r → frozenFn s r = none → regRow s w ≠ i → f r = s) : exec i s = .next s :=
  hx.trans (regEvent_idle fun r hr hz => hf r hr hz (h.resolve_left (by simp [hr])))

/-- A row of one register alone does nothing where that register does not stand. -/
theorem exec_idle_one {s : State} {w : RegWr} {i : Instr} {r₀ : CReg} {g : CReg → State}
    (hx : exec i s = regEvent s w (fun r => if r = r₀ then g r else s)) (h : regOf (w.off / 8 * 8) = none ∨ regRow s w ≠ i)
    (hi : regOf (w.off / 8 * 8) = some r₀ → frozenFn s r₀ = none → regRow s w = i) : exec i s = .next s := by
  refine exec_idle hx h fun r hr hf hne => if_neg ?_
  rintro rfl
  exact hne (hi hr hf)

/-- A write to a frozen register, where no register is frozen. -/
theorem exec_frozenRow_idle {s : State} {w : RegWr} (h : regOf (w.off / 8 * 8) = none ∨ regRow s w ≠ .frozenRegisterWrite w) :
    exec (.frozenRegisterWrite w) s = .next s := by
  change execFrozenRegisterWrite w s = _
  unfold execFrozenRegisterWrite
  split
  · rfl
  · rename_i r hr
    split
    · rename_i f hf
      exact absurd (by simp [regRow, hr, hf]) (h.resolve_left (by simp [hr]))
    · rfl

/-- A row of a register write whose register stands elsewhere does nothing (02 R471). -/
theorem exec_otherRow {s : State} {w : RegWr} {i : Instr} (hi : i ∈ [.sclimWrite w, .cleaseWrite w, .preqWrite w, .tokpoolWrite w,
      .cbudgetWrite w, .counterBankWrite w, .cxpendClear w, .partitionRegisterWrite w, .evctlWrite w, .mbtailWrite w,
      .fabricRegisterWrite w, .registerWrite w, .frozenRegisterWrite w])
    (h : regOf (w.off / 8 * 8) = none ∨ regRow s w ≠ i) : exec i s = .next s := by
  simp only [List.mem_cons, List.not_mem_nil, or_false] at hi
  rcases hi with rfl | rfl | rfl | rfl | rfl | rfl | rfl | rfl | rfl | rfl | rfl | rfl | rfl
  · refine exec_idle rfl h fun r hr hf hne => ?_
    split
    · exact absurd (by simp [regRow, hr, hf]) hne
    · rfl
  · exact exec_idle_one rfl h fun hr hf => by simp [regRow, hr, hf]
  · refine exec_idle rfl h fun r hr hf hne => if_pos (.inl ?_)
    rintro rfl
    exact absurd (by simp [regRow, hr, hf]) hne
  · exact exec_idle_one rfl h fun hr hf => by simp [regRow, hr, hf]
  · refine exec_idle rfl h fun r hr hf hne => ?_
    split
    · exact absurd (by simp [regRow, hr, hf]) hne
    · rfl
  · refine exec_idle rfl h fun r hr hf hne => ?_
    split
    · exact absurd (by simp [regRow, hr, hf]) hne
    · rfl
  · refine exec_idle rfl h fun r hr hf hne => ?_
    split
    · exact absurd (by simp [regRow, hr, hf]) hne
    · rfl
  · refine exec_idle rfl h fun r hr hf hne => ?_
    split
    · rename_i f k
      refine if_pos (.inr (Nat.lt_of_not_le fun hk => hne ?_))
      simp [regRow, hr, hf, hk]
    · rfl
  · refine exec_idle rfl h fun r hr hf hne => ?_
    split
    · rename_i f k
      have hk : k ≤ 4 := by
        by_contra hk
        exact absurd (by simp [regRow, hr, hf, hk]) hne
      rw [if_neg (by omega), if_neg (by omega)]
    · rfl
  · exact exec_idle_one rfl h fun hr hf => by simp [regRow, hr, hf]
  · refine exec_idle rfl h fun r hr hf hne => ?_
    split
    case h_6 => rfl
    all_goals exact absurd (by simp [regRow, hr, hf]) hne
  · refine exec_idle rfl h fun r hr hf hne => ?_
    split
    · rename_i v hv
      rw [eq_of_regRow_registerWrite hv] at hv
      exact absurd hv hne
    · rfl
  · exact exec_frozenRow_idle h

/-- A write to a frozen register puts the interface in ERROR and leaves the register as it is (19 R453, R454). -/
theorem leads_frozenWrite {s : State} {w : RegWr} {r : CReg} {f : Nat} (hr : regOf (w.off / 8 * 8) = some r) (hf : frozenFn s r = some f) :
    ((tget {} s.fns f).tdisp = .error → exec (.frozenRegisterWrite w) s = .next s) ∧
    ((tget {} s.fns f).tdisp ≠ .error → Leads s (.frozenRegisterWrite w) (fun t => .tdispError f ∈ t.hostOut ∧
      (tget {} t.fns f).tdisp = .error ∧ rawReg t r = rawReg s r)) := by
  obtain ⟨hself, h64⟩ := frozenFn_some (regOf_inBank _ hr) hf
  have hx : exec (.frozenRegisterWrite w) s = .next (enterError s f 1 (0xE000000000000 + w.off)) := by
    change execFrozenRegisterWrite w s = _
    simp [execFrozenRegisterWrite, hr, hf]
  refine ⟨fun he => by rw [hx, enterError, if_pos he], fun he => ⟨_, hx, ?_⟩⟩
  unfold enterError
  extract_lets g u rec' v
  rw [if_neg he]
  have hv : control v = control { s with fns := tput s.fns f { g with tdisp := .error } } :=
    (control_postRecord _ (by simp)).trans ((control_postRecord _ h64).trans (control_killFunction ..))
  clear_value v
  refine ⟨by simp, ?_, ?_⟩
  · exact (tdisp_of_control hv f).trans (by simp)
  · exact (rawReg_congr rfl r).trans ((rawReg_of_control hv hself).trans (rawReg_congr rfl r))

/-- A register of the fabric, but where a line of a peer holds it or a path is lost, takes the write (19 R457, R459). -/
theorem leads_fabricWrite {s : State} {w : RegWr} {r : CReg} (hr : regOf (w.off / 8 * 8) = some r) (hf : frozenFn s r = none)
    (h : (∃ p, r = .fport p) ∨ (∃ n, r = .froute n ∧
        (allDown s (rawReg s r).toNat = true ∨ allDown s (afterWrite r (rawReg s r) w.part w.val).toNat = false)) ∨ (∃ n, r = .cfabj n) ∨
      (r = .fabcfg ∧ peerHeld s = false) ∨ (∃ d, r = .fpeer d ∧ ((rawReg s r).getLsbD 12 = false ∨ peerHeld s = false))) :
    Leads s (.fabricRegisterWrite w) (fun t => TakesWrite s t w r) := by
  have hx := exec_row (i := .fabricRegisterWrite w) (s := s) rfl hr hf
  have hput := takesWrite_putReg s w r
  refine ⟨_, hx, ?_⟩
  rcases h with ⟨p, rfl⟩ | ⟨n, rfl, hm⟩ | ⟨n, rfl⟩ | ⟨rfl, hp⟩ | ⟨d, rfl, hp⟩
  · exact hput
  · obtain ⟨hv, -, -⟩ := hput
    dsimp only
    rw [if_neg]
    · exact takesWrite_putReg ..
    · rw [hv, allDown_putRoute]
      rcases hm with hm | hm <;> simp [hm]
  · exact hput
  · simpa [hp] using hput
  · dsimp only
    rw [bitN_toNat, if_neg]
    · exact hput
    · rcases hp with hp | hp <;> rw [hp] <;> simp

/-- Every other register takes the write; the cores note a new step (02 R471, 18 R434). -/
theorem leads_registerWrite {s : State} {w : RegWr} {r : CReg} (hr : regOf (w.off / 8 * 8) = some r) (hf : frozenFn s r = none)
    (h : regRow s w = .registerWrite w) : Leads s (.registerWrite w) (fun t => TakesWrite s t w r) := by
  refine ⟨_, exec_row (i := .registerWrite w) rfl hr hf, ?_⟩
  rw [h]
  exact takesWrite_putReg s w r

/-- Settles O51: each row by its own lemma; a lost path, evicted stitches and killed launches leave the control view alone. -/
theorem registerWrites : Obligations.RegisterWrites := by
  unfold Obligations.RegisterWrites
  refine ⟨fun s w r hr hf => ?_, fun s w i hi h => exec_otherRow hi h, fun s w r f hr hf => leads_frozenWrite hr hf⟩
  have hput := takesWrite_putReg s w r
  obtain ⟨hval, -, -⟩ := takesWrite_putReg s w r
  refine ⟨?clease, ?tokpool, ?cbudget, ?ctr, ?cxpend, ?evbase, ?evctl, ?part0, ?part, ?mbtail, ?lost, ?fabric, ?held, ?other,
    ?sclim, ?evict, ?preqHigh, ?preq⟩
  case clease =>
    rintro rfl
    exact ⟨_, exec_row (i := .cleaseWrite w) rfl hr hf, hput, fun hp => by
      rw [if_pos rfl, hval]; exact fld_afterWrite_clease _ hp _⟩
  case tokpool =>
    rintro rfl
    exact ⟨_, exec_row (i := .tokpoolWrite w) rfl hr hf, hput, fun hp => by
      rw [if_pos rfl, hval]; exact fld_afterWrite_tokpool _ hp _⟩
  case cbudget =>
    rintro n rfl
    exact ⟨_, exec_row (i := .cbudgetWrite w) rfl hr hf, hput, rfl, fun hp => by
      dsimp only; rw [hval, hp]; exact fld_afterWrite_cbudget ..⟩
  case ctr =>
    rintro b i rfl
    exact ⟨_, exec_row (i := .counterBankWrite w) rfl hr hf, hput, fun hp => by
      dsimp only; rw [hval, hp]; exact merged_full rfl rfl ..⟩
  case cxpend =>
    rintro b rfl
    exact ⟨_, exec_row (i := .cxpendClear w) rfl hr hf, hput, fun hp i hi => by
      dsimp only; rw [hval, hp]; exact getLsbD_afterWrite_cxpend _ _ b hi⟩
  case evbase =>
    rintro f rfl
    exact ⟨_, exec_row (i := .evctlWrite w) rfl hr hf, hput⟩
  case evctl =>
    rintro f rfl
    exact leads_evctlWrite hr hf
  case part0 =>
    rintro k _ rfl
    exact exec_partitionWrite_zero hr hf
  case part =>
    rintro f k rfl hk h0
    obtain ⟨hfree, hshared⟩ := exec_partitionWrite hr hf hk h0
    exact ⟨fun h => ⟨_, hfree h, hput⟩, hshared⟩
  case mbtail =>
    rintro rfl
    exact leads_mbtailWrite hr hf
  case lost =>
    rintro n rfl
    exact leads_frouteWrite_lost hr hf
  case fabric => exact leads_fabricWrite hr hf
  case held => exact exec_fabricWrite_held hr hf
  case other => exact leads_registerWrite hr hf
  case sclim =>
    rintro n rfl
    exact (leads_sclimWrite hr hf).1
  case evict =>
    rintro n rfl
    exact (leads_sclimWrite hr hf).2
  case preqHigh =>
    rintro rfl hp
    exact (exec_row (i := .preqWrite w) rfl hr hf).trans (by rw [if_pos (.inr hp)])
  case preq =>
    rintro rfl hp
    exact leads_preqWrite hr hf hp

end Sys2Proof.Machine
end

section
/-!
SUPPORT. The memory of a state, and the updates that leave it alone: every update of the model but for the writers of bytes of memory
(04 R102) named further down.
-/
namespace Sys2Proof.Machine

/-- The memory of a state. (A function of its own, so that `simp` and the kernel compare states and do not compute with them.) -/
def State.memory (s : State) : List Host.Cell := s.mem

theorem memory_of_eq {s t : State} (h : t.mem = s.mem) : t.memory = s.memory := h

/-- An update that names its fields shows its memory. -/
theorem memory_mk {ticks agenda work cur couple free nextId mem poison flagged mixed cores clusters dies routers msgs unpicks homeTx accs
    owed regs ctxs launches asyncs gather tokenWait tokenBar sensors thermalStop intervalStart fns atomicOpEnable ports emsen emsenOut
        fabIn hostOut tiles bootClear images stopped} :
    State.memory ⟨ticks, agenda, work, cur, couple, free, nextId, mem, poison, flagged, mixed, cores, clusters, dies, routers, msgs,
        unpicks, homeTx, accs, owed, regs, ctxs, launches, asyncs, gather, tokenWait, tokenBar, sensors, thermalStop, intervalStart, fns,
          atomicOpEnable, ports, emsen, emsenOut, fabIn, hostOut, tiles, bootClear, images, stopped⟩ = mem := by rw [State.memory]

/-- An update of other fields keeps the memory. -/
@[simp] theorem memory_update {s : State}
    {ticks agenda work cur couple free nextId poison flagged mixed cores clusters dies routers msgs unpicks homeTx accs owed regs ctxs
        launches asyncs gather tokenWait tokenBar sensors thermalStop intervalStart fns atomicOpEnable ports emsen emsenOut fabIn hostOut
          tiles bootClear images stopped} :
    State.memory ⟨ticks, agenda, work, cur, couple, free, nextId, s.mem, poison, flagged, mixed, cores, clusters, dies, routers, msgs,
        unpicks, homeTx, accs, owed, regs, ctxs, launches, asyncs, gather, tokenWait, tokenBar, sensors, thermalStop, intervalStart, fns,
          atomicOpEnable, ports, emsen, emsenOut, fabIn, hostOut, tiles, bootClear, images, stopped⟩ = s.memory := by rw [memory_mk,
          State.memory]

@[simp] theorem ite_memory (p : Prop) [Decidable p] (a b : State) : (if p then a else b).memory = if p then a.memory else b.memory :=
  apply_ite State.memory p a b

theorem ite_memory_eq {p : Prop} [Decidable p] {a b : State} {m : List Host.Cell} (ha : a.memory = m) (hb : b.memory = m) :
    (if p then a else b).memory = m := by rw [ite_memory, ha, hb, ite_self]

/-- A fold whose step keeps the memory of the state that it carries keeps it. -/
theorem foldl_memory_of {β γ : Type} (g : γ → State) {f : γ → β → γ} (h : ∀ a b, (g (f a b)).memory = (g a).memory) (l : List β) (a : γ) :
    (g (l.foldl f a)).memory = (g a).memory := by
  induction l generalizing a with
  | nil => rfl
  | cons b l ih => exact (ih _).trans (h a b)

@[simp] theorem foldl_memory {β : Type} {f : State → β → State} (l : List β) (s : State) (h : ∀ s b, (f s b).memory = s.memory) :
    (l.foldl f s).memory = s.memory := foldl_memory_of id h l s

/-! ### Regs -/

@[simp] theorem setReg_memory (s : State) (r : CReg) (v : DWord) : (setReg s r v).memory = s.memory := memory_of_eq rfl

/-! ### Phys -/

@[simp] theorem dropPrivate_memory (s : State) (cluster line : Nat) : (dropPrivate s cluster line).memory = s.memory := memory_of_eq rfl
@[simp] theorem dropHeld_memory (s : State) (cluster line : Nat) : (dropHeld s cluster line).memory = s.memory := memory_of_eq rfl
@[simp] theorem dropStitches_memory (s : State) (line : Nat) : (dropStitches s line).memory = s.memory := memory_of_eq rfl
@[simp] theorem discard_memory (s : State) (line : Nat) : (discard s line).memory = s.memory := by simp [discard]
@[simp] theorem setFlag_memory (s : State) (region : Nat) (v : Bool) : (setFlag s region v).memory = s.memory := by simp [setFlag]

/-! ### Translate -/

@[simp] theorem noteMixed_memory (s : State) (e : TlbEntry) : (noteMixed s e).memory = s.memory := by
  fun_cases noteMixed s e <;> simp
@[simp] theorem tlbFill_memory (s : State) (core : Nat) (e : TlbEntry) : (tlbFill s core e).memory = s.memory := by simp [tlbFill]

/-! ### Ops -/

@[simp] theorem setCore_memory (s : State) (c : Nat) (k : Core) : (setCore s c k).memory = s.memory := memory_of_eq rfl
@[simp] theorem setCluster_memory (s : State) (c : Nat) (k : Cluster) : (setCluster s c k).memory = s.memory := memory_of_eq rfl
@[simp] theorem setLeaf_memory (s : State) (c e : Nat) (l : Leaf) : (setLeaf s c e l).memory = s.memory := memory_of_eq rfl
@[simp] theorem setSheet_memory (s : State) (c slot : Nat) (h : Sheet) : (setSheet s c slot h).memory = s.memory := memory_of_eq rfl
@[simp] theorem modSheet_memory (s : State) (c slot : Nat) (f : Sheet → Sheet) : (modSheet s c slot f).memory = s.memory := by
  fun_cases modSheet s c slot f <;> simp
@[simp] theorem postNow_memory (s : State) (a : Agendum) : (postNow s a).memory = s.memory := memory_of_eq rfl
@[simp] theorem postWork_memory (s : State) (i : Instr) : (postWork s i).memory = s.memory := memory_of_eq rfl
@[simp] theorem fresh_memory (s : State) : (fresh s).2.memory = s.memory := memory_of_eq rfl
@[simp] theorem modLaunch_memory (s : State) (ctx index : Nat) (f : Launch → Launch) :
    (modLaunch s ctx index f).memory = s.memory := memory_of_eq rfl
@[simp] theorem modTask_memory (s : State) (ctx launch task : Nat) (f : Task → Task) :
    (modTask s ctx launch task f).memory = s.memory := memory_of_eq rfl
@[simp] theorem killLaunch_memory (s : State) (ctx launch : Nat) (why : KillWhy) (cause status : Nat) (pc : DWord) :
    (killLaunch s ctx launch why cause status pc).memory = s.memory := memory_of_eq rfl
@[simp] theorem moveEntry_memory (s : State) (c a b : Nat) : (moveEntry s c a b).memory = s.memory := by
  unfold moveEntry
  dsimp only
  (repeat' split) <;> simp
@[simp] theorem promote_memory (s : State) (c slot : Nat) : (promote s c slot).memory = s.memory := by
  fun_cases promote s c slot <;> simp
@[simp] theorem wakeStalled_memory (s : State) (c : Nat) : (wakeStalled s c).memory = s.memory :=
  foldl_memory _ _ fun s p => by split <;> simp
@[simp] theorem freeLeaf_memory (s : State) (c e : Nat) : (freeLeaf s c e).memory = s.memory := by
  fun_cases freeLeaf s c e <;> simp
@[simp] theorem blockLeaf_memory (s : State) (c e : Nat) (w : Wait) : (blockLeaf s c e w).memory = s.memory := by
  fun_cases blockLeaf s c e w <;> simp
@[simp] theorem retireAt_memory (s : State) (c e : Nat) (h : Hdr) (ends : Bool) (pc : DWord) :
    (retireAt s c e h ends pc).memory = s.memory := by
  fun_cases retireAt s c e h ends pc <;> simp
@[simp] theorem addLeaf_memory (s : State) (c e : Nat) (x : Leaf) (mask : Mask) (pc : DWord) (checkTgt : Bool) :
    (addLeaf s c e x mask pc checkTgt).memory = s.memory := memory_of_eq rfl
@[simp] theorem signalVec_memory (s : State) (fn vec : Nat) : (signalVec s fn vec).memory = s.memory := by simp [signalVec]
@[simp] theorem enterHandler_memory (s : State) (c e : Nat) (l : Leaf) (h : Sheet) (r : FaultRec) :
    (enterHandler s c e l h r).memory = s.memory := by
  fun_cases enterHandler s c e l h r <;> simp
@[simp] theorem trapRec_memory (s : State) (c e : Nat) (r : FaultRec) : (trapRec s c e r).memory = s.memory := by
  fun_cases trapRec s c e r <;> simp
@[simp] theorem sheetTrap_memory (s : State) (x : Iss) (cause status : Nat) :
    (sheetTrap s x cause status).memory = s.memory := by simp [sheetTrap]
@[simp] theorem putSReg_memory (s : State) (x : Iss) (i : Nat) (v : DWord) : (putSReg s x i v).memory = s.memory := by simp [putSReg]
@[simp] theorem putPhys_memory (s : State) (c g : Nat) (m : Mask) (v : Nat → Word) :
    (putPhys s c g m v).memory = s.memory := by simp [putPhys]
@[simp] theorem leaveHandler_memory (s : State) (c e : Nat) (l : Leaf) (pc : DWord) :
    (leaveHandler s c e l pc).memory = s.memory := memory_of_eq rfl

/-! ### Operands -/

@[simp] theorem setTag_memory (s : State) (c n : Nat) (t : Tag) : (setTag s c n t).memory = s.memory := memory_of_eq rfl
@[simp] theorem consumeTag_memory (s : State) (c n : Nat) : (consumeTag s c n).memory = s.memory := by simp [consumeTag]
@[simp] theorem consumeSrc_memory (s : State) (x : Iss) (uses : List (Opd × Role)) (act : Mask) :
    (consumeSrc s x uses act).memory = s.memory :=
  memory_of_eq (by rw [consumeSrc_rest])
@[simp] theorem doneOp_memory (s : State) (x : Iss) (h : Hdr) : (doneOp s x h).memory = s.memory := by simp [doneOp]
@[simp] theorem addFlight_memory (s : State) (x : Iss) (c : Nat) (m : Mask) (lat : Nat) :
    (addFlight s x c m lat).memory = s.memory := by simp [addFlight]
@[simp] theorem dropPending_memory (s : State) (x : Iss) (c : Nat) (m : Mask) : (dropPending s x c m).memory = s.memory := memory_of_eq rfl
@[simp] theorem putElem_memory (s : State) (x : Iss) (c : Nat) (m : Mask) (v : Nat → Nat) : (putElem s x c m v).memory = s.memory := by
  fun_cases putElem s x c m v <;> simp
@[simp] theorem writeElem_memory (s : State) (x : Iss) (c : Nat) (m : Mask) (lat : Nat) (v : Nat → Nat) :
    (writeElem s x c m lat v).memory = s.memory := by simp [writeElem]
@[simp] theorem writeOpd_memory (s : State) (x : Iss) (m : Mask) (c : Nat) (w64 sx : Bool) (lat : Nat) (v : Nat → Nat) :
    (writeOpd s x m c w64 sx lat v).memory = s.memory := by simp [writeOpd]

/-! ### Flags -/

@[simp] theorem markRaise_memory (s : State) (x : Iss) (m k : Mask) : (markRaise s x m k).memory = s.memory := by simp [markRaise]
@[simp] theorem raiseFlags_memory (s : State) (x : Iss) (m : Mask) (lat : Nat) (f : Nat → Flags) :
    (raiseFlags s x m lat f).memory = s.memory := by simp [raiseFlags]
@[simp] theorem clearFlags_memory (s : State) (x : Iss) (m : Mask) (lat : Nat) (sel : Flags) :
    (clearFlags s x m lat sel).memory = s.memory := by simp [clearFlags]

/-! ### Int -/

@[simp] theorem writePreds_memory (s : State) (x : Iss) (act : Mask) (lat : Nat) (p p2 : Opd) (v v2 : Nat → Bool) :
    (writePreds s x act lat p p2 v v2).memory = s.memory := by simp [writePreds]

/-! ### Convert -/

@[simp] theorem advanceGen_memory (s : State) (c slot : Nat) (f : Nat → Bool) :
    (advanceGen s c slot f).memory = s.memory := by simp [advanceGen]

/-! ### Control -/

@[simp] theorem leaveCheck_memory (s : State) (c e : Nat) (later : Bool) : (leaveCheck s c e later).memory = s.memory := by
  fun_cases leaveCheck s c e later <;> simp
@[simp] theorem splitStall_memory (s : State) (c e : Nat) : (splitStall s c e).memory = s.memory := by
  fun_cases splitStall s c e <;> simp
@[simp] theorem setMask_memory (s : State) (c e : Nat) (m : Mask) : (setMask s c e m).memory = s.memory := by
  fun_cases setMask s c e m <;> simp
@[simp] theorem shareRec_memory (s : State) (c e n : Nat) : (shareRec s c e n).memory = s.memory := by
  fun_cases shareRec s c e n <;> simp
@[simp] theorem newLeaves_memory (s : State) (c e : Nat) (gs : List (Mask × DWord × Bool)) (pool : List Nat) :
    (newLeaves s c e gs pool).memory = s.memory := by
  fun_induction newLeaves s c e gs pool with
  | case1 s g gs n pool l _ ih => simpa using ih
  | case2 | case3 => rfl
@[simp] theorem divide_memory (s : State) (x : Iss) (h : Hdr) (ends : Bool) (t n : Mask) (target : DWord) (later first : Bool)
    (link : State → State) (hl : ∀ u, (link u).memory = u.memory) :
    (divide s x h ends t n target later first link).memory = s.memory := by
  unfold divide
  dsimp only
  split
  · simp [hl]
  · split
    · simp
    · split <;> simp [hl]
@[simp] theorem transfer_memory (s : State) (x : Iss) (h : Hdr) (ends : Bool) (t : Mask) (target : DWord) (tgt first : Bool)
    (link : State → State) (hl : ∀ u, (link u).memory = u.memory) :
    (transfer s x h ends t target tgt first link).memory = s.memory := by
  fun_cases transfer s x h ends t target tgt first link <;> simp [hl]
@[simp] theorem scatter_memory (s : State) (x : Iss) (h : Hdr) (gs : List (Mask × DWord × Bool)) :
    (scatter s x h gs).memory = s.memory := by
  unfold scatter
  dsimp only
  (repeat' split) <;> simp
@[simp] theorem writeLink_memory (x : Iss) (t : Mask) (c : Nat) (s : State) : (writeLink x t c s).memory = s.memory := by simp [writeLink]

/-! ### Tags -/

@[simp] theorem pendTag_memory (s : State) (c n : Nat) (op : TagOp) : (pendTag s c n op).memory = s.memory := memory_of_eq rfl
@[simp] theorem completeTag_memory (s : State) (c n status : Nat) (va : DWord) :
    (completeTag s c n status va).memory = s.memory := memory_of_eq rfl
@[simp] theorem withTag_memory (s : State) (x : Iss) (t : Opd) (f : Nat → State) (hf : ∀ n, (f n).memory = s.memory) :
    (withTag s x t f).memory = s.memory := by
  fun_cases withTag s x t f <;> simp [hf]
@[simp] theorem startAsync_memory (s : State) (x : Iss) (m : Mask) (tag : Nat) (scope : BitVec 3) (k : AsyncKind) :
    (startAsync s x m tag scope k).2.memory = s.memory := memory_of_eq rfl
@[simp] theorem dropAsync_memory (s : State) (id : Nat) : (dropAsync s id).memory = s.memory := memory_of_eq rfl
@[simp] theorem modAsync_memory (s : State) (id : Nat) (f : Async → Async) : (modAsync s id f).memory = s.memory := memory_of_eq rfl

/-! ### GatherOps -/

@[simp] theorem setG_memory (s : State) (i : Nat) (g : GEntry) : (setG s i g).memory = s.memory := memory_of_eq rfl
@[simp] theorem mapSlots_memory (s : State) (w : Word) (f : Member → Member) : (mapSlots s w f).memory = s.memory := memory_of_eq rfl
@[simp] theorem endTags_memory (s : State) (w : Word) (ph status : Nat) (value : Word) :
    (endTags s w ph status value).memory = s.memory := memory_of_eq rfl
@[simp] theorem repause_memory (s : State) (i : Nat) : (repause s i).memory = s.memory := by
  fun_cases repause s i <;> simp
@[simp] theorem emit_memory (s : State) (m : EmsenOut) : (emit s m).memory = s.memory := memory_of_eq rfl
@[simp] theorem finishPhase_memory (s : State) (i status : Nat) (value : Word) :
    (finishPhase s i status value).memory = s.memory := memory_of_eq rfl
@[simp] theorem tryComplete_memory (s : State) (i : Nat) : (tryComplete s i).memory = s.memory := by simp [tryComplete]
@[simp] theorem tellHome_memory (s : State) (i : Nat) : (tellHome s i).memory = s.memory := by simp [tellHome]
@[simp] theorem settle_memory (s : State) (i : Nat) : (settle s i).memory = s.memory := by simp [settle]
@[simp] theorem beginPhase_memory (s : State) (i kind op : Nat) : (beginPhase s i kind op).memory = s.memory := by simp [beginPhase]
@[simp] theorem abortHere_memory (s : State) (i status : Nat) : (abortHere s i status).memory = s.memory := memory_of_eq rfl
@[simp] theorem abortG_memory (s : State) (i status : Nat) : (abortG s i status).memory = s.memory := by simp [abortG]
@[simp] theorem reportCount_memory (s : State) (i : Nat) : (reportCount s i).memory = s.memory := by simp [reportCount]
@[simp] theorem departSlot_memory (s : State) (c slot k : Nat) (m : Mask) (killed : Bool) :
    (departSlot s c slot k m killed).memory = s.memory := by
  unfold departSlot
  dsimp only
  (repeat' split) <;> simp
@[simp] theorem departAll_memory (s : State) (c slot : Nat) (m : Mask) (killed : Bool) :
    (departAll s c slot m killed).memory = s.memory := by simp [departAll]
@[simp] theorem departAway_memory (s : State) (p : Away → Bool) : (departAway s p).memory = s.memory := by simp [departAway]
@[simp] theorem holdTags_memory (s : State) (c : Nat) (h : Sheet) : (holdTags s c h).memory = s.memory := by simp [holdTags]
@[simp] theorem sheetAway_memory (s : State) (h : Sheet) : (sheetAway s h).memory = s.memory := foldl_memory _ _ fun s k => by
  dsimp only
  split
  · rfl
  · split <;> simp
@[simp] theorem sheetBack_memory (s : State) (h : Sheet) : (sheetBack s h).memory = s.memory := by simp [sheetBack]
@[simp] theorem restoreSlots_memory (s : State) (c slot : Nat) : (restoreSlots s c slot).memory = s.memory := by
  unfold restoreSlots
  dsimp only
  (repeat' split) <;> simp

/-! ### Gather -/

@[simp] theorem putResult_memory (s : State) (x : Iss) (m : Mask) (c : Opd) (w64 : Bool) (v : Nat) :
    (putResult s x m c w64 v).memory = s.memory := by simp [putResult]
@[simp] theorem newEntry_memory (s : State) (i : Nat) (g : GEntry) : (newEntry s i g).memory = s.memory := memory_of_eq rfl
@[simp] theorem findOrMake_memory (s : State) (ctx core : Nat) (scope : BitVec 3) (owner : Nat) (name : Word) (dl : Nat) (strict : Bool) :
    (findOrMake s ctx core scope owner name dl strict).1.memory = s.memory := by
  unfold findOrMake
  dsimp only
  (repeat' split) <;> simp
@[simp] theorem askHome_memory (s : State) (x : Iss) (dev : Nat) (m : Nat → Nat → EmsenOut) :
    (askHome s x dev m).memory = s.memory := by simp [askHome]
@[simp] theorem gnewDone_memory (s : State) (x : Iss) (m : Mask) (f : FmtG) (h : Word) (st : Nat) :
    (gnewDone s x m f h st).memory = s.memory := by simp [gnewDone]
@[simp] theorem tagAtOnce_memory (s : State) (x : Iss) (n : Nat) (w : Word) (st : BitVec 4) :
    (tagAtOnce s x n w st).memory = s.memory := memory_of_eq rfl
@[simp] theorem owedTag_memory (s : State) (x : Iss) (n : Nat) (m : Member) : (owedTag s x n m).memory = s.memory := memory_of_eq rfl
@[simp] theorem arrive_memory (s : State) (x : Iss) (i k n : Nat) (w : Word) (m : Mask) (kind op : Nat) (val : Nat → Word) :
    (arrive s x i k n w m kind op val).memory = s.memory := by simp [arrive]
@[simp] theorem freeG_memory (s : State) (i : Nat) : (freeG s i).memory = s.memory := by simp [freeG]
@[simp] theorem tryFree_memory (s : State) (i : Nat) : (tryFree s i).1.memory = s.memory := by
  fun_cases tryFree s i <;> simp
@[simp] theorem renumber_memory (s : State) (i phase : Nat) : (renumber s i phase).memory = s.memory := memory_of_eq rfl
@[simp] theorem shadowLost_memory (s : State) (i : Nat) : (shadowLost s i).memory = s.memory := memory_of_eq rfl
@[simp] theorem homeLoses_memory (s : State) (i dev : Nat) : (homeLoses s i dev).memory = s.memory := by simp [homeLoses]
@[simp] theorem gatherPathLost_memory (s : State) (dev : Nat) : (gatherPathLost s dev).memory = s.memory := by simp [gatherPathLost]
@[simp] theorem gatherLeaseLost_memory (s : State) (cluster : Nat) :
    (gatherLeaseLost s cluster).memory = s.memory := by simp [gatherLeaseLost]
@[simp] theorem gatherDestroy_memory (s : State) (ctx : Nat) : (gatherDestroy s ctx).memory = s.memory := by simp [gatherDestroy]

/-! ### Leave -/

@[simp] theorem leaveLanes_memory (s : State) (c e : Nat) (m : Mask) (killed : Bool) : (leaveLanes s c e m killed).memory = s.memory := by
  unfold leaveLanes
  dsimp only
  (repeat' split) <;> simp
@[simp] theorem placeLeaves_memory (s : State) (c slot k : Nat) (es : List ListEntry) (ns : List Nat) :
    (placeLeaves s c slot k es ns).memory = s.memory := by
  fun_induction placeLeaves s c slot k es ns with
  | case1 | case3 => rfl
  | case2 s e t n ns t' ih => simpa using ih
@[simp] theorem rebuild_memory (s : State) (x : Iss) (h : Hdr) : (rebuild s x h).memory = s.memory := by
  unfold rebuild
  dsimp only
  split
  · simp
  · split <;> simp
@[simp] theorem leaveAt_memory (s : State) (x : Iss) (h : Hdr) (pc : DWord) : (leaveAt s x h pc).memory = s.memory := by
  fun_cases leaveAt s x h pc <;> simp

/-! ### Mesh -/

@[simp] theorem setStitches_memory (s : State) (r : Nat) (ts : List Stitch) : (setStitches s r ts).memory = s.memory := memory_of_eq rfl
@[simp] theorem modStitch_memory (s : State) (r line : Nat) (f : Stitch → Stitch) :
    (modStitch s r line f).memory = s.memory := memory_of_eq rfl
@[simp] theorem dropStitch_memory (s : State) (r line : Nat) : (dropStitch s r line).memory = s.memory := memory_of_eq rfl
@[simp] theorem useStitch_memory (s : State) (r line : Nat) : (useStitch s r line).memory = s.memory := by
  fun_cases useStitch s r line <;> simp
@[simp] theorem modLine_memory (s : State) (k line : Nat) (f : CLine → CLine) : (modLine s k line f).memory = s.memory := memory_of_eq rfl
@[simp] theorem renewLine_memory (s : State) (k line : Nat) : (renewLine s k line).memory = s.memory := by simp [renewLine]
@[simp] theorem sendMsg_memory (s : State) (m : Msg) : (sendMsg s m).memory = s.memory := by simp [sendMsg]
@[simp] theorem sendPort_memory (s : State) (r p : Nat) (m : Msg) : (sendPort s r p m).memory = s.memory := by
  fun_cases sendPort s r p m <;> simp
@[simp] theorem dropMsg_memory (s : State) (id : Nat) : (dropMsg s id).memory = s.memory := memory_of_eq rfl
@[simp] theorem putMsg_memory (s : State) (m : Msg) : (putMsg s m).memory = s.memory := memory_of_eq rfl
@[simp] theorem moveMsg_memory (s : State) (m : Msg) : (moveMsg s m).memory = s.memory := by simp [moveMsg]
@[simp] theorem markRenewal_memory (s : State) (m : Msg) : (markRenewal s m).memory = s.memory := by simp [markRenewal]
@[simp] theorem hop_memory (s : State) (m : Msg) (p : Nat) : (hop s m p).memory = s.memory := by
  fun_cases hop s m p <;> simp
@[simp] theorem prune_memory (s : State) (r line : Nat) : (prune s r line).memory = s.memory := by
  fun_cases prune s r line <;> simp
@[simp] theorem setUnpick_memory (s : State) (u : Unpick) : (setUnpick s u).memory = s.memory := memory_of_eq rfl
@[simp] theorem dropUnpick_memory (s : State) (r line : Nat) : (dropUnpick s r line).memory = s.memory := memory_of_eq rfl
@[simp] theorem touchLine_memory (s : State) (k line : Nat) (evp : Nat) : (touchLine s k line evp).memory = s.memory := by
  fun_cases touchLine s k line evp <;> simp
@[simp] theorem giveUp_memory (s : State) (k r : Nat) (l : CLine) : (giveUp s k r l).memory = s.memory := by
  unfold giveUp
  dsimp only
  (repeat' split) <;> simp
@[simp] theorem dropLine_memory (s : State) (k : Nat) (l : CLine) : (dropLine s k l).memory = s.memory := by simp [dropLine]
@[simp] theorem fillLine_memory (s : State) (k : Nat) (l : CLine) (evp : Nat) : (fillLine s k l evp).memory = s.memory := by
  unfold fillLine
  dsimp only
  (repeat' split) <;> simp
@[simp] theorem touchL1_memory (s : State) (core line evp : Nat) : (touchL1 s core line evp).memory = s.memory := by simp [touchL1]
@[simp] theorem dropL1_memory (s : State) (k line : Nat) (except : Option Nat) :
    (dropL1 s k line except).memory = s.memory := memory_of_eq rfl

/-! ### Window -/

@[simp] theorem chipPut_memory (s : State) (c : Nat) (acc : Bool) (o : Nat) (bs : List Byte) :
    (chipPut s c acc o bs).memory = s.memory := memory_of_eq rfl
@[simp] theorem chipMark_memory (s : State) (c : Nat) (acc : Bool) (o n : Nat) (v : Bool) :
    (chipMark s c acc o n v).memory = s.memory := memory_of_eq rfl
@[simp] theorem spoilOp_memory (s : State) (c op : Nat) : (spoilOp s c op).memory = s.memory := by simp [spoilOp]
@[simp] theorem chipWrite_memory (s : State) (c : Nat) (acc : Bool) (o : Nat) (bs : List Byte) :
    (chipWrite s c acc o bs).memory = s.memory := by
  fun_cases chipWrite s c acc o bs <;> simp
@[simp] theorem noteHit_memory (s : State) (w : Nat × Window) (lo hi : Nat) : (noteHit s w lo hi).memory = s.memory := memory_of_eq rfl
@[simp] theorem dropDests_memory (s : State) (c lo n : Nat) : (dropDests s c lo n).memory = s.memory := by simp [dropDests]
@[simp] theorem chipStore_memory (s : State) (c : Nat) (acc : Bool) (o : Nat) (bs : List Byte) :
    (chipStore s c acc o bs).memory = s.memory := by
  unfold chipStore
  dsimp only
  (repeat' split) <;> simp
@[simp] theorem noteTable_memory (s : State) (a n : Nat) : (noteTable s a n).memory = s.memory := by simp [noteTable]
@[simp] theorem putCtlWord_memory (s : State) (c o : Nat) (w : Word) : (putCtlWord s c o w).memory = s.memory := by simp [putCtlWord]
@[simp] theorem windowRegs_memory (s : State) (c off : Nat) (words : List Word) (store : Bool) :
    (windowRegs s c off words store).memory = s.memory := by
  unfold windowRegs
  dsimp only
  split
  · rfl
  · split <;> simp
@[simp] theorem windowWrite_memory (s : State) (c off : Nat) (bs : List Byte) : (windowWrite s c off bs).memory = s.memory := by
  unfold windowWrite
  split
  · simp
  · split <;> simp

/-! ### Access -/

@[simp] theorem dropAcc_memory (s : State) (id : Nat) : (dropAcc s id).memory = s.memory := memory_of_eq rfl
@[simp] theorem modAcc_memory (s : State) (id : Nat) (f : Acc → Acc) : (modAcc s id f).memory = s.memory := memory_of_eq rfl
@[simp] theorem writeWords_memory (s : State) (a : Acc) (ws : List Nat) : (writeWords s a ws).memory = s.memory := by
  fun_cases writeWords s a ws <;> simp
/-- Parking lanes, whichever way it ends, touches no memory (02 R38). -/
@[simp] theorem parkLanes_memory (s : State) (c e : Nat) (pc : DWord) (fs : List LaneFault) (late : Option Nat) :
    (parkLanes s c e pc fs late).state.memory = s.memory := by
  fun_cases parkLanes s c e pc fs late <;> simp [Parked.state]

theorem memory_of_parked {s t : State} {c e : Nat} {pc : DWord} {fs : List LaneFault} {late : Option Nat}
    (h : parkLanes s c e pc fs late = .some' t ∨ parkLanes s c e pc fs late = .all t) : t.memory = s.memory := by
  rw [← parkLanes_memory s c e pc fs late]
  rcases h with h | h <;> rw [h] <;> rfl
@[simp] theorem joinParked_memory (s : State) (c e : Nat) (l : Leaf) (n : Nat) (p : Leaf) (f : LaneFault) :
    (joinParked s c e l n p f).memory = s.memory := by simp [joinParked]
@[simp] theorem parkLate_memory (s : State) (c slot issue : Nat) (pc : DWord) (fs : List LaneFault) :
    (parkLate s c slot issue pc fs).memory = s.memory := foldl_memory _ _ fun s p => by
  dsimp only
  split
  · refine foldl_memory _ _ fun s f => ?_
    split <;> simp
  · split
    · split <;> rename_i h
      · exact memory_of_parked (.inl h)
      · exact memory_of_parked (.inr h)
    · rfl
@[simp] theorem fetchFault_memory (s : State) (c e : Nat) (l : Leaf) (cause status : Nat) :
    (fetchFault s c e l cause status).memory = s.memory := by
  unfold fetchFault
  split <;> rename_i h
  · exact memory_of_parked (.inr h)
  · exact memory_of_parked (.inl h)
@[simp] theorem touchIcache_memory (s : State) (c line : Nat) : (touchIcache s c line).memory = s.memory := memory_of_eq rfl
@[simp] theorem checkFetched_memory (s : State) (c e : Nat) (l : Leaf) (bs : List Byte) :
    (checkFetched s c e l bs).memory = s.memory := by simp [checkFetched]
@[simp] theorem takeFetch_memory (s : State) (a : Acc) (bs : List Byte) : (takeFetch s a bs).memory = s.memory := by
  fun_cases takeFetch s a bs <;> simp
@[simp] theorem dropYounger_memory (s : State) (c slot lane id : Nat) : (dropYounger s c slot lane id).memory = s.memory := memory_of_eq rfl
@[simp] theorem faultAccs_memory (s : State) (fs : List (Acc × Nat × Nat)) : (faultAccs s fs).memory = s.memory := by simp [faultAccs]
@[simp] theorem performed_memory (s : State) (a : Acc) : (performed s a).memory = s.memory := by simp [performed]
@[simp] theorem unsent_memory (s : State) (id : Nat) : (unsent s id).memory = s.memory := memory_of_eq rfl

/-! ### Coherence -/

@[simp] theorem askTile_memory (s : State) (line : Nat) (write : Bool) (src : Nat) :
    (askTile s line write src).memory = s.memory := by simp [askTile]
@[simp] theorem staleMsg_memory (s : State) (m : Msg) : (staleMsg s m).memory = s.memory := by simp [staleMsg]
@[simp] theorem askLine_memory (s : State) (dev : Nat) (use : EmsenUse) (m : Nat → Nat → EmsenOut) :
    (askLine s dev use m).memory = s.memory := by simp [askLine]
@[simp] theorem dropAsk_memory (s : State) (use : EmsenUse) : (dropAsk s use).memory = s.memory := memory_of_eq rfl
@[simp] theorem foldAcross_memory (s : State) (line : Nat) (pte : DWord) (v : PartialLine) :
    (foldAcross s line pte v).memory = s.memory := by simp [foldAcross]
@[simp] theorem recallTile_memory (s : State) (dev line r : Nat) : (recallTile s dev line r).memory = s.memory := by simp [recallTile]
@[simp] theorem recallLine_memory (s : State) (line : Nat) : (recallLine s line).memory = s.memory := by simp [recallLine]
@[simp] theorem askFor_memory (s : State) (r line : Nat) (write : Bool) : (askFor s r line write).memory = s.memory := by simp [askFor]
@[simp] theorem putCopy_memory (s : State) (k : Nat) (l : CLine) : (putCopy s k l).memory = s.memory := memory_of_eq rfl
@[simp] theorem tileStep_memory (s : State) (f : FabIn) : (tileStep s f).memory = s.memory := by
  unfold tileStep
  dsimp only
  generalize f.tile.getD false = w
  split
  · simp
  · refine ite_memory_eq (by simp) (foldl_memory _ _ fun s l => ?_)
    split <;> simp
@[simp] theorem tileSteps_memory (s : State) (r tile : Nat) : (tileSteps s r tile).memory = s.memory := by
  fun_cases tileSteps s r tile <;> simp
@[simp] theorem agentTakes_answers_memory (s : State) (m : Msg) (mine : FabIn → Bool) :
    (agentTakes.answers s m mine).memory = s.memory := by
  simp [agentTakes.answers]
@[simp] theorem agentTakes_memory (s : State) (m : Msg) (st : Moesic) : (agentTakes s m st).memory = s.memory := by
  fun_cases agentTakes s m st <;> simp
@[simp] theorem takePartial_memory (s : State) (r line : Nat) : (takePartial s r line).1.memory = s.memory := by
  unfold takePartial
  split
  · exact foldl_memory_of Prod.fst (fun a h => by simp) _ _
  · split
    · split <;> simp
    · rfl
@[simp] theorem ackThrough_memory (s : State) (r p line : Nat) (u : Unpick) :
    (ackThrough s r p line u).memory = s.memory := by simp [ackThrough]
@[simp] theorem homeRespond_memory (s : State) (m : Msg) (kind : MsgKind) (st : Moesic) (own : Bool) (d : List Byte × BitVec 16) :
    (homeRespond s m kind st own d).memory = s.memory := by simp [homeRespond]
@[simp] theorem holderRespond_memory (s : State) (m : Msg) (d : List Byte × BitVec 16) :
    (holderRespond s m d).memory = s.memory := by simp [holderRespond]
@[simp] theorem openTx_memory (s : State) (m : Msg) (keep : Option Nat) : (openTx s m keep).memory = s.memory := by
  unfold openTx
  dsimp only
  (repeat' split) <;> simp
@[simp] theorem openGather_memory (s : State) (m : Msg) : (openGather s m).1.memory = s.memory := by
  unfold openGather
  dsimp only
  (repeat' split) <;> simp
@[simp] theorem closeTx_memory (s : State) (line : Nat) : (closeTx s line).memory = s.memory := memory_of_eq rfl
@[simp] theorem staleTx_memory (s : State) (m : Msg) : (staleTx s m).memory = s.memory := by simp [staleTx]
@[simp] theorem countFor_memory (s : State) (op : Nat) (st : Moesic) : (countFor s op st).memory = s.memory := by
  fun_cases countFor s op st <;> simp
@[simp] theorem countDiscard_memory (s : State) (line : Nat) (st : Moesic) : (countDiscard s line st).memory = s.memory := by
  fun_cases countDiscard s line st <;> simp
@[simp] theorem invalLocal_memory (s : State) (r line : Nat) (keep : Option Nat) : (invalLocal s r line keep).1.memory = s.memory := by
  unfold invalLocal
  split
  · rfl
  · refine (foldl_memory_of Prod.fst (fun v h => ?_) _ _).trans ?_
    · split <;> simp
    · split <;> simp
@[simp] theorem answerLost_memory (s : State) (m : Msg) : (answerLost s m).memory = s.memory := by simp [answerLost]
@[simp] theorem homeward_memory (s : State) (m : Msg) : (homeward s m).memory = s.memory := by
  fun_cases homeward s m <;> simp
@[simp] theorem renewAll_memory (s : State) (k : Nat) (p : CLine → Bool) : (renewAll s k p).memory = s.memory := memory_of_eq rfl
@[simp] theorem request_memory (s : State) (a : Acc) : (request s a).memory = s.memory := by simp [request]

/-! ### Memory -/

@[simp] theorem postRegWrite_memory (s : State) (w : RegWr) : (postRegWrite s w).memory = s.memory := memory_of_eq rfl
@[simp] theorem queueWalk_memory (s : State) (core entry ctx va : Nat) :
    (queueWalk s core entry ctx va).memory = s.memory := by simp [queueWalk]
@[simp] theorem dropWalkFaults_memory (s : State) (core entry : Nat) :
    (dropWalkFaults s core entry).memory = s.memory := by simp [dropWalkFaults]
@[simp] theorem waitWalks_memory (s : State) (x : Iss) (vas : List Nat) : (waitWalks s x vas).memory = s.memory := by simp [waitWalks]
@[simp] theorem tlbTouch_memory (s : State) (x : Iss) (va : Nat) : (tlbTouch s x va).memory = s.memory := by
  fun_cases tlbTouch s x va <;> simp
@[simp] theorem addAcc_memory (s : State) (x : Iss) (a : Acc) : (addAcc s x a).memory = s.memory := memory_of_eq rfl
@[simp] theorem failAcc_memory (s : State) (id status : Nat) : (failAcc s id status).memory = s.memory := memory_of_eq rfl
@[simp] theorem raiseHostAtomic_memory (s : State) (a : Acc) : (raiseHostAtomic s a).memory = s.memory := by
  unfold raiseHostAtomic
  dsimp only
  (repeat' split) <;> simp
@[simp] theorem sendEmsen_memory (s : State) (a : Acc) (dev : Nat) : (sendEmsen s a dev).memory = s.memory := memory_of_eq rfl
@[simp] theorem noteOutside_memory (s : State) (x : Iss) (as : List Acc) : (noteOutside s x as).memory = s.memory := by simp [noteOutside]
@[simp] theorem freshReg_memory (s : State) (x : Iss) (c : Nat) : (freshReg s x c).memory = s.memory := by simp [freshReg]
@[simp] theorem hostFail_memory (s : State) (a : Acc) (status : Nat) : (hostFail s a status).memory = s.memory := by simp [hostFail]
@[simp] theorem sendCas_memory (s : State) (a : Acc) (seen attempt : Nat) : (sendCas s a seen attempt).memory = s.memory := memory_of_eq rfl
@[simp] theorem endWalk_memory (s : State) (d id : Nat) : (endWalk s d id).memory = s.memory := memory_of_eq rfl
@[simp] theorem faultWalk_memory (s : State) (d : Nat) (w : Walk) (status : Nat) :
    (faultWalk s d w status).memory = s.memory := by simp [faultWalk]

/-! ### Range -/

@[simp] theorem startOp_memory (s : State) (x : Iss) (act : Mask) (tag : Nat) (scope : BitVec 3) (k : AsyncKind) :
    (startOp s x act tag scope k).memory = s.memory := memory_of_eq rfl
@[simp] theorem rangeStart_memory (s : State) (a : Async) (inv : Bool) (asp : Nat) (va : DWord) (len : Nat) :
    (rangeStart s a inv asp va len).memory = s.memory := by simp [rangeStart]
@[simp] theorem startFetch_memory (s : State) (core entry : Nat) (a : Acc) :
    (startFetch s core entry a).memory = s.memory := by simp [startFetch]

/-! ### Tensor -/

@[simp] theorem engWindow_memory (s : State) (c o : Nat) (bs : List Byte) : (engWindow s c o bs).memory = s.memory := by simp [engWindow]

/-! ### Copy -/

@[simp] theorem askPeer_memory (s : State) (op : Nat) (write : Bool) (data : Nat → Nat → List Byte) (parts : List (Nat × Nat × Nat)) :
    (askPeer s op write data parts).memory = s.memory := by simp [askPeer]
@[simp] theorem dropReqs_memory (s : State) (op : Nat) : (dropReqs s op).memory = s.memory := memory_of_eq rfl
@[simp] theorem withPeers_memory (s : State) (x : Iss) (rs : List (Nat × Nat)) (f : State → State) (hf : ∀ u, (f u).memory = u.memory) :
    (withPeers s x rs f).memory = s.memory := by
  unfold withPeers
  dsimp only
  split
  · exact hf s
  · split
    · split <;> simp [hf]
    · simp
@[simp] theorem withLoad_memory (s : State) (x : Iss) (act : Mask) (va n : Nat) (f : State → State) (hf : ∀ u, (f u).memory = u.memory) :
    (withLoad s x act va n f).memory = s.memory := by
  fun_cases withLoad s x act va n f <;> simp [hf]
@[simp] theorem leaderFault_memory (s : State) (x : Iss) (h : Hdr) (act : Mask) (cause status va : Nat) :
    (leaderFault s x h act cause status va).memory = s.memory := by
  unfold leaderFault
  split
  · simp
  · split <;> rename_i h
    · exact memory_of_parked (.inr h)
    · simp [memory_of_parked (.inl h)]
@[simp] theorem issueCopy_memory (s : State) (x : Iss) (act : Mask) (tag : Nat) (scope : BitVec 3) (a : CopyArgs) :
    (issueCopy s x act tag scope a).memory = s.memory := memory_of_eq rfl
@[simp] theorem setRing_memory (s : State) (k r : Nat) (g : Ring) : (setRing s k r g).memory = s.memory := memory_of_eq rfl
@[simp] theorem acquireSlot_memory (s : State) (k r i : Nat) : (acquireSlot s k r i).memory = s.memory := by simp [acquireSlot]
@[simp] theorem consume_memory (s : State) (x : Iss) (h : Hdr) (act : Mask) (ts : List Nat) (dst v : Nat) :
    (consume s x h act ts dst v).memory = s.memory := by simp [consume]
@[simp] theorem acquireTag_memory (s : State) (c n : Nat) : (acquireTag s c n).memory = s.memory := by simp [acquireTag]
@[simp] theorem clearRegs_memory (s : State) (runs : List (Nat × List Byte)) : (clearRegs s runs).memory = s.memory := by simp [clearRegs]
@[simp] theorem pullLines_memory (s : State) (a : Async) (kind : AccKind) (evp : BitVec 3) (ls : List (Nat × DWord)) :
    (pullLines s a kind evp ls).memory = s.memory := by simp [pullLines]
@[simp] theorem endOp_memory (s : State) (a : Async) (status : Nat) (va : DWord) : (endOp s a status va).memory = s.memory := by
  unfold endOp
  dsimp only
  (repeat' split) <;> simp
@[simp] theorem noteEngineOut_memory (s : State) (a : Async) (rs : List (Nat × Nat)) :
    (noteEngineOut s a rs).memory = s.memory := by simp [noteEngineOut]
@[simp] theorem askSnap_memory (s : State) (a : Async) (ps : List Nat) : (askSnap s a ps).memory = s.memory := by simp [askSnap]
@[simp] theorem sendWrites_memory (s : State) (op : Nat) (runs : List (Nat × Nat × List Byte)) :
    (sendWrites s op runs).memory = s.memory := by simp [sendWrites]
@[simp] theorem noteDests_memory (s : State) (a : Async) (c : CopyArgs) : (noteDests s a c).memory = s.memory := by simp [noteDests]

/-! ### Matrix -/

@[simp] theorem askToken_memory (s : State) (c : Nat) : (askToken s c).memory = s.memory := by simp [askToken]
@[simp] theorem noteEmpty_memory (s : State) (c : Nat) : (noteEmpty s c).memory = s.memory := by simp [noteEmpty]
@[simp] theorem enqueue_memory (s : State) (c : Nat) (qs : List QOp) : (enqueue s c qs).memory = s.memory := by simp [enqueue]
@[simp] theorem askWords_memory (s : State) (c : Nat) (q : QOp) : (askWords s c q).memory = s.memory := by simp [askWords]
@[simp] theorem endQuarter_memory (s : State) (c : Nat) (q : QOp) (status : Nat) :
    (endQuarter s c q status).memory = s.memory := by simp [endQuarter]
@[simp] theorem finishQuarter_memory (s : State) (c : Nat) (q : QOp) : (finishQuarter s c q).1.memory = s.memory := by
  unfold finishQuarter
  dsimp only
  (repeat' split) <;> simp
@[simp] theorem zeroTile_memory (s : State) (c o : Nat) : (zeroTile s c o).memory = s.memory := by
  refine (chipWrite_memory ..).trans ?_
  split
  · exact setCore_memory ..
  · rfl

/-! ### Array -/

@[simp] theorem placeImage_memory (s : State) (x : Iss) (i : ArrayImage) : (placeImage s x i).memory = s.memory := by simp [placeImage]
@[simp] theorem putBank_memory (s : State) (c b i : Nat) (v : BitVec 16) : (putBank s c b i v).memory = s.memory := memory_of_eq rfl
@[simp] theorem endPart_memory (s : State) (p : Contribution) (status : Nat) : (endPart s p status).memory = s.memory := by simp [endPart]
@[simp] theorem endRound_memory (s : State) (k : Nat) (r : Round) (status : Nat) :
    (endRound s k r status).memory = s.memory := by simp [endRound]
@[simp] theorem cancelRounds_memory (s : State) (k ctx launch task : Nat) :
    (cancelRounds s k ctx launch task).memory = s.memory := by simp [cancelRounds]
@[simp] theorem addPart_memory (s : State) (x : Iss) (tag : Nat) (o : RedOpds) : (addPart s x tag o).memory = s.memory := by
  unfold addPart
  dsimp only
  (repeat' split) <;> simp

/-! ### Levels -/

@[simp] theorem modCtx_memory (s : State) (ctx : Nat) (f : Ctx → Ctx) : (modCtx s ctx f).memory = s.memory := by
  fun_cases modCtx s ctx f <;> simp
@[simp] theorem modLevel_memory (s : State) (ctx cid : Nat) (f : Level → Level) :
    (modLevel s ctx cid f).memory = s.memory := by simp [modLevel]
@[simp] theorem endLevel_memory (s : State) (ctx cid : Nat) (cancelled : Bool) :
    (endLevel s ctx cid cancelled).memory = s.memory := by simp [endLevel]
@[simp] theorem countUp_memory (s : State) (ctx cid n : Nat) (cancelled : Bool) :
    (countUp s ctx cid n cancelled).memory = s.memory := by simp [countUp]
@[simp] theorem graphDone_memory (s : State) (ctx g : Nat) (cancelled : Bool) :
    (graphDone s ctx g cancelled).memory = s.memory := by simp [graphDone]
@[simp] theorem dropLaunch_memory (s : State) (l : Launch) (ok : Bool) : (dropLaunch s l ok).memory = s.memory := by
  unfold dropLaunch
  dsimp only
  rw [ite_memory, graphDone_memory, ite_self, modLevel_memory, modLevel_memory]
  split
  · exact setReg_memory ..
  · rfl
@[simp] theorem cancelLaunch_memory (s : State) (l : Launch) : (cancelLaunch s l).memory = s.memory := by simp [cancelLaunch]
@[simp] theorem makeEligible_memory (s : State) : (makeEligible s).memory = s.memory := memory_of_eq rfl
@[simp] theorem cascade_memory (s : State) (n : Nat) : (cascade s n).memory = s.memory := by
  fun_induction cascade s n with
  | case1 | case3 => rfl
  | case2 s n l _ ih => simpa using ih
@[simp] theorem settleStore_memory (s : State) : (settleStore s).memory = s.memory := by simp [settleStore]
@[simp] theorem settleLaunch_memory (s : State) (ctx launch : Nat) : (settleLaunch s ctx launch).memory = s.memory := by
  fun_cases settleLaunch s ctx launch <;> simp
@[simp] theorem zeroBlock_memory (s : State) (c scr size tile n : Nat) :
    (zeroBlock s c scr size tile n).memory = s.memory := memory_of_eq rfl
@[simp] theorem dropSheet_memory (s : State) (c slot : Nat) : (dropSheet s c slot).memory = s.memory := by
  unfold dropSheet
  dsimp only
  (repeat' split) <;> simp
@[simp] theorem freeRings_memory (s : State) (p : Nat → Nat → Nat → Bool) : (freeRings s p).memory = s.memory := by simp [freeRings]
@[simp] theorem spoilTiles_memory (s : State) (l : Launch) (t : Task) : (spoilTiles s l t).memory = s.memory := by simp [spoilTiles]

/-! ### Sched -/

@[simp] theorem taskDone_memory (s : State) (l : Launch) : (taskDone s l).memory = s.memory := by simp [taskDone]
@[simp] theorem sheetDone_memory (s : State) (l : Launch) (task : Nat) : (sheetDone s l task).memory = s.memory := by
  unfold sheetDone
  dsimp only
  (repeat' split) <;> simp
@[simp] theorem taskGone_memory (s : State) (h : Sheet) (st : Nat) : (taskGone s h st).memory = s.memory := by simp [taskGone]

/-! ### Preempt -/

@[simp] theorem notePreempt_memory (s : State) (c : Nat) (h : Sheet) : (notePreempt s c h).memory = s.memory := by simp [notePreempt]

/-! ### Work -/

@[simp] theorem wakeDone_memory (s : State) (x : Iss) (h : Hdr) : (wakeDone s x h).memory = s.memory := by
  fun_cases wakeDone s x h <;> simp

/-! ### System -/

@[simp] theorem dropTranslations_memory (s : State) (form ctx va count : Nat) :
    (dropTranslations s form ctx va count).memory = s.memory := memory_of_eq rfl
@[simp] theorem postHost_memory (s : State) (fn : Nat) (msg : List Byte) : (postHost s fn msg).memory = s.memory := by simp [postHost]
@[simp] theorem fwAnswer_memory (s : State) (a : Async) (va : DWord) (msg : List Byte) (status : Nat) (data : List Byte) :
    (fwAnswer s a va msg status data).memory = s.memory := memory_of_eq rfl

/-! ### Power -/

@[simp] theorem refillBudgets_memory (s : State) : (refillBudgets s).memory = s.memory :=
  foldl_memory _ _ fun s c => by
    dsimp only
    split <;> simp
@[simp] theorem carryDebt_memory (s : State) (ctx : Nat) : (carryDebt s ctx).memory = s.memory := by
  unfold carryDebt
  split
  · rfl
  · exact setReg_memory ..
@[simp] theorem sampleSensor_memory (s : State) (n tcur : Nat) : (sampleSensor s n tcur).memory = s.memory :=
  setReg_memory ..

/-! ### RegWrite -/

@[simp] theorem putReg_memory (s : State) (w : RegWr) (r : CReg) : (putReg s w r).memory = s.memory := memory_of_eq rfl
@[simp] theorem putEvctl_memory (s : State) (r : CReg) (old : DWord) : (putEvctl s r old).memory = s.memory :=
  (putEvctl_spec s r old).1
@[simp] theorem putTail_memory (s : State) (fn : Nat) (p : Part) (v : DWord) : (putTail s fn p v).memory = s.memory := memory_of_eq rfl

/-! ### Host -/

@[simp] theorem giveLines_memory (s : State) (agent a n : Nat) : (giveLines s agent a n).memory = s.memory :=
  foldl_memory _ _ fun s l => by split <;> simp
@[simp] theorem applyUpset_memory (s : State) (u : Upset) : (applyUpset s u).memory = s.memory := by
  fun_cases applyUpset s u <;> simp
@[simp] theorem complete_memory (s : State) (r : HostReq) (bs : List Byte) : (complete s r bs).memory = s.memory := memory_of_eq rfl
@[simp] theorem unsupported_memory (s : State) (r : HostReq) : (unsupported s r).memory = s.memory := memory_of_eq rfl
@[simp] theorem destroyCtx_memory (s : State) (ctx : Nat) : (destroyCtx s ctx).memory = s.memory := by simp [destroyCtx]
@[simp] theorem scrubLines_memory (s : State) (lo hi : Nat) : (scrubLines s lo hi).memory = s.memory := by simp [scrubLines]
@[simp] theorem tdispRefuse_memory (s : State) (fn : Nat) : (tdispRefuse s fn).memory = s.memory := memory_of_eq rfl
@[simp] theorem tdispMove_memory (s : State) (fn : Nat) (t : Tdisp) : (tdispMove s fn t).memory = s.memory := memory_of_eq rfl

/-! ### Fabric -/

@[simp] theorem modPort_memory (s : State) (p : Nat) (f : Port → Port) : (modPort s p f).memory = s.memory := memory_of_eq rfl
@[simp] theorem tileFailed_memory (s : State) (line status : Nat) : (tileFailed s line status).memory = s.memory := by simp [tileFailed]
@[simp] theorem tileWaiters_memory (s : State) (tile : Nat) : (tileWaiters s tile).1.memory = s.memory := memory_of_eq rfl
@[simp] theorem failTile_memory (s : State) (line cause status : Nat) :
    (failTile s line cause status).memory = s.memory := by simp [failTile]
@[simp] theorem tileStitch_memory (s : State) (r tile : Nat) : (tileStitch s r tile).memory = s.memory := by
  fun_cases tileStitch s r tile <;> simp
@[simp] theorem addShadow_memory (s : State) (h : Word) (dev : Nat) : (addShadow s h dev).memory = s.memory := by
  fun_cases addShadow s h dev <;> simp
@[simp] theorem askedTile_memory (s : State) (port dev tile : Nat) (write : Bool) :
    (askedTile s port dev tile write).memory = s.memory := by
  fun_cases askedTile s port dev tile write <;> simp
@[simp] theorem gathDone_memory (s : State) (core entry dev status : Nat) (data : List Byte) :
    (gathDone s core entry dev status data).memory = s.memory := by
  unfold gathDone
  dsimp only
  (repeat' split) <;> simp
@[simp] theorem answerReq_memory (s : State) (req : Nat) (data : List Byte) (fail : Nat) :
    (answerReq s req data fail).memory = s.memory := memory_of_eq rfl

/-! ### Issue -/

@[simp] theorem wakeCore_memory (s : State) (c : Nat) : (wakeCore s c).memory = s.memory :=
  foldl_memory _ _ fun s p => by
    split
    · split <;> simp
    · rfl
@[simp] theorem dropWaiter_memory (s : State) (c e : Nat) : (dropWaiter s c e).memory = s.memory := by simp [dropWaiter]
@[simp] theorem startRun_memory (s : State) (c e : Nat) (l : Leaf) : (startRun s c e l).memory = s.memory := by simp [startRun]
@[simp] theorem noteIssue_memory (s : State) (c : Nat) : (noteIssue s c).memory = s.memory := by simp [noteIssue]
@[simp] theorem sendIdle_memory (s : State) : (sendIdle s).memory = s.memory := by simp [sendIdle]
@[simp] theorem lapse_memory (s : State) (n : Nat) : (lapse s n).memory = s.memory := by simp [lapse]

/-! ### Next -/

@[simp] theorem agentAsk_memory (s : State) (r : Nat) (write : Bool) (line : Nat) : (agentAsk s r write line).memory = s.memory := by
  fun_cases agentAsk s r write line <;> simp

end Sys2Proof.Machine
end

section
/-!
SUPPORT. What a row of the opcode table does to the canonical form of memory (02 R23, 04 R102), and the rows that write no byte of memory.
-/
namespace Sys2Proof.Machine

/-- The canonical form of memory, of the memory alone. -/
def Canon (m : List Host.Cell) : Prop := twf (0 : Byte) m = true

/-- What a row answers keeps memory canonical. -/
def Keeps (s : State) (o : Host.Outcome State Fault Refusal) : Prop := ∀ t, o = .next t → Canon s.memory → Canon t.memory

@[simp] theorem keeps_next {s t : State} : Keeps s (.next t) ↔ (Canon s.memory → Canon t.memory) := by simp [Keeps]
@[simp] theorem keeps_fault (s : State) (f : Fault) : Keeps s (.fault f) := by simp [Keeps]
@[simp] theorem keeps_refused (s : State) (r : Refusal) : Keeps s (.refused r) := by simp [Keeps]

theorem keeps_of_memory {s t : State} (h : t.memory = s.memory) : Keeps s (.next t) := keeps_next.2 fun hs => h ▸ hs

theorem keeps_issueOp_of_canon {s : State} {h : Hdr} {g : Sig} {body : State → Iss → Mask → State}
    (hb : ∀ t x act, Canon t.memory → Canon (body t x act).memory) : Keeps s (issueOp s h g body) := by
  unfold issueOp
  split
  · simp
  · split
    · exact keeps_of_memory (by simp)
    · exact keeps_of_memory (by simp)
    · exact keeps_of_memory (by simp)
    · exact keeps_next.2 fun hs => hb _ _ _ (by simpa using hs)

@[simp] theorem keeps_issueOp {s : State} {h : Hdr} {g : Sig} {body : State → Iss → Mask → State}
    (hb : ∀ t x act, (body t x act).memory = t.memory) : Keeps s (issueOp s h g body) :=
  keeps_issueOp_of_canon fun t x act ht => (hb t x act) ▸ ht

theorem keeps_plainOp_of_canon {s : State} {h : Hdr} {g : Sig} {f : State → Iss → Mask → State}
    (hf : ∀ t x act, Canon t.memory → Canon (f t x act).memory) : Keeps s (plainOp s h g f) :=
  keeps_issueOp_of_canon fun t x act ht => by simpa using hf t x act ht

@[simp] theorem keeps_plainOp {s : State} {h : Hdr} {g : Sig} {f : State → Iss → Mask → State}
    (hf : ∀ t x act, (f t x act).memory = t.memory) : Keeps s (plainOp s h g f) :=
  keeps_plainOp_of_canon fun t x act ht => (hf t x act) ▸ ht

theorem keeps_activeOp_of_canon {s : State} {h : Hdr} {g : Sig} {f : State → Iss → Mask → State}
    (hf : ∀ t x act, Canon t.memory → Canon (f t x act).memory) : Keeps s (activeOp s h g f) :=
  keeps_issueOp_of_canon fun t x act ht => by
    split
    · simpa using ht
    · exact hf t x act ht

@[simp] theorem keeps_activeOp {s : State} {h : Hdr} {g : Sig} {f : State → Iss → Mask → State}
    (hf : ∀ t x act, (f t x act).memory = t.memory) : Keeps s (activeOp s h g f) :=
  keeps_activeOp_of_canon fun t x act ht => (hf t x act) ▸ ht

@[simp] theorem noteSteps_memory (old s : State) : (noteSteps old s).memory = s.memory := memory_of_eq rfl

@[simp] theorem grants_memory (s : State) (c n : Nat) : (grants s c n).memory = s.memory := by
  fun_induction grants s c n with
  | case1 | case3 => rfl
  | case2 s n e l _ ih => simpa using ih

@[simp] theorem afterAccs_memory {s : State} {x : Iss} {act : Mask} {f : State} (hf : f.memory = s.memory) :
    (afterAccs s x act f).memory = s.memory := by
  fun_cases afterAccs s x act f
  · exact hf
  · simp

@[simp] theorem withReads_memory {s : State} {x : Iss} {codes : List Nat} {act : Mask} {f : State} (hf : f.memory = s.memory) :
    (withReads s x codes act f).memory = s.memory := by
  fun_cases withReads s x codes act f <;> simp [hf]

@[simp] theorem withCoords_memory {s : State} {x : Iss} {act : Mask} {c rank : Nat} {f : State} (hf : f.memory = s.memory) :
    (withCoords s x act c rank f).memory = s.memory := by
  fun_cases withCoords s x act c rank f
  · simp
  · exact withReads_memory hf

@[simp] theorem withAnswers_memory {s : State} {a : Async} {rs : List (Nat × Nat)} {f : State} (hf : f.memory = s.memory) :
    (withAnswers s a rs f).memory = s.memory := by
  fun_cases withAnswers s a rs f <;> simp [hf]

@[simp] theorem keeps_regEvent {s : State} {w : RegWr} {f : CReg → State} (hf : ∀ r, (f r).memory = s.memory) : Keeps s (regEvent s w f) :=
  keeps_of_memory <| by
    split
    · rfl
    · exact ite_memory_eq rfl (hf _)

@[simp] theorem keeps_fwRow {s : State} {op cmd : Nat} {run : Nat → List Byte → State × Nat × List Byte}
    (hr : ∀ n bs, (run n bs).1.memory = s.memory) : Keeps s (fwRow s op cmd run) := by
  refine keeps_of_memory ?_
  split
  · rfl
  · split
    · split <;> simp [hr]
    · rfl

/-! ### Int -/

@[simp] theorem keeps_intOp (f : FmtR) (imm : Option (BitVec 32)) (hasB hasC satOk signedOnly : Bool) (lat : Nat)
    (op : Nat → Int → Int → Int → Int) (s : State) :
    Keeps s (intOp f imm hasB hasC satOk signedOnly lat op s) := by simp [intOp]
@[simp] theorem keeps_execIadd (f : FmtR) (s : State) : Keeps s (execIadd f s) := by simp [execIadd]
@[simp] theorem keeps_execIadd3 (f : FmtR) (s : State) : Keeps s (execIadd3 f s) := by simp [execIadd3]
@[simp] theorem keeps_execIsub (f : FmtR) (s : State) : Keeps s (execIsub f s) := by simp [execIsub]
@[simp] theorem keeps_execImul (f : FmtR) (s : State) : Keeps s (execImul f s) := by simp [execImul]
@[simp] theorem keeps_execImulh (f : FmtR) (s : State) : Keeps s (execImulh f s) := by simp [execImulh]
@[simp] theorem keeps_execImad (f : FmtR) (s : State) : Keeps s (execImad f s) := by simp [execImad]
@[simp] theorem keeps_execImin (f : FmtR) (s : State) : Keeps s (execImin f s) := by simp [execImin]
@[simp] theorem keeps_execImax (f : FmtR) (s : State) : Keeps s (execImax f s) := by simp [execImax]
@[simp] theorem keeps_execIabs (f : FmtR) (s : State) : Keeps s (execIabs f s) := by simp [execIabs]
@[simp] theorem keeps_execIaddImm (f : FmtI) (s : State) : Keeps s (execIaddImm f s) := by simp [execIaddImm]
@[simp] theorem keeps_execIsubImm (f : FmtI) (s : State) : Keeps s (execIsubImm f s) := by simp [execIsubImm]
@[simp] theorem keeps_execImulImm (f : FmtI) (s : State) : Keeps s (execImulImm f s) := by simp [execImulImm]
@[simp] theorem keeps_execImulhImm (f : FmtI) (s : State) : Keeps s (execImulhImm f s) := by simp [execImulhImm]
@[simp] theorem keeps_execIminImm (f : FmtI) (s : State) : Keeps s (execIminImm f s) := by simp [execIminImm]
@[simp] theorem keeps_execImaxImm (f : FmtI) (s : State) : Keeps s (execImaxImm f s) := by simp [execImaxImm]
@[simp] theorem keeps_logicOp (f : FmtR) (imm : Option (BitVec 32)) (hasB : Bool) (op : Nat → Nat → Nat → Nat) (s : State) :
    Keeps s (logicOp f imm hasB op s) := by simp [logicOp]
@[simp] theorem keeps_shiftOp (f : FmtR) (imm : Option (BitVec 32)) (modOk : Bool) (op : Nat → Nat → Nat → Nat) (s : State) :
    Keeps s (shiftOp f imm modOk op s) := by simp [shiftOp]
@[simp] theorem keeps_execAnd (f : FmtR) (s : State) : Keeps s (execAnd f s) := by simp [execAnd]
@[simp] theorem keeps_execOr (f : FmtR) (s : State) : Keeps s (execOr f s) := by simp [execOr]
@[simp] theorem keeps_execXor (f : FmtR) (s : State) : Keeps s (execXor f s) := by simp [execXor]
@[simp] theorem keeps_execNot (f : FmtR) (s : State) : Keeps s (execNot f s) := by simp [execNot]
@[simp] theorem keeps_execShl (f : FmtR) (s : State) : Keeps s (execShl f s) := by simp [execShl]
@[simp] theorem keeps_execShr (f : FmtR) (s : State) : Keeps s (execShr f s) := by simp [execShr]
@[simp] theorem keeps_execSar (f : FmtR) (s : State) : Keeps s (execSar f s) := by simp [execSar]
@[simp] theorem keeps_execRot (f : FmtR) (s : State) : Keeps s (execRot f s) := by simp [execRot]
@[simp] theorem keeps_execAndImm (f : FmtI) (s : State) : Keeps s (execAndImm f s) := by simp [execAndImm]
@[simp] theorem keeps_execOrImm (f : FmtI) (s : State) : Keeps s (execOrImm f s) := by simp [execOrImm]
@[simp] theorem keeps_execXorImm (f : FmtI) (s : State) : Keeps s (execXorImm f s) := by simp [execXorImm]
@[simp] theorem keeps_execShlImm (f : FmtI) (s : State) : Keeps s (execShlImm f s) := by simp [execShlImm]
@[simp] theorem keeps_execShrImm (f : FmtI) (s : State) : Keeps s (execShrImm f s) := by simp [execShrImm]
@[simp] theorem keeps_execSarImm (f : FmtI) (s : State) : Keeps s (execSarImm f s) := by simp [execSarImm]
@[simp] theorem keeps_execRotImm (f : FmtI) (s : State) : Keeps s (execRotImm f s) := by simp [execRotImm]
@[simp] theorem keeps_execBfe (f : FmtR) (s : State) : Keeps s (execBfe f s) := by simp [execBfe]
@[simp] theorem keeps_execBfi (f : FmtR) (s : State) : Keeps s (execBfi f s) := by simp [execBfi]
@[simp] theorem keeps_countOp (f : FmtR) (op : Nat → Nat → Nat) (s : State) : Keeps s (countOp f op s) := by simp [countOp]
@[simp] theorem keeps_execPopc (f : FmtR) (s : State) : Keeps s (execPopc f s) := by simp [execPopc]
@[simp] theorem keeps_execClz (f : FmtR) (s : State) : Keeps s (execClz f s) := by simp [execClz]
@[simp] theorem keeps_execBrev (f : FmtR) (s : State) : Keeps s (execBrev f s) := by simp [execBrev]
@[simp] theorem keeps_execSel (f : FmtR) (s : State) : Keeps s (execSel f s) := by simp [execSel]
@[simp] theorem keeps_execMov (f : FmtR) (s : State) : Keeps s (execMov f s) := by simp [execMov]
@[simp] theorem keeps_execMovi (f : FmtI) (s : State) : Keeps s (execMovi f s) := by simp [execMovi]
@[simp] theorem keeps_leaOp (f : FmtR) (imm : Option (BitVec 32)) (s : State) : Keeps s (leaOp f imm s) := by simp [leaOp]
@[simp] theorem keeps_execLea (f : FmtR) (s : State) : Keeps s (execLea f s) := by simp [execLea]
@[simp] theorem keeps_execLeaImm (f : FmtI) (s : State) : Keeps s (execLeaImm f s) := by simp [execLeaImm]
@[simp] theorem keeps_icmpOp (f : FmtR) (imm : Option (BitVec 32)) (s : State) : Keeps s (icmpOp f imm s) := by simp [icmpOp]
@[simp] theorem keeps_execIcmp (f : FmtR) (s : State) : Keeps s (execIcmp f s) := by simp [execIcmp]
@[simp] theorem keeps_execIcmpImm (f : FmtI) (s : State) : Keeps s (execIcmpImm f s) := by simp [execIcmpImm]
@[simp] theorem keeps_execPset (f : FmtR) (s : State) : Keeps s (execPset f s) := by simp [execPset]
@[simp] theorem keeps_execPlop (f : FmtR) (s : State) : Keeps s (execPlop f s) := by simp [execPlop]
@[simp] theorem keeps_execPmov (f : FmtR) (s : State) : Keeps s (execPmov f s) := by simp [execPmov]

/-! ### Float -/

@[simp] theorem keeps_floatOp (f : FmtR) (imm : Option (BitVec 32)) (hasB hasC modsIn satIn : Bool)
    (op : Bool → RMode → Bool → Fmt → Nat → Nat → Nat → Out) (s : State) :
    Keeps s (floatOp f imm hasB hasC modsIn satIn op s) := by simp [floatOp]
@[simp] theorem keeps_execFadd (f : FmtR) (s : State) : Keeps s (execFadd f s) := by simp [execFadd]
@[simp] theorem keeps_execFsub (f : FmtR) (s : State) : Keeps s (execFsub f s) := by simp [execFsub]
@[simp] theorem keeps_execFmul (f : FmtR) (s : State) : Keeps s (execFmul f s) := by simp [execFmul]
@[simp] theorem keeps_execFfma (f : FmtR) (s : State) : Keeps s (execFfma f s) := by simp [execFfma]
@[simp] theorem keeps_execFmin (f : FmtR) (s : State) : Keeps s (execFmin f s) := by simp [execFmin]
@[simp] theorem keeps_execFmax (f : FmtR) (s : State) : Keeps s (execFmax f s) := by simp [execFmax]
@[simp] theorem keeps_execFrnd (f : FmtR) (s : State) : Keeps s (execFrnd f s) := by simp [execFrnd]
@[simp] theorem keeps_execFaddImm (f : FmtI) (s : State) : Keeps s (execFaddImm f s) := by simp [execFaddImm]
@[simp] theorem keeps_execFsubImm (f : FmtI) (s : State) : Keeps s (execFsubImm f s) := by simp [execFsubImm]
@[simp] theorem keeps_execFmulImm (f : FmtI) (s : State) : Keeps s (execFmulImm f s) := by simp [execFmulImm]
@[simp] theorem keeps_execFminImm (f : FmtI) (s : State) : Keeps s (execFminImm f s) := by simp [execFminImm]
@[simp] theorem keeps_execFmaxImm (f : FmtI) (s : State) : Keeps s (execFmaxImm f s) := by simp [execFmaxImm]
@[simp] theorem keeps_fcmpOp (f : FmtR) (imm : Option (BitVec 32)) (s : State) : Keeps s (fcmpOp f imm s) := by simp [fcmpOp]
@[simp] theorem keeps_execFcmp (f : FmtR) (s : State) : Keeps s (execFcmp f s) := by simp [execFcmp]
@[simp] theorem keeps_execFcmpImm (f : FmtI) (s : State) : Keeps s (execFcmpImm f s) := by simp [execFcmpImm]
@[simp] theorem keeps_execFclass (f : FmtR) (s : State) : Keeps s (execFclass f s) := by simp [execFclass]

/-! ### CrossLane -/

@[simp] theorem keeps_execShfl (f : FmtR) (s : State) : Keeps s (execShfl f s) := by simp [execShfl]
@[simp] theorem keeps_execVote (f : FmtR) (s : State) : Keeps s (execVote f s) := by simp [execVote]
@[simp] theorem keeps_execRedux (f : FmtR) (s : State) : Keeps s (execRedux f s) := by simp [execRedux]
@[simp] theorem keeps_execScan (f : FmtR) (s : State) : Keeps s (execScan f s) := by simp [execScan]
@[simp] theorem keeps_execMatch (f : FmtR) (s : State) : Keeps s (execMatch f s) := by simp [execMatch]
@[simp] theorem keeps_execFlagclr (f : FmtR) (s : State) : Keeps s (execFlagclr f s) := by simp [execFlagclr]

/-! ### Special -/

@[simp] theorem keeps_sfuOp (fn : Nat) (f : FmtR) (s : State) : Keeps s (sfuOp fn f s) := by simp [sfuOp]
@[simp] theorem keeps_execRcp (f : FmtR) (s : State) : Keeps s (execRcp f s) := by simp [execRcp]
@[simp] theorem keeps_execRsq (f : FmtR) (s : State) : Keeps s (execRsq f s) := by simp [execRsq]
@[simp] theorem keeps_execSqrt (f : FmtR) (s : State) : Keeps s (execSqrt f s) := by simp [execSqrt]
@[simp] theorem keeps_execExp2 (f : FmtR) (s : State) : Keeps s (execExp2 f s) := by simp [execExp2]
@[simp] theorem keeps_execLog2 (f : FmtR) (s : State) : Keeps s (execLog2 f s) := by simp [execLog2]
@[simp] theorem keeps_execSin (f : FmtR) (s : State) : Keeps s (execSin f s) := by simp [execSin]
@[simp] theorem keeps_execCos (f : FmtR) (s : State) : Keeps s (execCos f s) := by simp [execCos]

/-! ### Control -/

@[simp] theorem keeps_execBra (f : FmtB) (s : State) : Keeps s (execBra f s) := by simp [execBra]
@[simp] theorem keeps_scatterOp (f : FmtB) (tgt : Bool) (s : State) : Keeps s (scatterOp f tgt s) := by
  refine keeps_issueOp fun t x act => ?_
  dsimp only
  (repeat' split) <;> simp

@[simp] theorem keeps_execBrx (f : FmtB) (s : State) : Keeps s (execBrx f s) := by simp [execBrx]
@[simp] theorem keeps_execRet (f : FmtB) (s : State) : Keeps s (execRet f s) := by simp [execRet]
@[simp] theorem keeps_execCall (f : FmtB) (s : State) : Keeps s (execCall f s) := by simp [execCall]
@[simp] theorem keeps_execCallInd (f : FmtB) (s : State) : Keeps s (execCallInd f s) := by simp [execCallInd]
@[simp] theorem keeps_execSplit (f : FmtR) (s : State) : Keeps s (execSplit f s) := by simp [execSplit]
@[simp] theorem keeps_execJoin (f : FmtB) (s : State) : Keeps s (execJoin f s) := by simp [execJoin]
@[simp] theorem keeps_execJoinRelease (core entry : Nat) (s : State) : Keeps s (execJoinRelease core entry s) := by
  unfold execJoinRelease
  refine keeps_of_memory ?_
  (repeat' split) <;> simp

@[simp] theorem keeps_execSplitStallRetry (core entry : Nat) (s : State) : Keeps s (execSplitStallRetry core entry s) := by
  unfold execSplitStallRetry
  refine keeps_of_memory ?_
  (repeat' split) <;> simp

@[simp] theorem keeps_execLeafExhaustedStall (core entry : Nat) (s : State) : Keeps s (execLeafExhaustedStall core entry s) := by
  unfold execLeafExhaustedStall
  refine keeps_of_memory ?_
  (repeat' split) <;> simp

@[simp] theorem keeps_execYield (f : FmtR) (s : State) : Keeps s (execYield f s) := by
  refine keeps_issueOp fun t x act => ?_
  dsimp only
  (repeat' split) <;> simp

@[simp] theorem keeps_execNop (f : FmtR) (s : State) : Keeps s (execNop f s) := by simp [execNop]
@[simp] theorem keeps_codeTrap (f : FmtG) (cause : Nat) (s : State) : Keeps s (codeTrap f cause s) := by simp [codeTrap]
@[simp] theorem keeps_execBkpt (f : FmtG) (s : State) : Keeps s (execBkpt f s) := by simp [execBkpt]
@[simp] theorem keeps_execTrap (f : FmtG) (s : State) : Keeps s (execTrap f s) := by simp [execTrap]
@[simp] theorem keeps_execSyscall (f : FmtG) (s : State) : Keeps s (execSyscall f s) := by simp [execSyscall]

/-! ### Gather -/

theorem shadowFor_memory {s : State} {ctx home dl : Nat} {name : Word} {strict : Bool} {r : State × Nat}
    (h : shadowFor s ctx home name dl strict = some r) : r.1.memory = s.memory := by
  unfold shadowFor at h
  split at h
  · cases h
    rfl
  · obtain ⟨i, _, rfl⟩ := Option.map_eq_some_iff.1 h
    simp

@[simp] theorem keeps_execGnew (f : FmtG) (s : State) : Keeps s (execGnew f s) := by
  refine keeps_activeOp fun t x act => ?_
  dsimp only
  refine ite_memory_eq (by simp) (ite_memory_eq (by simp) (ite_memory_eq (by simp) (ite_memory_eq (by simp) ?_)))
  split
  · simp
  · rename_i h
    simpa using shadowFor_memory h

@[simp] theorem keeps_execGjoin (f : FmtG) (s : State) : Keeps s (execGjoin f s) := by
  refine keeps_activeOp fun t x act => ?_
  dsimp only
  (repeat' split) <;> simp

@[simp] theorem keeps_execGleave (f : FmtG) (s : State) : Keeps s (execGleave f s) := by
  refine keeps_activeOp fun t x act => ?_
  dsimp only
  (repeat' split) <;> simp

@[simp] theorem keeps_arriveOp (f : FmtG) (kind op : Nat) (role : Role) (ok : Bool) (val : State → Iss → Nat → Word) (s : State) :
    Keeps s (arriveOp f kind op role ok val s) := by
  refine keeps_activeOp fun t x act => ?_
  dsimp only
  (repeat' split) <;> simp

@[simp] theorem keeps_execGarrive (f : FmtG) (s : State) : Keeps s (execGarrive f s) := by simp [execGarrive]
@[simp] theorem keeps_execGvote (f : FmtG) (s : State) : Keeps s (execGvote f s) := by simp [execGvote]
@[simp] theorem keeps_execGred (f : FmtG) (s : State) : Keeps s (execGred f s) := by simp [execGred]
@[simp] theorem keeps_execGwait (f : FmtG) (s : State) : Keeps s (execGwait f s) := by
  refine keeps_activeOp fun t x act => ?_
  dsimp only
  (repeat' split) <;> simp

@[simp] theorem keeps_execGstat (f : FmtG) (s : State) : Keeps s (execGstat f s) := by
  refine keeps_activeOp fun t x act => ?_
  dsimp only
  (repeat' split) <;> simp

@[simp] theorem keeps_execGabort (f : FmtG) (s : State) : Keeps s (execGabort f s) := by
  refine keeps_activeOp fun t x act => ?_
  dsimp only
  (repeat' split) <;> simp

@[simp] theorem keeps_execGfree (f : FmtG) (s : State) : Keeps s (execGfree f s) := by
  refine keeps_activeOp fun t x act => ?_
  dsimp only
  (repeat' split) <;> simp

@[simp] theorem keeps_execPhaseDeadlineExpiry (idx : Nat) (s : State) :
    Keeps s (execPhaseDeadlineExpiry idx s) := by simp [execPhaseDeadlineExpiry]
@[simp] theorem keeps_execPauseCapExpiry (idx : Nat) (s : State) : Keeps s (execPauseCapExpiry idx s) := by simp [execPauseCapExpiry]
@[simp] theorem keeps_execPhaseBegun (handle : Word) (dev kind op : Nat) (s : State) : Keeps s (execPhaseBegun handle dev kind op s) := by
  unfold execPhaseBegun
  refine keeps_of_memory ?_
  (repeat' split) <;> simp

@[simp] theorem keeps_execPhaseStart (handle : Word) (phase : Nat) (s : State) : Keeps s (execPhaseStart handle phase s) := by
  unfold execPhaseStart
  refine keeps_of_memory ?_
  dsimp only
  (repeat' split) <;> simp

@[simp] theorem keeps_execShadowArrival (handle : Word) (dev lanes : Nat) (part : Partial) (s : State) :
    Keeps s (execShadowArrival handle dev lanes part s) := by
  unfold execShadowArrival
  refine keeps_of_memory ?_
  dsimp only
  (repeat' split) <;> simp

@[simp] theorem keeps_execPhaseOutcome (handle : Word) (phase : Nat) (status : BitVec 4) (value : Word) (s : State) :
    Keeps s (execPhaseOutcome handle phase status value s) := by
  unfold execPhaseOutcome
  refine keeps_of_memory ?_
  dsimp only
  (repeat' split) <;> simp

@[simp] theorem keeps_execShadowTimerExpiry (idx : Nat) (s : State) :
    Keeps s (execShadowTimerExpiry idx s) := by simp [execShadowTimerExpiry]
@[simp] theorem keeps_execShadowGone (handle : Word) (dev : Nat) (s : State) : Keeps s (execShadowGone handle dev s) := by
  unfold execShadowGone
  refine keeps_of_memory ?_
  (repeat' split) <;> simp

@[simp] theorem keeps_execShadowCountReport (handle : Word) (dev lanes : Nat) (s : State) :
    Keeps s (execShadowCountReport handle dev lanes s) := by
  unfold execShadowCountReport
  refine keeps_of_memory ?_
  (repeat' split) <;> simp

/-! ### Leave -/

@[simp] theorem keeps_execExit (f : FmtR) (s : State) : Keeps s (execExit f s) := by simp [execExit]
@[simp] theorem keeps_execRtt (f : FmtG) (s : State) : Keeps s (execRtt f s) := by
  unfold execRtt
  refine keeps_issueOp fun t x act => ?_
  extract_lets -underBinder +onlyGivenNames r pc
  refine ite_memory_eq (by simp) (ite_memory_eq (by simp) (ite_memory_eq (by simp) (ite_memory_eq (by simp) ?_)))
  split
  · exact ite_memory_eq (by simp) (by simp)
  · refine ite_memory_eq (by simp) (ite_memory_eq (by simp) ?_)
    split <;> simp

/-! ### Coherence -/

@[simp] theorem keeps_execPrune (msg : Nat) (s : State) : Keeps s (execPrune msg s) := by
  unfold execPrune
  refine keeps_of_memory ?_
  (repeat' split) <;> simp

@[simp] theorem keeps_execDropNotice (msg : Nat) (s : State) : Keeps s (execDropNotice msg s) := by
  unfold execDropNotice
  refine keeps_of_memory ?_
  (repeat' split) <;> simp

@[simp] theorem keeps_execRenewalSend (cluster : Nat) (s : State) : Keeps s (execRenewalSend cluster s) := by simp [execRenewalSend]
@[simp] theorem keeps_execRenewal (msg : Nat) (s : State) : Keeps s (execRenewal msg s) := by
  unfold execRenewal
  refine keeps_of_memory ?_
  dsimp only
  (repeat' split) <;> simp

@[simp] theorem keeps_execLeaseLost (msg : Nat) (s : State) : Keeps s (execLeaseLost msg s) := by
  unfold execLeaseLost
  refine keeps_of_memory ?_
  dsimp only
  (repeat' split) <;> simp

/-! ### Memory -/

@[simp] theorem keeps_execTlbMissWalk (die : Nat) (s : State) : Keeps s (execTlbMissWalk die s) := by
  unfold execTlbMissWalk
  refine keeps_of_memory ?_
  dsimp only
  (repeat' split) <;> simp

@[simp] theorem keeps_execWalkReadReturn (die walk : Nat) (s : State) : Keeps s (execWalkReadReturn die walk s) := by
  unfold execWalkReadReturn
  refine keeps_of_memory ?_
  dsimp only
  (repeat' split) <;> simp

/-! ### Range -/

@[simp] theorem keeps_rangeOp (inv : Bool) (f : FmtM) (s : State) : Keeps s (rangeOp inv f s) := by simp [rangeOp]
@[simp] theorem keeps_execCflush (f : FmtM) (s : State) : Keeps s (execCflush f s) := by simp [execCflush]
@[simp] theorem keeps_execCinv (f : FmtM) (s : State) : Keeps s (execCinv f s) := by simp [execCinv]
@[simp] theorem keeps_execFence (f : FmtM) (s : State) : Keeps s (execFence f s) := by simp [execFence]
@[simp] theorem keeps_execFenceComplete (op : Nat) (s : State) : Keeps s (execFenceComplete op s) := by
  unfold execFenceComplete
  refine keeps_of_memory ?_
  (repeat' split) <;> simp

@[simp] theorem keeps_execFetchLine (core entry : Nat) (s : State) : Keeps s (execFetchLine core entry s) := by
  unfold execFetchLine
  refine keeps_of_memory ?_
  dsimp only
  (repeat' split) <;> simp

/-! ### Copy -/

@[simp] theorem keeps_execTdset (f : FmtA) (s : State) : Keeps s (execTdset f s) := by
  unfold execTdset
  refine keeps_issueOp fun t x act => ite_memory_eq (by simp) ?_
  extract_lets -underBinder +onlyGivenNames id va
  refine withTag_memory _ _ _ _ fun n => ?_
  extract_lets -underBinder +onlyGivenNames go
  have hg : ∀ s img, (go s img).memory = s.memory := fun s img => by simp [go]
  refine ite_memory_eq (ite_memory_eq (by simp) (hg _ _)) (ite_memory_eq (by simp) (withLoad_memory _ _ _ _ _ _ fun s => ?_))
  split
  · simp
  · dsimp only
    split
    · simp
    · exact ite_memory_eq (by simp) (hg _ _)

@[simp] theorem keeps_execTdget (f : FmtA) (s : State) : Keeps s (execTdget f s) := by simp [execTdget]
@[simp] theorem keeps_execCpy (f : FmtA) (s : State) : Keeps s (execCpy f s) := by
  unfold execCpy
  refine keeps_issueOp fun t x act => ite_memory_eq (by simp) ?_
  refine withCoords_memory (withTag_memory _ _ _ _ fun n => ?_)
  dsimp only
  split
  · exact ite_memory_eq (by simp) (ite_memory_eq (by simp) (by simp))
  · simp

@[simp] theorem keeps_execCpyr (f : FmtA) (s : State) : Keeps s (execCpyr f s) := by
  refine keeps_issueOp fun t x act => ?_
  dsimp only
  (repeat' split) <;> simp

@[simp] theorem keeps_execRinit (f : FmtA) (s : State) : Keeps s (execRinit f s) := by simp [execRinit]
@[simp] theorem keeps_execRwait (f : FmtA) (s : State) : Keeps s (execRwait f s) := by
  refine keeps_issueOp fun t x act => ?_
  dsimp only
  (repeat' split) <;> simp

@[simp] theorem keeps_execRrel (f : FmtA) (s : State) : Keeps s (execRrel f s) := by
  refine keeps_issueOp fun t x act => ?_
  dsimp only
  (repeat' split) <;> simp

@[simp] theorem keeps_execWait (f : FmtA) (s : State) : Keeps s (execWait f s) := by simp [execWait]
@[simp] theorem keeps_execWaitany (f : FmtA) (s : State) : Keeps s (execWaitany f s) := by
  refine keeps_issueOp fun t x act => ?_
  dsimp only
  (repeat' split) <;> simp

@[simp] theorem keeps_execWaitall (f : FmtA) (s : State) : Keeps s (execWaitall f s) := by simp [execWaitall]
@[simp] theorem keeps_execTfirst (f : FmtA) (s : State) : Keeps s (execTfirst f s) := by simp [execTfirst]
@[simp] theorem keeps_execTtest (f : FmtA) (s : State) : Keeps s (execTtest f s) := by simp [execTtest]
@[simp] theorem keeps_execTcancel (f : FmtA) (s : State) : Keeps s (execTcancel f s) := by simp [execTcancel]
@[simp] theorem keeps_execCopyStart (op : Nat) (s : State) : Keeps s (execCopyStart op s) := by
  unfold execCopyStart
  refine keeps_of_memory ?_
  dsimp only
  (repeat' split) <;> simp

/-! ### Element -/

@[simp] theorem keeps_execXlate (f : FmtA) (s : State) : Keeps s (execXlate f s) := by simp [execXlate]
@[simp] theorem keeps_execXlateReadReturn (op : Nat) (s : State) : Keeps s (execXlateReadReturn op s) := by
  unfold execXlateReadReturn
  refine keeps_of_memory ?_
  dsimp only
  (repeat' split) <;> simp

/-! ### Matrix -/

@[simp] theorem keeps_matrixOp (sparse : Bool) (f : FmtX) (s : State) : Keeps s (matrixOp sparse f s) := by
  refine keeps_issueOp fun t x act => ite_memory_eq (by simp) ?_
  dsimp only
  split
  · simp
  · refine withTag_memory _ _ _ _ fun n => ?_
    split
    · simp
    · exact ite_memory_eq (by simp) (by simp)

@[simp] theorem keeps_execMxa (f : FmtX) (s : State) : Keeps s (execMxa f s) := by simp [execMxa]
@[simp] theorem keeps_execMxsp (f : FmtX) (s : State) : Keeps s (execMxsp f s) := by simp [execMxsp]
@[simp] theorem keeps_execFusionWaitExpiry (core : Nat) (s : State) :
    Keeps s (execFusionWaitExpiry core s) := by simp [execFusionWaitExpiry]
@[simp] theorem keeps_execArrayFreeze (core : Nat) (s : State) : Keeps s (execArrayFreeze core s) := by simp [execArrayFreeze]
@[simp] theorem keeps_execTokenGrant (s : State) : Keeps s (execTokenGrant s) := by
  unfold execTokenGrant
  refine keeps_of_memory ?_
  dsimp only
  (repeat' split) <;> simp

@[simp] theorem keeps_execTokenReturn (core : Nat) (s : State) : Keeps s (execTokenReturn core s) := by simp [execTokenReturn]
@[simp] theorem keeps_execMxrdy (f : FmtX) (s : State) : Keeps s (execMxrdy f s) := by simp [execMxrdy]
@[simp] theorem keeps_execMxrdyComplete (op : Nat) (s : State) : Keeps s (execMxrdyComplete op s) := by
  unfold execMxrdyComplete
  refine keeps_of_memory ?_
  (repeat' split) <;> simp

@[simp] theorem keeps_execMxld (f : FmtX) (s : State) : Keeps s (execMxld f s) := by
  unfold execMxld
  refine keeps_issueOp fun t x act => ite_memory_eq (by simp) ?_
  refine ite_memory_eq (by simp) ?_
  extract_lets -underBinder +onlyGivenNames off bad bads vals go
  have hg : ∀ s x m, (go s x m).memory = s.memory := fun s x m => by simp [go]
  refine ite_memory_eq (hg _ _ _) ?_
  split <;> rename_i h
  · exact memory_of_parked (.inr h)
  · exact (hg _ _ _).trans (memory_of_parked (.inl h))

@[simp] theorem keeps_execMxzero (f : FmtX) (s : State) : Keeps s (execMxzero f s) := by simp [execMxzero]

/-! ### Array -/

@[simp] theorem takeImage_memory (s : State) (x : Iss) : (takeImage s x).2.memory = s.memory := by simp [takeImage]

@[simp] theorem keeps_execMxsave (f : FmtX) (s : State) : Keeps s (execMxsave f s) := by
  refine keeps_issueOp fun t x act => ite_memory_eq (by simp) ?_
  dsimp only
  split
  · simp
  · exact withTag_memory _ _ _ _ fun n => by simp

@[simp] theorem keeps_execMxrest (f : FmtX) (s : State) : Keeps s (execMxrest f s) := by
  refine keeps_issueOp fun t x act => ite_memory_eq (by simp) ?_
  dsimp only
  split
  · simp
  · refine withLoad_memory _ _ _ _ _ _ fun s => ?_
    split
    · simp
    · split
      · simp
      · exact ite_memory_eq (by simp) (ite_memory_eq (by simp) (ite_memory_eq (by simp) (withTag_memory _ _ _ _ fun n => by simp)))

@[simp] theorem keeps_execMxrestComplete (op : Nat) (s : State) : Keeps s (execMxrestComplete op s) := by
  unfold execMxrestComplete
  refine keeps_of_memory ?_
  (repeat' split) <;> simp

@[simp] theorem keeps_execCbset (f : FmtX) (s : State) : Keeps s (execCbset f s) := by simp [execCbset]
@[simp] theorem keeps_execCbsetComplete (op : Nat) (s : State) : Keeps s (execCbsetComplete op s) := by
  unfold execCbsetComplete
  refine keeps_of_memory ?_
  split
  · rfl
  · split
    · refine ite_memory_eq (by simp) (ite_memory_eq rfl (withAnswers_memory ?_))
      rw [endOp_memory]
      refine foldl_memory_of Prod.fst (fun r i => ?_) _ _
      split <;> simp
    · rfl

@[simp] theorem keeps_execCbswap (f : FmtX) (s : State) : Keeps s (execCbswap f s) := by
  refine keeps_issueOp fun t x act => ?_
  dsimp only
  (repeat' split) <;> simp

@[simp] theorem keeps_execTmask (f : FmtX) (s : State) : Keeps s (execTmask f s) := by simp [execTmask]
@[simp] theorem keeps_execMcast (f : FmtX) (s : State) : Keeps s (execMcast f s) := by
  refine keeps_issueOp fun t x act => ?_
  dsimp only
  (repeat' split) <;> simp

@[simp] theorem keeps_execCred (f : FmtX) (s : State) : Keeps s (execCred f s) := by
  refine keeps_issueOp fun t x act => ?_
  dsimp only
  (repeat' split) <;> simp

@[simp] theorem keeps_execCredRoundComplete (cluster round : Nat) (s : State) : Keeps s (execCredRoundComplete cluster round s) := by
  unfold execCredRoundComplete
  refine keeps_of_memory ?_
  dsimp only
  (repeat' split) <;> simp

/-! ### Sched -/

theorem makeSheet_memory {s : State} {l : Launch} {task index cluster : Nat} {r : State × Nat × Nat}
    (h : makeSheet s l task index cluster = some r) : r.1.memory = s.memory := by
  unfold makeSheet at h
  dsimp only at h
  split at h
  · cases h
    simp
  · cases h

/-- The sheets of a task are made one after another, each from the state that the last left. -/
theorem makeSheets_memory {l : Launch} {task cluster : Nat} {is : List Nat} {o : Option (State × List (Nat × Nat × Nat))}
    {r : State × List (Nat × Nat × Nat)}
    (h : is.foldl (fun r i => match r with
      | none => none
      | some (s, ps) => (makeSheet s l task i cluster).map (fun p => (p.1, ps ++ [(i, p.2.1, p.2.2)]))) o = some r) :
    ∃ q, o = some q ∧ r.1.memory = q.1.memory := by
  induction is generalizing o with
  | nil => exact ⟨r, h, rfl⟩
  | cons i is ih =>
    obtain ⟨q, hq, hr⟩ := ih h
    dsimp only at hq
    split at hq
    · cases hq
    · rename_i s ps
      obtain ⟨p, hp, rfl⟩ := Option.map_eq_some_iff.1 hq
      exact ⟨(s, ps), rfl, hr.trans (makeSheet_memory hp)⟩

theorem placeTask_memory {s : State} {l : Launch} {t : Task} {is : List Nat} {cluster prio : Nat} {r : State × List (Nat × Nat × Nat)}
    (h : placeTask s l t is cluster prio = some r) : r.1.memory = s.memory := by
  unfold placeTask at h
  dsimp only at h
  split at h
  · cases h
  · split at h
    · obtain ⟨q, hq, hr⟩ := makeSheets_memory h
      cases hq
      simpa using hr
    · cases h

theorem nextTask_memory {s : State} {r : Candidate × State × List (Nat × Nat × Nat)} (h : nextTask s = some r) :
    r.2.1.memory = s.memory := by
  obtain ⟨c, _, hc⟩ := List.exists_of_findSome?_eq_some h
  obtain ⟨q, hq, rfl⟩ := Option.map_eq_some_iff.1 hc
  obtain ⟨k, _, hk⟩ := List.exists_of_findSome?_eq_some hq
  exact placeTask_memory hk

@[simp] theorem keeps_execTaskDistribution (s : State) : Keeps s (execTaskDistribution s) := by
  unfold execTaskDistribution
  refine keeps_of_memory ?_
  split
  · rename_i h
    refine ite_memory_eq rfl ((foldl_memory _ _ fun t p => by simp).trans (nextTask_memory h))
  · rfl

@[simp] theorem keeps_execDistributionWaitLimit (ctx launch task : Nat) (s : State) :
    Keeps s (execDistributionWaitLimit ctx launch task s) := by
  unfold execDistributionWaitLimit
  refine keeps_of_memory ?_
  (repeat' split) <;> simp

@[simp] theorem keeps_execSheetComplete (core slot : Nat) (s : State) : Keeps s (execSheetComplete core slot s) := by
  unfold execSheetComplete
  refine keeps_of_memory ?_
  dsimp only
  (repeat' split) <;> simp

@[simp] theorem keeps_execQuotaReport (cluster ctx : Nat) (s : State) : Keeps s (execQuotaReport cluster ctx s) := by simp [execQuotaReport]
@[simp] theorem keeps_execCancelComplete (ctx cid : Nat) (s : State) :
    Keeps s (execCancelComplete ctx cid s) := by simp [execCancelComplete]

/-! ### Preempt -/

@[simp] theorem keeps_execPreemptDelivery (core entry : Nat) (s : State) : Keeps s (execPreemptDelivery core entry s) := by
  unfold execPreemptDelivery
  refine keeps_of_memory ?_
  (repeat' split) <;> simp

@[simp] theorem keeps_execPrincipalDelivery (core slot : Nat) (s : State) : Keeps s (execPrincipalDelivery core slot s) := by
  unfold execPrincipalDelivery
  refine keeps_of_memory ?_
  dsimp only
  (repeat' split) <;> simp

@[simp] theorem keeps_execParkedLeafVector (core entry : Nat) (s : State) : Keeps s (execParkedLeafVector core entry s) := by
  unfold execParkedLeafVector
  refine keeps_of_memory ?_
  (repeat' split) <;> simp

@[simp] theorem keeps_execSheetLeaveResidency (core slot : Nat) (s : State) : Keeps s (execSheetLeaveResidency core slot s) := by
  unfold execSheetLeaveResidency
  refine keeps_of_memory ?_
  dsimp only
  (repeat' split) <;> simp

@[simp] theorem keeps_execTaskResume (ctx launch task : Nat) (s : State) : Keeps s (execTaskResume ctx launch task s) := by
  unfold execTaskResume
  refine keeps_of_memory ?_
  split
  · rename_i h
    refine ite_memory_eq rfl ((foldl_memory _ _ fun t p => ?_).trans ((modTask_memory ..).trans (nextTask_memory h)))
    dsimp only
    split <;> simp
  · rfl

/-! ### Work -/

@[simp] theorem keeps_execCtradd (f : FmtG) (s : State) : Keeps s (execCtradd f s) := by
  refine keeps_activeOp fun t x act => ?_
  dsimp only
  (repeat' split) <;> simp

@[simp] theorem keeps_execCtrwait (f : FmtG) (s : State) : Keeps s (execCtrwait f s) := by
  refine keeps_activeOp fun t x act => ?_
  dsimp only
  (repeat' split) <;> simp

@[simp] theorem keeps_execCtrwaitTimeout (core entry : Nat) (s : State) : Keeps s (execCtrwaitTimeout core entry s) := by
  unfold execCtrwaitTimeout
  refine keeps_of_memory ?_
  dsimp only
  (repeat' split) <;> simp

/-! ### System -/

@[simp] theorem keeps_execSysrd (f : FmtG) (s : State) : Keeps s (execSysrd f s) := by
  refine keeps_issueOp fun t x act => ?_
  dsimp only
  (repeat' split) <;> simp

@[simp] theorem keeps_execSyswr (f : FmtG) (s : State) : Keeps s (execSyswr f s) := by
  refine keeps_issueOp fun t x act => ?_
  dsimp only
  (repeat' split) <;> simp

@[simp] theorem keeps_execTlbinv (f : FmtG) (s : State) : Keeps s (execTlbinv f s) := by simp [execTlbinv]
@[simp] theorem keeps_execTlbinvComplete (op : Nat) (s : State) : Keeps s (execTlbinvComplete op s) := by
  unfold execTlbinvComplete
  refine keeps_of_memory ?_
  (repeat' split) <;> simp

@[simp] theorem keeps_execRfclr (f : FmtG) (s : State) : Keeps s (execRfclr f s) := by
  refine keeps_issueOp fun t x act => ?_
  dsimp only
  (repeat' split) <;> simp

@[simp] theorem keeps_execRfclrComplete (op : Nat) (s : State) : Keeps s (execRfclrComplete op s) := by
  unfold execRfclrComplete
  refine keeps_of_memory ?_
  (repeat' split) <;> simp

@[simp] theorem keeps_execMbox (f : FmtG) (s : State) : Keeps s (execMbox f s) := by simp [execMbox]
@[simp] theorem keeps_execVersion (op : Nat) (s : State) : Keeps s (execVersion op s) := by simp [execVersion]
@[simp] theorem keeps_execBootRead (op : Nat) (s : State) : Keeps s (execBootRead op s) := by
  unfold execBootRead
  refine keeps_of_memory ?_
  dsimp only
  (repeat' split) <;> simp

@[simp] theorem keeps_execStitchDump (op : Nat) (s : State) : Keeps s (execStitchDump op s) := by
  unfold execStitchDump
  refine keeps_of_memory ?_
  dsimp only
  (repeat' split) <;> simp

@[simp] theorem keeps_execGatherDump (op : Nat) (s : State) : Keeps s (execGatherDump op s) := by
  unfold execGatherDump
  refine keeps_of_memory ?_
  dsimp only
  (repeat' split) <;> simp

@[simp] theorem keeps_execDebugResume (op : Nat) (s : State) : Keeps s (execDebugResume op s) := by
  unfold execDebugResume
  refine keeps_of_memory ?_
  dsimp only
  (repeat' split) <;> simp

@[simp] theorem keeps_execBootClear (op : Nat) (s : State) : Keeps s (execBootClear op s) := by
  unfold execBootClear
  refine keeps_of_memory ?_
  dsimp only
  (repeat' split) <;> simp

@[simp] theorem keeps_execIrq (f : FmtG) (s : State) : Keeps s (execIrq f s) := by simp [execIrq]

/-! ### Power -/

@[simp] theorem keeps_execGovernorWindowEnd (core : Nat) (s : State) : Keeps s (execGovernorWindowEnd core s) := by
  unfold execGovernorWindowEnd
  refine keeps_of_memory (ite_memory_eq rfl ?_)
  simp

@[simp] theorem keeps_execVoltageSlewDone (core : Nat) (s : State) : Keeps s (execVoltageSlewDone core s) := by simp [execVoltageSlewDone]

/-! ### RegWrite -/

@[simp] theorem keeps_execCleaseWrite (w : RegWr) (s : State) : Keeps s (execCleaseWrite w s) := by simp [execCleaseWrite]
@[simp] theorem keeps_execPreqWrite (w : RegWr) (s : State) : Keeps s (execPreqWrite w s) := by
  unfold execPreqWrite
  refine keeps_of_memory ?_
  dsimp only
  (repeat' split) <;> simp

@[simp] theorem keeps_execTokpoolWrite (w : RegWr) (s : State) : Keeps s (execTokpoolWrite w s) := by simp [execTokpoolWrite]
@[simp] theorem keeps_execCbudgetWrite (w : RegWr) (s : State) : Keeps s (execCbudgetWrite w s) := by
  unfold execCbudgetWrite
  refine keeps_of_memory ?_
  dsimp only
  (repeat' split) <;> simp

@[simp] theorem keeps_execCounterBankWrite (w : RegWr) (s : State) : Keeps s (execCounterBankWrite w s) := by
  unfold execCounterBankWrite
  refine keeps_of_memory ?_
  dsimp only
  (repeat' split) <;> simp

@[simp] theorem keeps_execCxpendClear (w : RegWr) (s : State) : Keeps s (execCxpendClear w s) := by
  unfold execCxpendClear
  refine keeps_of_memory ?_
  dsimp only
  (repeat' split) <;> simp

@[simp] theorem keeps_execPartitionRegisterWrite (w : RegWr) (s : State) : Keeps s (execPartitionRegisterWrite w s) := by
  unfold execPartitionRegisterWrite
  refine keeps_of_memory ?_
  dsimp only
  (repeat' split) <;> simp

@[simp] theorem keeps_execEvctlWrite (w : RegWr) (s : State) : Keeps s (execEvctlWrite w s) := by
  unfold execEvctlWrite
  refine keeps_of_memory ?_
  dsimp only
  (repeat' split) <;> simp

@[simp] theorem keeps_execMbtailWrite (w : RegWr) (s : State) : Keeps s (execMbtailWrite w s) := by simp [execMbtailWrite]
@[simp] theorem keeps_execRegisterWrite (w : RegWr) (s : State) : Keeps s (execRegisterWrite w s) := by
  refine keeps_regEvent fun r => ?_
  split <;> simp

/-! ### Host -/

@[simp] theorem keeps_execHostReadRequest (r : HostReq) (s : State) : Keeps s (execHostReadRequest r s) := by
  unfold execHostReadRequest
  refine keeps_of_memory ?_
  (repeat' split) <;> simp

@[simp] theorem keeps_execContextCreation (ctx : Nat) (root table : DWord) (s : State) :
    Keeps s (execContextCreation ctx root table s) := by simp [execContextCreation]
@[simp] theorem keeps_execContextDestruction (ctx : Nat) (s : State) :
    Keeps s (execContextDestruction ctx s) := by simp [execContextDestruction]
@[simp] theorem keeps_execLockInterfaceRequest (fn : Nat) (s : State) :
    Keeps s (execLockInterfaceRequest fn s) := by simp [execLockInterfaceRequest]
@[simp] theorem keeps_execStartInterfaceRequest (fn : Nat) (s : State) :
    Keeps s (execStartInterfaceRequest fn s) := by simp [execStartInterfaceRequest]
@[simp] theorem keeps_execGetDeviceInterfaceReport (fn : Nat) (s : State) :
    Keeps s (execGetDeviceInterfaceReport fn s) := by simp [execGetDeviceInterfaceReport]

/-! ### Fabric -/

@[simp] theorem keeps_execPortUp (port : Nat) (s : State) : Keeps s (execPortUp port s) := by simp [execPortUp]
@[simp] theorem keeps_execIdleFlit (port : Nat) (received : Bool) (s : State) :
    Keeps s (execIdleFlit port received s) := by simp [execIdleFlit]
@[simp] theorem keeps_execTileRenewal (fab : Nat) (s : State) : Keeps s (execTileRenewal fab s) := by simp [execTileRenewal]

/-! ### Issue -/

@[simp] theorem keeps_execIssueGrant (core : Nat) (s : State) : Keeps s (execIssueGrant core s) := by simp [execIssueGrant]

end Sys2Proof.Machine
end

section
/-!
SUPPORT. The writers of memory: each leaves it in canonical form, and so does each row that uses one.
-/
namespace Sys2Proof.Machine

@[simp] theorem canon_putBytes {s : State} (a : Nat) (bs : List Byte) (h : Canon s.memory) :
    Canon (putBytes s a bs).memory := wf_putBytes a bs h
@[simp] theorem canon_storeMem {s : State} (a : Nat) (bs : List Byte) (h : Canon s.memory) :
    Canon (storeMem s a bs).memory := wf_storeMem a bs h
@[simp] theorem canon_writeHome {s : State} (line : Nat) (bs : List Byte) (pz : BitVec 16) (h : Canon s.memory) :
    Canon (writeHome s line bs pz).memory := wf_writeHome line bs pz h
@[simp] theorem canon_collapse {s : State} (line : Nat) (h : Canon s.memory) : Canon (collapse s line).memory := wf_collapse line h
@[simp] theorem canon_coherentWrite {s : State} (a : Nat) (bs : List Byte) (h : Canon s.memory) : Canon (coherentWrite s a bs).memory :=
  wf_coherentWrite a bs h
@[simp] theorem canon_spoilMem {s : State} (a n : Nat) (store : Bool) (h : Canon s.memory) : Canon (spoilMem s a n store).memory :=
  wf_spoilMem a n store h
@[simp] theorem canon_zeroRange {s : State} (lo hi : Nat) (h : Canon s.memory) : Canon (zeroRange s lo hi).memory := wf_zeroRange lo hi h
theorem canon_filter {s : State} (p : Host.Cell → Bool) (h : Canon s.memory) : Canon (s.mem.filter p) := twf_filter 0 s.mem p h

theorem canon_setReg {s : State} (r : CReg) (v : DWord) (h : Canon s.memory) : Canon (setReg s r v).memory := by
  rwa [setReg_memory]

theorem canon_ite {p : Prop} [Decidable p] {a b : State} (ha : Canon a.memory) (hb : Canon b.memory) :
    Canon (if p then a else b).memory := by
  split <;> assumption

theorem canon_foldl_of {β γ : Type} (g : γ → State) {f : γ → β → γ} (h : ∀ a b, Canon (g a).memory → Canon (g (f a b)).memory) (l : List β)
    (a : γ) (ha : Canon (g a).memory) : Canon (g (l.foldl f a)).memory := by
  induction l generalizing a with
  | nil => exact ha
  | cons b l ih => exact ih _ (h a b ha)

theorem canon_foldl {β : Type} {f : State → β → State} (h : ∀ s b, Canon s.memory → Canon (f s b).memory) (l : List β) {s : State}
    (hs : Canon s.memory) : Canon (l.foldl f s).memory := canon_foldl_of id h l s hs

theorem canon_performAll {f : State → Acc → Except (Nat × Nat) State} (hf : ∀ s a t, f s a = .ok t → Canon s.memory → Canon t.memory)
    (s : State) (as : List Acc) (h : Canon s.memory) : Canon (performAll s as f).memory := by
  unfold performAll
  dsimp only
  rw [ite_memory, faultAccs_memory, ite_self]
  refine canon_foldl_of Prod.fst (fun r a hr => ?_) as (s, []) h
  split
  · simpa using hr
  · split
    · rename_i t ht
      simpa using hf _ _ _ ht hr
    · exact hr

@[simp] theorem canon_accSpoil {s : State} (a : Acc) (h : Canon s.memory) : Canon (accSpoil s a).memory := canon_spoilMem _ _ _ h

theorem canon_performHome (s : State) (a : Acc) (t : State) (ht : performHome s a = .ok t) (h : Canon s.memory) : Canon t.memory := by
  unfold performHome at ht
  split at ht
  · cases ht
  · split at ht
    · cases ht
    · cases ht
      rw [writeWords_memory]
      split
      · refine canon_accSpoil _ (canon_storeMem _ _ ?_)
        split <;> simpa using h
      · split <;> simpa using h

theorem canon_ite_accSpoil {s : State} {p : Prop} [Decidable p] (a : Acc) (h : Canon s.memory) :
    Canon (if p then accSpoil s a else s).memory :=
  canon_ite (canon_accSpoil a h) h

theorem canon_performHere (s : State) (a : Acc) (t : State) (ht : performHere s a = .ok t) (h : Canon s.memory) : Canon t.memory := by
  unfold performHere at ht
  extract_lets -underBinder +onlyGivenNames k line off at ht
  split at ht
  · cases ht
    exact h
  · split at ht
    · cases ht
    · split at ht
      · cases ht
        simpa using h
      · split at ht
        · cases ht
        · extract_lets -underBinder +onlyGivenNames atomic s1 sd s2 evp s3 s4 at ht
          have h1 : s1.memory = s.memory := by
            unfold s1
            split
            · simp
            · exact ite_memory_eq (by simp) rfl
          have hd : sd.memory = s1.memory := by simp [sd]
          have h2 : s2.memory = s1.memory :=
            ite_memory_eq (by simp) (ite_memory_eq (ite_memory_eq (by simp [hd]) hd) (ite_memory_eq rfl (by simp)))
          have h4 : s4.memory = s.memory := by simp [s4, s3, h2, h1]
          cases ht
          rw [writeWords_memory]
          exact canon_ite_accSpoil a (h4 ▸ h)

/-! ### Ops -/

@[simp] theorem canon_postRecord {s : State} (r : EventRec) (h : Canon s.memory) : Canon (postRecord s r).memory := by
  unfold postRecord
  extract_lets -underBinder +onlyGivenNames base ctl size head tail f u v
  refine canon_ite h (canon_ite (canon_setReg _ _ h) ?_)
  · rw [signalVec_memory]
    have hu : Canon u.memory := canon_storeMem _ _ h
    have hv : Canon v.memory := canon_setReg _ _ hu
    simpa using hv

/-! ### Flags -/

@[simp] theorem canon_checkThreshold {s : State} (b i ctx launch : Nat) (h : Canon s.memory) :
    Canon (checkThreshold s b i ctx launch).memory := by
  unfold checkThreshold
  dsimp only
  exact canon_ite (canon_postRecord _ (canon_setReg _ _ h)) h

@[simp] theorem canon_countOne (ctx launch : Nat) {s : State} (i : Nat) (h : Canon s.memory) : Canon (countOne ctx launch s i).memory := by
  unfold countOne
  exact canon_checkThreshold _ _ _ _ (canon_setReg _ _ h)

@[simp] theorem canon_countEvents {s : State} (ctx launch : Nat) (es : List Event) (h : Canon s.memory) :
    Canon (countEvents s ctx launch es).memory := by
  unfold countEvents
  exact canon_foldl (fun s e hs => canon_countOne _ _ _ hs) _ h

/-! ### Convert -/

theorem canon_countTimes {s : State} (ctx launch i n : Nat) (h : Canon s.memory) : Canon (countTimes s ctx launch i n).memory := by
  induction n generalizing s with
  | zero => exact h
  | succ n ih => exact ih (canon_countOne _ _ _ h)

@[simp] theorem keeps_execCvt (f : FmtR) (s : State) : Keeps s (execCvt f s) := by
  refine keeps_plainOp_of_canon fun t x act h => ?_
  dsimp only
  (repeat' split) <;> simp [h]

/-! ### Coherence -/

@[simp] theorem canon_serveLine {s : State} (k line : Nat) (h : Canon s.memory) : Canon (serveLine s k line).memory := by
  unfold serveLine
  dsimp only
  rw [ite_memory, faultAccs_memory, ite_self]
  refine canon_foldl_of Prod.fst (fun r a hr => ?_) _ (s, []) h
  split
  · exact hr
  · split
    · exact hr
    · split
      · rename_i t ht
        simpa using canon_performHere _ _ _ ht hr
      · exact hr

@[simp] theorem canon_foldMemory {s : State} (line : Nat) (pte : DWord) (v : PartialLine) (pz : BitVec 16) (h : Canon s.memory) :
    Canon (foldMemory s line pte v pz).memory := by
  fun_cases foldMemory s line pte v pz <;> simp [h]

@[simp] theorem canon_flagRegion {s : State} (line : Nat) (h : Canon s.memory) : Canon (flagRegion s line).memory := by
  unfold flagRegion
  dsimp only
  rw [setFlag_memory]
  refine canon_foldl (fun s i hs => ?_) _ (by simpa using h)
  refine canon_ite (canon_ite ?_ ?_) (canon_ite ?_ ?_) <;> simp [hs]

@[simp] theorem canon_finishTx {s : State} (u : Unpick) (h : Canon s.memory) : Canon (finishTx s u).memory := by
  unfold finishTx
  split
  · simpa using h
  · extract_lets -underBinder +onlyGivenNames m own s1 home flags s2
    have hs : Canon s2.memory := canon_ite (canon_flagRegion _ (by simpa [s1] using h)) (by simpa [s1] using h)
    have hh : Canon (home s2).memory := by
      unfold home
      split
      · exact canon_writeHome _ _ _ hs
      · exact hs
    split
    · exact canon_ite (by simpa using hs) (canon_ite (canon_performAll canon_performHome _ _ hh) (by simpa using hs))
    · exact canon_ite (by simpa using hh) (by simpa using hh)
    · exact hs
    · exact hs
    · exact hh

@[simp] theorem canon_finishGather {s : State} (tx : HomeTx) (pte : DWord) (v : PartialLine) (lost : Bool) (h : Canon s.memory) :
    Canon (finishGather s tx pte v lost).memory := by
  unfold finishGather
  extract_lets -underBinder +onlyGivenNames m mem s1 s2 s3
  have h1 : Canon s1.memory := canon_ite h (canon_writeHome _ _ _ h)
  have h3 : Canon s3.memory := canon_ite (canon_flagRegion _ (by simpa [s2] using h1)) (by simpa [s2] using h1)
  refine canon_ite (by simpa using h3) ?_
  split
  · exact canon_ite (canon_performAll canon_performHome _ _ h3) (by simpa using h3)
  · exact h3
  · simpa using h3

@[simp] theorem canon_finishNode {s : State} (u : Unpick) (h : Canon s.memory) : Canon (finishNode s u).memory := by
  unfold finishNode
  split
  · exact canon_finishTx u h
  · extract_lets -underBinder +onlyGivenNames home s1
    have h1 : Canon s1.memory := by simpa [s1] using h
    split
    · split
      · exact canon_ite (by simpa using h1) (canon_ite h1 (canon_foldMemory _ _ _ _ h1))
      · exact h1
    · rw [sendPort_memory]
      split
      · exact canon_ite h1 (by simpa using h1)
      · exact h1
  · simpa using h
  · simpa using h

@[simp] theorem canon_advanceNode {s : State} (u : Unpick) (collects : Bool) (h : Canon s.memory) :
    Canon (advanceNode s u collects).memory := by
  unfold advanceNode
  refine canon_ite (canon_finishNode u (by simpa using h)) ?_
  split
  · split <;> simpa using h
  · simpa using h

@[simp] theorem canon_evictTile {s : State} (r : Nat) (t : Stitch) (h : Canon s.memory) : Canon (evictTile s r t).memory := by
  unfold evictTile
  extract_lets -underBinder +onlyGivenNames tile st s1 bs
  have h1 : Canon s1.memory := canon_foldl (fun s i hs => canon_collapse _ hs) _ h
  rw [emit_memory, memory_mk]
  exact canon_filter _ h1

@[simp] theorem canon_localDone {s : State} (r line : Nat) (h : Canon s.memory) : Canon (localDone s r line).memory := by
  fun_cases localDone s r line <;> simp [h]

@[simp] theorem canon_tileReturned {s : State} (dev tile r : Nat) (data : List Byte) (h : Canon s.memory) :
    Canon (tileReturned s dev tile r data).memory := by
  unfold tileReturned
  extract_lets -underBinder +onlyGivenNames k st s1
  rw [tileSteps_memory]
  refine canon_foldl (fun s i hs => ?_) _ h
  dsimp only
  split
  · exact canon_localDone _ _ hs
  · refine canon_ite hs ?_
    split
    · simpa using hs
    · exact canon_localDone _ _ (by simpa using hs)

@[simp] theorem canon_evictStitch {s : State} (r : Nat) (t : Stitch) (h : Canon s.memory) : Canon (evictStitch s r t).memory := by
  unfold evictStitch
  refine canon_ite (canon_evictTile _ _ h) ?_
  extract_lets -underBinder +onlyGivenNames home s1 left u
  have h1 : Canon s1.memory := by simpa [s1] using h
  refine canon_ite (canon_ite (canon_advanceNode _ _ ?_) (canon_advanceNode _ _ ?_)) (canon_ite ?_ ?_)
  · split <;> simpa using h1
  · rw [foldl_memory _ _ fun s p => by simp]
    split <;> simpa using h1
  · simpa using h1
  · simpa using h1

@[simp] theorem canon_makeRoom {s : State} (r set : Nat) (evict : Option Nat) (h : Canon s.memory) :
    Canon (makeRoom s r set evict).1.memory := by
  fun_cases makeRoom s r set evict <;> simp [h]

@[simp] theorem canon_readStep {s : State} (m : Msg) (h : Canon s.memory) : Canon (readStep s m).memory := by
  unfold readStep
  dsimp only
  (repeat' split) <;> simp [h]

@[simp] theorem keeps_execReadRequest (msg : Nat) (s : State) : Keeps s (execReadRequest msg s) := by
  unfold execReadRequest
  refine keeps_next.2 fun h => ?_
  (repeat' split) <;> simp [h]

@[simp] theorem canon_readArrives {s : State} (m : Msg) (h : Canon s.memory) : Canon (readArrives s m).memory := by
  unfold readArrives
  extract_lets -underBinder +onlyGivenNames k as d
  refine canon_ite (by simpa using h) (canon_ite (canon_performAll (fun s a t ht hs => ?_) _ _ (by simpa using h)) (canon_ite h ?_))
  · split at ht
    · cases ht
    · split at ht
      · split at ht
        · cases ht
        · cases ht
          simpa using hs
      · split at ht
        · split at ht
          · cases ht
            simpa using hs
          · cases ht
        · cases ht
          exact hs
  · exact canon_serveLine _ _ (by simpa using h)

@[simp] theorem canon_writeArrives {s : State} (m : Msg) (h : Canon s.memory) : Canon (writeArrives s m).memory := by
  unfold writeArrives
  dsimp only
  (repeat' split) <;> simp [h]

theorem makeStitch_done_memory {s : State} {r : Nat} {m : Msg} {mask : BitVec 5} {root home : Nat} {reroot : Bool} {comm : Option DWord}
    {t : State}
    (ht : makeStitch s r m mask root home reroot comm = .done t) : t.memory = s.memory := by
  unfold makeStitch at ht
  split at ht
  · split at ht <;> cases ht
    simp
  · split at ht <;> cases ht
    simp

theorem canon_makeStitch_wait {s : State} {r : Nat} {m : Msg} {mask : BitVec 5} {root home : Nat} {reroot : Bool} {comm : Option DWord}
    {t : State}
    {e : Option Nat} (ht : makeStitch s r m mask root home reroot comm = .wait t e) (h : Canon s.memory) : Canon t.memory := by
  unfold makeStitch at ht
  split at ht
  · split at ht <;> cases ht
  · split at ht <;> cases ht
    exact canon_makeRoom _ _ _ h

theorem stitchFor_done_memory {s : State} {m : Msg} {r arrival n : Nat} {t : State} (ht : stitchFor s m r arrival n = .done t) :
    t.memory = s.memory := by
  unfold stitchFor at ht
  extract_lets -underBinder +onlyGivenNames grant comm bits at ht
  split at ht
  · split at ht
    · split at ht
      · rename_i u hu
        cases ht
        exact makeStitch_done_memory hu
      · exact makeStitch_done_memory ht
    · exact makeStitch_done_memory ht
  · split at ht
    · split at ht
      · split at ht
        · rename_i u hu
          cases ht
          rw [modStitch_memory, makeStitch_done_memory hu]
        · exact makeStitch_done_memory ht
      · exact makeStitch_done_memory ht
    · split at ht
      · split at ht
        · split at ht <;> cases ht
          rfl
        · cases ht
      · split at ht
        · split at ht
          · split at ht <;> cases ht
            simp
          · cases ht
        · exact makeStitch_done_memory ht

theorem canon_stitchFor_wait {s : State} {m : Msg} {r arrival n : Nat} {t : State} {e : Option Nat}
    (ht : stitchFor s m r arrival n = .wait t e) (h : Canon s.memory) : Canon t.memory := by
  unfold stitchFor at ht
  extract_lets -underBinder +onlyGivenNames grant comm bits at ht
  split at ht
  · split at ht
    · split at ht
      · cases ht
      · exact canon_makeStitch_wait ht h
    · exact canon_makeStitch_wait ht h
  · split at ht
    · split at ht
      · split at ht
        · cases ht
        · exact canon_makeStitch_wait ht h
      · exact canon_makeStitch_wait ht h
    · split at ht
      · split at ht
        · split at ht <;> cases ht
        · cases ht
      · split at ht
        · split at ht
          · split at ht <;> cases ht
          · cases ht
        · exact canon_makeStitch_wait ht h

@[simp] theorem canon_responseStep {s : State} (m : Msg) (h : Canon s.memory) : Canon (responseStep s m).memory := by
  unfold responseStep
  split
  · exact h
  · rename_i r arrival rest _
    extract_lets -underBinder +onlyGivenNames move
    have hm : ∀ (t : State) (m : Msg), Canon t.memory → Canon (move t m).memory := fun t m ht => by
      unfold move
      split
      · split
        · exact canon_readArrives _ ht
        · exact canon_writeArrives _ ht
      · simpa using ht
    refine canon_ite (hm _ _ h) (canon_ite h ?_)
    split
    · rename_i t ht
      exact hm _ _ (stitchFor_done_memory ht ▸ h)
    · rename_i t e ht
      simpa using canon_stitchFor_wait ht h
    · refine canon_ite (hm _ _ h) (canon_ite h ?_)
      simpa [responseStep.modAccsUnsent] using h

@[simp] theorem keeps_execReadResponse (msg : Nat) (s : State) : Keeps s (execReadResponse msg s) := by
  unfold execReadResponse
  refine keeps_next.2 fun h => ?_
  (repeat' split) <;> simp [h]

@[simp] theorem keeps_execWriteGrant (msg : Nat) (s : State) : Keeps s (execWriteGrant msg s) := by
  unfold execWriteGrant
  refine keeps_next.2 fun h => ?_
  (repeat' split) <;> simp [h]

@[simp] theorem canon_runTx {s : State} (m : Msg) (keep : Option Nat) (h : Canon s.memory) : Canon (runTx s m keep).memory := by
  unfold runTx
  dsimp only
  (repeat' split) <;> simp [h]

@[simp] theorem keeps_execWriteRequest (msg : Nat) (s : State) : Keeps s (execWriteRequest msg s) := by
  unfold execWriteRequest
  refine keeps_next.2 fun h => ?_
  dsimp only
  (repeat' split) <;> simp [h]

@[simp] theorem canon_invalStep {s : State} (m : Msg) (h : Canon s.memory) : Canon (invalStep s m).memory := by
  unfold invalStep
  dsimp only
  (repeat' split) <;> simp [h]

@[simp] theorem keeps_execInvalidation (msg : Nat) (s : State) : Keeps s (execInvalidation msg s) := by
  unfold execInvalidation
  refine keeps_next.2 fun h => ?_
  (repeat' split) <;> simp [h]

@[simp] theorem canon_ackStep {s : State} (m : Msg) (h : Canon s.memory) : Canon (ackStep s m).memory := by
  unfold ackStep
  split
  · refine canon_ite (by simpa using h) ?_
    split
    · exact canon_finishGather _ _ _ _ (by simpa using h)
    · simpa using h
  · extract_lets -underBinder +onlyGivenNames s1
    have h1 : Canon s1.memory := by simpa [s1] using h
    split
    · exact h1
    · exact canon_ite (canon_advanceNode _ _ h1) (canon_advanceNode _ _ h1)

@[simp] theorem keeps_execInvalidationAck (msg : Nat) (s : State) : Keeps s (execInvalidationAck msg s) := by
  unfold execInvalidationAck
  refine keeps_next.2 fun h => ?_
  (repeat' split) <;> simp [h]

@[simp] theorem keeps_execAnchorRelease (msg : Nat) (s : State) : Keeps s (execAnchorRelease msg s) := by
  unfold execAnchorRelease
  refine keeps_next.2 fun h => ?_
  split
  · refine canon_ite h (canon_ite (by simpa using h) (canon_ite (by simpa using h) ?_))
    split
    · split <;> simpa using h
    · refine canon_ite h (canon_runTx _ _ ?_)
      rw [modStitch_memory]
      split
      · exact canon_writeHome _ _ _ h
      · exact h
  · exact h

@[simp] theorem keeps_execFoldDelivery (msg : Nat) (s : State) : Keeps s (execFoldDelivery msg s) := by
  unfold execFoldDelivery
  refine keeps_next.2 fun h => ?_
  split
  · rename_i m _
    have hd : Canon (dropMsg s m.id).memory := by simpa using h
    have hw : Canon (homeward s m).memory := by simpa using h
    exact canon_ite h (canon_ite (by simpa using h) (canon_ite (canon_ite (by simpa using hw) hw)
      (canon_ite (by simpa using h) (canon_ite (by simpa using hd) (canon_ite hd (canon_foldMemory _ _ _ _ hd))))))
  · exact h

@[simp] theorem keeps_execJoinRequest (msg : Nat) (s : State) : Keeps s (execJoinRequest msg s) := by
  unfold execJoinRequest
  refine keeps_next.2 fun h => ?_
  dsimp only
  (repeat' split) <;> simp [h]

@[simp] theorem keeps_execCommutativeGather (msg : Nat) (s : State) : Keeps s (execCommutativeGather msg s) := by
  unfold execCommutativeGather
  refine keeps_next.2 fun h => ?_
  dsimp only
  (repeat' split) <;> simp [h]

@[simp] theorem canon_gatherNode {s : State} (r line port why : Nat) (h : Canon s.memory) :
    Canon (gatherNode s r line port why).memory := by
  unfold gatherNode
  split
  · exact canon_ite (canon_finishNode _ h) (by simpa using h)
  · split
    · simpa using h
    · refine canon_advanceNode _ _ ?_
      split <;> simpa using h

@[simp] theorem keeps_execGatherStart (msg : Nat) (s : State) : Keeps s (execGatherStart msg s) := by
  unfold execGatherStart
  refine keeps_next.2 fun h => ?_
  split
  · refine canon_ite h ?_
    split
    · exact canon_gatherNode _ _ _ _ (by simpa using h)
    · simpa using h
    · simpa using h
  · exact h

@[simp] theorem keeps_execCollect (msg : Nat) (s : State) : Keeps s (execCollect msg s) := by
  unfold execCollect
  refine keeps_next.2 fun h => ?_
  split
  · exact canon_ite (canon_gatherNode _ _ _ _ (by simpa using h)) h
  · exact h

@[simp] theorem keeps_execUnpickRequest (msg : Nat) (s : State) : Keeps s (execUnpickRequest msg s) := by
  unfold execUnpickRequest
  refine keeps_next.2 fun h => ?_
  (repeat' split) <;> simp [h]

@[simp] theorem keeps_execUncachedAccess (acc : Nat) (s : State) : Keeps s (execUncachedAccess acc s) := by
  unfold execUncachedAccess
  refine keeps_next.2 fun h => ?_
  split
  · refine canon_ite h (canon_ite (by simpa using h) (canon_ite (by simpa using h) ?_))
    split
    · refine canon_ite h (canon_ite (canon_ite ?_ (canon_finishGather _ _ _ _ ?_)) (canon_runTx _ _ h)) <;> simpa using h
    · exact canon_performAll canon_performHome _ _ h
  · exact h

@[simp] theorem keeps_execBranchLossReport (msg : Nat) (s : State) : Keeps s (execBranchLossReport msg s) := by
  unfold execBranchLossReport
  refine keeps_next.2 fun h => ?_
  split
  · rename_i m _
    have hd : Canon (dropMsg s m.id).memory := by simpa using h
    exact canon_ite h (canon_ite (by simpa using h) (canon_ite h (canon_ite (canon_runTx _ _ h) (canon_ite (canon_flagRegion _ hd)
      (canon_ite hd (canon_ite (canon_flagRegion _ hd) (canon_ite hd (canon_runTx _ _ h))))))))
  · exact h

@[simp] theorem canon_cutBranches {s : State} (router line : Nat) (t : Stitch) (dead : List Nat) (link : Bool) (h : Canon s.memory) :
    Canon (cutBranches s router line t dead link).memory := by
  unfold cutBranches
  extract_lets -underBinder +onlyGivenNames home s1 wave carried s2
  have h2 : Canon s2.memory := by
    refine canon_foldl (fun s p hs => ?_) _ (by simpa [s1] using h)
    extract_lets -underBinder +onlyGivenNames arg m s3
    have h3 : Canon s3.memory := canon_ite hs (by simpa using hs)
    refine canon_ite ?_ h3
    rw [ite_memory, gatherLeaseLost_memory, foldl_memory _ _ fun s h => by simp, ite_self]
    exact canon_postRecord _ h3
  split
  · exact canon_ite h2 (canon_advanceNode _ _ h2)
  · simpa using h2

@[simp] theorem keeps_execLeaseWindowEnd (router line : Nat) (s : State) : Keeps s (execLeaseWindowEnd router line s) := by
  unfold execLeaseWindowEnd
  refine keeps_next.2 fun h => ?_
  split
  · exact h
  · exact canon_ite h (canon_cutBranches _ _ _ _ _ (by simpa using h))

/-! ### Memory -/

@[simp] theorem canon_performDevx {s : State} (a : Acc) (h : Canon s.memory) : Canon (performDevx s a).memory :=
  canon_performAll canon_performHome _ _ (canon_collapse _ h)

@[simp] theorem canon_sendHostAtomic {s : State} (a : Acc) (h : Canon s.memory) : Canon (sendHostAtomic s a).memory := by
  unfold sendHostAtomic
  dsimp only
  (repeat' split) <;> simp [h]

theorem canon_performChip (s : State) (a : Acc) (t : State) (ht : performChip s a = .ok t) (h : Canon s.memory) : Canon t.memory := by
  unfold performChip at ht
  split at ht
  · split at ht
    · cases ht
    · cases ht
      rw [writeWords_memory]
      split <;> simpa using h
  · split at ht <;> cases ht <;> simpa using h
  · cases ht
    exact h

@[simp] theorem keeps_execLoadDataReturn (acc : Nat) (s : State) : Keeps s (execLoadDataReturn acc s) := by
  unfold execLoadDataReturn
  refine keeps_next.2 fun h => ?_
  split
  · exact h
  · refine canon_ite h ?_
    split
    · exact h
    · exact canon_performAll canon_performChip _ _ h
    · exact canon_performAll canon_performChip _ _ h
    · exact canon_ite h (by simpa using h)
    · exact canon_ite h (canon_sendHostAtomic _ h)
    · split
      · exact canon_performAll canon_performHere _ _ h
      · exact canon_ite h (by simpa using h)

@[simp] theorem canon_performReady {s : State} (ids : List Nat) (h : Canon s.memory) : Canon (performReady s ids).memory := by
  refine canon_foldl (fun s id hs => ?_) _ h
  split
  · exact hs
  · refine canon_ite ?_ hs
    split
    · rename_i t ht
      exact keeps_execLoadDataReturn id s t ht hs
    · exact hs

@[simp] theorem canon_makeAccs {s : State} (x : Iss) (h : Hdr) (as : List Acc) (dst : List Nat) (hc : Canon s.memory) :
    Canon (makeAccs s x h as dst).memory := by
  unfold makeAccs
  dsimp only
  (repeat' split) <;> simp [hc]

@[simp] theorem canon_memOp {s : State} (x : Iss) (h : Hdr) (act : Mask) (drop : Bool) (check : Nat → LaneOut)
    (mk : Nat → DWord → Nat → Acc) (addr : Nat → Nat) (dst : List Nat) (hc : Canon s.memory) :
    Canon (memOp s x h act drop check mk addr dst).memory := by
  unfold memOp
  extract_lets -underBinder +onlyGivenNames outs misses s1 oks fs
  have h1 : Canon s1.memory := by simpa [s1] using hc
  refine canon_ite (by simpa using hc) (canon_ite (by simpa using hc) ?_)
  split
  · exact canon_makeAccs _ _ _ _ h1
  · split <;> rename_i hp
    · simpa [memory_of_parked (.inr hp)] using h1
    · exact canon_makeAccs _ _ _ _ (by simpa [memory_of_parked (.inl hp)] using h1)

@[simp] theorem keeps_execLd (f : FmtM) (s : State) : Keeps s (execLd f s) := by
  unfold execLd
  exact keeps_issueOp_of_canon fun t x act h => canon_ite (by simpa using h) (canon_memOp _ _ _ _ _ _ _ _ h)

@[simp] theorem keeps_execSt (f : FmtM) (s : State) : Keeps s (execSt f s) := by
  unfold execSt
  exact keeps_issueOp_of_canon fun t x act h => canon_ite (by simpa using h) (canon_memOp _ _ _ _ _ _ _ _ h)

@[simp] theorem keeps_atomOp (f : FmtM) (red : Bool) (s : State) : Keeps s (atomOp f red s) := by
  unfold atomOp
  exact keeps_issueOp_of_canon fun t x act h => canon_ite (by simpa using h) (canon_memOp _ _ _ _ _ _ _ _ h)

@[simp] theorem keeps_execAtom (f : FmtM) (s : State) : Keeps s (execAtom f s) := by simp [execAtom]

@[simp] theorem keeps_execRed (f : FmtM) (s : State) : Keeps s (execRed f s) := by simp [execRed]

@[simp] theorem keeps_execPref (f : FmtM) (s : State) : Keeps s (execPref f s) := by
  unfold execPref
  exact keeps_issueOp_of_canon fun t x act h => canon_ite (by simpa using h) (canon_memOp _ _ _ _ _ _ _ _ h)

@[simp] theorem canon_hostHolds {s : State} (pa n v : Nat) (h : Canon s.memory) :
    Canon (hostHolds s pa n v).memory := by simp [hostHolds, h]

@[simp] theorem canon_hostPerform {s : State} (a : Acc) (old : Nat) (h : Canon s.memory) :
    Canon (hostPerform s a old).memory := by simp [hostPerform, h]

@[simp] theorem keeps_execAtomicopCompletion (acc : Nat) (refused : Bool) (old : BitVec 128) (s : State) :
    Keeps s (execAtomicopCompletion acc refused old s) := by
  unfold execAtomicopCompletion
  refine keeps_next.2 fun h => ?_
  (repeat' split) <;> simp [h]

@[simp] theorem keeps_execHostReadCompletion (acc : Nat) (data : BitVec 128) (s : State) : Keeps s (execHostReadCompletion acc data s) := by
  unfold execHostReadCompletion
  refine keeps_next.2 fun h => ?_
  (repeat' split) <;> simp [h]

@[simp] theorem keeps_execHostCasCompletion (acc : Nat) (refused : Bool) (seen : BitVec 128) (s : State) :
    Keeps s (execHostCasCompletion acc refused seen s) := by
  unfold execHostCasCompletion
  refine keeps_next.2 fun h => ?_
  dsimp only
  (repeat' split) <;> simp [h]

/-! ### Range -/

@[simp] theorem canon_flushLine {s : State} (line : Nat) (h : Canon s.memory) : Canon (flushLine s line).memory := by
  unfold flushLine
  dsimp only
  (repeat' split) <;> simp [h]

@[simp] theorem canon_rangeTurn {s : State} (m : Msg) (h : Canon s.memory) : Canon (rangeTurn s m).memory := by
  unfold rangeTurn
  refine canon_ite h ?_
  split
  · exact canon_ite (by simpa using h) (canon_flushLine _ (by simpa using h))
  · refine canon_ite h (canon_ite (canon_runTx _ _ h) (canon_ite (canon_ite ?_ ?_) (canon_ite ?_ (canon_flushLine _ ?_)))) <;> simpa using h

@[simp] theorem keeps_execRangeOpComplete (op : Nat) (s : State) : Keeps s (execRangeOpComplete op s) := by
  unfold execRangeOpComplete
  refine keeps_next.2 fun h => ?_
  dsimp only
  (repeat' split) <;> simp [h]

/-! ### Tensor -/

@[simp] theorem canon_putDesc {s : State} (ctx id : Nat) (d : Img) (h : Canon s.memory) : Canon (putDesc s ctx id d).memory := by
  unfold putDesc
  dsimp only
  (repeat' split) <;> simp [h]

@[simp] theorem canon_cacheWrite {s : State} (core a : Nat) (bs : List Byte) (h : Canon s.memory) :
    Canon (cacheWrite s core a bs).memory := by
  fun_cases cacheWrite s core a bs <;> simp [h]

/-- An answer that keeps the state keeps it. -/
theorem except_map_const {ε α : Type} {e : Except ε α} {s t : State} (h : e.map (fun _ => s) = .ok t) : s = t := by
  cases e <;> simp_all [Except.map]

theorem canon_engWrite (s : State) (g : Eng) (va : Nat) (bs : List Byte) (t : State) (ht : engWrite s g va bs = .ok t)
    (h : Canon s.memory) : Canon t.memory := by
  unfold engWrite at ht
  split at ht
  · cases ht
  · split at ht
    · split at ht <;> cases ht
      simpa using h
    · cases ht
      split <;> simpa using h
    · exact (except_map_const ht) ▸ h
    · exact (except_map_const ht) ▸ h
    · cases ht
      exact canon_spoilMem _ _ _ (canon_cacheWrite _ _ _ h)

theorem canon_engModify (s : State) (g : Eng) (pte : DWord) (pa n : Nat) (f : List Byte → List Byte) (t : State)
    (ht : engModify s g pte pa n f = .ok t) (h : Canon s.memory) : Canon t.memory := by
  unfold engModify at ht
  split at ht
  · cases ht
  · dsimp only at ht
    split at ht <;> cases ht
    exact canon_spoilMem _ _ _ (canon_cacheWrite _ _ _ h)

theorem canon_engRed (s : State) (g : Eng) (va cfmt cop code : Nat) (t : State) (ht : engRed s g va cfmt cop code = .ok t)
    (h : Canon s.memory) : Canon t.memory := by
  unfold engRed at ht
  dsimp only at ht
  split at ht
  · cases ht
  · split at ht
    · split at ht
      · cases ht
      · split at ht
        · cases ht
        · exact canon_engModify _ _ _ _ _ _ _ ht h
    · cases ht

theorem canon_engElem (s : State) (g : Eng) (e : ElemWrite) (t : State) (ht : engElem s g e = .ok t) (h : Canon s.memory) :
    Canon t.memory := by
  unfold engElem at ht
  split at ht
  · exact canon_engWrite _ _ _ _ _ ht h
  · split at ht
    · cases ht
    · split at ht
      · exact canon_engWrite _ _ _ _ _ ht h
      · cases ht
        exact h
      · exact canon_engWrite _ _ _ _ _ ht h
      · exact canon_engModify _ _ _ _ _ _ _ ht h

@[simp] theorem canon_engElems {s : State} (g : Eng) (es : List ElemWrite) (h : Canon s.memory) : Canon (engElems s g es).1.memory := by
  refine canon_foldl_of Prod.fst (fun r e hr => ?_) _ _ h
  split
  · rename_i t ht
    exact canon_engElem _ _ _ _ ht hr
  · exact hr

/-! ### Copy -/

@[simp] theorem keeps_execDescriptorWriteComplete (op : Nat) (s : State) : Keeps s (execDescriptorWriteComplete op s) := by
  unfold execDescriptorWriteComplete
  refine keeps_next.2 fun h => ?_
  split
  · exact h
  · split
    · refine canon_ite h ?_
      rw [completeTag_memory]
      exact canon_putDesc _ _ _ (by simpa using h)
    · exact h

@[simp] theorem canon_writeElems {s : State} (g : Eng) (es : List ElemWrite) (h : Canon s.memory) : Canon (writeElems s g es).1.memory := by
  refine canon_foldl_of Prod.fst (fun r part hr => ?_) _ _ h
  split
  · exact canon_engElems _ _ hr
  · refine canon_foldl_of Prod.fst (fun r run hr => ?_) _ _ hr
    split
    · rename_i t ht
      exact canon_engWrite _ _ _ _ _ ht hr
    · exact hr

@[simp] theorem canon_freeHits {old s : State} (a : Async) (h : Canon s.memory) : Canon (freeHits old s a).memory := by
  refine canon_foldl (fun s w hs => canon_foldl (fun s x hs => ?_) _ hs) _ h
  split
  · simpa using hs
  · simpa using hs
  · exact canon_coherentWrite _ _ hs
  · exact hs

@[simp] theorem canon_leavePart {s : State} (a : Async) (c : CopyArgs) (h : Canon s.memory) : Canon (leavePart s a c).memory := by
  unfold leavePart
  extract_lets -underBinder +onlyGivenNames rs s1 rows t1 t2 far
  have h1 : s1.memory = s.memory := noteEngineOut_memory _ _ _
  have ht1 : t1.memory = s1.memory := by
    refine foldl_memory _ _ fun s r => ?_
    extract_lets -underBinder +onlyGivenNames offs
    refine foldl_memory _ _ fun s run => ?_
    refine ite_memory_eq ?_ (foldl_memory _ _ fun s k => chipPut_memory _ _ _ _ _)
    dsimp only
    split <;> simp
  have ht2 : Canon t2.memory := by
    refine canon_foldl (fun t w ht => canon_foldl (fun t r ht => ?_) _ ht) _ (ht1 ▸ h1 ▸ h)
    split
    · split
      · exact canon_foldl (fun t p ht => canon_coherentWrite _ _ ht) _ ht
      · exact canon_foldl (fun t p ht => canon_coherentWrite _ _ ht) _ ht
      · exact ht
    · exact ht
  refine canon_ite h ?_
  rw [memory_update]
  split
  · simpa using ht2
  · simpa using ht2

@[simp] theorem canon_endEarly {s : State} (a : Async) (h : Canon s.memory) : Canon (endEarly s a).memory := by
  fun_cases endEarly s a <;> simp [h]

theorem canon_putRow (a : Async) (c : CopyArgs) (r : Nat) (res : CopyRes) (row : List (Option Byte)) (h : Canon res.s.memory) :
    Canon (putRow a c r res row).s.memory := by
  unfold putRow
  extract_lets -underBinder +onlyGivenNames d dest place bs
  split
  · exact h
  · refine canon_foldl_of CopyRes.s (fun res run hr => ?_) _ _ h
    split
    · split
      · rename_i t ht
        exact canon_engWrite _ _ _ _ _ ht hr
      · exact hr
    · simpa using hr

theorem canon_inRow (a : Async) (c : CopyArgs) (res : CopyRes) (r : Nat) (h : Canon res.s.memory) :
    Canon (inRow a c res r).s.memory := by
  unfold inRow
  extract_lets -underBinder +onlyGivenNames d fmt n out
  refine canon_putRow _ _ _ _ _ ?_
  refine canon_foldl_of (fun p : CopyRes × List (Option Nat) => p.1.s) (fun p i hp => ?_) _ _ h
  dsimp only
  split
  · exact hp
  · split <;> exact hp

theorem putRuns_memory (a : Async) (res : CopyRes) : (putRuns a res).s.memory = res.s.memory := by
  unfold putRuns
  extract_lets -underBinder +onlyGivenNames check out good res'
  have hr : res'.s.memory = res.s.memory := foldl_memory_of CopyRes.s (fun res o => by split <;> rfl) _ _
  simp [hr]

theorem canon_writeOut (a : Async) (c : CopyArgs) (res : CopyRes) (es : List ElemWrite) (h : Canon res.s.memory) :
    Canon (writeOut a c res es).s.memory := by
  unfold writeOut
  split
  · exact canon_writeElems _ _ h
  · refine canon_foldl_of CopyRes.s (fun res e hr => ?_) _ _ h
    split
    · rename_i t ht
      exact canon_engRed _ _ _ _ _ _ _ ht hr
    · exact hr

theorem outElem_s (a : Async) (c : CopyArgs) (is : List Nat) (res : CopyRes) (code : Nat) : (outElem a c is res code).1.s = res.s := by
  unfold outElem
  dsimp only
  repeat' split
  all_goals rfl

theorem outRow_memory (a : Async) (c : CopyArgs) (p : CopyRes × List ElemWrite) (r : Nat) : (outRow a c p r).1.s.memory = p.1.s.memory := by
  unfold outRow
  extract_lets -underBinder +onlyGivenNames d fmt n offs row poisoned
  refine foldl_memory_of (fun p : CopyRes × List ElemWrite => p.1.s) (fun p i => ?_) _ _
  dsimp only
  split
  · rfl
  · split
    · rfl
    · have hr := outElem_s a c (eltCoords d c.coords r i).1 p.1 (codeOf fmt (tPl d) (tTile d 0) row i)
      split <;> rename_i he <;> rw [he] at hr <;> exact congrArg State.memory hr

theorem farWrites_memory {s t : State} {a : Async} {red : Bool} {es : List ElemWrite} (h : farWrites s a red es = some t) :
    t.memory = s.memory := by
  unfold farWrites at h
  dsimp only at h
  split at h
  · cases h
    simp
  · cases h
    simp
  · split at h <;> cases h
    simp

theorem beforeWrite_memory {s t : State} {a : Async} {ws : List ElemWrite} (h : beforeWrite s a ws = some t) : t.memory = s.memory := by
  unfold beforeWrite at h
  dsimp only at h
  split at h
  · cases h
    rfl
  · split at h
    · cases h
      simp
    · cases h
      simp
    · split at h
      · cases h
        rfl
      · exact farWrites_memory h

@[simp] theorem keeps_execCopyComplete (op : Nat) (s : State) : Keeps s (execCopyComplete op s) := by
  unfold execCopyComplete
  refine keeps_next.2 fun h => ?_
  split
  · exact h
  · split
    · refine canon_ite (canon_endEarly _ h) (canon_ite h ?_)
      extract_lets -underBinder +onlyGivenNames rs
      split
      · simpa using h
      · simpa using h
      · refine canon_ite h ?_
        extract_lets -underBinder +onlyGivenNames old s1 rows outs
        have h1 : s1.memory = s.memory := noteEngineOut_memory _ _ _
        have ho : outs.1.s.memory = s1.memory := by
          unfold outs
          split
          · exact foldl_memory_of (fun p : CopyRes × List ElemWrite => p.1.s) (fun p r => outRow_memory _ _ p r) _ _
          · rfl
        split
        · rename_i t ht
          rwa [farWrites_memory ht, h1]
        · extract_lets -underBinder +onlyGivenNames res s2
          have hres : Canon res.s.memory := by
            unfold res
            split
            · exact canon_writeOut _ _ _ _ (ho ▸ h1 ▸ h)
            · rw [putRuns_memory]
              exact canon_foldl_of CopyRes.s (fun res r hr => canon_inRow _ _ res r hr) _ _ (show Canon s1.memory from h1 ▸ h)
          have h2 : Canon s2.memory := canon_countTimes _ _ _ _ (canon_countEvents _ _ _ (by simpa using hres))
          rw [endOp_memory]
          exact canon_freeHits _ h2
    · exact h

@[simp] theorem canon_engStored {s : State} (g : Eng) (va n : Nat) (h : Canon s.memory) : Canon (engStored s g va n).memory := by
  unfold engStored
  simp +contextual [h, canon_foldl]

@[simp] theorem keeps_execTagComplete (op : Nat) (s : State) : Keeps s (execTagComplete op s) := by
  unfold execTagComplete
  refine keeps_next.2 fun h => ?_
  split
  · exact h
  · split
    · refine canon_ite (by simpa using h) (canon_ite h (canon_ite (by simpa using h) ?_))
      extract_lets -underBinder +onlyGivenNames bs ws
      split
      · rename_i t ht
        rwa [beforeWrite_memory ht]
      · rw [endOp_memory]
        exact canon_writeElems _ _ (by simpa using h)
    · refine canon_ite (by simpa using h) (canon_ite h ?_)
      split
      · rename_i t ht
        rwa [beforeWrite_memory ht]
      · rw [endOp_memory]
        exact canon_foldl (fun t e ht => canon_engStored _ _ _ ht) _ (canon_writeElems _ _ (by simpa using h))
    · exact h

/-! ### Element -/

@[simp] theorem canon_sttGo {s : State} (x : Iss) (f : FmtA) (d : Img) (n : Nat) (oks : List (Nat × SttLane)) (h : Canon s.memory) :
    Canon (sttGo s x f d n oks).memory := by
  unfold sttGo
  extract_lets -underBinder +onlyGivenNames m g p adv advs s1 s2 s3 deps r
  have h3 : Canon s3.memory := canon_countTimes _ _ _ _ (canon_countEvents _ _ _ (by simpa [s2, s1] using h))
  simpa [r] using h3

theorem canon_withTag {s : State} {x : Iss} {o : Opd} {f : Nat → State} (h : Canon s.memory) (hf : ∀ n, Canon (f n).memory) :
    Canon (withTag s x o f).memory := canon_ite (hf _) (by simpa using h)

theorem canon_withPeers {s : State} {x : Iss} {rs : List (Nat × Nat)} {f : State → State} (h : Canon s.memory)
    (hf : ∀ t, Canon t.memory → Canon (f t).memory) : Canon (withPeers s x rs f).memory := by
  unfold withPeers
  dsimp only
  split
  · exact hf s h
  · split
    · exact canon_ite (by simpa using h) (hf s h)
    · simpa using h

theorem canon_withLoad {s : State} {x : Iss} {act : Mask} {va n : Nat} {f : State → State} (h : Canon s.memory)
    (hf : ∀ t, Canon t.memory → Canon (f t).memory) : Canon (withLoad s x act va n f).memory := by
  unfold withLoad
  split
  · exact hf s h
  · split
    · exact canon_withPeers h hf
    · simpa using h

theorem canon_afterAccs {s : State} {x : Iss} {act : Mask} {f : State} (h : Canon s.memory) (hf : Canon f.memory) :
    Canon (afterAccs s x act f).memory := canon_ite hf (by simpa using h)

theorem canon_withReads {s : State} {x : Iss} {codes : List Nat} {act : Mask} {f : State} (h : Canon s.memory) (hf : Canon f.memory) :
    Canon (withReads s x codes act f).memory := by
  fun_cases withReads s x codes act f
  · simpa using h
  · simpa using h
  · simpa using h
  · exact hf

theorem canon_withAnswers {s : State} {a : Async} {rs : List (Nat × Nat)} {f : State} (h : Canon s.memory) (hf : Canon f.memory) :
    Canon (withAnswers s a rs f).memory := by
  unfold withAnswers
  split
  · exact canon_ite h hf
  · simpa using h

theorem keeps_regEvent_of_canon {s : State} {w : RegWr} {f : CReg → State} (hf : ∀ r, Canon s.memory → Canon (f r).memory) :
    Keeps s (regEvent s w f) := keeps_next.2 fun h => by
  split
  · exact h
  · exact canon_ite h (hf _ h)

@[simp] theorem keeps_execStt (f : FmtA) (s : State) : Keeps s (execStt f s) := by
  refine keeps_issueOp_of_canon fun t x act h => canon_ite (by simpa using h) ?_
  extract_lets -underBinder +onlyGivenNames id d rank regs
  refine canon_ite (by simpa using h) (canon_ite (by simpa using h) (canon_ite (by simpa using h) (canon_withReads h ?_)))
  extract_lets -underBinder +onlyGivenNames n
  refine canon_ite (by simpa using h) (canon_withTag h fun n => ?_)
  extract_lets -underBinder +onlyGivenNames outs misses fs oks
  refine canon_ite (by simpa using h) (canon_ite (by simpa using h) (canon_withPeers h fun s hs => canon_ite (canon_sttGo _ _ _ _ _ hs) ?_))
  split <;> rename_i t hp
  · simpa [memory_of_parked (.inr hp)] using hs
  · exact canon_sttGo _ _ _ _ _ (by simpa [memory_of_parked (.inl hp)] using hs)

/-! ### Matrix -/

@[simp] theorem keeps_execPassStart (core : Nat) (s : State) : Keeps s (execPassStart core s) := by
  unfold execPassStart
  refine keeps_next.2 fun h => ?_
  dsimp only
  (repeat' split) <;> simp [h]

@[simp] theorem keeps_execPassComplete (core : Nat) (s : State) : Keeps s (execPassComplete core s) := by
  unfold execPassComplete
  refine keeps_next.2 fun h => ?_
  extract_lets -underBinder +onlyGivenNames k
  split
  · exact h
  · extract_lets -underBinder +onlyGivenNames qs steps s1 r s2
    have hr : Canon r.1.memory := by
      have : r.1.memory = s1.memory := foldl_memory_of Prod.fst (fun r q => by simp) _ _
      simpa [this, s1] using h
    refine canon_ite h ?_
    rw [noteEmpty_memory]
    unfold s2
    cases qs
    · exact hr
    · exact canon_countEvents _ _ _ hr

/-! ### Array -/

@[simp] theorem keeps_execMxst (f : FmtX) (s : State) : Keeps s (execMxst f s) := by
  refine keeps_issueOp_of_canon fun t x act h => ?_
  refine canon_ite (by simpa using h) ?_
  extract_lets -underBinder +onlyGivenNames os
  split
  · simpa using h
  · refine canon_withTag h fun n => canon_withPeers h fun s hs => ?_
    extract_lets -underBinder +onlyGivenNames g hh p s1 s2
    have h1 : Canon s1.memory := canon_ite (by simpa using hs) hs
    have h2 : Canon s2.memory := canon_countTimes _ _ _ _ (canon_countEvents _ _ _ h1)
    simpa using h2

@[simp] theorem keeps_execWriteBackComplete (op : Nat) (s : State) : Keeps s (execWriteBackComplete op s) := by
  unfold execWriteBackComplete
  refine keeps_next.2 fun h => ?_
  split
  · exact h
  · split
    · refine canon_ite (by simpa using h) (canon_ite h ?_)
      split
      · rename_i t ht
        rwa [beforeWrite_memory ht]
      · dsimp only
        rw [endOp_memory]
        exact canon_writeElems _ _ (by simpa using h)
    · exact h

@[simp] theorem canon_writeAndEnd {s : State} (a : Async) (va : DWord) (bs : List Byte) (h : Canon s.memory) :
    Canon (writeAndEnd s a va bs).memory := by
  unfold writeAndEnd
  split
  · rename_i t ht
    rwa [beforeWrite_memory ht]
  · dsimp only
    rw [endOp_memory]
    exact canon_writeElems _ _ (by simpa using h)

@[simp] theorem keeps_execMxsaveComplete (op : Nat) (s : State) : Keeps s (execMxsaveComplete op s) := by
  unfold execMxsaveComplete
  refine keeps_next.2 fun h => ?_
  (repeat' split) <;> simp [h]

/-! ### Levels -/

@[simp] theorem canon_endOps {s : State} (p : Nat → Nat → Nat → Bool) (all : Bool) (h : Canon s.memory) :
    Canon (endOps s p all).memory := by
  unfold endOps
  (repeat' split) <;> simp +contextual [h, canon_foldl]

/-! ### Sched -/

@[simp] theorem canon_startCancel {s : State} (ctx cid : Nat) (h : Canon s.memory) : Canon (startCancel s ctx cid).memory := by
  unfold startCancel
  extract_lets -underBinder +onlyGivenNames mark p ls s1 s2 s3 s4 s5
  have hm : ∀ (t : State) (n : Nat), (mark t n).memory = t.memory := fun t n => by simp [mark]
  have h2 : Canon s2.memory := canon_ite (by simpa [s1, hm] using h) (canon_foldl (fun s l hs => by simpa [hm] using hs) _
      (by simpa [s1, hm] using h))
  have h4 : Canon s4.memory := by
    refine canon_foldl (fun s l hs => canon_foldl (fun s t hs => canon_ite hs ?_) _ hs) _ (by simpa [s3] using h2)
    exact canon_ite (by simpa using hs) (by simpa using hs)
  exact canon_endOps _ _ (canon_foldl (fun s g hs => by simpa using hs) _ h4)

@[simp] theorem canon_killSheet {s : State} (c slot : Nat) (h : Canon s.memory) : Canon (killSheet s c slot).memory := by
  unfold killSheet
  (repeat' split) <;> simp +contextual [h, canon_foldl]

@[simp] theorem keeps_execCancelKillTimeout (core slot : Nat) (s : State) : Keeps s (execCancelKillTimeout core slot s) := by
  unfold execCancelKillTimeout
  refine keeps_next.2 fun h => ?_
  (repeat' split) <;> simp [h]

/-! ### Preempt -/

@[simp] theorem canon_killWork {s : State} (ctx launch : Nat) (h : Canon s.memory) : Canon (killWork s ctx launch).memory := by
  unfold killWork
  extract_lets -underBinder +onlyGivenNames p hs s1 s2 s3 s4 s5 s6
  have h3 : Canon s3.memory := canon_endOps _ _ (by simpa [s2, s1] using h)
  have h5 : Canon s5.memory := canon_foldl (fun s l hs => canon_foldl (fun s t hs => by simpa using hs) _ hs) _ (by simpa [s4] using h3)
  simpa [s6] using h5

@[simp] theorem canon_cancelJob {s : State} (ctx : Nat) (h : Canon s.memory) : Canon (cancelJob s ctx).memory := by
  unfold cancelJob
  simp +contextual [h, canon_foldl]

@[simp] theorem canon_killRecord {s : State} (l : Launch) (why : KillWhy) (again : Bool) (h : Canon s.memory) :
    Canon (killRecord s l why again).memory := by simp [killRecord, h]

@[simp] theorem keeps_execLaunchKill (ctx launch : Nat) (why : KillWhy) (s : State) : Keeps s (execLaunchKill ctx launch why s) := by
  unfold execLaunchKill
  refine keeps_next.2 fun h => ?_
  split
  · exact h
  · rename_i l _
    extract_lets -underBinder +onlyGivenNames again s1 fn r s2 s3
    have h1 : Canon s1.memory := canon_killRecord _ _ _ (canon_killWork _ _ h)
    have h2 : Canon s2.memory := by simpa [s2] using canon_cancelJob ctx h1
    have h3 : Canon s3.memory := canon_postRecord _ h2
    exact canon_ite h (canon_ite h1 (canon_ite (by simpa using h1) (canon_ite h3 (canon_postRecord _ h3))))

@[simp] theorem canon_killFunction {s : State} (fn : Nat) (h : Canon s.memory) : Canon (killFunction s fn).memory := by
  unfold killFunction
  extract_lets -underBinder +onlyGivenNames cs s1
  have h1 : Canon s1.memory := canon_foldl (fun s l hs => canon_killRecord _ _ _ hs) _ h
  rw [settleStore_memory]
  exact canon_foldl (fun s c hs => canon_cancelJob _ hs) _ h1

@[simp] theorem canon_copyPage {s : State} (src dst : Nat) (h : Canon s.memory) : Canon (copyPage s src dst).memory := by
  unfold copyPage
  simp +contextual [h, canon_foldl]

@[simp] theorem keeps_execSnapshotPageCopy (ctx launch page : Nat) (s : State) : Keeps s (execSnapshotPageCopy ctx launch page s) := by
  unfold execSnapshotPageCopy
  refine keeps_next.2 fun h => ?_
  split
  · exact h
  · extract_lets -underBinder +onlyGivenNames q used
    refine canon_ite h (canon_ite (by simpa using h) (canon_ite h ?_))
    extract_lets -underBinder +onlyGivenNames b s1 s2 s3
    have h3 : Canon s3.memory := canon_setReg _ _ (canon_coherentWrite _ _ (canon_copyPage _ _ h))
    simpa using h3

@[simp] theorem keeps_execLaunchRollback (ctx launch : Nat) (s : State) : Keeps s (execLaunchRollback ctx launch s) := by
  unfold execLaunchRollback
  refine keeps_next.2 fun h => ?_
  split
  · exact h
  · extract_lets -underBinder +onlyGivenNames b s1 s2 s3 q s4
    have h1 : Canon s1.memory := canon_foldl (fun s p hs => canon_copyPage _ _ (canon_foldl (fun s i hs => by simpa using hs) _ hs)) _ h
    have h4 : Canon s4.memory := canon_setReg _ _ (by simpa [s3, s2] using h1)
    exact canon_ite h (by simpa using h4)

/-! ### Work -/

@[simp] theorem canon_acceptLaunch {s : State} (ctx q : Nat) (r : List DWord) (h : Canon s.memory) :
    Canon (acceptLaunch s ctx q r).1.memory := by
  unfold acceptLaunch
  dsimp only
  (repeat' split) <;> simp [h]

@[simp] theorem keeps_execLaunch (f : FmtG) (s : State) : Keeps s (execLaunch f s) := by
  unfold execLaunch
  refine keeps_activeOp_of_canon fun t x act h => canon_afterAccs h ?_
  extract_lets -underBinder +onlyGivenNames va q out
  have ho : ∀ (s : State) (v : Nat), (out s v).memory = s.memory := fun s v => by simp [out]
  refine canon_ite (by simpa [ho] using h) (canon_ite (by simpa [ho] using h) (canon_withLoad h fun s hs => ?_))
  split
  · simpa [ho] using hs
  · refine canon_ite (by simpa [ho] using hs) (canon_ite (by simpa [ho] using hs) ?_)
    simpa [ho] using canon_acceptLaunch _ _ _ hs

@[simp] theorem keeps_execCancel (f : FmtG) (s : State) : Keeps s (execCancel f s) := by
  refine keeps_activeOp_of_canon fun t x act h => ?_
  dsimp only
  (repeat' split) <;> simp [h]

/-! ### System -/

@[simp] theorem keeps_execMboxComplete (op : Nat) (s : State) : Keeps s (execMboxComplete op s) := by
  unfold execMboxComplete
  refine keeps_next.2 fun h => ?_
  (repeat' split) <;> simp [h]

@[simp] theorem keeps_execHalt (f : FmtG) (s : State) : Keeps s (execHalt f s) := by
  refine keeps_issueOp_of_canon fun t x act h => ?_
  refine canon_ite (by simpa using h) ?_
  rw [doneOp_memory]
  exact canon_postRecord _ (by simpa using h)

/-! ### Power -/

@[simp] theorem keeps_execControlIntervalStart (amps : Nat) (temps : List (Nat × Nat)) (s : State) :
    Keeps s (execControlIntervalStart amps temps s) := by
  unfold execControlIntervalStart
  refine keeps_next.2 fun h => ?_
  extract_lets -underBinder +onlyGivenNames temps t1 t2 t3 hot
  have h3 : Canon t3.memory := by simpa [t3, t2, t1, noteSteps_memory] using h
  exact canon_ite h (canon_ite (canon_ite h3 (canon_foldl (fun t p ht => canon_postRecord _ ht) _ h3)) (canon_ite h3 h3))

/-! ### RegWrite -/

@[simp] theorem canon_enterError {s : State} (fn reason addr : Nat) (h : Canon s.memory) : Canon (enterError s fn reason addr).memory := by
  unfold enterError
  extract_lets -underBinder +onlyGivenNames f s1 r s2
  exact canon_ite h (canon_postRecord _ (canon_postRecord _ (canon_killFunction fn h)))

theorem canon_trimStitches {s : State} (r n : Nat) (h : Canon s.memory) : Canon (trimStitches s r n).memory := by
  induction n generalizing s with
  | zero => exact h
  | succ n ih =>
    unfold trimStitches
    refine canon_ite h ?_
    split
    · exact ih (canon_evictStitch _ _ h)
    · exact h

@[simp] theorem keeps_execSclimWrite (w : RegWr) (s : State) : Keeps s (execSclimWrite w s) := by
  refine keeps_regEvent_of_canon fun r h => ?_
  split
  · exact canon_trimStitches _ _ (by simpa using h)
  · exact h

@[simp] theorem keeps_execFrozenRegisterWrite (w : RegWr) (s : State) : Keeps s (execFrozenRegisterWrite w s) := by
  unfold execFrozenRegisterWrite
  refine keeps_next.2 fun h => ?_
  (repeat' split) <;> simp [h]

/-! ### Host -/

@[simp] theorem canon_writeLines {s : State} (agent a : Nat) (bs : List Byte) (h : Canon s.memory) :
    Canon (writeLines s agent a bs).memory := by
  refine canon_foldl (fun s l hs => ?_) _ h
  dsimp only
  refine canon_spoilMem _ _ _ ?_
  split
  · exact canon_ite (by simpa using hs) (canon_coherentWrite _ _ hs)
  · exact canon_coherentWrite _ _ hs

@[simp] theorem keeps_execHostPostedWrite (w : HostReq) (s : State) : Keeps s (execHostPostedWrite w s) := by
  unfold execHostPostedWrite
  refine keeps_next.2 fun h => ?_
  (repeat' split) <;> simp [h]

@[simp] theorem keeps_execHostAtomicopRequest (r : HostReq) (s : State) : Keeps s (execHostAtomicopRequest r s) := by
  unfold execHostAtomicopRequest
  refine keeps_next.2 fun h => canon_ite (by simpa using h) (canon_ite (by simpa using h) ?_)
  split
  · exact canon_writeLines _ _ _ (by simpa using h)
  · simpa using h

@[simp] theorem keeps_execMsixUnmask (fn vector : Nat) (s : State) : Keeps s (execMsixUnmask fn vector s) := by
  unfold execMsixUnmask
  refine keeps_next.2 fun h => ?_
  dsimp only
  (repeat' split) <;> simp [h]

@[simp] theorem canon_scrub {s : State} (fn : Nat) (h : Canon s.memory) : Canon (scrub s fn).memory := by
  unfold scrub
  extract_lets -underBinder +onlyGivenNames cs s1 s2 s3 s4 s5 mine s6 f s7 s8
  have h2 : Canon s2.memory := by simpa [s2] using canon_killFunction fn h
  have h4 : Canon s4.memory := canon_foldl (fun s r hs => canon_zeroRange _ _ (by simpa using hs)) _ h2
  refine canon_postRecord _ ?_
  have h5 : Canon s5.memory := canon_foldl (fun s c hs => by simpa using hs) _ h4
  exact canon_setReg _ _ h5

@[simp] theorem keeps_execFunctionLevelReset (fn : Nat) (s : State) : Keeps s (execFunctionLevelReset fn s) := by
  unfold execFunctionLevelReset
  exact keeps_next.2 fun h => canon_ite h (canon_ite (canon_scrub _ h)
    (canon_scrub _ (canon_foldl (fun s k hs => canon_scrub _ hs) _ h)))

@[simp] theorem keeps_execStopInterfaceRequest (fn : Nat) (s : State) : Keeps s (execStopInterfaceRequest fn s) := by
  unfold execStopInterfaceRequest
  refine keeps_next.2 fun h => ?_
  (repeat' split) <;> simp [h]

@[simp] theorem keeps_execIdeIntegrityFailure (fn : Nat) (s : State) : Keeps s (execIdeIntegrityFailure fn s) := by
  unfold execIdeIntegrityFailure
  refine keeps_next.2 fun h => ?_
  dsimp only
  (repeat' split) <;> simp [h]

/-! ### Fabric -/

@[simp] theorem canon_loseTrees {s : State} (d : Nat) (h : Canon s.memory) : Canon (loseTrees s d).memory := by
  unfold loseTrees
  dsimp only
  (repeat' split) <;> simp [h]

@[simp] theorem canon_collectDone {s : State} (line router : Nat) (v : PartialLine) (h : Canon s.memory) :
    Canon (collectDone s line router v).memory := by
  fun_cases collectDone s line router v <;> simp [h]

@[simp] theorem canon_loseCopies {s : State} (dev : Nat) (p : CLine → Bool) (link : Bool) (h : Canon s.memory) :
    Canon (loseCopies s dev p link).memory := by
  refine canon_foldl (fun s l hs => ?_) _ h
  extract_lets -underBinder +onlyGivenNames s1
  have h1 : Canon s1.memory := by simpa [s1] using hs
  split
  · exact canon_ite (canon_cutBranches _ _ _ _ _ h1) (canon_localDone _ _ h1)
  · exact h1

@[simp] theorem canon_loseTile {s : State} (dev tile r : Nat) (h : Canon s.memory) :
    Canon (loseTile s dev tile r).memory := by simp [loseTile, h]

@[simp] theorem canon_loseBranches {s : State} (dev : Nat) (h : Canon s.memory) : Canon (loseBranches s dev).memory := by
  unfold loseBranches
  extract_lets -underBinder +onlyGivenNames dead s1 s2
  refine canon_foldl (fun s r hs => ?_) _ (canon_loseCopies _ _ _ h)
  split
  · exact canon_collectDone _ _ _ hs
  · simpa using hs
  · exact hs

@[simp] theorem canon_pathLost {s : State} (dev : Nat) (h : Canon s.memory) : Canon (pathLost s dev).memory := by
  unfold pathLost
  extract_lets -underBinder +onlyGivenNames s1 s2 s3
  have h2 : Canon s2.memory := canon_foldl (fun s d hs => canon_loseTrees _ (canon_setReg _ _ hs)) _ (canon_postRecord _ h)
  have h3 : Canon s3.memory := by simpa [s3] using canon_loseBranches dev h2
  exact h3

@[simp] theorem keeps_execFabricRegisterWrite (w : RegWr) (s : State) : Keeps s (execFabricRegisterWrite w s) := by
  refine keeps_regEvent_of_canon fun r h => ?_
  split
  · exact canon_ite h (by simpa using h)
  · exact canon_ite h (by simpa using h)
  · simpa using h
  · exact canon_ite (canon_pathLost _ (by simpa using h)) (by simpa using h)
  · simpa using h
  · exact h

@[simp] theorem canon_portDown {s : State} (p : Nat) (h : Canon s.memory) : Canon (portDown s p).memory := by
  unfold portDown
  extract_lets -underBinder +onlyGivenNames s1 s2 through s3
  have h1 : Canon s1.memory := canon_setReg _ _ h
  have h2 : Canon s2.memory := by simpa [s2] using h1
  exact canon_ite h (canon_foldl (fun s r hs => canon_pathLost _ hs) _ (canon_postRecord _ h2))

@[simp] theorem keeps_execPortIdleTimeout (port : Nat) (s : State) : Keeps s (execPortIdleTimeout port s) := by
  unfold execPortIdleTimeout
  refine keeps_next.2 fun h => ?_
  (repeat' split) <;> simp [h]

@[simp] theorem keeps_execFlitCrcRetry (port : Nat) (good : Bool) (s : State) : Keeps s (execFlitCrcRetry port good s) := by
  unfold execFlitCrcRetry
  refine keeps_next.2 fun h => ?_
  (repeat' split) <;> simp [h]

@[simp] theorem keeps_execTileGrant (req state : Nat) (data : List Byte) (s : State) : Keeps s (execTileGrant req state data s) := by
  unfold execTileGrant
  refine keeps_next.2 fun h => ?_
  split
  · exact h
  · extract_lets -underBinder +onlyGivenNames s1
    split
    · exact canon_ite h (canon_putBytes _ _ (by simpa [s1] using h))
    · exact h

@[simp] theorem canon_takeTile {s : State} (tile : Nat) (h : Canon s.memory) : Canon (takeTile s tile).1.memory := by
  unfold takeTile
  simp +contextual [h, canon_foldl]

@[simp] theorem keeps_execTileInvalidation (tile : Nat) (s : State) : Keeps s (execTileInvalidation tile s) := by
  unfold execTileInvalidation
  refine keeps_next.2 fun h => canon_ite h ?_
  rw [emit_memory, setStitches_memory, memory_mk]
  exact canon_filter _ (canon_takeTile _ h)

@[simp] theorem canon_serveFab {s : State} (m : FabMsg) (h : Canon s.memory) : Canon (serveFab s m).memory := by
  fun_cases serveFab s m
  case case14 t | case18 t => simpa [t] using h
  case case21 r t =>
    have hr : r.1.memory = s.memory := by simp [r]
    exact canon_ite (by simpa [hr] using h) (by simpa [hr] using h)
  case case25 r => simpa [r] using h
  all_goals simp [h]

@[simp] theorem keeps_execEmsenRequest (m : FabMsg) (s : State) : Keeps s (execEmsenRequest m s) :=
  keeps_next.2 fun h => canon_ite h (canon_serveFab m h)

@[simp] theorem keeps_execEmsenResponse (req status : Nat) (data : List Byte) (s : State) :
    Keeps s (execEmsenResponse req status data s) := by
  unfold execEmsenResponse
  refine keeps_next.2 fun h => ?_
  dsimp only
  (repeat' split) <;> simp [h]

@[simp] theorem keeps_execEmsenDeadlineExpiry (req : Nat) (s : State) : Keeps s (execEmsenDeadlineExpiry req s) := by
  unfold execEmsenDeadlineExpiry
  refine keeps_next.2 fun h => ?_
  dsimp only
  (repeat' split) <;> simp [h]

/-! ### Boot -/

@[simp] theorem canon_booted (s : State) (b : Boot) (boots : Nat) : Canon (booted s b boots).memory := by
  unfold booted
  refine canon_setReg _ _ (canon_setReg _ _ (canon_setReg _ _ (canon_setReg _ _ (canon_setReg _ _ ?_))))
  exact wf_reset

@[simp] theorem keeps_execPowerOn (p : BootPlan) (s : State) : Keeps s (execPowerOn p s) := by simp +contextual [execPowerOn]

@[simp] theorem keeps_execWarmReset (p : BootPlan) (s : State) : Keeps s (execWarmReset p s) := by simp +contextual [execWarmReset]

end Sys2Proof.Machine
end

section
/-!
PROOF. Every step keeps memory canonical.
-/
namespace Sys2Proof.Machine

theorem keeps_exec (i : Instr) (s : State) : Keeps s (exec i s) := by
  cases i <;> simp [exec]

theorem canon_heldBack {s : State} {i : Instr} {t : State} (ht : heldBack s i = some t) (h : Canon s.memory) : Canon t.memory := by
  unfold heldBack at ht
  split at ht
  · split at ht <;> cases ht
    exact h
  · split at ht
    · dsimp only at ht
      split at ht
      · cases ht
      · split at ht
        · cases ht
        · split at ht <;> cases ht
          · exact h
          · exact canon_makeRoom _ _ _ h
    · cases ht
  · split at ht
    · split at ht <;> cases ht
      simpa using h
    · split at ht
      · split at ht <;> cases ht
        exact h
      · cases ht

/-- The state of what happens next. -/
def Todo.state : Todo → State
  | .done s => s
  | .event _ s => s
  | .instr _ s => s

@[simp] theorem state_done (s : State) : (Todo.done s).state = s := rfl
@[simp] theorem state_event (i : Instr) (s : State) : (Todo.event i s).state = s := rfl
@[simp] theorem state_instr (i : Instr) (s : State) : (Todo.instr i s).state = s := rfl

@[simp] theorem issueAt_memory (s : State) (c e : Nat) (couple : Bool) : (issueAt s c e couple).state.memory = s.memory := by
  fun_cases issueAt s c e couple <;> simp

@[simp] theorem deviceNext_memory (s : State) : (deviceNext s).state.memory = s.memory := by
  fun_cases deviceNext s <;> simp

theorem canon_agendaNext {s : State} (a : Agendum) (rest : List Agendum) (h : Canon s.memory) :
    Canon (agendaNext s a rest).state.memory := by
  fun_cases agendaNext s a rest
  case case2 t => exact (issueAt_memory ..).symm ▸ canon_ite (by simpa [t] using h) (by simpa [t] using h)
  case case8 t ht _ => exact canon_heldBack ht h
  all_goals simpa using h

theorem canon_whatNext {s : State} (h : Canon s.memory) : Canon (whatNext s).state.memory := by
  unfold whatNext
  split
  · simpa using h
  · split
    · exact canon_agendaNext _ _ h
    · split
      · simpa using h
      · simpa using h

@[simp] theorem afterIssue_memory (old s : State) : (afterIssue old s).memory = s.memory := by
  unfold afterIssue
  extract_lets -underBinder +onlyGivenNames s1 stop
  have h1 : s1.memory = s.memory := rfl
  have hs : stop.memory = s.memory := rfl
  split
  · split
    · split <;> assumption
    · exact hs
  · exact hs

theorem canon_step {s t : State} (ht : step s = .next t) (h : Canon s.memory) : Canon t.memory := by
  unfold step at ht
  split at ht
  · cases ht
  · have hn := canon_whatNext h
    split at ht <;> rename_i hw <;> rw [hw] at hn
    · cases ht
      exact hn
    · exact keeps_exec _ _ t ht hn
    · split at ht
      · rename_i u hu
        cases ht
        simpa using keeps_exec _ _ u hu hn
      · cases ht
      · cases ht

/-- Settles O59: each row of the opcode table keeps memory canonical, and so does what the step adds before and after it. -/
theorem memoryStaysCanonical : Obligations.MemoryStaysCanonical :=
  fun _ _ h ht => canon_step ht h

end Sys2Proof.Machine
end

section
/-!
SUPPORT. Memory instructions whose lanes do not access (02 R34, R38): what their checks see, the walks that they ask for, and the leaf that
waits or is parked.
-/
namespace Sys2Proof.Machine

/-! ### What the checks of an access see after tags are consumed -/

theorem launchRec_consumeSrc (s : State) (x : Iss) (u : List (Opd × Role)) (act : Mask) (h : Sheet) :
    launchRec (consumeSrc s x u act) h = launchRec s h := by rw [consumeSrc_rest]; rfl

theorem sheetTask_consumeSrc (s : State) (x : Iss) (u : List (Opd × Role)) (act : Mask) (h : Sheet) :
    sheetTask (consumeSrc s x u act) h = sheetTask s h := by rw [consumeSrc_rest]; rfl

theorem ownsChip_consumeSrc (s : State) (x : Iss) (u : List (Opd × Role)) (act : Mask) (ctx core off n : Nat) :
    ownsChip (consumeSrc s x u act) ctx core off n = ownsChip s ctx core off n := by
  have hp : placed (consumeSrc s x u act) (core / 4) = placed s (core / 4) := by rw [consumeSrc_rest]; rfl
  simp only [ownsChip, core_sheets_consumeSrc, hp]

theorem windowCheck_consumeSrc (s : State) (x : Iss) (u : List (Opd × Role)) (act : Mask) (ctx : Nat) (priv pp : Bool) (core off n : Nat) :
    windowCheck (consumeSrc s x u act) ctx priv pp core off n = windowCheck s ctx priv pp core off n := by
  simp only [windowCheck, ownsChip_consumeSrc]

theorem placeCheck_consumeSrc (s : State) (x : Iss) (u : List (Opd × Role)) (act : Mask) (ctx : Nat) (priv direct : Bool)
    (kind bytes : Nat) (glb : Bool) (pte : DWord) (pa : Nat) :
    placeCheck (consumeSrc s x u act) ctx priv direct kind bytes glb pte pa = placeCheck s ctx priv direct kind bytes glb pte pa := by
  have hplace : placeOf (consumeSrc s x u act) pa = placeOf s pa := by rw [consumeSrc_rest]; rfl
  have hframe : frameCheck (consumeSrc s x u act) (pteImode pte) pa = frameCheck s (pteImode pte) pa := by rw [consumeSrc_rest]; rfl
  have hperm : permCheck (consumeSrc s x u act) ctx priv kind pte pa = permCheck s ctx priv kind pte pa := by rw [consumeSrc_rest]; rfl
  simp only [placeCheck, windowCheck_consumeSrc, hplace, hframe, hperm]

theorem laneCheck_consumeSrc (s : State) (x : Iss) (u : List (Opd × Role)) (act : Mask) (asp kind bytes : Nat) (cls : BitVec 3)
    (subop : BitVec 7) (addr : Nat) :
    laneCheck (consumeSrc s x u act) x asp kind bytes cls subop addr = laneCheck s x asp kind bytes cls subop addr := by
  have hc : (tget {} (consumeSrc s x u act).cores x.core).tlb = (tget {} s.cores x.core).tlb :=
    show (coreOf (consumeSrc s x u act) x.core).tlb = (coreOf s x.core).tlb by rw [coreOf_consumeSrc]
  have hk : (consumeSrc s x u act).clusters = s.clusters := by rw [consumeSrc_rest]
  have htlb : tlbLookup (consumeSrc s x u act) x.core x.sheet.ctx addr = tlbLookup s x.core x.sheet.ctx addr := by
    rw [tlbLookup, tlbLookup, hc, hk]
  have hw : walkFaultFor (consumeSrc s x u act) x.core x.entry x.sheet.ctx addr = walkFaultFor s x.core x.entry x.sheet.ctx addr := by
    rw [walkFaultFor, walkFaultFor, coreOf_consumeSrc]
  simp only [laneCheck, placeCheck_consumeSrc, sheetTask_consumeSrc, launchRec_consumeSrc, htlb, hw]

theorem memAddr_consumeSrc (s : State) (x : Iss) (u : List (Opd × Role)) (act : Mask) (f : FmtM) (l : Nat) :
    memAddr (consumeSrc s x u act) x f l = memAddr s x f l := by
  simp only [memAddr, readOpd_consumeSrc, launchRec_consumeSrc]

theorem memStalled_consumeSrc (s : State) (x : Iss) (u : List (Opd × Role)) (act : Mask) (c : Nat) :
    memStalled (consumeSrc s x u act) c = memStalled s c := by
  have hd : (consumeSrc s x u act).dies = s.dies := by rw [consumeSrc_rest]
  simp only [memStalled, core_leaves_consumeSrc, hd]

/-! ### Walks that an access asks for -/

/-- A miss changes the walks of the die and nothing else. -/
theorem queueWalk_rest (s : State) (core entry ctx va : Nat) :
    queueWalk s core entry ctx va = { s with nextId := (queueWalk s core entry ctx va).nextId, dies := (queueWalk s core entry ctx va).dies } := by
  unfold queueWalk
  dsimp only
  split
  · rfl
  · split <;> rfl

theorem walkQueued_queueWalk {s : State} {core entry ctx va : Nat} (v : Nat) (h : walkQueued s core ctx v = true) :
    walkQueued (queueWalk s core entry ctx va) core ctx v = true := by
  unfold queueWalk
  dsimp only
  unfold walkQueued at h ⊢
  split
  · simp only [tget_tput_same, ← List.map_append, List.any_map]
    simp only [List.any_eq_true] at h ⊢
    obtain ⟨w, hw, hs⟩ := h
    refine ⟨w, hw, ?_⟩
    dsimp only [Function.comp]
    split <;> exact hs
  · split
    · exact h
    · rw [tget_tput_same]
      simp only [List.any_append, Bool.or_eq_true] at h ⊢
      tauto

theorem walkQueued_queueWalk_self {s : State} {core entry ctx va : Nat} (h : (tget {} s.dies (dieOfCore core)).missed.length < 128) :
    walkQueued (queueWalk s core entry ctx va) core ctx va = true := by
  unfold queueWalk
  dsimp only
  unfold walkQueued
  split
  · rename_i hs
    simp only [tget_tput_same, ← List.map_append, List.any_map]
    rw [← List.any_append, List.any_eq_true] at hs
    obtain ⟨w, hw, he⟩ := hs
    refine List.any_eq_true.2 ⟨w, hw, ?_⟩
    dsimp only [Function.comp]
    split <;> exact he
  · rw [if_neg (by omega), tget_tput_same]
    simp

theorem missed_queueWalk (s : State) (core entry ctx va : Nat) :
    (tget {} (queueWalk s core entry ctx va).dies (dieOfCore core)).missed.length ≤ (tget {} s.dies (dieOfCore core)).missed.length + 1 := by
  unfold queueWalk
  dsimp only
  split
  · simp
  · split <;> simp

/-- A page of which no walk is queued after all misses were named found the queue full: it was nearly so before (02 R34). -/
theorem walkQueued_misses {core entry ctx v : Nat} (vas : List Nat) (s : State) (hv : v ∈ vas)
    (h : (tget {} s.dies (dieOfCore core)).missed.length + vas.length ≤ 128) :
    walkQueued (vas.foldl (fun s va => queueWalk s core entry ctx va) s) core ctx v = true := by
  have keep (vs : List Nat) (s : State) (hq : walkQueued s core ctx v = true) :
      walkQueued (vs.foldl (fun s va => queueWalk s core entry ctx va) s) core ctx v = true := by
    induction vs generalizing s with
    | nil => exact hq
    | cons a vs ih => exact ih _ (walkQueued_queueWalk v hq)
  induction vas generalizing s with
  | nil => cases hv
  | cons a vas ih =>
    have hm := missed_queueWalk s core entry ctx a
    simp only [List.length_cons] at h
    rcases List.mem_cons.1 hv with rfl | hv
    · exact keep vas _ (walkQueued_queueWalk_self (by omega))
    · exact ih _ hv (by dsimp only; omega)
/-! ### A memory instruction whose lanes miss or fault -/

/-- A leaf that is blocked stands at its instruction. -/
theorem leafOf_blockLeaf {s : State} {c e : Nat} {l : Leaf} (hl : leafOf s c e = some l) (w : Wait) :
    leafOf (blockLeaf s c e w) c e = some { l with st := .blocked w, inRun := false, runLen := 0 } := by
  simp [blockLeaf, hl]

@[simp] theorem blockLeaf_accs (s : State) (c e : Nat) (w : Wait) : (blockLeaf s c e w).accs = s.accs := by
  unfold blockLeaf
  split <;> rfl

@[simp] theorem queueWalk_accs (s : State) (core entry ctx va : Nat) : (queueWalk s core entry ctx va).accs = s.accs := by
  rw [queueWalk_rest]

@[simp] theorem leafOf_queueWalk (s : State) (core entry ctx va c e : Nat) : leafOf (queueWalk s core entry ctx va) c e = leafOf s c e := by
  rw [queueWalk_rest]
  rfl

theorem queueWalks_accs (core entry ctx : Nat) (vas : List Nat) (s : State) :
    (vas.foldl (fun s va => queueWalk s core entry ctx va) s).accs = s.accs := by
  induction vas generalizing s with
  | nil => rfl
  | cons a vas ih => exact (ih _).trans (queueWalk_accs ..)

theorem leafOf_queueWalks (core entry ctx c e : Nat) (vas : List Nat) (s : State) :
    leafOf (vas.foldl (fun s va => queueWalk s core entry ctx va) s) c e = leafOf s c e := by
  induction vas generalizing s with
  | nil => rfl
  | cons a vas ih => exact (ih _).trans (leafOf_queueWalk ..)

/-- The leaf of `x` waits in `t` for `w` at its instruction, and nothing has been accessed since `s`. -/
def HeldFor (s t : State) (x : Iss) (w : Wait) : Prop :=
  t.mem = s.mem ∧ t.accs = s.accs ∧ ∃ k, leafOf t x.core x.entry = some k ∧ k.st = .blocked w ∧ k.pc = x.leaf.pc ∧ k.mask = x.leaf.mask

theorem heldFor_blockLeaf {s t : State} {x : Iss} (hm : t.memory = s.memory) (ha : t.accs = s.accs)
    (hl : leafOf t x.core x.entry = some x.leaf) (w : Wait) : HeldFor s (blockLeaf t x.core x.entry w) x w :=
  ⟨(blockLeaf_memory ..).trans hm, (blockLeaf_accs ..).trans ha, _, leafOf_blockLeaf hl w, rfl, rfl, rfl⟩

/-- Misses: the leaf waits for the walks, or for room where the queue was nearly full. -/
theorem heldFor_waitWalks {s : State} {x : Iss} {vas : List Nat} (hl : leafOf s x.core x.entry = some x.leaf) (hn : vas.length ≤ 32) :
    HeldFor s (waitWalks s x vas) x .walks ∨
      96 < (tget {} s.dies (dieOfCore x.core)).missed.length ∧ HeldFor s (waitWalks s x vas) x .walkRoom := by
  unfold waitWalks
  extract_lets t
  have hm : t.memory = s.memory := foldl_memory _ _ fun s va => queueWalk_memory _ _ _ _ _
  have ha : t.accs = s.accs := queueWalks_accs ..
  have ht : leafOf t x.core x.entry = some x.leaf := (leafOf_queueWalks ..).trans hl
  split
  · exact .inl (heldFor_blockLeaf hm ha ht _)
  · rename_i hq
    refine .inr ⟨?_, heldFor_blockLeaf hm ha ht _⟩
    by_contra hlt
    exact hq (List.all_eq_true.2 fun v hv => walkQueued_misses vas s hv (by omega))

theorem topFault_mem {fs : List LaneFault} {f : LaneFault} (h : topFault fs = some f) : f ∈ fs := by
  induction fs generalizing f with
  | nil => cases h
  | cons a fs ih =>
    unfold topFault at h
    split at h
    · cases h
      exact List.mem_cons_self
    · rename_i g hg
      split at h <;> cases h
      · exact List.mem_cons_of_mem _ (ih hg)
      · exact List.mem_cons_self

theorem topFault_isSome {fs : List LaneFault} (h : fs ≠ []) : (topFault fs).isSome = true := by
  cases fs with
  | nil => exact absurd rfl h
  | cons a fs =>
    unfold topFault
    split
    · rfl
    · split <;> rfl

/-- The same fault in every lane of a mask. -/
def sameFaults (m : Mask) (cause status : Nat) (addr : Nat → Nat) : List LaneFault :=
  (laneList m).map (fun l => { lane := l, cause := cause, status := status, addr := addr l })

theorem maskOf_eq {m : Mask} {f : Nat → Bool} (h : ∀ l, l < 32 → f l = m.has l) : maskOf f = m :=
  BitVec.eq_of_getLsbD_eq fun l hl => by
    have := has_maskOf f l
    rw [h l hl] at this
    simpa [Mask.has, hl] using this

theorem any_laneList (m : Mask) (l : Nat) : (laneList m).any (fun i => decide (i = l)) = m.has l := by
  rw [Bool.eq_iff_iff, List.any_eq_true]
  constructor
  · rintro ⟨i, hi, he⟩
    exact of_decide_eq_true he ▸ ((mem_laneList m i).1 hi).2
  · intro hl
    exact ⟨l, (mem_laneList m l).2 ⟨has_lt hl, hl⟩, by simp⟩

theorem faultLanes_sameFaults (m : Mask) (cause status : Nat) (addr : Nat → Nat) : faultLanes (sameFaults m cause status addr) = m :=
  maskOf_eq fun l _ => by
    simp only [sameFaults, List.any_map, Function.comp_def]
    exact any_laneList m l

/-- The record `r` says that every lane of `m` has the fault at `pc`, each at its address (02 R38, 17 R419). -/
structure Records (r : FaultRec) (m : Mask) (cause status : Nat) (pc : DWord) (addr : Nat → Nat) : Prop where
  cause : r.cause = cause
  status : r.status = status
  lanes : r.lanes = m
  lmask : r.lmask = m
  pc : r.pc = pc
  addr : ∀ l, m.has l = true → tget 0 r.addr l = BitVec.ofNat 64 (addr l)

theorem records_laneRec {m : Mask} {cause status : Nat} {addr : Nat → Nat} {top : LaneFault}
    (ht : top ∈ sameFaults m cause status addr) (pc : DWord) :
    Records (laneRec (sameFaults m cause status addr) top pc m) m cause status pc addr := by
  obtain ⟨i, -, rfl⟩ := List.mem_map.1 ht
  refine ⟨rfl, rfl, maskOf_eq fun l _ => ?_, rfl, rfl, fun l hl => ?_⟩
  · simp only [sameFaults, List.any_map, Function.comp_def, and_true]
    exact any_laneList m l
  · have := tget_foldl_tset (0 : DWord) 0 (fun l => BitVec.ofNat 64 (addr l)) (laneList m) [] l
    simp only [Nat.zero_add, Nat.sub_zero] at this
    simp only [laneRec, sameFaults, List.foldl_map]
    rw [this, if_pos ⟨l, (mem_laneList m l).2 ⟨has_lt hl, hl⟩, rfl⟩]

/-- The leaf at entry `e` of a core stands parked at `pc` with the lanes `m`, and its record says why. -/
def ParkedWith (t : State) (c e : Nat) (m : Mask) (cause status : Nat) (pc : DWord) (addr : Nat → Nat) : Prop :=
  (∃ l, leafOf t c e = some l ∧ l.st = .parked ∧ l.pc = pc ∧ l.mask = m) ∧
  ∃ r, tfind (coreOf t c).recs e = some r ∧ Records r m cause status pc addr

theorem sameFaults_ne_nil {m : Mask} (h : m ≠ 0) (cause status : Nat) (addr : Nat → Nat) : sameFaults m cause status addr ≠ [] := by
  obtain ⟨low, hl⟩ := lowLane_isSome h
  have := (mem_laneList m low).2 ⟨has_lt (lowLane_has hl), lowLane_has hl⟩
  intro hn
  simp [List.map_eq_nil_iff.1 hn] at this

/-- Every lane of a leaf that is not privileged faults alike: the whole leaf is parked. -/
theorem parkLanes_sameFaults {s : State} {c e : Nat} {l : Leaf} {h : Sheet} (hl : leafOf s c e = some l)
    (hs : sheetOf s c l.slot = some h) (hp : l.priv = false) (hm : l.mask ≠ 0) (pc : DWord) (cause status : Nat) (addr : Nat → Nat) :
    ∃ t, parkLanes s c e pc (sameFaults l.mask cause status addr) none = .all t ∧ ParkedWith t c e l.mask cause status pc addr := by
  obtain ⟨top, ht⟩ := Option.isSome_iff_exists.1 (topFault_isSome (sameFaults_ne_nil hm cause status addr))
  simp only [parkLanes, hl, ht, hs, hp, faultLanes_sameFaults, BitVec.and_self, Bool.false_eq_true, if_false, if_true]
  refine ⟨_, rfl, ⟨?leaf, ?stands, ?same⟩, _, ?recorded, records_laneRec (topFault_mem ht) pc⟩
  case stands =>
    rw [leafOf, coreOf_setCore]
    exact tfind_tput_same ..
  case same => exact ⟨rfl, rfl, rfl⟩
  case recorded =>
    rw [coreOf_setCore]
    exact tfind_tput_same ..

/-- A translation that an access finds in the cluster's TLB is cached by the core: nothing else of a core changes. -/
theorem coreOf_tlbFill (s : State) (core : Nat) (e : TlbEntry) (c : Nat) :
    coreOf (tlbFill s core e) c = { coreOf s c with tlb := (coreOf (tlbFill s core e) c).tlb } := by
  have hn : (noteMixed s e).cores = s.cores := by
    unfold noteMixed
    dsimp only
    split <;> rfl
  by_cases h : c = core
  · subst h
    simp [tlbFill, coreOf, hn]
  · have hc : coreOf (tlbFill s core e) c = coreOf s c := by
      simp only [tlbFill, coreOf, hn]
      exact tget_tput_ne _ _ _ _ _ h
    rw [hc]

theorem coreOf_tlbTouch (s : State) (x : Iss) (va c : Nat) :
    coreOf (tlbTouch s x va) c = { coreOf s c with tlb := (coreOf (tlbTouch s x va) c).tlb } := by
  unfold tlbTouch
  split
  · split
    · rfl
    · exact coreOf_tlbFill ..
  · rfl

theorem leafOf_tlbTouches (x : Iss) (addr : Nat → Nat) (c e : Nat) (ls : List Nat) (s : State) :
    leafOf (ls.foldl (fun s l => tlbTouch s x (addr l)) s) c e = leafOf s c e := by
  induction ls generalizing s with
  | nil => rfl
  | cons a ls ih => exact (ih _).trans (by rw [leafOf, coreOf_tlbTouch]; rfl)

theorem sheetOf_tlbTouches (x : Iss) (addr : Nat → Nat) (c i : Nat) (ls : List Nat) (s : State) :
    sheetOf (ls.foldl (fun s l => tlbTouch s x (addr l)) s) c i = sheetOf s c i := by
  induction ls generalizing s with
  | nil => rfl
  | cons a ls ih => exact (ih _).trans (by rw [sheetOf, coreOf_tlbTouch]; rfl)

theorem parkedWith_dropWalkFaults {t : State} {c e : Nat} {m : Mask} {cause status : Nat} {pc : DWord} {addr : Nat → Nat}
    (h : ParkedWith t c e m cause status pc addr) : ParkedWith (dropWalkFaults t c e) c e m cause status pc addr := by
  unfold dropWalkFaults
  dsimp only
  split
  · exact h
  · simpa [ParkedWith, leafOf] using h

theorem memOp_stalled {s : State} {x : Iss} {h : Hdr} {act : Mask} {check : Nat → LaneOut} {mk : Nat → DWord → Nat → Acc}
    {addr : Nat → Nat} {dst : List Nat} (hst : memStalled s x.core = true) :
    memOp s x h act false check mk addr dst = blockLeaf s x.core x.entry .walkRoom := by
  simp [memOp, hst]

theorem memOp_miss {s : State} {x : Iss} {h : Hdr} {act : Mask} {check : Nat → LaneOut} {mk : Nat → DWord → Nat → Acc}
    {addr : Nat → Nat} {dst : List Nat} (hst : memStalled s x.core = false) {l va : Nat} (hl : act.has l = true) (hc : check l = .miss va) :
    ∃ vas, vas.length ≤ 32 ∧ memOp s x h act false check mk addr dst = waitWalks s x vas := by
  generalize he : memOp s x h act false check mk addr dst = t
  unfold memOp at he
  extract_lets -underBinder +onlyGivenNames outs misses at he
  have hlen : misses.length ≤ 32 := calc
    misses.length ≤ outs.length := List.length_filterMap_le ..
    _ ≤ lanes.length := by simpa [outs, laneList] using List.length_filter_le _ lanes
    _ = 32 := by simp [lanes]
  have hmem : va ∈ misses := List.mem_filterMap.2
    ⟨(l, .miss va), List.mem_map.2 ⟨l, (mem_laneList act l).2 ⟨has_lt hl, hl⟩, by rw [hc]⟩, rfl⟩
  have hne : misses ≠ [] := List.ne_nil_of_mem hmem
  rw [if_neg (by simp [hst]), if_pos (by simpa using hne)] at he
  exact ⟨misses, hlen, he.symm⟩

theorem memOp_faults {s : State} {x : Iss} {h : Hdr} {act : Mask} {check : Nat → LaneOut} {mk : Nat → DWord → Nat → Acc}
    {addr : Nat → Nat} {dst : List Nat} {cause status : Nat} (hst : memStalled s x.core = false) (hn : act ≠ 0)
    (hc : ∀ l, act.has l = true → check l = .fault cause status) {t : State}
    (ht : parkLanes ((laneList act).foldl (fun s l => tlbTouch s x (addr l)) s) x.core x.entry x.leaf.pc
      (sameFaults act cause status addr) none = .all t) :
    memOp s x h act false check mk addr dst = dropWalkFaults t x.core x.entry := by
  unfold memOp
  extract_lets -underBinder +onlyGivenNames outs misses s1 oks fs
  have ho : outs = (laneList act).map (fun l => (l, LaneOut.fault cause status)) :=
    List.map_congr_left fun l hl => by rw [hc l ((mem_laneList act l).1 hl).2]
  have hm : misses = [] := by simp [misses, ho]
  have hf : fs = sameFaults act cause status addr := by simp [fs, ho, sameFaults, List.filterMap_map]
  have hne : fs.isEmpty = false := by simpa [hf] using sameFaults_ne_nil hn cause status addr
  rw [if_neg (by simp [hst]), if_neg (by simp [hm]), if_neg (by simp [hne]), hf, ht]

/-! ### The memory instructions -/

theorem consumeSrc_accs (s : State) (x : Iss) (u : List (Opd × Role)) (act : Mask) : (consumeSrc s x u act).accs = s.accs := by
  rw [consumeSrc_rest]

theorem HeldFor.waits {i : Instr} {s s0 t : State} {x : Iss} {w : Wait} (h : HeldFor s0 t x w) (hx : exec i s = .next t)
    (hm : s0.mem = s.mem) (ha : s0.accs = s.accs) :
    ∃ t k, exec i s = .next t ∧ t.mem = s.mem ∧ t.accs = s.accs ∧ leafOf t x.core x.entry = some k ∧ k.st = .blocked w ∧
      k.pc = x.leaf.pc ∧ k.mask = x.leaf.mask := by
  obtain ⟨htm, hta, k, hk⟩ := h
  exact ⟨t, k, hx, htm.trans hm, hta.trans ha, hk⟩

/-- An instruction that passes its checks and then makes the accesses of its lanes parks and waits as `memOp` does. -/
theorem lanesPark_of_memOp {i : Instr} {f : FmtM} {g : Sig} {chk bytes : Nat}
    (hi : ∀ s x act, Runs s x f.h g act → ∃ mk dst, exec i s = .next (memOp (consumeSrc s x g.uses act) x f.h act false
      (fun l => laneCheck (consumeSrc s x g.uses act) x f.asp.toNat chk bytes f.h.cls f.subop (memAddr (consumeSrc s x g.uses act) x f l))
      mk (memAddr (consumeSrc s x g.uses act) x f) dst)) : LanesPark i f g chk bytes := by
  intro s x act hr
  obtain ⟨mk, dst, hx⟩ := hi s x act hr
  have hadr : memAddr (consumeSrc s x g.uses act) x f = memAddr s x f := funext fun l => memAddr_consumeSrc ..
  simp only [laneCheck_consumeSrc, hadr] at hx
  obtain ⟨hleaf, hsheet⟩ := issuer_some hr.issues
  have hm : (consumeSrc s x g.uses act).mem = s.mem := consumeSrc_memory ..
  have ha := consumeSrc_accs s x g.uses act
  have hst := memStalled_consumeSrc s x g.uses act x.core
  have hl : leafOf (consumeSrc s x g.uses act) x.core x.entry = some x.leaf := (leafOf_consumeSrc ..).trans hleaf
  have hs : sheetOf (consumeSrc s x g.uses act) x.core x.leaf.slot = some x.sheet := by
    rw [sheetOf, core_sheets_consumeSrc]
    exact hsheet
  have hd : (consumeSrc s x g.uses act).dies = s.dies := by rw [consumeSrc_rest]
  refine ⟨fun hw => ?_, fun hw cause status hp hall hf => ?_, fun hw l va hact hmiss => ?_⟩
  · rw [memOp_stalled (hst.trans hw)] at hx
    exact (heldFor_blockLeaf rfl rfl hl _).waits hx hm ha
  · subst hall
    obtain ⟨t, ht, hpark⟩ := parkLanes_sameFaults ((leafOf_tlbTouches ..).trans hl) ((sheetOf_tlbTouches ..).trans hs) hp hr.some_lane
      x.leaf.pc cause status (memAddr s x f)
    rw [memOp_faults (hst.trans hw) hr.some_lane hf ht] at hx
    obtain ⟨hstands, r, hrec, hwhy⟩ := parkedWith_dropWalkFaults hpark
    refine ⟨_, r, hx, ?_, hstands, hrec, hwhy.cause, hwhy.status, hwhy.lanes, hwhy.lmask, hwhy.pc, hwhy.addr⟩
    have hmt : t.memory = s.memory := (memory_of_parked (.inr ht)).trans
      ((foldl_memory _ _ fun s l => tlbTouch_memory _ _ _).trans (consumeSrc_memory ..))
    exact (dropWalkFaults_memory ..).trans hmt
  · obtain ⟨vas, hn, hvas⟩ := memOp_miss (mk := mk) (h := f.h) (addr := memAddr s x f) (dst := dst)
      (check := fun l => laneCheck s x f.asp.toNat chk bytes f.h.cls f.subop (memAddr s x f l)) (hst.trans hw) hact hmiss
    rw [hvas] at hx
    rcases heldFor_waitWalks hl hn with hwait | ⟨hfull, hwait⟩
    · exact .inl (hwait.waits hx hm ha)
    · exact .inr ⟨hd ▸ hfull, hwait.waits hx hm ha⟩

/-- Settles O22: each of the four ends in `memOp`, in which lanes that miss wait and a leaf whose lanes all fault alike is parked. -/
theorem faultingLanes : Obligations.FaultingLanes := by
  intro f
  refine ⟨lanesPark_of_memOp fun s x act r => ⟨?_, ?_, ?ld⟩, lanesPark_of_memOp fun s x act r => ⟨?_, ?_, ?st⟩,
    lanesPark_of_memOp fun s x act r => ⟨?_, ?_, ?atom⟩, lanesPark_of_memOp fun s x act r => ⟨?_, ?_, ?red⟩⟩
  case ld =>
    rw [exec, execLd, issueOp_runs r]
    dsimp only
    rw [if_neg r.some_lane]
  case st =>
    rw [exec, execSt, issueOp_runs r]
    dsimp only
    rw [if_neg r.some_lane]
  case atom =>
    rw [exec, execAtom, atomOp, issueOp_runs r]
    dsimp only
    rw [if_neg r.some_lane]
    rfl
  case red =>
    rw [exec, execRed, atomOp, issueOp_runs r]
    dsimp only
    rw [if_neg r.some_lane]
    rfl

end Sys2Proof.Machine
end

section
/-!
SUPPORT. Page walks and the answers of the host to the atomics of lanes (02 R28 to R34, R42 to R45): what an entry makes of a walk, what an
access writes to memory and to the registers of its lane, and what each completion leads to.
-/
namespace Sys2Proof.Machine

/-! ### Walks -/

theorem accOf_id {s : State} {id : Nat} {a : Acc} (h : accOf s id = some a) : a.id = id := by simpa using List.find?_some h

theorem walkOf_id {s : State} {d n : Nat} {w : Walk} (h : walkOf s d n = some w) : w.id = n := by simpa using List.find?_some h

/-- A faulting walk leaves each of its waiters its status (02 R34). -/
def walkFaultStep (w : Walk) (status : Nat) (s : State) (p : Nat × Nat) : State :=
  setCore s p.1 { coreOf s p.1 with
    walkFaults := (coreOf s p.1).walkFaults ++ [{ entry := p.2, ctx := w.ctx, page := w.page, status := status }] }

theorem walkFaults_walkFaultStep (w : Walk) (status : Nat) (s : State) (p : Nat × Nat) (c : Nat) :
    (coreOf (walkFaultStep w status s p) c).walkFaults =
      (coreOf s c).walkFaults ++ if c = p.1 then [{ entry := p.2, ctx := w.ctx, page := w.page, status := status }] else [] := by
  unfold walkFaultStep
  by_cases h : c = p.1
  · subst h
    simp
  · simp [h, coreOf_setCore_ne _ _ _ _ h]

theorem mem_walkFaults_fold (w : Walk) (status : Nat) (ps : List (Nat × Nat)) (s : State) {c : Nat} {f : WalkFault}
    (h : f ∈ (coreOf s c).walkFaults ∨ ∃ p ∈ ps, p.1 = c ∧ f = { entry := p.2, ctx := w.ctx, page := w.page, status := status }) :
    f ∈ (coreOf (ps.foldl (walkFaultStep w status) s) c).walkFaults := by
  induction ps generalizing s with
  | nil => simpa using h
  | cons a ps ih =>
    refine ih _ ?_
    rw [walkFaults_walkFaultStep]
    rcases h with h | ⟨p, hp, rfl, rfl⟩
    · exact .inl (List.mem_append_left _ h)
    · rcases List.mem_cons.1 hp with rfl | hp
      · exact .inl (by simp)
      · exact .inr ⟨p, hp, rfl, rfl⟩

theorem mem_walkFaults_faultWalk {s : State} {d : Nat} {w : Walk} {status : Nat} {p : Nat × Nat} (hp : p ∈ w.waiters) :
    { entry := p.2, ctx := w.ctx, page := w.page, status := status } ∈ (coreOf (faultWalk s d w status) p.1).walkFaults :=
  mem_walkFaults_fold w status w.waiters (endWalk s d w.id) (.inr ⟨p, hp, rfl, rfl⟩)

theorem walkEntry_poisoned (s : State) (ctx level : Nat) (e : DWord) : walkEntry s ctx level e true = .fault stWalkPoison := by
  simp [walkEntry]

theorem walkEntry_absent {s : State} {ctx level : Nat} {e : DWord} (h : e.getLsbD 0 = false) :
    walkEntry s ctx level e false = .fault stNotPresent := by
  simp only [walkEntry, bitN_toNat, h]
  rfl

theorem walkEntry_leaf {s : State} {ctx level : Nat} {e : DWord} (h0 : e.getLsbD 0 = true) (h1 : e.getLsbD 1 = true)
    (hc : leafCheck s ctx level e = 0) : walkEntry s ctx level e false = .leaf e := by
  simp [walkEntry, bitN_toNat, h0, h1, hc]

theorem walkEntry_table {s : State} {ctx level b : Nat} {e : DWord} (h0 : e.getLsbD 0 = true) (h1 : e.getLsbD 1 = false)
    (hl : level ≠ 0) (hr : fld e 63 52 = 0) (hr' : fld e 7 2 = 0) (hp : placeOf s (fld e 51 8 * 2 ^ 8) = .hbm b)
    (hn : fld e 51 8 < 2 ^ 40) (hs : stackPresent s (b / 2 ^ 36) = true) : walkEntry s ctx level e false = .next b := by
  have hlocal : rangeLocal (fld e 51 8 * 2 ^ 8) = true := by
    have : fld e 51 8 * 2 ^ 8 / 2 ^ 48 = 0 := Nat.div_eq_of_lt (by omega)
    rw [rangeLocal, this]
    rfl
  simp only [walkEntry, bitN_toNat, h0, h1, hl, hr, hr', hp, hlocal, hs]
  rfl

/-- The address of the entry that a walk reads next. -/
def walkAddr (w : Walk) : Nat := entryAddr w.table w.level (w.page * 2 ^ 16)

/-- The entry that a walk reads there, and whether a word of it is poisoned. -/
def walkRead (s : State) (w : Walk) : DWord × Bool :=
  (BitVec.ofNat 64 (leBytes (coherentRead s (walkAddr w) 8).1), (coherentRead s (walkAddr w) 8).2)

/-- Walk `n` of a die stands at an entry that the walk cache does not hold and whose line is at rest. -/
structure AtEntry (s : State) (d n : Nat) (w : Walk) : Prop where
  walk : walkOf s d n = some w
  uncached : ∀ p ∈ (tget {} s.dies d).walkCache, p.1 ≠ walkAddr w
  rest : quiet s (lineOf (walkAddr w)) = true

theorem AtEntry.not_cached {s : State} {d n : Nat} {w : Walk} (h : AtEntry s d n w) :
    (tget {} s.dies d).walkCache.find? (fun p => decide (p.1 = entryAddr w.table w.level (w.page * 2 ^ 16))) = none :=
  List.find?_eq_none.2 fun p hp => by simpa [walkAddr] using h.uncached p hp

theorem AtEntry.at_rest {s : State} {d n : Nat} {w : Walk} (h : AtEntry s d n w) :
    quiet s (lineOf (entryAddr w.table w.level (w.page * 2 ^ 16))) = true := h.rest

theorem walkReadReturn_fault {s : State} {d n : Nat} {w : Walk} (h : AtEntry s d n w) {st : Nat}
    (he : walkEntry s w.ctx w.level (walkRead s w).1 (walkRead s w).2 = .fault st) :
    exec (.walkReadReturn d n) s = .next (faultWalk s d w st) := by
  simp only [walkRead, walkAddr] at he
  simp only [exec, execWalkReadReturn, h.walk, h.not_cached, h.at_rest, Option.map_none, Option.getD_none, Option.isNone_none,
    Bool.true_and, Bool.not_true, Bool.false_eq_true, if_false, he]

theorem walkReadReturn_table {s : State} {d n : Nat} {w : Walk} (h : AtEntry s d n w) {b : Nat}
    (he : walkEntry s w.ctx w.level (walkRead s w).1 (walkRead s w).2 = .next b) :
    ∃ die, exec (.walkReadReturn d n) s = .next { s with dies := tput s.dies d die } ∧
      die.active = (tget {} s.dies d).active.map (fun v => if v.id = n then { v with table := b, level := v.level - 1 } else v) := by
  simp only [walkRead, walkAddr] at he
  refine ⟨?die, ?run, ?same⟩
  case run =>
    simp only [exec, execWalkReadReturn, h.walk, h.not_cached, h.at_rest, Option.map_none, Option.getD_none, Option.isNone_none,
      Bool.true_and, Bool.not_true, Bool.false_eq_true, if_false, he]
    rfl
  case same => rfl

theorem walkReadReturn_leaf {s : State} {d n : Nat} {w : Walk} (h : AtEntry s d n w) {e : DWord}
    (he : walkEntry s w.ctx w.level (walkRead s w).1 (walkRead s w).2 = .leaf e)
    (hframe : frameCheck s (pteImode e) (paUnder e (tlbEntryOf w.ctx (w.page * 2 ^ 16) w.level e).size (w.page * 2 ^ 16)) = 0) :
    exec (.walkReadReturn d n) s =
      .next (w.waiters.foldl (fun s p => tlbFill s p.1 (tlbEntryOf w.ctx (w.page * 2 ^ 16) w.level e)) (endWalk s d n)) := by
  simp only [walkRead, walkAddr] at he
  simp only [exec, execWalkReadReturn, h.walk, h.not_cached, h.at_rest, Option.map_none, Option.getD_none, Option.isNone_none,
    Bool.true_and, Bool.not_true, Bool.false_eq_true, if_false, he, hframe, ne_eq,
    not_true_eq_false]

theorem find?_filter_ne (l : List Walk) (n : Nat) : (l.filter (fun w => decide (w.id ≠ n))).find? (fun w => decide (w.id = n)) = none :=
  List.find?_eq_none.2 fun w hw => by simpa using (List.mem_filter.1 hw).2

theorem walkOf_endWalk (s : State) (d n : Nat) : walkOf (endWalk s d n) d n = none := by
  simp only [walkOf, endWalk, tget_tput_same]
  exact find?_filter_ne ..

theorem walkOf_tlbFill (s : State) (core : Nat) (e : TlbEntry) (d n : Nat) : walkOf (tlbFill s core e) d n = walkOf s d n := by
  have : (noteMixed s e).dies = s.dies := by
    unfold noteMixed
    dsimp only
    split <;> rfl
  simp [walkOf, tlbFill, this]

theorem leafSize_pos (level : Nat) : 0 < leafSize level := by
  unfold leafSize
  split <;> norm_num

theorem tlbHit_tlbEntryOf (ctx va level : Nat) (pte : DWord) : tlbHit (tlbEntryOf ctx va level pte) ctx va = true := by
  simp [tlbHit, tlbEntryOf, Nat.div_mul_le_self, Nat.lt_div_mul_add (leafSize_pos level)]

/-- A translation just cached is found. -/
theorem tlbLookup_tlbFill {s : State} {core ctx va : Nat} {e : TlbEntry} (h : tlbHit e ctx va = true) :
    tlbLookup (tlbFill s core e) core ctx va = some e := by
  simp [tlbLookup, tlbFill, tlbPut, h]

theorem leads_tlbMissWalk {s : State} {d : Nat} {w : Walk} {rest : List Walk} {c : Ctx} (hm : (tget {} s.dies d).missed = w :: rest)
    (hn : (tget {} s.dies d).active.length < 32) (hc : ctxOf s w.ctx = some c) :
    Leads s (.tlbMissWalk d) (fun t => (tget {} t.dies d).missed = rest ∧
      (tget {} t.dies d).active = (tget {} s.dies d).active ++ [{ w with table := c.root, level := 4 }] ∧ t.mem = s.mem) := by
  simp only [Leads, exec, execTlbMissWalk, hm, hc]
  rw [if_neg (by omega), if_neg fun h => by cases (congrArg Option.isNone hc).symm.trans h]
  exact ⟨_, rfl, by simp, by simp, rfl⟩

theorem walkOf_table {s : State} {d n b : Nat} {w : Walk} (hw : walkOf s d n = some w) :
    ((tget {} s.dies d).active.map (fun v => if v.id = n then { v with table := b, level := v.level - 1 } else v)).find?
      (fun v => decide (v.id = n)) = some { w with table := b, level := w.level - 1 } := by
  have hp : ((fun v : Walk => decide (v.id = n)) ∘ fun v => if v.id = n then { v with table := b, level := v.level - 1 } else v) =
      fun v => decide (v.id = n) := by
    funext v
    dsimp only [Function.comp]
    split <;> rfl
  rw [List.find?_map, hp]
  have hf : (tget {} s.dies d).active.find? (fun v => decide (v.id = n)) = some w := hw
  simp [hf, walkOf_id hw]

theorem leads_faultWalk {s : State} {d n : Nat} {w : Walk} {st : Nat} (hx : exec (.walkReadReturn d n) s = .next (faultWalk s d w st)) :
    Leads s (.walkReadReturn d n) (fun t => t.mem = s.mem ∧ ∀ p ∈ w.waiters,
      { entry := p.2, ctx := w.ctx, page := w.page, status := st } ∈ (coreOf t p.1).walkFaults) :=
  ⟨_, hx, faultWalk_memory .., fun _ hp => mem_walkFaults_faultWalk hp⟩

/-! ### Memory after a store -/

theorem memByte_of_memory {s t : State} (h : t.memory = s.memory) (a : Nat) : memByte t a = memByte s a :=
  congrArg (fun m => tget 0 m a) h

theorem memBytes_of_memory {s t : State} (h : t.memory = s.memory) (a n : Nat) : memBytes t a n = memBytes s a n :=
  List.map_congr_left fun _ _ => memByte_of_memory h _

theorem storeMem_rest (s : State) (a : Nat) (bs : List Byte) :
    storeMem s a bs = { s with mem := (storeMem s a bs).mem, poison := (storeMem s a bs).poison } := by
  rw [storeMem, putBytes_rest]

theorem memKept_storeMem (s : State) (a : Nat) (bs : List Byte) : MemKeptBut s (storeMem s a bs) a bs.length := memKept_putBytes s a bs

theorem memBytes_storeMem (s : State) (a : Nat) (bs : List Byte) : memBytes (storeMem s a bs) a bs.length = bs := memBytes_putBytes s a bs

/-- A write that reaches no tensor-id table notes none (05 R126). -/
theorem noteTable_plain {s : State} {lo n : Nat} (h : ∀ c ∈ s.ctxs, lo + n ≤ c.2.table ∨ c.2.table + 2 ^ 18 ≤ lo) :
    noteTable s lo n = s := by
  unfold noteTable
  dsimp only
  rw [if_pos]
  refine List.all_eq_true.2 fun c hc => ?_
  rw [if_neg (by rcases h c hc with h | h <;> omega)]
  rfl

theorem accSpoil_plain {s : State} {a : Acc} (h : Plain s a.pa a.bytes) : accSpoil s a = s := by
  have hn := noteTable_plain h.tables
  rw [accSpoil, spoilMem_plain true (by rw [hn]; exact h.windows), hn]

theorem Plain.storeMem {s : State} {lo n : Nat} (h : Plain s lo n) (a : Nat) (bs : List Byte) : Plain (storeMem s a bs) lo n := by
  rw [storeMem_rest]
  exact ⟨h.windows, h.mapped, h.tables, h.unflagged⟩

theorem leBytes_toBytes (n x : Nat) : leBytes (toBytes n x) = x % 2 ^ (8 * n) := by
  induction n generalizing x with
  | zero => simp [toBytes, leBytes, Nat.mod_one]
  | succ n ih =>
    have hp : 2 ^ (8 * (n + 1)) = 256 * 2 ^ (8 * n) := by rw [Nat.mul_add, Nat.pow_add, Nat.mul_comm]
    simp only [toBytes, leBytes, ih, BitVec.toNat_ofNat, hp, Nat.mod_mul]

/-! ### The words of a result -/

/-- One word of a result reaches its register, where it is live. -/
def putWord (a : Acc) (base : Nat) (s : State) (p : Nat × Nat) : State :=
  if a.live.getLsbD p.2 then putPhys s a.core (base + a.dst.toNat + p.2) (BitVec.ofNat 32 (2 ^ a.lane)) (fun _ => BitVec.ofNat 32 p.1)
  else s

theorem writeWords_eq {s : State} {a : Acc} {h : Sheet} (hs : sheetOf s a.core a.slot = some h) (ws : List Nat) :
    writeWords s a ws = ws.zipIdx.foldl (putWord a h.base) s := by
  simp only [writeWords, hs]
  rfl

theorem laneBit_ne_all {l : Nat} (hl : l < 32) : BitVec.ofNat 32 (2 ^ l) ≠ BitVec.allOnes 32 := by
  interval_cases l <;> decide

theorem has_laneBit {l : Nat} (hl : l < 32) : Mask.has (BitVec.ofNat 32 (2 ^ l)) l = true := by
  rw [Mask.has, BitVec.getLsbD_ofNat, Nat.testBit_two_pow_self]
  simpa using hl

theorem regPoison_putWord {a : Acc} (hl : a.lane < 32) (base : Nat) (s : State) (p : Nat × Nat) :
    (coreOf (putWord a base s p) a.core).regPoison = (coreOf s a.core).regPoison := by
  unfold putWord
  split
  · unfold putPhys
    dsimp only
    rw [if_neg (laneBit_ne_all hl)]
    split
    · rfl
    · rw [coreOf_setCore]
  · rfl

theorem physReg_putWord_ne {a : Acc} (hl : a.lane < 32) {base g : Nat} (s : State) {p : Nat × Nat} (hg : g ≠ base + a.dst.toNat + p.2) :
    physReg (putWord a base s p) a.core g a.lane = physReg s a.core g a.lane := by
  unfold putWord
  split
  · by_cases hp : tget false (coreOf s a.core).regPoison (base + a.dst.toNat + p.2) = false
    · rw [physReg_putPhys _ _ _ _ _ (.inr hp) _ _ hl, if_neg fun h => hg h.1]
    · unfold putPhys
      dsimp only
      rw [if_neg (laneBit_ne_all hl), if_pos (by simpa using hp)]
  · rfl

theorem physReg_putWord_same {a : Acc} (hl : a.lane < 32) {base : Nat} (s : State) {p : Nat × Nat} (hv : a.live.getLsbD p.2 = true)
    (hp : tget false (coreOf s a.core).regPoison (base + a.dst.toNat + p.2) = false) :
    physReg (putWord a base s p) a.core (base + a.dst.toNat + p.2) a.lane = BitVec.ofNat 32 p.1 := by
  rw [putWord, if_pos hv, physReg_putPhys _ _ _ _ _ (.inr hp) _ _ hl, if_pos ⟨rfl, has_laneBit hl⟩]

theorem physReg_putWords_below {a : Acc} (hl : a.lane < 32) {base g : Nat} (ws : List Nat) (k : Nat) (s : State)
    (hg : g < base + a.dst.toNat + k) :
    physReg ((ws.zipIdx k).foldl (putWord a base) s) a.core g a.lane = physReg s a.core g a.lane := by
  induction ws generalizing k s with
  | nil => rfl
  | cons w ws ih =>
    rw [List.zipIdx_cons, List.foldl_cons, ih (k + 1) _ (by omega), physReg_putWord_ne hl s (by dsimp only; omega)]

theorem physReg_putWords {a : Acc} (hl : a.lane < 32) {base : Nat} (ws : List Nat) (k : Nat) (s : State) {i : Nat} (hi : i < ws.length)
    (hv : a.live.getLsbD (k + i) = true) (hp : tget false (coreOf s a.core).regPoison (base + a.dst.toNat + (k + i)) = false) :
    physReg ((ws.zipIdx k).foldl (putWord a base) s) a.core (base + a.dst.toNat + (k + i)) a.lane = BitVec.ofNat 32 (ws.getD i 0) := by
  induction ws generalizing k s i with
  | nil => cases hi
  | cons w ws ih =>
    rw [List.zipIdx_cons, List.foldl_cons]
    cases i with
    | zero =>
      rw [physReg_putWords_below hl ws (k + 1) _ (by omega)]
      exact physReg_putWord_same hl s hv hp
    | succ i =>
      have he : k + (i + 1) = k + 1 + i := by omega
      rw [he] at hv hp ⊢
      exact ih (k + 1) _ (by simpa using hi) hv (by rw [regPoison_putWord hl]; exact hp)

/-- The words of a result stand in the registers of its destination. -/
theorem wordsIn_writeWords {s u : State} {a : Acc} (hc : u.cores = s.cores) (ws : List Nat) : WordsIn s (writeWords u a ws) a ws := by
  intro hl h hs i hi hv hp
  have hk : coreOf u a.core = coreOf s a.core := by rw [coreOf, hc, coreOf]
  have hu : sheetOf u a.core a.slot = some h := by rw [sheetOf, hk]; exact hs
  have := physReg_putWords hl (base := h.base) ws 0 u hi (by simpa using hv) (by simpa [hk] using hp)
  rw [writeWords_eq hu]
  simpa using this

theorem putWord_rest (a : Acc) (base : Nat) (s : State) (p : Nat × Nat) :
    putWord a base s p = { s with cores := (putWord a base s p).cores } := by
  unfold putWord putPhys
  dsimp only
  split
  · split
    · rfl
    · split <;> rfl
  · rfl

theorem writeWords_accs (s : State) (a : Acc) (ws : List Nat) : (writeWords s a ws).accs = s.accs := by
  have hf (base : Nat) (ps : List (Nat × Nat)) (s : State) : (ps.foldl (putWord a base) s).accs = s.accs := by
    induction ps generalizing s with
    | nil => rfl
    | cons p ps ih => exact (ih _).trans (by rw [putWord_rest])
  cases hs : sheetOf s a.core a.slot with
  | none => simp [writeWords, hs]
  | some h => exact (congrArg State.accs (writeWords_eq hs ws)).trans (hf ..)

/-! ### The new value of an atomic -/

theorem toInt_ofNat_eq_sgnN (w x : Nat) : (BitVec.ofNat w x).toInt = sgnN w x := by
  simp only [BitVec.toInt, BitVec.toNat_ofNat, sgnN]
  split <;> split <;> omega

theorem atomNew_atomApply (subop : BitVec 7) (cls : BitVec 3) (bytes old d c : Nat) (hold : old < 2 ^ (8 * bytes)) :
    AtomNew subop cls (8 * bytes) old d c (atomApply subop cls bytes old d c % 2 ^ (8 * bytes)) := by
  have ho : old % 2 ^ (8 * bytes) = old := Nat.mod_eq_of_lt hold
  unfold AtomNew
  extract_lets o v less
  have hless (x y : Nat) : decide (asInt (8 * bytes) (cls == 1) x < asInt (8 * bytes) (cls == 1) y) =
      less (BitVec.ofNat (8 * bytes) x) (BitVec.ofNat (8 * bytes) y) := by
    by_cases h : cls = 1
    · simp [less, asInt, h, BitVec.slt, toInt_ofNat_eq_sgnN]
    · simp only [less, asInt, h, beq_iff_eq, if_false, BitVec.ult, BitVec.toNat_ofNat, Int.ofNat_lt]
  have hv : BitVec.ofNat (8 * bytes) (d % 2 ^ (8 * bytes)) = v := BitVec.eq_of_toNat_eq (by simp [v])
  refine ⟨?_, ?_, ?_, ?_, ?_, ?_, ?_, ?_⟩ <;> rintro rfl
  · show (old + d % 2 ^ (8 * bytes)) % 2 ^ (8 * bytes) % 2 ^ (8 * bytes) = (o + v).toNat
    simp [o, v]
  · show (if decide (asInt (8 * bytes) (cls == 1) (d % 2 ^ (8 * bytes)) < asInt (8 * bytes) (cls == 1) old) = true then
      d % 2 ^ (8 * bytes) else old) % 2 ^ (8 * bytes) = (if less v o = true then v else o).toNat
    rw [hless, hv]
    split <;> simp [o, v]
  · show (if decide (asInt (8 * bytes) (cls == 1) old < asInt (8 * bytes) (cls == 1) (d % 2 ^ (8 * bytes))) = true then
      d % 2 ^ (8 * bytes) else old) % 2 ^ (8 * bytes) = (if less o v = true then v else o).toNat
    rw [hless, hv]
    split <;> simp [o, v]
  · show (old &&& d % 2 ^ (8 * bytes)) % 2 ^ (8 * bytes) = (o &&& v).toNat
    simp [o, v, ho, Nat.and_mod_two_pow]
  · show (old ||| d % 2 ^ (8 * bytes)) % 2 ^ (8 * bytes) = (o ||| v).toNat
    simp [o, v, ho, Nat.or_mod_two_pow]
  · show (old ^^^ d % 2 ^ (8 * bytes)) % 2 ^ (8 * bytes) = (o ^^^ v).toNat
    simp [o, v, ho, Nat.xor_mod_two_pow]
  · show d % 2 ^ (8 * bytes) % 2 ^ (8 * bytes) = v.toNat
    simp [v]
  · show (if old = c % 2 ^ (8 * bytes) then d % 2 ^ (8 * bytes) else old) % 2 ^ (8 * bytes) =
      if old = c % 2 ^ (8 * bytes) then v.toNat else o.toNat
    split <;> simp [o, v]

/-! ### The answers of the host -/

@[simp] theorem storeMem_accs (s : State) (a : Nat) (bs : List Byte) : (storeMem s a bs).accs = s.accs := by rw [storeMem_rest]
@[simp] theorem storeMem_cores (s : State) (a : Nat) (bs : List Byte) : (storeMem s a bs).cores = s.cores := by rw [storeMem_rest]

theorem hostPerform_plain {s : State} {a : Acc} (hp : Plain s a.pa a.bytes) (old : Nat) :
    hostPerform s a old = writeWords (dropAcc (storeMem s a.pa (toBytes a.bytes (atomApply a.subop a.cls a.bytes old a.d a.c))) a.id) a
      (if a.kind = .atom then extendWords a.cls a.bytes old else []) := by
  rw [hostPerform, hostHolds, accSpoil_plain (hp.storeMem ..)]

theorem hostPerform_memory {s : State} {a : Acc} (hp : Plain s a.pa a.bytes) (old : Nat) :
    (hostPerform s a old).memory = (storeMem s a.pa (toBytes a.bytes (atomApply a.subop a.cls a.bytes old a.d a.c))).memory := by
  rw [hostPerform_plain hp, writeWords_memory]
  exact memory_of_eq rfl

theorem accOf_dropAcc (s : State) (id : Nat) : accOf (dropAcc s id) id = none :=
  List.find?_eq_none.2 fun a ha => by simpa using (List.mem_filter.1 ha).2

/-- A host atomic that performs ends its access, changes only its own bytes, to its new value, and gives its words. -/
theorem hostPerform_spec {s : State} {a : Acc} (hp : Plain s a.pa a.bytes) {old : Nat} (hold : old < 2 ^ (8 * a.bytes)) :
    accOf (hostPerform s a old) a.id = none ∧ MemKeptBut s (hostPerform s a old) a.pa a.bytes ∧
      AtomNew a.subop a.cls (8 * a.bytes) old a.d a.c (leBytes (memBytes (hostPerform s a old) a.pa a.bytes)) ∧
      WordsIn s (hostPerform s a old) a (if a.kind = .atom then extendWords a.cls a.bytes old else []) := by
  have hm := hostPerform_memory hp old
  refine ⟨?_, fun j hj => ?_, ?_, ?_⟩
  · rw [hostPerform_plain hp, accOf, writeWords_accs]
    exact accOf_dropAcc ..
  · rw [memByte_of_memory hm]
    exact memKept_storeMem s a.pa _ j (by rwa [toBytes_length])
  · have hb := memBytes_storeMem s a.pa (toBytes a.bytes (atomApply a.subop a.cls a.bytes old a.d a.c))
    rw [toBytes_length] at hb
    rw [memBytes_of_memory hm, hb, leBytes_toBytes]
    exact atomNew_atomApply _ _ _ _ _ _ hold
  · rw [hostPerform_plain hp]
    refine wordsIn_writeWords ?_ _
    exact storeMem_cores ..

theorem accOf_modAcc {s : State} {id : Nat} {a : Acc} (h : accOf s id = some a) {f : Acc → Acc} (hf : ∀ b, (f b).id = b.id) :
    accOf (modAcc s id f) id = some (f a) := by
  have hp : ((fun b : Acc => decide (b.id = id)) ∘ fun b => if b.id = id then f b else b) = fun b => decide (b.id = id) := by
    funext b
    dsimp only [Function.comp]
    split <;> simp [*]
  have hs : s.accs.find? (fun b => decide (b.id = id)) = some a := h
  simp only [accOf, modAcc, List.find?_map, hp, hs, Option.map_some, accOf_id h, if_true]

/-- Host memory holds the word that a completion tells, and nothing else has changed (log entry 44). -/
def HoldsWord (s t : State) (lo n v : Nat) : Prop := MemKeptBut s t lo n ∧ memBytes t lo n = toBytes n v

theorem holdsWord_of_memory {s t : State} {lo n v : Nat} (h : t.memory = (hostHolds s lo n v).memory) : HoldsWord s t lo n v := by
  have hk := memKept_storeMem s lo (toBytes n v)
  have hb := memBytes_storeMem s lo (toBytes n v)
  rw [toBytes_length] at hk hb
  exact ⟨fun j hj => (memByte_of_memory h j).trans (hk j hj), (memBytes_of_memory h lo n).trans hb⟩

/-- An attempt sends its compare-and-swap of the enclosing word and notes what it saw (02 R43). -/
theorem sendCas_spec {s : State} {id : Nat} {a : Acc} (h : accOf s id = some a) (seen attempt : Nat) :
    accOf (sendCas s a seen attempt) id = some { a with seen := seen, attempt := attempt } ∧
      ∃ new, .atomicOp id (a.pa / enclosing a.bytes * enclosing a.bytes) 3 (enclosing a.bytes) seen new ∈
        (sendCas s a seen attempt).hostOut := by
  obtain rfl := accOf_id h
  refine ⟨accOf_modAcc h (f := fun b => { b with seen := seen, attempt := attempt }) fun _ => rfl, ?_⟩
  rw [sendCas]
  exact ⟨_, List.mem_append_right _ List.mem_cons_self⟩

theorem hostFail_spec {s : State} {id : Nat} {a : Acc} (h : accOf s id = some a) (hl : leafOfLane s a.core a.slot a.lane = none)
    (status : Nat) : accOf (hostFail s a status) id = some { a with fail := status, sent := true } := by
  obtain rfl := accOf_id h
  have hf : hostFailed (failAcc s a.id status) a = none := by
    have : leafOfLane (failAcc s a.id status) a.core a.slot a.lane = none := hl
    rw [hostFailed, this]
  rw [hostFail, raiseHostAtomic, hf]
  exact accOf_modAcc h (f := fun b => { b with fail := status, sent := true }) fun _ => rfl

theorem accOf_hostHolds {s : State} {id : Nat} {a : Acc} (h : accOf s id = some a) (lo n v : Nat) :
    accOf (hostHolds s lo n v) id = some a := by
  rw [accOf, hostHolds, storeMem_accs]
  exact h

theorem leafOfLane_hostHolds (s : State) (lo n v c slot lane : Nat) :
    leafOfLane (hostHolds s lo n v) c slot lane = leafOfLane s c slot lane := by
  rw [leafOfLane, coreOf, hostHolds, storeMem_cores]
  rfl

theorem WordsIn.of_cores {s u t : State} {a : Acc} {ws : List Nat} (hc : u.cores = s.cores) (h : WordsIn u t a ws) : WordsIn s t a ws := by
  have hk : coreOf u a.core = coreOf s a.core := by rw [coreOf, hc, coreOf]
  simpa [WordsIn, sheetOf, hk] using h

theorem MemKeptBut.trans_within {s u t : State} {lo n a m : Nat} (h1 : MemKeptBut s u lo n) (h2 : MemKeptBut u t a m) (hl : lo ≤ a)
    (hh : a + m ≤ lo + n) : MemKeptBut s t lo n := fun j hj => (h2 j (by omega)).trans (h1 j hj)

theorem enclosing_pos (bytes : Nat) : 0 < enclosing bytes := by
  unfold enclosing
  split <;> omega

theorem atomicopCompletion_performs {s : State} {id : Nat} {a : Acc} (ha : accOf s id = some a) (hf : a.fail = 0) (hsent : a.sent = true)
    (hr : reachOf s a = .hostAtom) (hop : atomicOpOf a ≠ 0) (old : BitVec 128) :
    exec (.atomicopCompletion id false old) s = .next (hostPerform s a (old.toNat % 2 ^ (8 * a.bytes))) := by
  simp only [exec, execAtomicopCompletion, ha]
  rw [if_neg (by simpa using hf), if_neg (by simp [hsent, hr, hop]), if_neg (by simp)]

theorem hostReadCompletion_sends {s : State} {id : Nat} {a : Acc} (ha : accOf s id = some a) (hf : a.fail = 0) (hsent : a.sent = true)
    (hr : reachOf s a = .hostAtom) (hop : atomicOpOf a = 0) (h0 : a.attempt = 0) (d : BitVec 128) :
    exec (.hostReadCompletion id d) s = .next (sendCas (hostHolds s (a.pa / enclosing a.bytes * enclosing a.bytes) (enclosing a.bytes)
      (d.toNat % 2 ^ (8 * enclosing a.bytes))) a (d.toNat % 2 ^ (8 * enclosing a.bytes)) 1) := by
  simp only [exec, execHostReadCompletion, ha]
  rw [if_neg (by simp [hsent, hr, hop, hf, h0])]

section
variable {s : State} {id : Nat} {a : Acc} {d : BitVec 128} (ha : accOf s id = some a) (hf : a.fail = 0) (h0 : a.attempt ≠ 0)
include ha hf h0

theorem hostCasCompletion_performs (hd : d.toNat % 2 ^ (8 * enclosing a.bytes) = a.seen) :
    exec (.hostCasCompletion id false d) s = .next (hostPerform
      (hostHolds s (a.pa / enclosing a.bytes * enclosing a.bytes) (enclosing a.bytes) a.seen) a
      (a.seen / 2 ^ (8 * (a.pa % enclosing a.bytes)) % 2 ^ (8 * a.bytes))) := by
  simp only [exec, execHostCasCompletion, ha, hd]
  rw [if_neg (by simp [h0, hf]), if_neg (by simp), if_pos trivial]

theorem hostCasCompletion_retries (hd : d.toNat % 2 ^ (8 * enclosing a.bytes) ≠ a.seen) (hlt : a.attempt < 256) :
    exec (.hostCasCompletion id false d) s = .next (sendCas (hostHolds s (a.pa / enclosing a.bytes * enclosing a.bytes) (enclosing a.bytes)
      (d.toNat % 2 ^ (8 * enclosing a.bytes))) a (d.toNat % 2 ^ (8 * enclosing a.bytes)) (a.attempt + 1)) := by
  simp only [exec, execHostCasCompletion, ha]
  rw [if_neg (by simp [h0, hf]), if_neg (by simp), if_neg hd, if_neg (by omega)]

theorem hostCasCompletion_fails (hd : d.toNat % 2 ^ (8 * enclosing a.bytes) ≠ a.seen) (hge : 256 ≤ a.attempt) :
    exec (.hostCasCompletion id false d) s = .next (hostFail (hostHolds s (a.pa / enclosing a.bytes * enclosing a.bytes) (enclosing a.bytes)
      (d.toNat % 2 ^ (8 * enclosing a.bytes))) a 3) := by
  simp only [exec, execHostCasCompletion, ha]
  rw [if_neg (by simp [h0, hf]), if_neg (by simp), if_neg hd, if_pos hge]

end

/-- Settles O38: a walk goes on by the entry that it reads, and a host atomic by the value that its completion brings. -/
theorem walkAndHostAtomicEvents : Obligations.WalkAndHostAtomicEvents := by
  refine ⟨⟨fun _ _ _ _ _ => leads_tlbMissWalk, fun s d n w hw => ?_⟩, fun s id a ha hf hsent hr hp => ?_⟩
  · intro a r e hc hq
    have h : AtEntry s d n w := ⟨hw, hc, hq⟩
    have hp : (walkRead s w).2 = r.2 := rfl
    refine ⟨fun hr => leads_faultWalk (walkReadReturn_fault h ?_), fun hr h0 => leads_faultWalk (walkReadReturn_fault h ?_),
      fun b hr h0 h1 hl hz hz' hb hn hs => ?_, fun p hr h0 h1 hleaf => fun hframe hone => ?_⟩
    · rw [hp, hr, walkEntry_poisoned]
    · rw [hp, hr]
      exact walkEntry_absent h0
    · obtain ⟨die, hx, hact⟩ := walkReadReturn_table h (by rw [hp, hr]; exact walkEntry_table h0 h1 hl hz hz' hb hn hs)
      refine ⟨_, hx, rfl, ?_⟩
      rw [walkOf, tget_tput_same, hact]
      exact walkOf_table hw
    · have hx := walkReadReturn_leaf h (e := e) (by rw [hp, hr]; exact walkEntry_leaf h0 h1 hleaf) hframe
      rw [hone] at hx
      exact ⟨_, hx, (tlbFill_memory ..).trans (endWalk_memory ..), (walkOf_tlbFill ..).trans (walkOf_endWalk ..),
        tlbLookup_tlbFill (tlbHit_tlbEntryOf ..)⟩
  · intro n base words new holds
    have hid := accOf_id ha
    have hmod (v m : Nat) : v % 2 ^ (8 * m) < 2 ^ (8 * m) := Nat.mod_lt _ (by positivity)
    have hheld (v : Nat) : accOf (hostHolds s base n v) id = some a := accOf_hostHolds ha ..
    refine ⟨fun old hop => ?_, fun d h0 hop => ?_, fun d h0 hd hin => ?_, fun d h0 hd hlt => ?_, fun d h0 hd hge hl => ?_⟩
    · exact ⟨_, atomicopCompletion_performs ha hf hsent hr hop old, hid ▸ hostPerform_spec hp (hmod ..)⟩
    · exact ⟨_, hostReadCompletion_sends ha hf hsent hr hop h0 d, holdsWord_of_memory (sendCas_memory ..), sendCas_spec (hheld _) _ _⟩
    · obtain ⟨hgone, hkept, hnew, hwords⟩ := hostPerform_spec (hp.storeMem base (toBytes n a.seen))
        (hmod (a.seen / 2 ^ (8 * (a.pa % n))) a.bytes)
      have hbase : base + a.pa % n = a.pa := Nat.div_add_mod' a.pa n
      refine ⟨_, hostCasCompletion_performs ha hf h0 hd, hid ▸ hgone, ?_, hnew, hwords.of_cores (storeMem_cores ..)⟩
      refine MemKeptBut.trans_within ?_ hkept (by omega) (by omega)
      exact (holdsWord_of_memory (v := a.seen) rfl).1
    · exact ⟨_, hostCasCompletion_retries ha hf h0 hd hlt, holdsWord_of_memory (sendCas_memory ..), sendCas_spec (hheld _) _ _⟩
    · exact ⟨_, hostCasCompletion_fails ha hf h0 hd hge, hostFail_spec (hheld _) ((leafOfLane_hostHolds ..).trans hl) 3⟩

end Sys2Proof.Machine
end

section
/-!
PROOF. The registers, contexts, residencies and memory at reset (03 R84 to R86, 15 R396 to R398, 16 R415, 17 R433, 18 R442, 19 R459,
20 R463, 02 R27).
-/
namespace Sys2Proof.Machine

/-- At reset a register holds its reset value. -/
theorem rawReg_reset (r : CReg) : rawReg State.reset r = regReset r := rfl

/-- The fields of the reset values (15 R396, R398, 16 R415, 18 R442, 19 R459, 20 R463). -/
theorem resetFields : fld 0x1000 12 0 = 4096 ∧ (fld 0x64000F4240 31 0 = 1000000 ∧ fld 0x64000F4240 51 32 = 100) ∧
    (fld 0x088B0000493E 15 0 = 0x493E ∧ fld 0x088B0000493E 47 32 = 0x088B) ∧ (fld 0x805F73 7 0 = 115 ∧ fld 0x805F73 15 8 = 95) ∧
    fld 0x1F40000 35 16 = 500 ∧ fld 0x30000000FFF 11 0 = 0xFFF := by decide

/-- Settles O60: nothing is listed at reset, so every table reads as its default and every register as its reset value. -/
theorem resetState : Obligations.ResetState := by
  unfold Obligations.ResetState
  have hmem (a : Nat) : memByte State.reset a = 0 := rfl
  have hcache (c : Nat) : (clusterOf State.reset c).cache = [] := rfl
  have hgather (i : Nat) : (gEntry State.reset i).role = 0 := rfl
  obtain ⟨hquota, ⟨hfmarg, hckill⟩, hbudget, htherm, hdlus, hcmem⟩ := resetFields
  simp_rw [rawReg_reset]
  exact ⟨wf_reset, rfl, rfl, rfl, rfl, hmem, hcache, hgather, fun _ _ => rfl, rfl, fun _ _ => hquota, hfmarg, hckill,
    fun _ _ => hbudget, rfl, rfl, rfl, rfl, fun _ _ => htherm, hdlus, rfl, rfl, hcmem, rfl⟩

end Sys2Proof.Machine
end

section
/-!
PROOF. The invalidation of a peer's tile (03 R80) can change memory outside the tile: nothing in the state bounds the bytes of a copy that
goes back by the line's 128.
-/
namespace Sys2Proof.Machine

/-- The first tile of peer 1's HBM (02 R22). -/
def peerTile : Nat := 0xC * 2 ^ 36 + 2 ^ 28

/-- Cluster 0's copy, in M, of the last line of that tile, with one byte too many. -/
def overlongCopy : CLine :=
  { line := 32 * peerTile + 31, st := .m, data := List.replicate 129 1, poison := 0, prot := 0, pte := 0 }

/-- A state in which this device holds the tile in M and cluster 0 that copy. -/
def overlongState : State := { tiles := [(peerTile, 3)], clusters := [(0, { cache := [overlongCopy] })] }

theorem overlongState_holds_tile : peerLine overlongState (32 * peerTile) = true ∧ tileState overlongState peerTile ≠ 0 := by
  decide +kernel

/-- The invalidation writes the copy home, and its last byte past the end of the tile. -/
theorem tileInvalidation_overruns :
    ∃ t, exec (.tileInvalidation peerTile) overlongState = .next t ∧ memByte t (4096 * peerTile + 4096) = 1 :=
  ⟨_, rfl, by decide +kernel⟩

/-- Refutes O42: an invalidation of a tile writes every copy of its lines home as long as it stands, and a copy of the last line that is
longer than 128 bytes reaches the memory behind the tile, which the statement says is kept. -/
theorem not_leaseEvents : ¬ Obligations.LeaseEvents := by
  intro h
  obtain ⟨-, -, -, -, -, -, hinval, -⟩ := h overlongState 0 (newMsg .renewal 0 0 0 0 0)
  obtain ⟨hpeer, htile⟩ := overlongState_holds_tile
  obtain ⟨t, ht, -, hkept, -⟩ := hinval peerTile hpeer htile
  obtain ⟨u, hu, hbyte⟩ := tileInvalidation_overruns
  obtain rfl : t = u := by simpa [ht] using hu
  have hbefore : memByte overlongState (4096 * peerTile + 4096) = 0 := rfl
  have hafter := hkept (4096 * peerTile + 4096) (.inr le_rfl)
  rw [hbyte, hbefore] at hafter
  exact absurd hafter (by decide)

end Sys2Proof.Machine
end

section
/-!
SUPPORT. Messages and stitches (03 R49, R52 to R54): what sending or moving a message leaves alone, what it leaves at its router, and what a
change of one stitch is read back as.
-/
namespace Sys2Proof.Machine

theorem mem_of_memory {s t : State} (h : t.memory = s.memory) : t.mem = s.mem := h

/-! ### Homes -/

/-- The home of a line is a matter of the control registers alone (02 R23, 19 R457). -/
theorem lineHome_congr {s t : State} (h : t.regs = s.regs) (line : Nat) : lineHome t line = lineHome s line := by
  have hr : rawReg t = rawReg s := funext fun r => by rw [rawReg, h, rawReg]
  unfold lineHome homeOf placeOf fabricRouter selfPeer clusterPresent
  rw [hr]

/-! ### Stitches -/

theorem stitchOf_congr {s t : State} (h : t.routers = s.routers) (c line : Nat) : stitchOf t c line = stitchOf s c line := by
  rw [stitchOf, routerOf, h, stitchOf, routerOf]

@[simp] theorem routerOf_setStitches_same (s : State) (r : Nat) (ts : List Stitch) : (routerOf (setStitches s r ts) r).stitches = ts := by
  simp [routerOf, setStitches]

theorem routerOf_setStitches_ne {s : State} {r c : Nat} (h : c ≠ r) (ts : List Stitch) : routerOf (setStitches s r ts) c = routerOf s c := by
  simp [routerOf, setStitches, tget_tput_ne _ _ _ _ _ h]

theorem stitchOf_setStitches_ne {s : State} {r c : Nat} (h : c ≠ r) (ts : List Stitch) (line : Nat) :
    stitchOf (setStitches s r ts) c line = stitchOf s c line := by
  rw [stitchOf, routerOf_setStitches_ne h, stitchOf]

/-- A line stitch that is changed, its name kept, is read back changed. -/
theorem stitchOf_modStitch {s : State} {r line : Nat} {g : Stitch} (h : stitchOf s r line = some g) {f : Stitch → Stitch}
    (ht : ∀ t, (f t).tile = t.tile) (hl : ∀ t, (f t).line = t.line) : stitchOf (modStitch s r line f) r line = some (f g) := by
  have hp : ((fun t : Stitch => !t.tile && t.line == line) ∘ fun t => if !t.tile && t.line == line then f t else t) =
      fun t => !t.tile && t.line == line := by
    funext t
    dsimp only [Function.comp]
    split <;> simp [ht, hl]
  have hg := List.find?_some h
  have hf : (routerOf s r).stitches.find? (fun t => !t.tile && t.line == line) = some g := h
  rw [stitchOf, modStitch, routerOf_setStitches_same, List.find?_map, hp, hf, Option.map_some, if_pos hg]

/-- A line stitch that is dropped stands no more. -/
theorem stitchOf_dropStitch (s : State) (r line : Nat) : stitchOf (dropStitch s r line) r line = none := by
  rw [stitchOf, dropStitch, routerOf_setStitches_same]
  refine List.find?_eq_none.2 fun t ht => ?_
  have := (List.mem_filter.1 ht).2
  cases h : t.tile <;> simp_all

/-- A stitch just made stands. -/
theorem stitchOf_newStitch {s : State} {r : Nat} {g : Stitch} (h : g.tile = false) :
    stitchOf (setStitches s r (g :: (routerOf s r).stitches)) r g.line = some g := by
  simp [stitchOf, h]

theorem maskBit_clearPort {m : BitVec 5} {p q : Nat} (hq : q < 5) :
    (clearPort m p).getLsbD q = (m.getLsbD q && !decide (q = p)) := by
  rw [clearPort, BitVec.getLsbD_and, BitVec.getLsbD_not, BitVec.getLsbD_ofNat, Nat.testBit_two_pow]
  simp [hq, eq_comm]

theorem ne_zero_of_mem_portsOf {m : BitVec 5} {p : Nat} (h : p ∈ portsOf m) : m ≠ 0 := by
  rintro rfl
  simp [portsOf] at h

theorem attach_ne_zero (r : Nat) : (attach r).2 ≠ 0 := by
  unfold attach
  (repeat' split) <;> exact Nat.succ_ne_zero _

/-- No port of the grid is L. -/
theorem neighbour_zero (r : Nat) : neighbour r 0 = none := by
  have hedge : edgeAt r 0 = none := by
    refine List.find?_eq_none.2 fun e _ => ?_
    simp [Prod.ext_iff, attach_ne_zero]
  have hport : ¬ (0 = opposite (attach r).2) := by
    unfold opposite
    split
    · exact fun h => attach_ne_zero r (by assumption)
    · omega
  simp [neighbour, hedge, hport]

theorem port_ne_zero {r p n q : Nat} (h : neighbour r p = some (n, q)) : p ≠ 0 := by
  rintro rfl
  simp [neighbour_zero] at h

/-! ### Using a stitch -/

theorem find?_filter_ne_of_not {p : Stitch → Bool} {g : Stitch} (h : p g = false) (l : List Stitch) :
    (l.filter (fun x => decide (x ≠ g))).find? p = l.find? p := by
  rw [List.find?_filter]
  congr 1
  funext x
  by_cases hx : x = g <;> simp [hx, h]

/-- A stitch that is used moves to the front of its router, where it is found as before (03 R63). -/
theorem stitchesKept_useStitch (s : State) (r line : Nat) : StitchesKept s (useStitch s r line) := by
  intro c l
  unfold useStitch
  split
  · rfl
  · rename_i g hg
    by_cases hc : c = r
    · subst hc
      have hname := List.find?_some hg
      rw [stitchOf, routerOf_setStitches_same, List.find?_cons]
      by_cases hl : (!g.tile && g.line == l) = true
      · rw [hl]
        have : l = line := by simp_all
        exact (this ▸ hg).symm
      · rw [Bool.not_eq_true] at hl
        rw [hl]
        exact find?_filter_ne_of_not (p := fun t => !t.tile && t.line == l) hl _
    · exact stitchOf_setStitches_ne hc ..

theorem useStitch_rest (s : State) (r line : Nat) : useStitch s r line = { s with routers := (useStitch s r line).routers } := by
  unfold useStitch
  split <;> rfl

/-! ### Messages sent -/

/-- `t` is `s` after messages were sent: they come last in order, and every line has its stitches (03 R49). -/
structure Sends (s t : State) : Prop where
  rest : t = { s with routers := t.routers, msgs := t.msgs, nextId := t.nextId }
  stitches : StitchesKept s t
  last : s.msgs <+: t.msgs

theorem Sends.refl (s : State) : Sends s s := ⟨rfl, fun _ _ => rfl, List.prefix_refl _⟩

theorem Sends.trans {s u t : State} (h : Sends s u) (k : Sends u t) : Sends s t :=
  ⟨by rw [k.rest, h.rest], fun c l => (k.stitches c l).trans (h.stitches c l), h.last.trans k.last⟩

theorem Sends.mem {s t : State} (h : Sends s t) : t.mem = s.mem := by rw [h.rest]
theorem Sends.ticks {s t : State} (h : Sends s t) : t.ticks = s.ticks := by rw [h.rest]
theorem Sends.regs {s t : State} (h : Sends s t) : t.regs = s.regs := by rw [h.rest]
theorem Sends.flagged {s t : State} (h : Sends s t) : t.flagged = s.flagged := by rw [h.rest]
theorem Sends.clusters {s t : State} (h : Sends s t) : t.clusters = s.clusters := by rw [h.rest]
theorem Sends.unpicks {s t : State} (h : Sends s t) : t.unpicks = s.unpicks := by rw [h.rest]
theorem Sends.homeTx {s t : State} (h : Sends s t) : t.homeTx = s.homeTx := by rw [h.rest]
theorem Sends.accs {s t : State} (h : Sends s t) : t.accs = s.accs := by rw [h.rest]

theorem Sends.sent {s t : State} (h : Sends s t) {kind : MsgKind} {line r p : Nat} {P : Msg → Prop} (k : Sent s kind line r p P) :
    Sent t kind line r p P := by
  obtain ⟨m, hm, rest⟩ := k
  exact ⟨m, h.last.subset hm, rest⟩

theorem sends_useStitch (s : State) (r line : Nat) : Sends s (useStitch s r line) := by
  have h := useStitch_rest s r line
  refine ⟨?_, stitchesKept_useStitch s r line, ?_⟩
  · rw [h]
  · rw [h]

theorem sends_sendMsg (s : State) (m : Msg) : Sends s (sendMsg s m) :=
  Sends.trans (u := { s with msgs := s.msgs ++ [{ m with id := s.nextId }], nextId := s.nextId + 1 })
    ⟨rfl, fun _ _ => rfl, List.prefix_append _ _⟩ (sends_useStitch ..)

theorem sent_sendMsg {s : State} {m : Msg} {P : Msg → Prop} (h : P { m with id := s.nextId }) :
    Sent (sendMsg s m) m.kind m.line m.at' m.port P :=
  (sends_useStitch ..).sent ⟨{ m with id := s.nextId }, by simp, rfl, rfl, rfl, rfl, h⟩

theorem sends_sendPort (s : State) (r p : Nat) (m : Msg) : Sends s (sendPort s r p m) := by
  unfold sendPort
  split
  · exact sends_sendMsg ..
  · exact Sends.refl s

theorem sent_sendPort {s : State} {r p n q : Nat} (hn : neighbour r p = some (n, q)) {m : Msg} {P : Msg → Prop}
    (h : ∀ i, P { m with at' := n, port := q, id := i }) : Sent (sendPort s r p m) m.kind m.line n q P := by
  rw [sendPort, hn]
  exact sent_sendMsg (m := { m with at' := n, port := q }) (h _)

theorem sends_foldl {β : Type} {f : State → β → State} {l : List β} {s : State} (h : ∀ u, ∀ b ∈ l, Sends u (f u b)) :
    Sends s (l.foldl f s) := by
  induction l generalizing s with
  | nil => exact Sends.refl s
  | cons b l ih => exact (h s b List.mem_cons_self).trans (ih fun u c hc => h u c (List.mem_cons_of_mem _ hc))

/-- What one step of a fold of sendings sends stands at its end. -/
theorem sent_foldl {β : Type} {f : State → β → State} {l : List β} {s : State} (h : ∀ u, ∀ b ∈ l, Sends u (f u b))
    {b : β} (hb : b ∈ l) {kind : MsgKind} {line r p : Nat} {P : Msg → Prop} (hs : ∀ u, Sends s u → Sent (f u b) kind line r p P) :
    Sent (l.foldl f s) kind line r p P := by
  induction l generalizing s with
  | nil => cases hb
  | cons c l ih =>
    have hl : ∀ u, ∀ b ∈ l, Sends u (f u b) := fun u b hb => h u b (List.mem_cons_of_mem _ hb)
    have hc := h s c List.mem_cons_self
    rcases List.mem_cons.1 hb with rfl | hb
    · exact (sends_foldl hl).sent (hs s (Sends.refl s))
    · exact ih hl hb fun u hu => hs u (hc.trans hu)

/-! ### A message at its router -/

theorem Stands.msgOf {s : State} {id : Nat} {m : Msg} {kind : MsgKind} (h : Stands s id m kind) : Sys2Proof.Machine.msgOf s id = some m := by
  have := h.1
  unfold arrived at this
  split at this
  · split at this <;> simp_all
  · cases this

theorem Stands.id_eq {s : State} {id : Nat} {m : Msg} {kind : MsgKind} (h : Stands s id m kind) : m.id = id := by
  simpa using List.find?_some h.msgOf

theorem msgOf_dropMsg (s : State) (id : Nat) : msgOf (dropMsg s id) id = none :=
  List.find?_eq_none.2 fun m hm => by simpa using (List.mem_filter.1 hm).2

/-- A message that moves stands at its next router, and nothing else of the messages and stitches changes. -/
theorem msgOf_moveMsg (s : State) (m : Msg) : msgOf (moveMsg s m) m.id = some { m with evict := none } := by
  have : (s.msgs.filter (fun x => decide (x.id ≠ m.id))).find? (fun x => decide (x.id = m.id)) = none := msgOf_dropMsg s m.id
  rw [msgOf, moveMsg, useStitch_rest]
  dsimp only
  rw [List.find?_append, this]
  simp

theorem stitchesKept_moveMsg (s : State) (m : Msg) : StitchesKept s (moveMsg s m) :=
  fun c l => (stitchesKept_useStitch _ _ _ c l).trans rfl

/-- A message hops to the neighbour by a port, its way noted. -/
theorem hop_eq {s : State} {m : Msg} {p n q : Nat} (h : neighbour m.at' p = some (n, q)) :
    hop s m p = moveMsg (markRenewal s m) { m with at' := n, port := q, path := (m.at', m.port) :: m.path } := by
  rw [hop, h]

theorem markRenewal_not_held {s : State} {m : Msg} (h : cacheLine s m.src m.line = none) : markRenewal s m = s := by
  simp [markRenewal, h]

theorem markRenewal_other {s : State} {m : Msg} (hw : m.kind ≠ .write) (hj : m.kind ≠ .join) : markRenewal s m = s := by
  simp [markRenewal, hw, hj]

theorem cacheLine_congr {s t : State} (h : t.clusters = s.clusters) (k line : Nat) : cacheLine t k line = cacheLine s k line := by
  rw [cacheLine, clusterOf, h, cacheLine, clusterOf]

end Sys2Proof.Machine
end

section
/-!
SUPPORT. Accesses where they perform (12 R300 to R305, 09 R208, R213, 04 R91): in the line that their cluster holds, or on memory at the home.
-/
namespace Sys2Proof.Machine

/-! ### An access that a release keeps waiting -/

theorem owedPasses_eq_false {s : State} {a : Acc} {o : Owed} (hlo : a.pa < o.pa + o.bytes) (hhi : o.pa < a.pa + a.bytes)
    (hrel : covers o.scope.toNat (o.core, o.slot, o.lane) (a.core, a.slot, a.lane) = true)
    (hacq : a.ord = 0 ∨ covers a.scope.toNat (o.core, o.slot, o.lane) (a.core, a.slot, a.lane) = true) (hids : idsLeft s o.ids = true) :
    owedPasses s a o = false := by
  have hlo' : ¬ o.pa + o.bytes ≤ a.pa := by omega
  have hhi' : ¬ a.pa + a.bytes ≤ o.pa := by omega
  rcases hacq with h | h <;> simp [owedPasses, hlo', hhi', hrel, hids, h]

theorem depsDone_of_owed {s : State} {a : Acc} {o : Owed} (hkind : a.kind = .load ∨ a.kind = .atom) (ho : o ∈ s.owed)
    (h : owedPasses s a o = false) : depsDone s a = false := by
  have hread : mayRead s a = false := by
    have hall : s.owed.all (owedPasses s a) = false := List.all_eq_false.2 ⟨o, ho, by simp [h]⟩
    rcases hkind with hk | hk <;> simp [mayRead, hk, hall]
  simp [depsDone, hread]

theorem loadDataReturn_waits {s : State} {id : Nat} {a : Acc} (ha : accOf s id = some a) (h : depsDone s a = false) :
    exec (.loadDataReturn id) s = .next s := by
  simp only [exec, execLoadDataReturn, ha, h]
  simp

theorem uncachedAccess_waits {s : State} {id : Nat} {a : Acc} (ha : accOf s id = some a) (h : depsDone s a = false) :
    exec (.uncachedAccess id) s = .next s := by
  simp only [exec, execUncachedAccess, ha, h]
  simp

/-! ### An access whose earlier accesses have performed -/

/-- Access `id` stands and nothing keeps it from performing (09 R208, 17 R431). -/
structure MayPerform (s : State) (id : Nat) (a : Acc) : Prop where
  acc : accOf s id = some a
  unfailed : a.fail = 0
  deps : depsDone s a = true
  snapped : snapNeeded s a = false

theorem MayPerform.reads {s : State} {id : Nat} {a : Acc} (h : MayPerform s id a) : mayRead s a = true := by
  have := h.deps
  simp only [depsDone, Bool.and_eq_true] at this
  exact this.1.2

theorem performAll_one {s t : State} {a : Acc} {f : State → Acc → Except (Nat × Nat) State} (hr : mayRead s a = true) (hf : f s a = .ok t) :
    performAll s [a] f = performed t a := by
  simp [performAll, hr, hf]

theorem cached_of_reachOf {s : State} {a : Acc} (h : reachOf s a = .cache) : a.uncached = false ∧ hostAtomic s a = false := by
  unfold reachOf at h
  dsimp only at h
  constructor
  · cases hu : a.uncached
    · rfl
    · simp only [hu, if_true] at h
      (repeat' split at h) <;> cases h
  · cases hp : placeOf s a.pa <;> simp [hostAtomic, hp]
    simp only [hp] at h
    split at h
    · cases h
    · simp_all

theorem uncached_of_reachOf {s : State} {a : Acc} (h : reachOf s a = .home) : a.uncached = true := by
  unfold reachOf at h
  dsimp only at h
  cases hu : a.uncached
  · simp only [hu, Bool.false_eq_true, if_false] at h
    (repeat' split at h) <;> cases h
  · rfl

theorem loadDataReturn_miss {s : State} {id : Nat} {a : Acc} (h : MayPerform s id a) (hr : reachOf s a = .cache)
    (hc : cacheLine s (a.core / 4) (lineOf a.pa) = none) (hq : requested s (a.core / 4) (lineOf a.pa) = false) :
    exec (.loadDataReturn id) s = .next (request s a) := by
  simp only [exec, execLoadDataReturn, h.acc]
  rw [if_neg (by simp [h.unfailed, h.deps, h.snapped])]
  simp only [hr, hc, hq, Option.map_none, Bool.false_eq_true, if_false]

theorem loadDataReturn_hit {s t : State} {id : Nat} {a : Acc} {l : CLine} (h : MayPerform s id a) (hr : reachOf s a = .cache)
    (hc : cacheLine s (a.core / 4) (lineOf a.pa) = some l) (hl : lineServes l a = true) (ht : performHere s a = .ok t) :
    exec (.loadDataReturn id) s = .next (performed t a) := by
  simp only [exec, execLoadDataReturn, h.acc]
  rw [if_neg (by simp [h.unfailed, h.deps, h.snapped])]
  simp only [hr, hc, Option.map_some, hl, performAll_one h.reads ht]

theorem uncachedAccess_performs {s t : State} {id : Nat} {a : Acc} (h : MayPerform s id a) (hr : reachOf s a = .home)
    (hfree : HomeFree s (lineOf a.pa) (lineHome s (lineOf a.pa)) s.msgs) (htile : tileReady s (lineOf a.pa) (accWrites a) = true)
    (ht : performHome s a = .ok t) : exec (.uncachedAccess id) s = .next (performed t a) := by
  obtain ⟨hbusy, hturn, hflag, hbare⟩ := hfree
  have hnone : s.msgs.any (fun x => x.line == lineOf a.pa && x.at' == lineHome s (lineOf a.pa) && isRequest x) = false := by
    refine List.any_eq_false.2 fun x hx => ?_
    by_cases hl : x.line = lineOf a.pa <;> by_cases hh : x.at' = lineHome s (lineOf a.pa) <;> simp [hl, hh]
    exact hturn x hx hl hh
  simp only [exec, execUncachedAccess, h.acc]
  rw [if_neg (by simp [uncached_of_reachOf hr, atHome, hr, h.unfailed, h.deps, h.snapped, hbusy, hnone]), if_neg (by simp [hflag]),
    if_neg (by simp [htile])]
  simp only [hbare, performAll_one h.reads ht]

/-! ### After an access has performed -/

theorem performed_rest (s : State) (a : Acc) :
    performed s a = { s with accs := s.accs.filter (fun b => b.id ≠ a.id), owed := (performed s a).owed } := by
  unfold performed
  dsimp only
  split <;> rfl

theorem accOf_performed (s : State) (a : Acc) : accOf (performed s a) a.id = none := by
  rw [accOf, performed_rest]
  exact accOf_dropAcc s a.id

theorem performed_cores (s : State) (a : Acc) : (performed s a).cores = s.cores := by rw [performed_rest]
theorem performed_clusters (s : State) (a : Acc) : (performed s a).clusters = s.clusters := by rw [performed_rest]
theorem performed_msgs (s : State) (a : Acc) : (performed s a).msgs = s.msgs := by rw [performed_rest]

/-- A release that performs before a store that it is ordered after keeps it for its readers (09 R213, log entry 94). -/
theorem mem_owed_performed {s : State} {a b : Acc} (hb : b ∈ s.accs) (hne : b.id ≠ a.id) (hs : a.soft.contains b.id = true) :
    ∃ o ∈ (performed s a).owed, o.pa = a.pa ∧ o.bytes = a.bytes ∧ o.core = a.core ∧ o.lane = a.lane ∧ o.scope = a.scope ∧
      o.ids = a.soft := by
  have hleft : idsLeft (dropAcc s a.id) a.soft = true := by
    rw [idsLeft, Bool.or_eq_true, List.any_eq_true]
    exact .inl ⟨b, List.mem_filter.2 ⟨hb, by simpa using hne⟩, hs⟩
  rw [performed, if_pos hleft]
  exact ⟨_, List.mem_append_right _ List.mem_cons_self, rfl, rfl, rfl, rfl, rfl, rfl⟩

theorem writeWords_nil (s : State) (a : Acc) : writeWords s a [] = s := by
  unfold writeWords
  split <;> rfl

/-! ### Plain bytes -/

/-- No core's window meets the bytes of memory. -/
theorem memWins_eq_nil {s : State} {a n : Nat} :
    memWins s a n = [] ↔ ∀ c ∈ s.cores, ∀ w ∈ c.2.windows, ¬ (w.at' = .mem ∧ w.lo < a + n ∧ a < w.hi) := by
  simp only [memWins, winsAt, List.flatten_eq_nil_iff, List.forall_mem_map, List.map_eq_nil_iff, List.filter_eq_nil_iff, Bool.and_eq_true,
    decide_eq_true_eq, beq_iff_eq, and_assoc]

/-- An access sees plain bytes as they are. -/
theorem accSeen_plain {s : State} {a : Acc} (h : Plain s a.pa a.bytes) {bs : List Byte} (hb : bs.length ≤ a.bytes) : accSeen s a bs = bs := by
  refine seenMem_plain h.mapped (memWins_eq_nil.2 fun c hc w hw ⟨hm, hlo, hhi⟩ => ?_)
  exact memWins_eq_nil.1 h.windows c hc w hw ⟨hm, by omega, hhi⟩

/-- `t` is `s` but for what the cores' L1 caches hold (04 R89). -/
structure L1Only (s t : State) : Prop where
  rest : t = { s with cores := t.cores }
  windows : ∀ c ∈ t.cores, c.2.windows = [] ∨ ∃ d ∈ s.cores, c.2.windows = d.2.windows

theorem L1Only.refl (s : State) : L1Only s s := ⟨rfl, fun c hc => .inr ⟨c, hc, rfl⟩⟩

theorem L1Only.trans {s u t : State} (h : L1Only s u) (k : L1Only u t) : L1Only s t := by
  refine ⟨by rw [k.rest, h.rest], fun c hc => ?_⟩
  rcases k.windows c hc with he | ⟨d, hd, he⟩
  · exact .inl he
  · rw [he]
    exact h.windows d hd

theorem l1Only_setCore (s : State) (c : Nat) (l1 : List Nat) : L1Only s (setCore s c { coreOf s c with l1 := l1 }) := by
  refine ⟨rfl, fun e he => ?_⟩
  rcases mem_tput _ _ _ _ he with rfl | he
  · cases hf : tfind s.cores c with
    | none => exact .inl (by simp [coreOf, tget, hf])
    | some k => exact .inr ⟨_, mem_of_tfind hf, by simp [coreOf, tget, hf]⟩
  · exact .inr ⟨e, he, rfl⟩

theorem touchL1_eq (s : State) (core line evp : Nat) :
    touchL1 s core line evp = s ∨ ∃ l1, touchL1 s core line evp = setCore s core { coreOf s core with l1 := l1 } := by
  unfold touchL1
  dsimp only
  (repeat' split) <;> first | exact .inl rfl | exact .inr ⟨_, rfl⟩

theorem l1Only_touchL1 (s : State) (core line evp : Nat) : L1Only s (touchL1 s core line evp) := by
  rcases touchL1_eq s core line evp with h | ⟨l1, h⟩ <;> rw [h]
  · exact L1Only.refl s
  · exact l1Only_setCore ..

theorem l1Only_dropL1 (s : State) (k line : Nat) (except : Option Nat) : L1Only s (dropL1 s k line except) := by
  refine ⟨rfl, fun c hc => ?_⟩
  obtain ⟨d, hd, rfl⟩ := List.mem_map.1 hc
  refine .inr ⟨d, hd, ?_⟩
  split <;> rfl

theorem L1Only.plain {s t : State} (h : L1Only s t) {lo n : Nat} (hp : Plain s lo n) : Plain t lo n := by
  have hw : memWins t lo n = [] := memWins_eq_nil.2 fun c hc w hw => by
    rcases h.windows c hc with he | ⟨d, hd, he⟩
    · simp [he] at hw
    · exact memWins_eq_nil.1 hp.windows d hd w (he ▸ hw)
  refine ⟨hw, ?_, ?_, ?_⟩ <;> rw [h.rest]
  exacts [hp.mapped, hp.tables, hp.unflagged]

/-! ### A held line -/

theorem find?_map_line {cache : List CLine} {line : Nat} {l : CLine} (h : cache.find? (fun x => decide (x.line = line)) = some l)
    {f : CLine → CLine} (hf : ∀ x, (f x).line = x.line) :
    (cache.map (fun x => if x.line = line then f x else x)).find? (fun x => decide (x.line = line)) = some (f l) := by
  have hp : ((fun x : CLine => decide (x.line = line)) ∘ fun x => if x.line = line then f x else x) = fun x => decide (x.line = line) := by
    funext x
    dsimp only [Function.comp]
    split <;> simp [hf]
  have hl : l.line = line := by simpa using List.find?_some h
  rw [List.find?_map, hp, h, Option.map_some, if_pos hl]

theorem cacheLine_line {s : State} {k line : Nat} {l : CLine} (h : cacheLine s k line = some l) : l.line = line := by
  simpa using List.find?_some h

theorem cacheLine_modLine {s : State} {k line : Nat} {l : CLine} (h : cacheLine s k line = some l) {f : CLine → CLine}
    (hf : ∀ x, (f x).line = x.line) : cacheLine (modLine s k line f) k line = some (f l) := by
  rw [cacheLine, modLine, clusterOf_setCluster]
  exact find?_map_line h hf

theorem touchLine_rest (s : State) (k line evp : Nat) :
    touchLine s k line evp = { s with clusters := (touchLine s k line evp).clusters } := by
  unfold touchLine
  dsimp only
  (repeat' split) <;> rfl

/-- A line that is touched stays as it is but for its protection (04 R93). -/
theorem cacheLine_touchLine {s : State} {k line : Nat} {l : CLine} (h : cacheLine s k line = some l) (evp : Nat) :
    ∃ p, cacheLine (touchLine s k line evp) k line = some { l with prot := p } := by
  have hl := cacheLine_line h
  have hf : (clusterOf s k).cache.find? (fun x => decide (x.line = line)) = some l := h
  unfold touchLine
  simp only [hf]
  split
  · exact ⟨l.prot, h⟩
  · split
    · refine ⟨0, ?_⟩
      have hrest : ((clusterOf s k).cache.filter (fun x => decide (x.line ≠ line))).find? (fun x => decide (x.line = line)) = none :=
        List.find?_eq_none.2 fun x hx => by simpa using (List.mem_filter.1 hx).2
      rw [cacheLine, clusterOf_setCluster]
      simp only [List.find?_append, hrest]
      simp [hl]
    · refine ⟨if 1 ≤ evp ∧ evp ≤ 3 then evp else l.prot, ?_⟩
      rw [cacheLine, clusterOf_setCluster]
      rw [List.find?_cons_of_pos (by split <;> simpa using hl)]
      split <;> rfl

/-- A load takes the bytes of a line that its cluster holds (04 R90). -/
theorem performHere_load {s : State} {a : Acc} {l : CLine} (hc : cacheLine s (a.core / 4) (lineOf a.pa) = some l) (hk : a.kind = .load)
    (hpz : linePoison l.poison (a.pa % 128) a.bytes = false) (hp : Plain s a.pa a.bytes) :
    performHere s a = .ok (writeWords (touchLine (touchL1 s a.core (lineOf a.pa) a.evp.toNat) (a.core / 4) (lineOf a.pa) a.evp.toNat) a
      (extendWords a.cls a.bytes (leBytes ((l.data.drop (a.pa % 128)).take a.bytes)))) := by
  have hseen : accSeen s a ((l.data.drop (a.pa % 128)).take a.bytes) = (l.data.drop (a.pa % 128)).take a.bytes :=
    accSeen_plain hp (List.length_take_le ..)
  simp only [performHere, hc, hp.unflagged, hk, hseen, hpz, accEffect]
  simp

/-- A line after a store of its cluster (03 R61, 04 R107). -/
def storeInLine (a : Acc) (l : CLine) : CLine :=
  { l with data := putAt l.data (a.pa % 128) (toBytes a.bytes a.d), st := .m, poison := clearMarks l.poison (a.pa % 128) a.bytes }

/-- A store leaves its line in the L1 of its own core at most (04 R89). -/
def storeL1 (s : State) (a : Acc) : State :=
  let s := dropL1 s (a.core / 4) (lineOf a.pa) (some a.core)
  if (coreOf s a.core).l1.contains (lineOf a.pa) then touchL1 s a.core (lineOf a.pa) a.evp.toNat else s

theorem l1Only_storeL1 (s : State) (a : Acc) : L1Only s (storeL1 s a) := by
  unfold storeL1
  dsimp only
  split
  · exact (l1Only_dropL1 ..).trans (l1Only_touchL1 ..)
  · exact l1Only_dropL1 ..

theorem Plain.touchLine {s : State} {lo n : Nat} (h : Plain s lo n) (k line evp : Nat) :
    Plain (Machine.touchLine s k line evp) lo n := by
  rw [touchLine_rest]
  exact ⟨h.windows, h.mapped, h.tables, h.unflagged⟩

/-- A store writes the bytes that it names in a line that its cluster holds, which is in M from then on (03 R61). -/
theorem performHere_store {s : State} {a : Acc} {l : CLine} (hc : cacheLine s (a.core / 4) (lineOf a.pa) = some l) (hk : a.kind = .store)
    (hp : Plain s a.pa a.bytes) :
    performHere s a = .ok (touchLine (storeL1 (modLine s (a.core / 4) (lineOf a.pa) (storeInLine a)) a) (a.core / 4) (lineOf a.pa)
      (if a.evp = 6 then 4 else a.evp.toNat)) := by
  have hm : Plain (modLine s (a.core / 4) (lineOf a.pa) (storeInLine a)) a.pa a.bytes := ⟨hp.windows, hp.mapped, hp.tables, hp.unflagged⟩
  rw [← accSpoil_plain (((l1Only_storeL1 _ a).plain hm).touchLine (a.core / 4) (lineOf a.pa) (if a.evp = 6 then 4 else a.evp.toNat))]
  have hstore : (fun l : CLine => { l with
      data := putAt l.data (a.pa % 128) (toBytes a.bytes a.d)
      st := .m
      poison := clearMarks l.poison (a.pa % 128) a.bytes }) = storeInLine a := rfl
  simp only [performHere, hc, hp.unflagged, hk, accEffect, toBytes_length, hstore]
  simp [writeWords_nil, storeL1]

end Sys2Proof.Machine
end

section
/-!
PROOF. Loads, stores and atomics where they perform (12 R300, R301, R303, R305, 09 R208, R213, 04 R91, 03 R61).
-/
namespace Sys2Proof.Machine

/-! ### A request for a line that the cluster does not hold -/

theorem Sends.depsDone {s t : State} (h : Sends s t) (a : Acc) : Machine.depsDone t a = Machine.depsDone s a := by
  rw [h.rest]
  rfl

theorem Sends.hostAtomic {s t : State} (h : Sends s t) (a : Acc) : Machine.hostAtomic t a = Machine.hostAtomic s a := by
  rw [h.rest]
  rfl

/-- An access that its request goes for notes the request's number. -/
theorem find?_map_acc {as : List Acc} {id : Nat} {a : Acc} (h : as.find? (fun b => decide (b.id = id)) = some a) {p : Acc → Prop}
    [DecidablePred p] {f : Acc → Acc} (hf : ∀ b, (f b).id = b.id) (hp : p a) :
    (as.map (fun b => if p b then f b else b)).find? (fun b => decide (b.id = id)) = some (f a) := by
  have hq : ((fun b : Acc => decide (b.id = id)) ∘ fun b => if p b then f b else b) = fun b => decide (b.id = id) := by
    funext b
    dsimp only [Function.comp]
    split <;> simp [hf]
  rw [List.find?_map, hq, h, Option.map_some, if_pos hp]

/-- The request that an access sends to the home of its line (03 R55, R59). -/
def requestMsg (s : State) (a : Acc) : Msg :=
  { newMsg (requestKind a) (lineOf a.pa) (a.core / 4) 0 (lineHome s (lineOf a.pa)) (a.core / 4) with
    ev6 := (requestKind a == .read || requestKind a == .commRead) && a.evp == 6, pte := a.pte, aux := s.nextId }

/-- Of a line that its cluster does not hold nothing is renewed: the request is sent, and the accesses that it serves note it. -/
theorem request_eq {s : State} {a : Acc} (hc : cacheLine s (a.core / 4) (lineOf a.pa) = none) :
    request s a = { sendMsg s (requestMsg s a) with accs := (sendMsg s (requestMsg s a)).accs.map (fun b =>
      if b.core / 4 = a.core / 4 ∧ !b.uncached ∧ lineOf b.pa = lineOf a.pa ∧ requestKind b = requestKind a ∧
          (requestKind a = .write ∨ requestKind a = .join ∨ (b.pc = a.pc ∧ b.slot = a.slot ∧ b.core = a.core)) ∧
          depsDone (sendMsg s (requestMsg s a)) b ∧ !hostAtomic (sendMsg s (requestMsg s a)) b then
        { b with sent := true, msg := s.nextId } else b) } := by
  have hmark : markRenewal s (requestMsg s a) = s := markRenewal_not_held hc
  have hrenew : renewLine s (a.core / 4) (lineOf a.pa) = s := by simp [renewLine, hc]
  have hsend : sendMsg (renewLine (markRenewal s (requestMsg s a)) (a.core / 4) (lineOf a.pa)) (requestMsg s a) =
      sendMsg s (requestMsg s a) := by rw [hmark, hrenew]
  rw [← hsend]
  rfl

/-- An access in a line that its cluster does not hold goes with a request for the line to its home (12 R300, 03 R55, R59). -/
theorem request_spec {s : State} {id : Nat} {a : Acc} (h : MayPerform s id a) (hr : reachOf s a = .cache)
    (hc : cacheLine s (a.core / 4) (lineOf a.pa) = none) :
    accOf (request s a) id = some { a with sent := true, msg := s.nextId } ∧
      Sent (request s a) (requestKind a) (lineOf a.pa) (a.core / 4) 0
        (fun m => m.id = s.nextId ∧ m.src = a.core / 4 ∧ m.home = lineHome s (lineOf a.pa)) := by
  have hs := sends_sendMsg s (requestMsg s a)
  obtain ⟨huncached, hhost⟩ := cached_of_reachOf hr
  rw [request_eq hc]
  constructor
  · refine find?_map_acc (f := fun b => { b with sent := true, msg := s.nextId }) (by rw [hs.accs]; exact h.acc) (fun _ => rfl) ?_
    simp [huncached, hs.depsDone, hs.hostAtomic, hhost, h.deps]
  · have hsent := sent_sendMsg (s := s) (m := requestMsg s a)
      (P := fun k => k.id = s.nextId ∧ k.src = a.core / 4 ∧ k.home = lineHome s (lineOf a.pa)) ⟨rfl, rfl, rfl⟩
    exact hsent

/-! ### A line that the cluster holds -/

theorem lineServes_load {l : CLine} {a : Acc} (hk : a.kind = .load) (hl : l.st ≠ .c) : lineServes l a = true := by
  cases h : l.st <;> simp_all [lineServes, accWrites]

theorem lineServes_store {l : CLine} {a : Acc} (hk : a.kind = .store) (hl : l.st = .m ∨ l.st = .e) : lineServes l a = true := by
  rcases hl with h | h <;> simp [lineServes, accWrites, hk, h]

/-- What is put in a lane's registers is seen from a state with the same sheets and poisoned registers. -/
theorem WordsIn.of_sheets {s u t : State} {a : Acc} {ws : List Nat} (hs : sheetOf u a.core a.slot = sheetOf s a.core a.slot)
    (hp : (coreOf u a.core).regPoison = (coreOf s a.core).regPoison) (h : WordsIn u t a ws) : WordsIn s t a ws := by
  simpa [WordsIn, hs, hp] using h

theorem WordsIn.to_cores {s t v : State} {a : Acc} {ws : List Nat} (hc : v.cores = t.cores) (h : WordsIn s t a ws) : WordsIn s v a ws := by
  have (g : Nat) : physReg v a.core g a.lane = physReg t a.core g a.lane := by rw [physReg, coreOf, hc, physReg, coreOf]
  simpa [WordsIn, this] using h

theorem wordsIn_touched (s : State) (a : Acc) (evp evp' k line : Nat) (ws : List Nat) :
    WordsIn s (writeWords (touchLine (touchL1 s a.core line evp) k line evp') a ws) a ws := by
  have hw : WordsIn (touchL1 s a.core line evp) _ a ws :=
    wordsIn_writeWords (u := touchLine (touchL1 s a.core line evp) k line evp') (by rw [touchLine_rest]) ws
  refine hw.of_sheets ?_ ?_ <;> rcases touchL1_eq s a.core line evp with h | ⟨l1, h⟩ <;> rw [h] <;> simp [sheetOf]

theorem loadHeld {s : State} {id : Nat} {a : Acc} {l : CLine} (h : MayPerform s id a) (hr : reachOf s a = .cache)
    (hc : cacheLine s (a.core / 4) (lineOf a.pa) = some l) (hk : a.kind = .load) (hl : l.st ≠ .c)
    (hpz : linePoison l.poison (a.pa % 128) a.bytes = false) (hp : Plain s a.pa a.bytes) :
    Leads s (.loadDataReturn id) (fun t => t.mem = s.mem ∧ accOf t id = none ∧
      WordsIn s t a (extendWords a.cls a.bytes (leBytes ((l.data.drop (a.pa % 128)).take a.bytes)))) := by
  obtain rfl := accOf_id h.acc
  refine ⟨_, loadDataReturn_hit h hr hc (lineServes_load hk hl) (performHere_load hc hk hpz hp), ?_, accOf_performed .., ?_⟩
  · exact mem_of_memory (by simp)
  · exact WordsIn.to_cores (performed_cores ..) (wordsIn_touched s a _ _ _ _ _)

theorem storeHeld {s : State} {id : Nat} {a : Acc} {l : CLine} (h : MayPerform s id a) (hr : reachOf s a = .cache)
    (hc : cacheLine s (a.core / 4) (lineOf a.pa) = some l) (hk : a.kind = .store) (hl : l.st = .m ∨ l.st = .e)
    (hp : Plain s a.pa a.bytes) :
    Leads s (.loadDataReturn id) (fun t => t.mem = s.mem ∧ t.msgs = s.msgs ∧ accOf t id = none ∧
      (∃ l', cacheLine t (a.core / 4) (lineOf a.pa) = some l' ∧ l'.st = .m ∧
        l'.data = putAt l.data (a.pa % 128) (toBytes a.bytes a.d)) ∧
      ∀ b ∈ s.accs, b.id ≠ id → a.soft.contains b.id = true →
        ∃ o ∈ t.owed, o.pa = a.pa ∧ o.bytes = a.bytes ∧ o.core = a.core ∧ o.lane = a.lane ∧ o.scope = a.scope ∧ o.ids = a.soft) := by
  obtain rfl := accOf_id h.acc
  have hrest := (l1Only_storeL1 (modLine s (a.core / 4) (lineOf a.pa) (storeInLine a)) a).rest
  refine ⟨_, loadDataReturn_hit h hr hc (lineServes_store hk hl) (performHere_store hc hk hp), ?_, ?_, accOf_performed .., ?_, ?_⟩
  · rw [performed_rest, touchLine_rest, hrest]
    rfl
  · rw [performed_msgs, touchLine_rest, hrest]
    rfl
  · have hline : cacheLine (storeL1 (modLine s (a.core / 4) (lineOf a.pa) (storeInLine a)) a) (a.core / 4) (lineOf a.pa) =
        some (storeInLine a l) := by
      rw [hrest]
      exact cacheLine_modLine hc fun _ => rfl
    obtain ⟨p, hp⟩ := cacheLine_touchLine hline (if a.evp = 6 then 4 else a.evp.toNat)
    exact ⟨_, (cacheLine_congr (performed_clusters ..) _ _).trans hp, rfl, rfl⟩
  · intro b hb hne hsoft
    refine mem_owed_performed ?_ hne hsoft
    rw [touchLine_rest, hrest]
    exact hb

/-! ### An access at the home -/

theorem leBytes_lt (bs : List Byte) : leBytes bs < 2 ^ (8 * bs.length) := by
  induction bs with
  | nil => simp [leBytes]
  | cons b bs ih =>
    have hb := b.isLt
    have hp : 2 ^ (8 * (bs.length + 1)) = 256 * 2 ^ (8 * bs.length) := by rw [Nat.mul_add, Nat.pow_add, Nat.mul_comm]
    simp only [leBytes, List.length_cons, hp]
    omega

@[simp] theorem memBytes_length (s : State) (a n : Nat) : (memBytes s a n).length = n := by simp [memBytes]

/-- The bytes that an access at the home writes, and the words of its result (12 R300, R301, R305). -/
theorem performHome_eq {s : State} {a : Acc} (hp : Plain s a.pa a.bytes) (hf : a.kind ≠ .fetch) {w : Option (List Byte)} {r : List Nat}
    (he : accEffect a (memBytes s a.pa a.bytes) (memPoison s a.pa a.bytes) = some (w, r)) :
    performHome s a = .ok (writeWords ((w.map (storeMem s a.pa)).getD s) a r) := by
  have hseen : accSeen s a (memBytes s a.pa a.bytes) = memBytes s a.pa a.bytes := accSeen_plain hp (by simp)
  have hf' : (a.kind == .fetch) = false := by simpa using hf
  simp only [performHome, hp.unflagged, hseen, he, hf', Bool.false_and, Bool.false_eq_true, if_false]
  cases w with
  | none => rfl
  | some bs => simp [accSpoil_plain (hp.storeMem a.pa bs)]

/-- Access `id` may perform at the home of its line, which is free, on plain bytes. -/
structure AtHome (s : State) (id : Nat) (a : Acc) : Prop where
  may : MayPerform s id a
  reach : reachOf s a = .home
  free : HomeFree s (lineOf a.pa) (lineHome s (lineOf a.pa)) s.msgs
  tile : tileReady s (lineOf a.pa) (accWrites a) = true
  plain : Plain s a.pa a.bytes

/-- An access at the home writes its bytes to memory and gives its words (04 R91). -/
theorem AtHome.leads {s : State} {id : Nat} {a : Acc} (h : AtHome s id a) (hf : a.kind ≠ .fetch) {w : Option (List Byte)} {r : List Nat}
    (he : accEffect a (memBytes s a.pa a.bytes) (memPoison s a.pa a.bytes) = some (w, r)) :
    Leads s (.uncachedAccess id) (fun t => accOf t id = none ∧ t.memory = ((w.map (storeMem s a.pa)).getD s).memory ∧ WordsIn s t a r) := by
  obtain ⟨hmay, hr, hfree, htile, hp⟩ := h
  obtain rfl := accOf_id hmay.acc
  refine ⟨_, uncachedAccess_performs hmay hr hfree htile (performHome_eq hp hf he), accOf_performed .., by simp, ?_⟩
  refine WordsIn.to_cores (performed_cores ..) (wordsIn_writeWords ?_ r)
  cases w with
  | none => rfl
  | some bs => exact storeMem_cores ..

/-- Memory holds the bytes of a value at a place, and what it held elsewhere. -/
theorem stored_of_memory {s t : State} {lo n v : Nat} (h : t.memory = (storeMem s lo (toBytes n v)).memory) :
    memBytes t lo n = toBytes n v ∧ MemKeptBut s t lo n :=
  have hw : HoldsWord s t lo n v := holdsWord_of_memory h
  ⟨hw.2, hw.1⟩

theorem AtHome.store {s : State} {id : Nat} {a : Acc} (h : AtHome s id a) (hk : a.kind = .store) :
    Leads s (.uncachedAccess id) (fun t => accOf t id = none ∧ memBytes t a.pa a.bytes = toBytes a.bytes a.d ∧
      MemKeptBut s t a.pa a.bytes) := by
  obtain ⟨t, hx, hgone, hmem, -⟩ := h.leads (by simp [hk]) (w := some (toBytes a.bytes a.d)) (r := []) (by simp [accEffect, hk])
  exact ⟨t, hx, hgone, stored_of_memory hmem⟩

theorem AtHome.load {s : State} {id : Nat} {a : Acc} (h : AtHome s id a) (hk : a.kind = .load) (hpz : memPoison s a.pa a.bytes = false) :
    Leads s (.uncachedAccess id) (fun t => accOf t id = none ∧ t.mem = s.mem ∧
      WordsIn s t a (extendWords a.cls a.bytes (leBytes (memBytes s a.pa a.bytes)))) :=
  h.leads (by simp [hk]) (w := none) (by simp [accEffect, hk, hpz])

/-- A compare-and-swap that fails leaves the old value (12 R305). -/
theorem atomApply_of_not_writes {subop : BitVec 7} {cls : BitVec 3} {bytes old d c : Nat} (h : atomWrites subop bytes old c = false) :
    atomApply subop cls bytes old d c = old := by
  simp only [atomWrites, Bool.or_eq_false_iff, bne_eq_false_iff_eq, beq_eq_false_iff_ne] at h
  simp [atomApply, h.1, h.2]

theorem AtHome.atom {s : State} {id : Nat} {a : Acc} (h : AtHome s id a) (hk : a.kind = .atom) (hpz : memPoison s a.pa a.bytes = false) :
    Leads s (.uncachedAccess id) (fun t => accOf t id = none ∧ MemKeptBut s t a.pa a.bytes ∧
      WordsIn s t a (extendWords a.cls a.bytes (leBytes (memBytes s a.pa a.bytes))) ∧
      AtomNew a.subop a.cls (8 * a.bytes) (leBytes (memBytes s a.pa a.bytes)) a.d a.c (leBytes (memBytes t a.pa a.bytes))) := by
  have hold : leBytes (memBytes s a.pa a.bytes) < 2 ^ (8 * a.bytes) := by simpa using leBytes_lt (memBytes s a.pa a.bytes)
  have hnew := atomNew_atomApply a.subop a.cls a.bytes _ a.d a.c hold
  by_cases hw : atomWrites a.subop a.bytes (leBytes (memBytes s a.pa a.bytes)) a.c = true
  · obtain ⟨t, hx, hgone, hmem, hwords⟩ := h.leads (by simp [hk]) (by
      simp only [accEffect, hk, hpz, hw, Bool.false_eq_true, if_false, if_true]
      rfl)
    obtain ⟨hbytes, hkept⟩ := stored_of_memory hmem
    refine ⟨t, hx, hgone, hkept, hwords, ?_⟩
    rwa [hbytes, leBytes_toBytes]
  · rw [Bool.not_eq_true] at hw
    obtain ⟨t, hx, hgone, hmem, hwords⟩ := h.leads (by simp [hk]) (by
      simp only [accEffect, hk, hpz, hw, Bool.false_eq_true, if_false]
      rfl)
    refine ⟨t, hx, hgone, fun j _ => memByte_of_memory hmem j, hwords, ?_⟩
    rw [atomApply_of_not_writes hw, Nat.mod_eq_of_lt hold] at hnew
    rwa [memBytes_of_memory hmem]

/-- Settles O37: an access waits for what a release owes it, and else goes with a request, or performs in its cluster's line or at the
home, by what each kind of access does there. -/
theorem accessEvents : Obligations.AccessEvents := by
  refine ⟨fun s id a o ha hkind ho hlo hhi hrel hacq hids => ?_, fun s id a ha hf hd hs => ?_⟩
  · have hwait := depsDone_of_owed hkind ho (owedPasses_eq_false hlo hhi hrel hacq hids)
    exact ⟨loadDataReturn_waits ha hwait, uncachedAccess_waits ha hwait⟩
  · have h : MayPerform s id a := ⟨ha, hf, hd, hs⟩
    refine ⟨fun hr hc hq => ?_, fun l hr hc hk hl hpz hp => loadHeld h hr hc hk hl hpz hp,
      fun l hr hc hk _ hl hp => storeHeld h hr hc hk hl hp, fun hr hfree htile hp => ?_⟩
    · exact ⟨_, loadDataReturn_miss h hr hc hq, request_memory s a, request_spec h hr hc⟩
    · have hat : AtHome s id a := ⟨h, hr, hfree, htile, hp⟩
      exact ⟨hat.store, fun hpz hk => hat.load hk hpz, fun hpz hk _ => hat.atom hk hpz⟩

end Sys2Proof.Machine
end

section
/-!
SUPPORT. The answers of a home and of holders on their way back (03 R56 to R59, R73): the stitch that they leave at each router, and the line
that they fill at the requester.
-/
namespace Sys2Proof.Machine

/-! ### Filling a line -/

theorem filter_ne_line (cache : List CLine) (line : Nat) :
    (cache.filter (fun x => decide (x.line ≠ line))).find? (fun x => decide (x.line = line)) = none :=
  List.find?_eq_none.2 fun x hx => by simpa using (List.mem_filter.1 hx).2

/-- A line that is filled is held, as it came (04 R90). -/
theorem cacheLine_fillLine (s : State) (k : Nat) (l : CLine) (evp : Nat) :
    ∃ p r, cacheLine (fillLine s k l evp) k l.line = some { l with prot := p, renewed := r } := by
  unfold fillLine
  extract_lets u c rest l' v
  have hfind : cacheLine v k l.line = some l' := by
    rw [cacheLine, clusterOf_setCluster]
    split
    · rw [List.find?_append, filter_ne_line]
      simp [l']
    · simp [l']
  obtain ⟨p, hp⟩ := cacheLine_touchLine hfind evp
  exact ⟨p, _, hp⟩

@[simp] theorem sendMsg_accs (s : State) (m : Msg) : (sendMsg s m).accs = s.accs := (sends_sendMsg s m).accs

@[simp] theorem dropHeld_accs (s : State) (k line : Nat) : (dropHeld s k line).accs = s.accs := rfl

@[simp] theorem giveUp_accs (s : State) (k r : Nat) (l : CLine) : (giveUp s k r l).accs = s.accs := by
  unfold giveUp
  dsimp only
  (repeat' split) <;> simp

@[simp] theorem fillLine_accs (s : State) (k : Nat) (l : CLine) (evp : Nat) : (fillLine s k l evp).accs = s.accs := by
  unfold fillLine
  extract_lets u c rest l' v
  have hu : u.accs = s.accs := by
    dsimp only [u]
    (repeat' split) <;> simp [dropLine]
  rw [touchLine_rest]
  exact hu

/-- With no access outstanding a line that has come serves none. -/
theorem serveLine_idle {s : State} (h : s.accs = []) (k line : Nat) : serveLine s k line = s := by simp [serveLine, h]

/-- A line comes into the cache of a cluster with no access outstanding. -/
theorem cacheLine_filled {s : State} (h : s.accs = []) (k : Nat) (l : CLine) (evp : Nat) :
    ∃ l', cacheLine (serveLine (fillLine s k l evp) k l.line) k l.line = some l' ∧ l'.st = l.st ∧ l'.data = l.data := by
  obtain ⟨p, r, hl⟩ := cacheLine_fillLine s k l evp
  rw [serveLine_idle (by simpa using h)]
  exact ⟨_, hl, rfl, rfl⟩

/-! ### The stitch of an answer -/

/-- The stitch that an answer which makes its requester the anchor leaves at a router with none (03 R57, R59): it came by `m.port` and
goes on by `a`, toward the requester. -/
def anchorStitch (s : State) (m : Msg) (a w : Nat) : Stitch :=
  { set := stitchSet m.line, way := w, line := m.line, mask := setPort (setPort 0 a) m.port, root := a, home := m.port,
    lwin := leaseEnd s, imode := pteImode m.pte }

/-- A state with that stitch made at router `c`. -/
def anchored (s : State) (m : Msg) (c a w : Nat) : State := setStitches s c (anchorStitch s m a w :: (routerOf s c).stitches)

/-- An answer in E or M, on its way through router `c`, which is not the home and has no stitch of its line but a way for one. -/
structure AnchorsAt (s : State) (m : Msg) (c w : Nat) : Prop where
  cached : m.uncached = false
  owns : m.kind = .grant ∨ m.kind = .readResp ∧ m.st = .e
  whole : m.has = 0
  away : c ≠ m.home
  bare : stitchOf s c m.line = none
  way : freeWay s c m.line = some w

theorem stitchFor_anchors {s : State} {m : Msg} {c w : Nat} (h : AnchorsAt s m c w) (a n : Nat) :
    stitchFor s m c a n = .done (anchored s m c a w) := by
  obtain ⟨-, howns, hhas, hc, hbare, hway⟩ := h
  rcases howns with hk | ⟨hk, hst⟩
  · simp [stitchFor, makeStitch, hk, hhas, hc, hbare, hway, anchored, anchorStitch]
  · simp [stitchFor, makeStitch, hk, hst, hhas, hc, hbare, hway, anchored, anchorStitch]

theorem stitchOf_anchored (s : State) (m : Msg) (c a w : Nat) : stitchOf (anchored s m c a w) c m.line = some (anchorStitch s m a w) :=
  stitchOf_newStitch (g := anchorStitch s m a w) rfl

/-! ### An answer's way back -/

theorem responseStep_uncached {s : State} {m : Msg} {c a n b : Nat} {rest : List (Nat × Nat)} (hp : m.path = (c, a) :: (n, b) :: rest)
    (hu : m.uncached = true) : responseStep s m = moveMsg s { m with path := (n, b) :: rest, at' := n, port := opposite a } := by
  simp only [responseStep, hp, hu, if_true]

theorem responseStep_anchors {s : State} {m : Msg} {c a n b w : Nat} {rest : List (Nat × Nat)} (hp : m.path = (c, a) :: (n, b) :: rest)
    (h : AnchorsAt s m c w) :
    responseStep s m = moveMsg (anchored s m c a w) { m with path := (n, b) :: rest, at' := n, port := opposite a } := by
  have hs := stitchFor_anchors h a ((c, a) :: (n, b) :: rest).length
  simp only [responseStep, hp, h.cached, hs]
  simp

theorem responseStep_arrives {s : State} {m : Msg} {c a w : Nat} (hp : m.path = [(c, a)]) (h : AnchorsAt s m c w)
    (hroom : roomFor s m.src m.line = true) :
    responseStep s m = (if m.kind = .readResp then readArrives else writeArrives) (anchored s m c a w) m := by
  have hs := stitchFor_anchors h a [(c, a)].length
  have hm : { m with path := [(c, a)], uncached := false } = m := by rw [← hp, ← h.cached]
  simp only [responseStep, hp, h.cached, hs, hroom, Bool.not_true, Bool.and_false, Bool.false_eq_true, if_false]
  by_cases hk : m.kind = .readResp
  · simp only [if_pos hk]
    exact congrArg (readArrives (anchored s m c a w)) hm
  · simp only [if_neg hk]
    exact congrArg (writeArrives (anchored s m c a w)) hm

/-- The line that an answer brings to the cache of a cluster with no access outstanding. -/
def broughtLine (m : Msg) (st : Moesic) : CLine :=
  { line := m.line, st := st, data := m.data.getD [], poison := m.poison, prot := 0, pte := 0 }

theorem accsFor_nil {s : State} (h : s.accs = []) (id : Nat) : accsFor s id = [] := by simp [accsFor, h]

theorem readArrives_fills {s : State} {m : Msg} (hk : m.src < 128) (hu : m.uncached = false) (hroom : roomFor s m.src m.line = true)
    (ha : s.accs = []) :
    readArrives s m = serveLine (fillLine (dropMsg s m.id) m.src (broughtLine m m.st) 0) m.src m.line := by
  have hk' : ¬ 152 ≤ m.src := by omega
  simp only [readArrives, hk', hu, hroom, accsFor_nil ha]
  rfl

theorem writeArrives_fills {s : State} {m : Msg} (hk : m.src < 128) (hg : m.kind = .grant) (hroom : roomFor s m.src m.line = true)
    (ha : s.accs = []) (hc : cacheLine s m.src m.line = none) :
    writeArrives s m = serveLine (fillLine (dropMsg s m.id) m.src (broughtLine m .m) 0) m.src m.line := by
  have hk' : ¬ 152 ≤ m.src := by omega
  have hc' : cacheLine (dropMsg s m.id) m.src m.line = none := hc
  simp only [writeArrives, hk', hg, hroom, accsFor_nil ha, hc']
  rfl

end Sys2Proof.Machine
end

section
/-!
PROOF. Reads (03 R48, R55 to R58): the hops of a read, the answer of the home or of a holder, and the way back.
-/
namespace Sys2Proof.Machine

/-! ### A read on its way -/

theorem readRequest_runs {s : State} {id : Nat} {m : Msg} (h : Stands s id m .read) : exec (.readRequest id) s = .next (readStep s m) := by
  simp [exec, execReadRequest, h.1, h.2]

/-- With no stitch of its line a read goes on, or is answered by the home that no earlier request of the line holds up. -/
theorem readStep_onward {s : State} {m : Msg} (hg : stitchOf s m.at' m.line = none) (hr : m.at' ≠ m.home) :
    readStep s m = hop s { m with steered := false, reroute := m.reroute || m.steered } (routePort m.at' m.home) := by
  simp only [readStep, hg, hr, ne_eq, not_false_eq_true, true_or, if_true, if_false]

/-- A message that hops, and renews nothing, stands at the next router and has that hop on its path. -/
theorem hop_moves {s : State} {m : Msg} {p n q : Nat} (hn : neighbour m.at' p = some (n, q)) (hm : markRenewal s m = s) :
    msgOf (hop s m p) m.id = some { m with at' := n, port := q, path := (m.at', m.port) :: m.path, evict := none } ∧
      StitchesKept s (hop s m p) := by
  rw [hop_eq hn, hm]
  exact ⟨msgOf_moveMsg s { m with at' := n, port := q, path := (m.at', m.port) :: m.path }, stitchesKept_moveMsg s _⟩

theorem read_hops {s : State} {id n q : Nat} {m : Msg} (h : Stands s id m .read) (hg : stitchOf s m.at' m.line = none)
    (hr : m.at' ≠ m.home) (hn : neighbour m.at' (routePort m.at' m.home) = some (n, q)) :
    Leads s (.readRequest id) (fun t => t.mem = s.mem ∧ StitchesKept s t ∧ ∃ k, msgOf t id = some k ∧ k.kind = .read ∧
      k.line = m.line ∧ k.at' = n ∧ k.port = q ∧ k.path = (m.at', m.port) :: m.path) := by
  obtain rfl := h.id_eq
  have hk : m.kind = .read := h.2
  obtain ⟨hmsg, hkept⟩ := hop_moves (s := s) (m := { m with steered := false, reroute := m.reroute || m.steered }) hn
    (markRenewal_other (by simp [hk]) (by simp [hk]))
  refine ⟨_, readRequest_runs h, ?_⟩
  rw [readStep_onward hg hr]
  refine ⟨?_, ?_⟩
  · exact mem_of_memory (by simp)
  · exact ⟨hkept, _, hmsg, hk, rfl, rfl, rfl, rfl⟩

/-! ### The answer of the home -/

theorem mustWait_eq_false {s : State} {m : Msg} (h : HomeFree s m.line m.home (ahead s m.id)) : mustWait s m = false := by
  obtain ⟨hbusy, hturn, -, -⟩ := h
  have : (ahead s m.id).any (fun x => x.line == m.line && x.at' == m.home && isRequest x) = false := by
    refine List.any_eq_false.2 fun x hx => ?_
    by_cases hl : x.line = m.line <;> by_cases hh : x.at' = m.home <;> simp [hl, hh]
    exact hturn x hx hl hh
  simp [mustWait, hbusy, this]

theorem read_answered {s : State} {id : Nat} {m : Msg} (h : Stands s id m .read) (hr : m.at' = m.home)
    (hfree : HomeFree s m.line m.home (ahead s id)) (hpeer : peerLine s m.line = false) (hev : m.ev6 = false) (hre : m.reroute = false)
    (hst : m.steered = false) :
    Leads s (.readRequest id) (fun t => t.mem = s.mem ∧ Sent t .readResp m.line m.home 0 (fun k =>
      k.st = .e ∧ k.data = some (memBytes s (128 * m.line) 128) ∧ k.src = m.src ∧ k.path = (m.at', m.port) :: m.path)) := by
  obtain rfl := h.id_eq
  have hwait := mustWait_eq_false hfree
  have htile : tileReady s m.line false = true := by simp [tileReady, hpeer]
  have hk : m.kind = .read := h.2
  have hbare : stitchOf s m.at' m.line = none := hr ▸ hfree.bare
  have hstep : readStep s m = homeRespond (dropMsg s m.id) { m with has := 0 } .readResp .e true (memLine s m.line) := by
    simp only [readStep, hbare]
    rw [if_neg (by simp [hr, hst]), if_neg (by simp [hk, hwait]), if_neg (by simp [hfree.unflagged]), if_neg (by simp [htile]),
      if_neg (by simp [hev, hre]), if_neg (by simp [hpeer])]
  refine ⟨_, readRequest_runs h, ?_⟩
  rw [hstep]
  refine ⟨?_, ?_⟩
  · exact mem_of_memory (by simp)
  · rw [← hr]
    exact sent_sendMsg ⟨rfl, rfl, rfl, rfl⟩

/-! ### The answer of a holder -/

/-- At a router below the fabric's, a stitch that steers a read to its own agent has it answered from the line held there (03 R56). -/
theorem readStep_held {s : State} {m : Msg} {g : Stitch} {l : CLine} (hr : m.at' < 157) (hg : stitchOf s m.at' m.line = some g)
    (hunpk : g.unpk = false) (hcomm : g.comm = false) (hsteer : steerPort g m.port = some 0)
    (hc : cacheLine s m.at' m.line = some l) (hl : l.st ≠ .c) (hev : m.ev6 = false) :
    readStep s m = holderRespond (dropMsg (modLine s m.at' m.line (fun l => { l with st := afterRead l.st })) m.id)
      (if m.has = 0 then { m with has := m.path.length + 1 } else m) (l.data, l.poison) := by
  have hfab : ¬ 200 ≤ m.at' := by omega
  have hold : holderAt s m.at' m.line = some (m.at', l) := by simp [holderAt, hc]
  by_cases hh : m.has = 0 <;> simp [readStep, hg, hunpk, hcomm, hh, hsteer, hold, hl, hfab, hev]

theorem read_held {s : State} {id : Nat} {m : Msg} {g : Stitch} {l : CLine} (h : Stands s id m .read) (hr : m.at' < 157)
    (hg : stitchOf s m.at' m.line = some g) (hunpk : g.unpk = false) (hcomm : g.comm = false) (hsteer : steerPort g m.port = some 0)
    (hc : cacheLine s m.at' m.line = some l) (hl : l.st ≠ .c) (hev : m.ev6 = false) :
    Leads s (.readRequest id) (fun t => t.mem = s.mem ∧
      Sent t .readResp m.line m.at' 0 (fun k => k.st = .s ∧ k.data = some l.data ∧ k.poison = l.poison ∧ k.src = m.src) ∧
      ∃ l', cacheLine t m.at' m.line = some l' ∧ l'.data = l.data ∧
        l'.st = if l.st = .m then .o else if l.st = .e then .s else l.st) := by
  refine ⟨_, readRequest_runs h, ?_⟩
  rw [readStep_held hr hg hunpk hcomm hsteer hc hl hev]
  refine ⟨?_, ?_, { l with st := afterRead l.st }, ?_, rfl, ?_⟩
  · exact mem_of_memory (by simp)
  · split <;> exact sent_sendMsg ⟨rfl, rfl, rfl, rfl⟩
  · exact (cacheLine_congr (sends_sendMsg _ _).clusters ..).trans (cacheLine_modLine hc fun _ => rfl)
  · cases h : l.st <;> simp_all [afterRead]

/-! ### The way back -/

theorem readResponse_runs {s : State} {id : Nat} {m : Msg} (h : Stands s id m .readResp) :
    exec (.readResponse id) s = .next (responseStep s m) := by
  simp [exec, execReadResponse, h.1, h.2]

/-- An uncached answer leaves no stitch (03 R56). -/
theorem readResponse_passes {s : State} {id c a n b : Nat} {m : Msg} {rest : List (Nat × Nat)} (h : Stands s id m .readResp)
    (hp : m.path = (c, a) :: (n, b) :: rest) (hu : m.uncached = true) :
    Leads s (.readResponse id) (fun t => StitchesKept s t ∧ ∃ k, msgOf t id = some k ∧
      k.at' = n ∧ k.port = opposite a ∧ k.path = (n, b) :: rest) := by
  obtain rfl := h.id_eq
  refine ⟨_, readResponse_runs h, ?_⟩
  rw [responseStep_uncached hp hu]
  exact ⟨stitchesKept_moveMsg s _, _, msgOf_moveMsg s { m with path := (n, b) :: rest, at' := n, port := opposite a }, rfl, rfl, rfl⟩

theorem readResponse_anchors {s : State} {id c a n b w : Nat} {m : Msg} {rest : List (Nat × Nat)} (h : Stands s id m .readResp)
    (hp : m.path = (c, a) :: (n, b) :: rest) (hw : AnchorsAt s m c w) :
    Leads s (.readResponse id) (fun t => (∃ k, msgOf t id = some k ∧ k.at' = n ∧ k.port = opposite a ∧ k.path = (n, b) :: rest) ∧
      ∃ g, stitchOf t c m.line = some g ∧ g.mask = setPort (setPort 0 a) m.port ∧ g.root = a ∧ g.home = m.port ∧ g.way = w ∧
        g.unpk = false ∧ g.comm = false ∧ g.rnwd = 0 ∧ g.lwin = s.ticks + leaseTicks s) := by
  obtain rfl := h.id_eq
  refine ⟨_, readResponse_runs h, ?_⟩
  rw [responseStep_anchors hp hw]
  exact ⟨⟨_, msgOf_moveMsg _ { m with path := (n, b) :: rest, at' := n, port := opposite a }, rfl, rfl, rfl⟩, anchorStitch s m a w,
    (stitchesKept_moveMsg _ _ _ _).trans (stitchOf_anchored s m c a w), rfl, rfl, rfl, rfl, rfl, rfl, rfl, rfl⟩

/-! ### The requester -/

/-- A load that waits for an uncached answer takes its bytes (03 R56, 12 R300). -/
theorem readResponse_loads {s : State} {id c a : Nat} {m : Msg} {b : Acc} (h : Stands s id m .readResp) (hp : m.path = [(c, a)])
    (hsrc : m.src < 128) (hu : m.uncached = true) (hb : accsFor s m.aux = [b]) (hk : b.kind = .load) (hr : mayRead s b = true)
    (hpz : linePoison m.poison (b.pa % 128) b.bytes = false) (hplain : Plain s b.pa b.bytes) :
    Leads s (.readResponse id) (fun t => t.mem = s.mem ∧ accOf t b.id = none ∧ WordsIn s t b
      (extendWords b.cls b.bytes (leBytes (((m.data.getD []).drop (b.pa % 128)).take b.bytes)))) := by
  have hsrc' : ¬ 152 ≤ m.src := by omega
  have hmk : m.kind = .readResp := h.2
  have hplain' : Plain (dropMsg s m.id) b.pa b.bytes := ⟨hplain.windows, hplain.mapped, hplain.tables, hplain.unflagged⟩
  have hseen : accSeen (dropMsg s m.id) b (((m.data.getD []).drop (b.pa % 128)).take b.bytes) =
      ((m.data.getD []).drop (b.pa % 128)).take b.bytes := accSeen_plain hplain' (List.length_take_le ..)
  have hr' : mayRead (dropMsg s m.id) b = true := hr
  have hstep : responseStep s m = performed (writeWords (dropMsg s m.id) b
      (extendWords b.cls b.bytes (leBytes (((m.data.getD []).drop (b.pa % 128)).take b.bytes)))) b := by
    simp only [responseStep, hp, hu, hmk, if_true, readArrives, hsrc', hb, if_false]
    refine performAll_one hr' ?_
    simp [hplain'.unflagged, hk, hseen, hpz, accEffect]
  refine ⟨_, readResponse_runs h, ?_⟩
  rw [hstep]
  refine ⟨?_, accOf_performed .., WordsIn.to_cores (performed_cores ..) (wordsIn_writeWords (u := dropMsg s m.id) rfl _)⟩
  exact mem_of_memory (by simp)

theorem readResponse_fills {s : State} {id c a w : Nat} {m : Msg} (h : Stands s id m .readResp) (hp : m.path = [(c, a)])
    (hsrc : m.src < 128) (hw : AnchorsAt s m c w) (hst : m.st = .e) (hroom : roomFor s m.src m.line = true) (ha : s.accs = []) :
    Leads s (.readResponse id) (fun t => ∃ l, cacheLine t m.src m.line = some l ∧ l.st = .e ∧ l.data = m.data.getD []) := by
  refine ⟨_, readResponse_runs h, ?_⟩
  rw [responseStep_arrives hp hw hroom, if_pos h.2, readArrives_fills (s := anchored s m c a w) hsrc hw.cached hroom ha]
  obtain ⟨l, hl, hlst, hld⟩ := cacheLine_filled (s := dropMsg (anchored s m c a w) m.id) ha m.src (broughtLine m m.st) 0
  exact ⟨l, hl, hlst.trans hst, hld⟩

/-- Settles O39: a read's hops, the two who answer it, and what its answer does at each router of its path and at the requester. -/
theorem readTransactions : Obligations.ReadTransactions := by
  refine fun s id m => ⟨fun n q h hg hr hn => read_hops h hg hr hn,
    fun h hr hfree hpeer hev hre hst => read_answered h hr hfree hpeer hev hre hst,
    fun g l h hr hg hunpk hcomm hsteer hc hl hev => read_held h hr hg hunpk hcomm hsteer hc hl hev,
    fun c a n b rest h hp => ⟨fun hu => readResponse_passes h hp hu, fun w hu hst hhas hc hg hw => ?_⟩,
    fun c a h hp hsrc => ⟨fun b hu hb hk hr hpz hplain => readResponse_loads h hp hsrc hu hb hk hr hpz hplain,
      fun w hu hst hhas hc hg hw hroom ha => ?_⟩⟩
  · exact readResponse_anchors h hp ⟨hu, .inr ⟨h.2, hst⟩, hhas, hc, hg, hw⟩
  · exact readResponse_fills h hp hsrc ⟨hu, .inr ⟨h.2, hst⟩, hhas, hc, hg, hw⟩ hst hroom ha

end Sys2Proof.Machine
end

section
/-!
SUPPORT. Transactions of a home (03 R49, R59): what one that opens sends and leaves at the home's router, and its end with a grant; how a
holder gives up its line for one.
-/
namespace Sys2Proof.Machine

/-! ### Transactions and waves -/

theorem txOf_closeTx (s : State) (line : Nat) : txOf (closeTx s line) line = none :=
  List.find?_eq_none.2 fun t ht => by simpa using (List.mem_filter.1 ht).2

theorem txOf_congr {s t : State} (h : t.homeTx = s.homeTx) (line : Nat) : txOf t line = txOf s line := by rw [txOf, h, txOf]

theorem unpickOf_congr {s t : State} (h : t.unpicks = s.unpicks) (r line : Nat) : unpickOf t r line = unpickOf s r line := by
  rw [unpickOf, h, unpickOf]

@[simp] theorem unpickOf_setUnpick (s : State) (u : Unpick) : unpickOf (setUnpick s u) u.router u.line = some u := by
  simp [unpickOf, setUnpick]

theorem unpickOf_name {s : State} {r line : Nat} {u : Unpick} (h : unpickOf s r line = some u) : u.router = r ∧ u.line = line := by
  simpa using List.find?_some h

/-! ### A transaction that invalidates a tree -/

/-- The wave of a transaction at the home: it waits for every port of the tree (03 R59). -/
def homeWave (m : Msg) (keep : Option Nat) (g : Stitch) : Unpick :=
  { router := m.home, line := m.line, port := 0, left := clearPort g.mask 0, keep := keep, why := 2 }

/-- The transaction of message `m` is open, and its wave not yet sent. -/
def opened (s : State) (m : Msg) (keep : Option Nat) (g : Stitch) : State :=
  setUnpick (modStitch { dropMsg s m.id with homeTx := { line := m.line, msg := m } :: s.homeTx } m.home m.line
    (fun t => { t with unpk := true })) (homeWave m keep g)

/-- The invalidation that goes through each port of the tree. -/
def homeInval (m : Msg) (keep : Option Nat) : Msg := { newMsg .inval m.line m.home 0 m.home (keep.getD 999) with aux := 0 }

theorem openTx_tree {s : State} {m : Msg} {keep : Option Nat} {g : Stitch} (hg : stitchOf s m.home m.line = some g) :
    openTx s m keep =
      (portsOf (clearPort g.mask 0)).foldl (fun s p => sendPort s m.home p (homeInval m keep)) (opened s m keep g) := by
  have hg' : stitchOf { dropMsg s m.id with homeTx := { line := m.line, msg := m } :: s.homeTx } m.home m.line = some g := hg
  simp only [openTx]
  rw [show (dropMsg s m.id).homeTx = s.homeTx from rfl, hg']
  rfl

theorem sends_openTx {s : State} {m : Msg} {keep : Option Nat} {g : Stitch} (hg : stitchOf s m.home m.line = some g) :
    Sends (opened s m keep g) (openTx s m keep) := by
  rw [openTx_tree hg]
  exact sends_foldl fun _ _ _ => sends_sendPort ..

theorem unpickOf_openTx {s : State} {m : Msg} {keep : Option Nat} {g : Stitch} (hg : stitchOf s m.home m.line = some g) :
    unpickOf (openTx s m keep) m.home m.line = some (homeWave m keep g) :=
  (unpickOf_congr (sends_openTx hg).unpicks ..).trans (unpickOf_setUnpick _ (homeWave m keep g))

theorem txOf_openTx {s : State} {m : Msg} {keep : Option Nat} {g : Stitch} (hg : stitchOf s m.home m.line = some g) :
    txOf (openTx s m keep) m.line = some { line := m.line, msg := m } := by
  rw [txOf_congr (sends_openTx hg).homeTx]
  simp [txOf, opened, setUnpick, modStitch, setStitches]

theorem stitchOf_openTx {s : State} {m : Msg} {keep : Option Nat} {g : Stitch} (hg : stitchOf s m.home m.line = some g) :
    stitchOf (openTx s m keep) m.home m.line = some { g with unpk := true } := by
  rw [(sends_openTx hg).stitches]
  exact stitchOf_modStitch (s := { dropMsg s m.id with homeTx := { line := m.line, msg := m } :: s.homeTx })
    (f := fun t => { t with unpk := true }) hg (fun _ => rfl) (fun _ => rfl)

/-- An invalidation goes through each port of the home's stitch (03 R59). -/
theorem sent_openTx {s : State} {m : Msg} {keep : Option Nat} {g : Stitch} {p n q : Nat} (hg : stitchOf s m.home m.line = some g)
    (hp : p ∈ portsOf (clearPort g.mask 0)) (hn : neighbour m.home p = some (n, q)) :
    Sent (openTx s m keep) .inval m.line n q (fun k => k.src = keep.getD 999) := by
  rw [openTx_tree hg]
  refine sent_foldl (fun _ _ _ => sends_sendPort ..) hp fun u _ => ?_
  have := sent_sendPort (s := u) hn (m := homeInval m keep) (P := fun k => k.src = keep.getD 999) (fun _ => rfl)
  exact this

/-- While a port of the tree has to answer, a transaction that is run stays open. -/
theorem runTx_waits {s : State} {m : Msg} {keep : Option Nat} {g : Stitch} {p : Nat} (hg : stitchOf s m.home m.line = some g)
    (hp : p ∈ portsOf (clearPort g.mask 0)) : runTx s m keep = openTx s m keep := by
  simp only [runTx, unpickOf_openTx hg, homeWave, if_neg (ne_zero_of_mem_portsOf hp)]

/-! ### The end of a transaction -/

/-- What a grant brings: the data that a holder gave up, or the line as memory holds it (03 R59). -/
def grantData (s : State) (u : Unpick) : List Byte × BitVec 16 := (u.data.map (·, u.poison)).getD (memLine s u.line)

/-- The state in which a transaction and its tree have gone. -/
def txEnded (s : State) (u : Unpick) : State := closeTx (dropUnpick (dropStitch s u.router u.line) u.router u.line) u.line

theorem finishTx_grants {s : State} {u : Unpick} {tx : HomeTx} (htx : txOf s u.line = some tx) (hk : tx.msg.kind = .write)
    (hu : tx.msg.uncached = false) (hl : u.lost = false) :
    finishTx s u = homeRespond (txEnded s u) tx.msg .grant .m true (grantData s u) := by
  have hmem : memLine (txEnded s u) u.line = memLine s u.line := rfl
  unfold txEnded at *
  cases hd : u.data <;> simp [finishTx, htx, hk, hu, hl, hd, grantData, hmem]

/-- A write's transaction ends: its tree is gone, and the grant goes to the writer (03 R59). -/
theorem finishTx_granted {s : State} {u : Unpick} {tx : HomeTx} (htx : txOf s u.line = some tx) (hk : tx.msg.kind = .write)
    (hu : tx.msg.uncached = false) (hl : u.lost = false) :
    (finishTx s u).mem = s.mem ∧ txOf (finishTx s u) u.line = none ∧ stitchOf (finishTx s u) u.router u.line = none ∧
      Sent (finishTx s u) .grant tx.msg.line tx.msg.at' 0
        (fun k => k.st = .m ∧ k.src = tx.msg.src ∧ k.data = some (grantData s u).1) := by
  rw [finishTx_grants htx hk hu hl]
  refine ⟨?_, ?_, ?_, sent_sendMsg ⟨rfl, rfl, rfl⟩⟩
  · exact (sends_sendMsg _ _).mem
  · exact (txOf_congr (sends_sendMsg _ _).homeTx _).trans (txOf_closeTx _ _)
  · exact ((sends_sendMsg _ _).stitches _ _).trans (stitchOf_dropStitch s u.router u.line)

/-! ### A holder that is invalidated -/

theorem cacheLine_dropHeld (s : State) (k line : Nat) : cacheLine (dropHeld s k line) k line = none := by
  refine List.find?_eq_none.2 fun x hx => ?_
  have hx' : x ∈ (clusterOf s k).cache.filter (fun l => l.line ≠ line) := by
    simpa [clusterOf, dropHeld, dropPrivate] using hx
  simpa using (List.mem_filter.1 hx').2

/-- No copy comes to be held where one is dropped. -/
theorem fabCopies_dropHeld {s : State} {r line : Nat} (h : fabCopies s r line = []) (k : Nat) :
    fabCopies (dropHeld s k line) r line = [] := by
  refine List.filter_eq_nil_iff.2 fun v hv => ?_
  obtain ⟨c, hc, hv⟩ := List.mem_filterMap.1 hv
  rcases mem_tput _ _ _ _ hc with rfl | hc
  · dsimp only at hv
    rw [filter_ne_line] at hv
    cases hv
  · exact List.filter_eq_nil_iff.1 h v (List.mem_filterMap.2 ⟨c, hc, hv⟩)

theorem countDiscard_rest (s : State) (line : Nat) (st : Moesic) :
    countDiscard s line st = { s with ctxs := (countDiscard s line st).ctxs } := by
  unfold countDiscard countFor
  (repeat' split) <;> rfl

/-- The local agent of a router gives up the line that it holds, and a copy in M or O returns its data (03 R59). -/
theorem invalLocal_own {s : State} {r line : Nat} {keep : Option Nat} {l : CLine} (hk : keep ≠ some r) (hc : cacheLine s r line = some l)
    (hf : fabCopies s r line = []) :
    invalLocal s r line keep = (countDiscard (dropHeld s r line) line l.st, dirtyOf l, false) := by
  have hf' : fabCopies (countDiscard (dropHeld s r line) line l.st) r line = [] := by
    rw [countDiscard_rest]
    exact fabCopies_dropHeld hf r
  simp [invalLocal, hk, hc, hf']

end Sys2Proof.Machine
end

section
/-!
PROOF. Writes (03 R54, R59 to R62, R67): the way of a write, its transaction, invalidations and their answers, prunes, drops and releases.
-/
namespace Sys2Proof.Machine

/-! ### A write on its way -/

/-- The mark of a renewal that passes a stitch by a live port (03 R66, R67). -/
def renewed (m : Msg) (g : Stitch) : Stitch := if maskBit g m.port then { g with rnwd := setPort g.rnwd m.port } else g

theorem markRenewal_held {s : State} {m : Msg} (hk : m.kind = .write ∨ m.kind = .join) (hc : (cacheLine s m.src m.line).isSome = true) :
    markRenewal s m = modStitch s m.at' m.line (renewed m) := by
  rcases hk with hk | hk <;> simp only [markRenewal, hk, hc] <;> rfl

theorem stitchOf_renewed {s : State} {m : Msg} {g : Stitch} (hg : stitchOf s m.at' m.line = some g) :
    stitchOf (modStitch s m.at' m.line (renewed m)) m.at' m.line = some (renewed m g) :=
  stitchOf_modStitch hg (fun t => by unfold renewed; split <;> rfl) (fun t => by unfold renewed; split <;> rfl)

/-- A stitch that a message marks keeps its ports. -/
theorem stitchOf_markRenewal {s : State} {m : Msg} {g : Stitch} (hg : stitchOf s m.at' m.line = some g) :
    ∃ g', stitchOf (markRenewal s m) m.at' m.line = some g' ∧ g'.mask = g.mask := by
  unfold markRenewal
  split
  · refine ⟨_, stitchOf_renewed hg, ?_⟩
    unfold renewed
    split <;> rfl
  · exact ⟨g, hg, rfl⟩

theorem write_hops {s : State} {id n q : Nat} {m : Msg} (h : Stands s id m .write) (hr : m.at' ≠ m.home)
    (hn : neighbour m.at' (routePort m.at' m.home) = some (n, q)) :
    Leads s (.writeRequest id) (fun t => t.mem = s.mem ∧ (cacheLine s m.src m.line = none → StitchesKept s t) ∧
      (∀ g, (cacheLine s m.src m.line).isSome = true → stitchOf s m.at' m.line = some g → maskBit g m.port = true →
        stitchOf t m.at' m.line = some { g with rnwd := setPort g.rnwd m.port }) ∧
      ∃ k, msgOf t id = some k ∧ k.kind = .write ∧ k.at' = n ∧ k.port = q ∧ k.path = (m.at', m.port) :: m.path) := by
  obtain rfl := h.id_eq
  have hstep : exec (.writeRequest m.id) s = .next (moveMsg (markRenewal s m)
      { m with at' := n, port := q, path := (m.at', m.port) :: m.path }) := by
    simp [exec, execWriteRequest, h.1, h.2, hr, hop_eq hn]
  refine ⟨_, hstep, ?_, fun hc => ?_, fun g hc hg hp => ?_, ?_⟩
  · exact mem_of_memory (by simp)
  · rw [markRenewal_not_held hc]
    exact stitchesKept_moveMsg s _
  · rw [stitchesKept_moveMsg, markRenewal_held (.inl h.2) hc, stitchOf_renewed hg, renewed, if_pos hp]
  · exact ⟨_, msgOf_moveMsg _ { m with at' := n, port := q, path := (m.at', m.port) :: m.path }, h.2, rfl, rfl, rfl⟩

/-! ### A write at the home -/

theorem writeRequest_bare {s : State} {id : Nat} {m : Msg} (h : Stands s id m .write) (hr : m.at' = m.home) (hu : m.uncached = false)
    (ht : tileReady s m.line true = true) (hfree : HomeFree s m.line m.home (ahead s id)) :
    exec (.writeRequest id) s = .next (runTx s m (some m.src)) := by
  obtain rfl := h.id_eq
  simp [exec, execWriteRequest, h.1, h.2, hr, hu, ht, mustWait_eq_false hfree, hfree.unflagged, hfree.bare]

theorem writeRequest_tree {s : State} {id : Nat} {m : Msg} {g : Stitch} (h : Stands s id m .write) (hr : m.at' = m.home)
    (hu : m.uncached = false) (ht : tileReady s m.line true = true) (hwait : mustWait s m = false) (hflag : lineFlagged s m.line = false)
    (hg : stitchOf s m.home m.line = some g) (hunpk : g.unpk = false) (hcomm : g.comm = false) :
    exec (.writeRequest id) s = .next (runTx (markRenewal s m) m (some m.src)) := by
  simp [exec, execWriteRequest, h.1, h.2, hr, hu, ht, hwait, hflag, hg, hunpk, hcomm]

/-- With no tree a transaction opens and ends at once. -/
theorem runTx_bare {s : State} {m : Msg} {keep : Option Nat} (hg : stitchOf s m.home m.line = none) :
    runTx s m keep = finishTx
      (setUnpick { dropMsg s m.id with homeTx := { line := m.line, msg := m } :: s.homeTx }
        { router := m.home, line := m.line, port := 0, left := 0, why := 2 })
      { router := m.home, line := m.line, port := 0, left := 0, why := 2 } := by
  have hg' : stitchOf { dropMsg s m.id with homeTx := { line := m.line, msg := m } :: s.homeTx } m.home m.line = none := hg
  have hopen : openTx s m keep = setUnpick { dropMsg s m.id with homeTx := { line := m.line, msg := m } :: s.homeTx }
      { router := m.home, line := m.line, port := 0, left := 0, why := 2 } := by
    simp only [openTx]
    rw [show (dropMsg s m.id).homeTx = s.homeTx from rfl, hg']
  simp [runTx, hopen, unpickOf, setUnpick]

theorem write_granted {s : State} {id : Nat} {m : Msg} (h : Stands s id m .write) (hr : m.at' = m.home) (hu : m.uncached = false)
    (ht : tileReady s m.line true = true) (hfree : HomeFree s m.line m.home (ahead s id)) :
    Leads s (.writeRequest id) (fun t => t.mem = s.mem ∧ txOf t m.line = none ∧
      Sent t .grant m.line m.home 0 (fun k => k.st = .m ∧ k.src = m.src ∧ k.data = some (memBytes s (128 * m.line) 128))) := by
  refine ⟨_, writeRequest_bare h hr hu ht hfree, ?_⟩
  rw [runTx_bare hfree.bare]
  obtain ⟨hmem, htx, -, hsent⟩ := finishTx_granted (s := setUnpick { dropMsg s m.id with homeTx := { line := m.line, msg := m } :: s.homeTx }
    { router := m.home, line := m.line, port := 0, left := 0, why := 2 })
    (u := { router := m.home, line := m.line, port := 0, left := 0, why := 2 }) (tx := { line := m.line, msg := m })
    (by simp [txOf, setUnpick]) h.2 hu rfl
  exact ⟨hmem, htx, hr ▸ hsent⟩

theorem write_invalidates {s : State} {id p n q : Nat} {m : Msg} {g : Stitch} (h : Stands s id m .write) (hr : m.at' = m.home)
    (hu : m.uncached = false) (ht : tileReady s m.line true = true) (hwait : mustWait s m = false) (hflag : lineFlagged s m.line = false)
    (hg : stitchOf s m.at' m.line = some g) (hunpk : g.unpk = false) (hcomm : g.comm = false) (hp : p ∈ portsOf (clearPort g.mask 0))
    (hn : neighbour m.at' p = some (n, q)) :
    Leads s (.writeRequest id) (fun t => t.mem = s.mem ∧ (txOf t m.line).isSome = true ∧
      (∃ g', stitchOf t m.at' m.line = some g' ∧ g'.unpk = true ∧ g'.mask = g.mask) ∧
      Sent t .inval m.line n q (fun k => k.src = m.src)) := by
  obtain ⟨g', hg', hmask⟩ := stitchOf_markRenewal hg
  rw [hr] at hg hg' hn
  rw [← hmask] at hp
  refine ⟨_, writeRequest_tree h hr hu ht hwait hflag hg hunpk hcomm, ?_⟩
  rw [runTx_waits hg' hp]
  refine ⟨?_, by simp [txOf_openTx hg'], ⟨{ g' with unpk := true }, hr ▸ stitchOf_openTx hg', rfl, hmask⟩, sent_openTx hg' hp hn⟩
  exact mem_of_memory (by simp)

/-! ### An invalidation -/

theorem invalidation_runs {s : State} {id : Nat} {m : Msg} (h : Stands s id m .inval) : exec (.invalidation id) s = .next (invalStep s m) := by
  simp [exec, execInvalidation, h.1, h.2]

theorem inval_passed {s : State} {id n q : Nat} {m : Msg} (h : Stands s id m .inval) (hn : neighbour m.at' m.port = some (n, q))
    (hg : stitchOf s m.at' m.line = none) :
    Leads s (.invalidation id) (fun t => t.mem = s.mem ∧ Sent t .invalAck m.line n q (fun k => k.data = none)) := by
  have hg' : stitchOf (dropMsg s m.id) m.at' m.line = none := hg
  have hstep : invalStep s m =
      sendPort (dropMsg s m.id) m.at' m.port { newMsg .invalAck m.line m.at' 0 m.home m.at' with aux := 0 } := by
    simp only [invalStep, hg']
  refine ⟨_, invalidation_runs h, ?_⟩
  rw [hstep]
  exact ⟨(sends_sendPort ..).mem, sent_sendPort hn (m := { newMsg .invalAck m.line m.at' 0 m.home m.at' with aux := 0 }) fun _ => rfl⟩

/-- A node that answers through a port of the mesh leaves no stitch, and its acknowledgement takes what it gathered (03 R59, R75). -/
theorem finishNode_acks {s : State} {u : Unpick} {n q : Nat} (hw : u.why = 0 ∨ u.why = 3) (hn : neighbour u.router u.port = some (n, q)) :
    stitchOf (finishNode s u) u.router u.line = none ∧ (finishNode s u).mem = s.mem ∧ (finishNode s u).clusters = s.clusters ∧
      Sent (finishNode s u) .invalAck u.line n q (fun k => k.data = u.data ∧ k.has = u.has) := by
  have hp := port_ne_zero hn
  have hack : finishNode s u = sendPort (dropUnpick (dropStitch s u.router u.line) u.router u.line) u.router u.port
      { newMsg .invalAck u.line u.router 0 (lineHome s u.line) u.router with
        data := u.data, poison := u.poison, has := u.has, pte := u.pte, lost := u.lost } := by
    rcases hw with hw | hw <;> simp only [finishNode, hw, ackThrough, hp, and_false, if_false] <;> rfl
  rw [hack]
  refine ⟨((sends_sendPort ..).stitches ..).trans (stitchOf_dropStitch s u.router u.line), (sends_sendPort ..).mem,
    (sends_sendPort ..).clusters, ?_⟩
  exact sent_sendPort hn (m := { newMsg .invalAck u.line u.router 0 (lineHome s u.line) u.router with
        data := u.data, poison := u.poison, has := u.has, pte := u.pte, lost := u.lost }) fun _ => ⟨rfl, rfl⟩

/-- The node of a router whose only copy is its own agent's, invalidated by message `m`. -/
def lastNode (m : Msg) (keep : Option Nat) (l : CLine) : Unpick :=
  { router := m.at', line := m.line, port := m.port, left := 0, data := (dirtyOf l).map (·.1), poison := ((dirtyOf l).map (·.2)).getD 0,
    keep := keep, why := 0 }

/-- An invalidation that no other port has to answer ends at its router. -/
theorem invalStep_last {s : State} {m : Msg} {g : Stitch} {l : CLine} (hg : stitchOf s m.at' m.line = some g)
    (hu : unpickOf s m.at' m.line = none) (h0 : maskBit g 0 = true) (hf : fabCopies s m.at' m.line = []) (hsrc : m.src ≠ m.at')
    (hleft : clearPort (clearPort g.mask 0) m.port = 0) (hc : cacheLine s m.at' m.line = some l) :
    ∃ keep, invalStep s m = finishNode (setUnpick (modStitch (countDiscard (dropHeld (dropMsg s m.id) m.at' m.line) m.line l.st)
      m.at' m.line (fun t => { t with unpk := true })) (lastNode m keep l)) (lastNode m keep l) := by
  have hkeep : (if m.src = 999 then none else some m.src) ≠ some m.at' := by split <;> simp [hsrc]
  have hg' : stitchOf (dropMsg s m.id) m.at' m.line = some g := hg
  have hu' : unpickOf (dropMsg s m.id) m.at' m.line = none := hu
  have hinv := invalLocal_own (s := dropMsg s m.id) hkeep hc hf
  refine ⟨if m.src = 999 then none else some m.src, ?_⟩
  simp only [invalStep, hg', hu', h0, if_true, hinv, hleft, Bool.false_eq_true, if_false, advanceNode]
  rfl

theorem inval_held {s : State} {id n q : Nat} {m : Msg} {g : Stitch} {l : CLine} (h : Stands s id m .inval)
    (hn : neighbour m.at' m.port = some (n, q)) (hg : stitchOf s m.at' m.line = some g) (hu : unpickOf s m.at' m.line = none)
    (h0 : maskBit g 0 = true) (hf : fabCopies s m.at' m.line = []) (hsrc : m.src ≠ m.at')
    (hleft : clearPort (clearPort g.mask 0) m.port = 0) (hc : cacheLine s m.at' m.line = some l) :
    Leads s (.invalidation id) (fun t => t.mem = s.mem ∧ cacheLine t m.at' m.line = none ∧ stitchOf t m.at' m.line = none ∧
      Sent t .invalAck m.line n q (fun k => k.data = if l.st = .m ∨ l.st = .o then some l.data else none)) := by
  obtain ⟨keep, hstep⟩ := invalStep_last hg hu h0 hf hsrc hleft hc
  have hrest := countDiscard_rest (dropHeld (dropMsg s m.id) m.at' m.line) m.line l.st
  obtain ⟨hgone, hmem, hclusters, k, hk, hkind, hline, hat, hport, hkdata, -⟩ := finishNode_acks
    (s := setUnpick (modStitch (countDiscard (dropHeld (dropMsg s m.id) m.at' m.line) m.line l.st) m.at' m.line
      (fun t => { t with unpk := true })) (lastNode m keep l)) (u := lastNode m keep l) (.inl rfl) hn
  have hdata : (lastNode m keep l).data = if l.st = .m ∨ l.st = .o then some l.data else none := by
    cases hst : l.st <;> simp [lastNode, dirtyOf, hst]
  refine ⟨_, invalidation_runs h, ?_⟩
  rw [hstep]
  refine ⟨hmem.trans ?_, (cacheLine_congr hclusters ..).trans ?_, hgone,
    k, hk, hkind, hline, hat, hport, hkdata.trans hdata⟩
  · rw [hrest]
    rfl
  · rw [hrest]
    exact cacheLine_dropHeld (dropMsg s m.id) m.at' m.line

/-! ### The last acknowledgement -/

/-- The wave of a home's transaction after an acknowledgement (03 R59). -/
def ackedWave (u : Unpick) (m : Msg) : Unpick :=
  let u := { u with left := clearPort u.left m.port, lost := u.lost || m.lost }
  (m.data.map (fun d => { u with data := some d, poison := m.poison })).getD u

theorem ackStep_ends {s : State} {m : Msg} {u : Unpick} (ha : m.aux ≠ 1) (hu : unpickOf s m.at' m.line = some u) (hw : u.why = 2)
    (hleft : clearPort u.left m.port = 0) :
    ackStep s m = finishTx (setUnpick (dropMsg s m.id) (ackedWave u m)) (ackedWave u m) := by
  have hu' : unpickOf (dropMsg s m.id) m.at' m.line = some u := hu
  cases hg : stitchOf (dropMsg s m.id) m.at' m.line <;> cases hd : m.data <;>
    simp [ackStep, ha, hu', hw, advanceNode, hleft, ackedWave, hg, hd, finishNode]

theorem ack_grants {s : State} {id : Nat} {m : Msg} {u : Unpick} {tx : HomeTx} (h : Stands s id m .invalAck) (ha : m.aux ≠ 1)
    (hu : unpickOf s m.at' m.line = some u) (hw : u.why = 2) (hleft : clearPort u.left m.port = 0) (hl : u.lost = false)
    (hml : m.lost = false) (htx : txOf s m.line = some tx) (hk : tx.msg.kind = .write) (hun : tx.msg.uncached = false) :
    Leads s (.invalidationAck id) (fun t => t.mem = s.mem ∧ txOf t m.line = none ∧ stitchOf t m.at' m.line = none ∧
      Sent t .grant tx.msg.line tx.msg.at' 0 (fun k => k.src = tx.msg.src ∧ (∀ d, m.data = some d → k.data = some d) ∧
        (m.data = none → u.data = none → k.data = some (memBytes s (128 * m.line) 128)))) := by
  obtain ⟨hrouter, hline⟩ := unpickOf_name hu
  have hrouter' : (ackedWave u m).router = m.at' := by cases hd : m.data <;> simp [ackedWave, hd, hrouter]
  have hline' : (ackedWave u m).line = m.line := by cases hd : m.data <;> simp [ackedWave, hd, hline]
  have hlost' : (ackedWave u m).lost = false := by cases hd : m.data <;> simp [ackedWave, hd, hl, hml]
  have hrun : exec (.invalidationAck id) s = .next (ackStep s m) := by simp [exec, execInvalidationAck, h.1, h.2]
  obtain ⟨hmem, hgone, hbare, k, hkin, hkind, hkline, hkat, hkport, -, hksrc, hkdata⟩ :=
    finishTx_granted (s := setUnpick (dropMsg s m.id) (ackedWave u m)) (u := ackedWave u m) (tx := tx) (by rw [hline']; exact htx) hk hun hlost'
  rw [hline'] at hgone hbare
  rw [hrouter'] at hbare
  refine ⟨_, hrun, ?_⟩
  rw [ackStep_ends ha hu hw hleft]
  refine ⟨hmem, hgone, hbare, k, hkin, hkind, hkline, hkat, hkport, hksrc, fun d hd => ?_, fun hd hud => ?_⟩
  · simpa [grantData, ackedWave, hd] using hkdata
  · have hbytes : (memLine (setUnpick (dropMsg s m.id) (ackedWave u m)) m.line).1 = memBytes s (128 * m.line) 128 := rfl
    rw [hkdata, ← hbytes, ← hline']
    simp [grantData, ackedWave, hd, hud]

/-! ### A grant at the writer -/

theorem grant_fills {s : State} {id c a w : Nat} {m : Msg} (h : Stands s id m .grant) (hp : m.path = [(c, a)]) (hsrc : m.src < 128)
    (hw : AnchorsAt s m c w) (hroom : roomFor s m.src m.line = true) (ha : s.accs = []) (hc : cacheLine s m.src m.line = none) :
    Leads s (.writeGrant id) (fun t => ∃ l, cacheLine t m.src m.line = some l ∧ l.st = .m ∧ l.data = m.data.getD []) := by
  have hrun : exec (.writeGrant id) s = .next (responseStep s m) := by simp [exec, execWriteGrant, h.1, h.2]
  refine ⟨_, hrun, ?_⟩
  rw [responseStep_arrives hp hw hroom, if_neg (by simp [h.2]),
    writeArrives_fills (s := anchored s m c a w) hsrc h.2 hroom ha hc]
  exact cacheLine_filled (s := dropMsg (anchored s m c a w) m.id) ha m.src (broughtLine m .m) 0

/-! ### Prunes and drop notices -/

theorem prune_stays {s : State} {r line : Nat} {g : Stitch} (hg : stitchOf s r line = some g) (hr : r ≠ lineHome s line)
    (h0 : g.mask.getLsbD 0 = true) : prune s r line = s := by
  have h0' : maskBit g 0 = true := h0
  simp [prune, hg, hr, h0']

theorem prune_home {s : State} {r line : Nat} {g : Stitch} (hg : stitchOf s r line = some g) (hunpk : g.unpk = false)
    (hr : r = lineHome s line) (h0 : g.mask = 0) : prune s r line = dropStitch s r line := by
  simp only [prune, hg, hunpk, Bool.false_eq_true, if_false]
  rw [if_pos hr, if_pos h0]

/-- A stitch that only passes its line on goes, and its one branch is pruned (03 R54). -/
theorem prune_passes {s : State} {r line p n q : Nat} {g : Stitch} (hg : stitchOf s r line = some g) (hunpk : g.unpk = false)
    (hr : r ≠ lineHome s line) (h0 : g.mask.getLsbD 0 = false) (hp : portsOf g.mask = [p]) (hn : neighbour r p = some (n, q)) :
    (prune s r line).mem = s.mem ∧ stitchOf (prune s r line) r line = none ∧ Sent (prune s r line) .prune line n q (fun _ => True) := by
  have h0' : maskBit g 0 = false := h0
  have hstep : prune s r line = sendPort (dropStitch s r line) r p (newMsg .prune line r 0 (lineHome s line) r) := by
    simp [prune, hg, hunpk, hr, h0', hp]
  have hs := sends_sendPort (dropStitch s r line) r p (newMsg .prune line r 0 (lineHome s line) r)
  rw [hstep]
  exact ⟨hs.mem, (hs.stitches ..).trans (stitchOf_dropStitch s r line),
    sent_sendPort hn (m := newMsg .prune line r 0 (lineHome s line) r) fun _ => trivial⟩

/-- The state in which a port of a message's line is cleared at its router. -/
def portCleared (s : State) (m : Msg) (p : Nat) : State :=
  modStitch (dropMsg s m.id) m.at' m.line (fun t => { t with mask := clearPort t.mask p })

theorem stitchOf_portCleared {s : State} {m : Msg} {g : Stitch} (hg : stitchOf s m.at' m.line = some g) (p : Nat) :
    stitchOf (portCleared s m p) m.at' m.line = some { g with mask := clearPort g.mask p } :=
  stitchOf_modStitch (s := dropMsg s m.id) (f := fun t => { t with mask := clearPort t.mask p }) hg (fun _ => rfl) (fun _ => rfl)

theorem lineHome_portCleared (s : State) (m : Msg) (p line : Nat) : lineHome (portCleared s m p) line = lineHome s line :=
  lineHome_congr rfl line

theorem prune_runs {s : State} {id : Nat} {m : Msg} (h : Stands s id m .prune) :
    exec (.prune id) s = .next (prune (portCleared s m m.port) m.at' m.line) := by
  simp [exec, execPrune, h.1, h.2, portCleared]

theorem dropNotice_runs {s : State} {id : Nat} {m : Msg} {g : Stitch} (h : Stands s id m .dropNotice)
    (hg : stitchOf s m.at' m.line = some g) (hp : maskBit g m.port = true) :
    exec (.dropNotice id) s = .next (prune (portCleared s m 0) m.at' m.line) := by
  have hlive : livePort s m = true := by simp [livePort, hg, hp]
  simp [exec, execDropNotice, h.1, h.2, hlive, portCleared]

/-! ### An anchor's release -/

theorem writeHome_bytes (s : State) (line : Nat) {d : List Byte} (hd : d.length = 128) (pz : BitVec 16) :
    memBytes (writeHome s line d pz) (128 * line) 128 = d ∧ MemKeptBut s (writeHome s line d pz) (128 * line) 128 := by
  have hm : (writeHome s line d pz).memory = (putBytes s (128 * line) d).memory := rfl
  refine ⟨?_, fun j hj => ?_⟩
  · rw [memBytes_of_memory hm, ← hd]
    exact memBytes_putBytes ..
  · rw [memByte_of_memory hm]
    exact memKept_putBytes s (128 * line) d j (hd ▸ hj)

/-- A release's transaction writes nothing more: its data stand in memory before it opens. -/
theorem runTx_release_memory {s : State} {m : Msg} {keep : Option Nat} {g : Stitch} (hk : m.kind = .anchorRelease)
    (hg : stitchOf s m.home m.line = some g) : (runTx s m keep).memory = s.memory := by
  have htx := txOf_openTx (keep := keep) hg
  simp only [runTx, unpickOf_openTx hg]
  split
  · simp only [finishTx, htx, hk, homeWave]
    simp
  · simp

theorem release_writes {s : State} {id : Nat} {m : Msg} {d : List Byte} (h : Stands s id m .anchorRelease) (hlive : livePort s m = true)
    (hr : m.at' = m.home) (hu : unpickOf s m.at' m.line = none) (hwait : mustWait s m = false) (hd : m.data = some d)
    (hlen : d.length = 128) :
    Leads s (.anchorRelease id) (fun t => memBytes t (128 * m.line) 128 = d ∧ MemKeptBut s t (128 * m.line) 128 ∧
      ∀ g p n q, stitchOf s m.at' m.line = some g → p ∈ portsOf (clearPort g.mask 0) → neighbour m.at' p = some (n, q) →
        Sent t .inval m.line n q (fun _ => True)) := by
  obtain ⟨g, hg⟩ : ∃ g, stitchOf s m.at' m.line = some g := by
    cases hg : stitchOf s m.at' m.line with
    | none => simp [livePort, hg] at hlive
    | some g => exact ⟨g, rfl⟩
  rw [hr] at hg hu ⊢
  have hrun : exec (.anchorRelease id) s = .next (runTx (modStitch (writeHome s m.line d m.poison) m.home m.line
      (fun t => { t with own := false })) m none) := by
    simp [exec, execAnchorRelease, h.1, h.2, hlive, hr, hu, hwait, hd]
  have hg' : stitchOf (modStitch (writeHome s m.line d m.poison) m.home m.line (fun t => { t with own := false })) m.home m.line =
      some { g with own := false } := by
    refine stitchOf_modStitch (f := fun t => { t with own := false }) ((stitchOf_congr ?_ ..).trans hg) (fun _ => rfl) (fun _ => rfl)
    rw [writeHome, putBytes_rest]
  obtain ⟨hbytes, hkept⟩ := writeHome_bytes s m.line hlen m.poison
  have hm := runTx_release_memory (keep := none) h.2 hg'
  refine ⟨_, hrun, (memBytes_of_memory hm ..).trans hbytes, fun j hj => (memByte_of_memory hm j).trans (hkept j hj),
    fun g₁ p n q hg₁ hp hn => ?_⟩
  obtain rfl : g = g₁ := by simpa [hg] using hg₁
  rw [runTx_waits hg' hp]
  obtain ⟨k, hk, hkind, hline, hat, hport, -⟩ := sent_openTx (keep := none) hg' hp hn
  exact ⟨k, hk, hkind, hline, hat, hport, trivial⟩

/-- Settles O40: what a write, an invalidation, an acknowledgement, a grant, a prune, a drop notice and a release each do at a router. -/
theorem writeTransactions : Obligations.WriteTransactions := by
  refine fun s id m => ⟨fun n q h hr hn => write_hops h hr hn, fun h hr hu ht => ⟨fun hfree => write_granted h hr hu ht hfree,
      fun g p n q hwait hflag hg hunpk hcomm hp hn => write_invalidates h hr hu ht hwait hflag hg hunpk hcomm hp hn⟩,
    fun n q h hn => ⟨fun hg => inval_passed h hn hg,
      fun g l hg hu h0 hf hsrc hleft hc => inval_held h hn hg hu h0 hf hsrc hleft hc⟩,
    fun u tx h ha hu hw hleft hl hml htx hk hun => ack_grants h ha hu hw hleft hl hml htx hk hun,
    fun c a w h hp hun hhas hsrc hc hg hw hroom ha hcl => ?_,
    fun g h hg hunpk => ⟨fun hr h0 => ?_, fun hr h0 => ?_, fun p n q hr h0 hp hn => ?_⟩,
    fun g p n q h hg hp hunpk hr hports hn => ?_,
    fun d h hlive hr hu hwait hd hlen => release_writes h hlive hr hu hwait hd hlen⟩
  · exact grant_fills h hp hsrc ⟨hun, .inl h.2, hhas, hc, hg, hw⟩ hroom ha hcl
  · rw [← lineHome_portCleared s m m.port] at hr
    refine ⟨_, prune_runs h, ?_, ?_⟩
    · exact mem_of_memory (by simp [portCleared])
    · rw [prune_stays (stitchOf_portCleared hg m.port) hr h0]
      exact stitchOf_portCleared hg m.port
  · rw [← lineHome_portCleared s m m.port] at hr
    refine ⟨_, prune_runs h, ?_⟩
    rw [prune_home (stitchOf_portCleared hg m.port) hunpk hr h0]
    exact ⟨rfl, stitchOf_dropStitch ..⟩
  · rw [← lineHome_portCleared s m m.port] at hr
    exact ⟨_, prune_runs h, prune_passes (stitchOf_portCleared hg m.port) hunpk hr h0 hp hn⟩
  · rw [← lineHome_portCleared s m 0] at hr
    have h0 : (clearPort g.mask 0).getLsbD 0 = false := (maskBit_clearPort (by omega)).trans (by simp)
    exact ⟨_, dropNotice_runs h hg hp, prune_passes (stitchOf_portCleared hg 0) hunpk hr h0 hports hn⟩

end Sys2Proof.Machine
end

section
/-!
SUPPORT. The elements of a commutative line (03 R76): a folded element fits its place, and the elements of a folded line.
-/
namespace Sys2Proof.Machine

/-! ### Powers of two as fractions -/

theorem pow2Q_pos (e : Int) : 0 < ((pow2Q e).2 : ℚ) := by
  unfold pow2Q
  split <;> simp

/-- The fraction of `pow2Q` is the power of two. -/
theorem pow2Q_eq (e : Int) : ((pow2Q e).1 : ℚ) = 2 ^ e * (pow2Q e).2 := by
  unfold pow2Q
  split
  · rename_i h
    obtain ⟨n, rfl⟩ := Int.eq_ofNat_of_zero_le h
    simp
  · rename_i h
    obtain ⟨n, hn⟩ := Int.eq_ofNat_of_zero_le (show 0 ≤ -e by omega)
    obtain rfl : e = -n := by omega
    simp

/-- A comparison of products by powers of two. -/
theorem pow2Q_mul_lt (x y : Nat) (e f : Int) :
    x * (pow2Q e).1 * (pow2Q f).2 < y * (pow2Q f).1 * (pow2Q e).2 ↔ (x : ℚ) * 2 ^ e < y * 2 ^ f := by
  have he := pow2Q_pos e
  have hf := pow2Q_pos f
  rw [← Nat.cast_lt (α := ℚ)]
  push_cast
  rw [pow2Q_eq e, pow2Q_eq f, show (x : ℚ) * (2 ^ e * (pow2Q e).2) * (pow2Q f).2 = x * 2 ^ e * ((pow2Q e).2 * (pow2Q f).2) by ring,
    show (y : ℚ) * (2 ^ f * (pow2Q f).2) * (pow2Q e).2 = y * 2 ^ f * ((pow2Q e).2 * (pow2Q f).2) by ring]
  exact mul_lt_mul_iff_left₀ (mul_pos he hf)

/-- `n / d` lies below the power of two after its logarithm. -/
theorem lt_ilog2Q (n : Nat) {d : Nat} (hd : 0 < d) : (n : ℚ) < d * 2 ^ (ilog2Q n d + 1) := by
  have hcmp (k : Int) : n * (pow2Q k).2 < d * (pow2Q k).1 ↔ (n : ℚ) < d * 2 ^ k := by
    simpa [pow2Q] using pow2Q_mul_lt n d 0 k
  unfold ilog2Q
  extract_lets k p
  split
  · have hn : (n : ℚ) < 2 ^ (n.log2 + 1) := by exact_mod_cast Nat.lt_log2_self
    have hd' : (2 : ℚ) ^ d.log2 ≤ d := by exact_mod_cast Nat.log2_self_le hd.ne'
    calc (n : ℚ) < 2 ^ (n.log2 + 1) := hn
      _ = 2 ^ d.log2 * 2 ^ (k + 1) := by
        rw [← zpow_natCast, ← zpow_natCast, ← zpow_add₀ two_ne_zero]
        congr 1
        push_cast
        omega
      _ ≤ d * 2 ^ (k + 1) := by gcongr
  · rw [sub_add_cancel]
    exact (hcmp k).1 (Nat.lt_of_not_le ‹_›)

/-! ### A rounded value fits its format -/

/-- A significand that is rounded at a unit of at most `M` places below its leading bit has `M + 1` places, or is the next power. -/
theorem roundUnit_le (mode : RMode) (neg : Bool) (n d : Nat) (u : Int) (M : Nat) (h : ilog2Q n d ≤ u + M) :
    (roundUnit mode neg n d u).1 ≤ 2 ^ (M + 1) := by
  have hfloor : n * (pow2Q u).2 / (d * (pow2Q u).1) < 2 ^ (M + 1) := by
    rcases Nat.eq_zero_or_pos d with rfl | hd
    · simp
    · have hlt : (n : ℚ) < (d * 2 ^ (M + 1) : Nat) * 2 ^ u := by
        calc (n : ℚ) < d * 2 ^ (ilog2Q n d + 1) := lt_ilog2Q n hd
          _ ≤ d * 2 ^ (u + M + 1) := mul_le_mul_of_nonneg_left (zpow_le_zpow_right₀ one_le_two (by omega)) d.cast_nonneg
          _ = (d * 2 ^ (M + 1) : Nat) * 2 ^ u := by
            rw [add_assoc, add_comm, zpow_add₀ two_ne_zero]
            push_cast
            rw [← zpow_natCast]
            push_cast
            ring
      have := (pow2Q_mul_lt n (d * 2 ^ (M + 1)) 0 u).2 (by simpa using hlt)
      refine (Nat.div_lt_iff_lt_mul ?_).2 ?_
      · refine Nat.mul_pos hd (Nat.pos_of_ne_zero fun h0 => ?_)
        simp [h0] at this
      · simpa [pow2Q, Nat.mul_comm, Nat.mul_left_comm, Nat.mul_assoc] using this
  unfold roundUnit
  extract_lets p num den q r up
  have hq : q < 2 ^ (M + 1) := hfloor
  show (if up then q + 1 else q) ≤ _
  split <;> omega

/-- What does not overflow lies at most at the exponent of the largest value. -/
theorem exponent_lt {f : Fmt} {q k : Nat} {u e : Int} (hmax : decodeF f (maxCode f) = .fin false (2 ^ (fmtM f + 1) - 1) e)
    (hover : isOverflow f q u = false) (hk : 2 ^ k ≤ q) : k + u < fmtM f + 1 + e := by
  have hle : (q : ℚ) * 2 ^ u ≤ (2 ^ (fmtM f + 1) - 1 : Nat) * 2 ^ e := by
    simp only [isOverflow, hmax, decide_eq_false_iff_not] at hover
    exact not_lt.1 (mt (pow2Q_mul_lt _ _ _ _).2 hover)
  have hpow (j : Nat) (x : Int) : ((2 ^ j : Nat) : ℚ) * 2 ^ x = 2 ^ (j + x) := by
    rw [zpow_add₀ two_ne_zero, zpow_natCast, Nat.cast_pow, Nat.cast_ofNat]
  have hlt : (2 : ℚ) ^ (k + u) < 2 ^ ((fmtM f + 1 : Nat) + e) := by
    rw [← hpow, ← hpow]
    calc ((2 ^ k : Nat) : ℚ) * 2 ^ u ≤ q * 2 ^ u := by gcongr
      _ ≤ (2 ^ (fmtM f + 1) - 1 : Nat) * 2 ^ e := hle
      _ < (2 ^ (fmtM f + 1) : Nat) * 2 ^ e := by
        gcongr
        exact Nat.sub_lt (by positivity) one_pos
  simpa using (zpow_lt_zpow_iff_right₀ one_lt_two).1 hlt

/-- What does not overflow has a code below that of infinity: `e` is the exponent of the largest value. -/
theorem magCode_lt {f : Fmt} {q : Nat} {u e : Int} (hmax : decodeF f (maxCode f) = .fin false (2 ^ (fmtM f + 1) - 1) e)
    (he : e + fmtM f + fmtBias f + 1 < (2 ^ fmtE f : Nat)) (hq : q ≤ 2 ^ (fmtM f + 1)) (hover : isOverflow f q u = false) :
    magCode f q u < 2 ^ fmtE f * 2 ^ fmtM f := by
  have hM : 0 < 2 ^ fmtM f := by positivity
  have hE : 0 < 2 ^ fmtE f := by positivity
  have hplace {x y : Nat} (hx : x < 2 ^ fmtE f) (hy : y < 2 ^ fmtM f) : x * 2 ^ fmtM f + y < 2 ^ fmtE f * 2 ^ fmtM f :=
    calc x * 2 ^ fmtM f + y < (x + 1) * 2 ^ fmtM f := by rw [Nat.add_one_mul]; omega
      _ ≤ 2 ^ fmtE f * 2 ^ fmtM f := Nat.mul_le_mul_right _ hx
  unfold magCode
  split
  · simpa using hplace hE ‹_›
  · have hexp := exponent_lt (k := fmtM f) hmax hover (by omega)
    split
    · have hexp := exponent_lt (k := fmtM f + 1) hmax hover (by omega)
      push_cast at hexp
      simpa using hplace (x := (u + 1 + fmtM f + fmtBias f).toNat) (by omega) hM
    · rw [Nat.pow_succ] at *
      exact hplace (by omega) (by omega)

theorem signed_lt {f : Fmt} {neg : Bool} {mag : Nat} (h : mag < 2 ^ fmtE f * 2 ^ fmtM f) : signed f neg mag < 2 ^ fmtW f := by
  have hw : 2 ^ fmtW f = 2 * (2 ^ fmtE f * 2 ^ fmtM f) := by rw [fmtW, Nat.add_assoc, Nat.pow_add, Nat.pow_add, pow_one]
  have hs : 2 ^ (fmtW f - 1) = 2 ^ fmtE f * 2 ^ fmtM f := by rw [fmtW, Nat.add_assoc, Nat.add_sub_cancel_left, Nat.pow_add]
  rw [signed, hw, hs]
  split <;> omega

theorem infCode_lt (f : Fmt) : infCode f < 2 ^ fmtE f * 2 ^ fmtM f :=
  Nat.mul_lt_mul_of_pos_right (Nat.sub_lt (by positivity) one_pos) (by positivity)

/-- A rounded value of FP32 or BF16 has a code of its width. -/
theorem roundNum_code_lt {f : Fmt} (hf : f = .f32 ∨ f = .bf16) (neg : Bool) (n d : Nat) :
    (roundNum f .rne false neg n d).code < 2 ^ fmtW f := by
  obtain ⟨e, hmax, he⟩ : ∃ e : Int, decodeF f (maxCode f) = .fin false (2 ^ (fmtM f + 1) - 1) e ∧
      e + fmtM f + fmtBias f + 1 < (2 ^ fmtE f : Nat) := by
    rcases hf with rfl | rfl
    · exact ⟨104, by decide, by decide⟩
    · exact ⟨120, by decide, by decide⟩
  unfold roundNum
  extract_lets E emin u r nanOut t tp tiny code small
  have hq : r.1 ≤ 2 ^ (fmtM f + 1) := roundUnit_le .rne neg n d u (fmtM f) (by dsimp only [u]; split <;> omega)
  split
  · have hcode : overflowCode f .rne false neg = signed f neg (infCode f) := by rcases hf with rfl | rfl <;> rfl
    rw [hcode]
    exact signed_lt (infCode_lt f)
  · exact signed_lt (magCode_lt hmax he hq (Bool.eq_false_of_not_eq_true ‹_›))

theorem canonNaN_lt {f : Fmt} (hf : f = .f32 ∨ f = .bf16) : canonNaN f < 2 ^ fmtW f := by rcases hf with rfl | rfl <;> decide

theorem deliver_code_lt {f : Fmt} (hf : f = .f32 ∨ f = .bf16) (x : Ex) : (deliver f .rne false x).code < 2 ^ fmtW f := by
  have hzero (neg : Bool) : signed f neg 0 < 2 ^ fmtW f := signed_lt (by positivity)
  cases x with
  | nan nv => exact canonNaN_lt hf
  | inf neg => exact signed_lt (infCode_lt f)
  | zero neg => exact hzero neg
  | num neg n d =>
    rw [deliver]
    split
    · exact hzero neg
    · exact roundNum_code_lt hf neg n d

/-! ### Elements -/

/-- A folded element fits its place (03 R76). -/
theorem foldElem_lt {cfmt a b : Nat} (cop : Nat) (ha : a < 2 ^ (8 * elemBytes cfmt)) (hb : b < 2 ^ (8 * elemBytes cfmt)) :
    foldElem cfmt cop a b < 2 ^ (8 * elemBytes cfmt) := by
  unfold foldElem
  split
  · have hw : elemBytes cfmt = 4 := by simp [elemBytes, *]
    split
    · rw [hw]
      exact Nat.mod_lt _ (by decide)
    · dsimp only
      (repeat' split) <;> assumption
  · extract_lets f x y
    have hf : f = .f32 ∨ f = .bf16 := by dsimp only [f]; split <;> simp
    have hw : 2 ^ fmtW f ≤ 2 ^ (8 * elemBytes cfmt) := by
      dsimp only [f]
      split
      · simp [elemBytes, fmtW, fmtE, fmtM, *]
      · unfold elemBytes
        split <;> simp [fmtW, fmtE, fmtM]
    have hnan := canonNaN_lt hf
    have hsum := deliver_code_lt hf (addF .rne x y)
    (repeat' split) <;> omega

/-- The bytes of element `i` of a line. -/
def elemBytesAt (cfmt : Nat) (bs : List Byte) (i : Nat) : List Byte := (bs.drop (elemBytes cfmt * i)).take (elemBytes cfmt)

/-- The bytes of element `i` of a folded line. -/
def foldedBytes (cfmt cop : Nat) (x y : PartialLine) (i : Nat) : List Byte :=
  if !bitN x.2 i then elemBytesAt cfmt y.1 i
  else if !bitN y.2 i then elemBytesAt cfmt x.1 i
  else toBytes (elemBytes cfmt) (foldElem cfmt cop (leBytes (elemBytesAt cfmt x.1 i)) (leBytes (elemBytesAt cfmt y.1 i)))

theorem foldLine_eq (cfmt cop : Nat) (x y : PartialLine) :
    foldLine cfmt cop x y = (((List.range (128 / elemBytes cfmt)).map (foldedBytes cfmt cop x y)).flatten, x.2 ||| y.2) := rfl

theorem elemBytes_mul (cfmt : Nat) : elemBytes cfmt * (128 / elemBytes cfmt) = 128 := by
  unfold elemBytes
  split <;> rfl

theorem elemBytesAt_length {cfmt : Nat} {bs : List Byte} {i : Nat} (hb : bs.length = 128) (hi : i < 128 / elemBytes cfmt) :
    (elemBytesAt cfmt bs i).length = elemBytes cfmt := by
  have hm := elemBytes_mul cfmt
  have : elemBytes cfmt * (i + 1) ≤ 128 := hm ▸ Nat.mul_le_mul_left _ hi
  rw [Nat.mul_add] at this
  simp only [elemBytesAt, List.length_take, List.length_drop]
  omega

theorem foldedBytes_length {cfmt cop i : Nat} {x y : PartialLine} (hx : x.1.length = 128) (hy : y.1.length = 128)
    (hi : i < 128 / elemBytes cfmt) : (foldedBytes cfmt cop x y i).length = elemBytes cfmt := by
  unfold foldedBytes
  (repeat' split)
  · exact elemBytesAt_length hy hi
  · exact elemBytesAt_length hx hi
  · exact toBytes_length ..

/-- A line cut into its elements is the line. -/
theorem flatten_elems (w : Nat) (bs : List Byte) (n : Nat) :
    ((List.range n).map (fun i => (bs.drop (w * i)).take w)).flatten = bs.take (w * n) := by
  induction n with
  | zero => simp
  | succ n ih => simp [List.range_succ, ih, Nat.mul_add, List.take_add]

/-- Pieces of one length, put together, are read back each at its place. -/
theorem elem_flatten {w n : Nat} {g : Nat → List Byte} (hg : ∀ i < n, (g i).length = w) {i : Nat} (hi : i < n) :
    ((((List.range n).map g).flatten).drop (w * i)).take w = g i := by
  have hlen (k : Nat) (hk : k ≤ n) : (((List.range k).map g).flatten).length = w * k := by
    induction k with
    | zero => simp
    | succ k ih => simp [List.range_succ, ih (by omega), hg k hk, Nat.mul_add]
  obtain ⟨j, rfl⟩ : ∃ j, n = i + (1 + j) := ⟨n - i - 1, by omega⟩
  rw [List.range_add, List.map_append, List.flatten_append, List.drop_left' (hlen i (by omega)), List.range_add]
  simp [List.take_left' (hg i hi)]

/-- A partial folded into none is that partial (03 R75). -/
theorem foldLine_none {cfmt cop : Nat} {x y : PartialLine} (hx : x.2 = 0) (hy : y.1.length = 128) : foldLine cfmt cop x y = y := by
  have hel : foldedBytes cfmt cop x y = elemBytesAt cfmt y.1 := by
    funext i
    simp [foldedBytes, hx, bitN]
  have hflat : ((List.range (128 / elemBytes cfmt)).map (elemBytesAt cfmt y.1)).flatten = y.1 :=
    (flatten_elems _ y.1 _).trans (by rw [elemBytes_mul, List.take_of_length_le hy.le])
  rw [foldLine_eq, hel, hflat, hx, Nat.zero_or]

theorem bitN_eq (x i : Nat) : bitN x i = x.testBit i := by
  rw [bitN, Nat.testBit_eq_decide_div_mod_eq, beq_eq_decide]

theorem foldLine_length {cfmt cop : Nat} {x y : PartialLine} (hx : x.1.length = 128) (hy : y.1.length = 128) :
    (foldLine cfmt cop x y).1.length = 128 := by
  have hlen : ((List.range (128 / elemBytes cfmt)).map (foldedBytes cfmt cop x y)).map List.length =
      List.replicate (128 / elemBytes cfmt) (elemBytes cfmt) := by
    rw [List.map_map, List.eq_replicate_iff]
    refine ⟨by simp, fun n hn => ?_⟩
    obtain ⟨i, hi, rfl⟩ := List.mem_map.1 hn
    exact foldedBytes_length hx hy (List.mem_range.1 hi)
  rw [foldLine_eq, List.length_flatten, hlen, List.sum_replicate, smul_eq_mul, Nat.mul_comm, elemBytes_mul]

/-- Each element of a whole line with a partial folded in (03 R76). -/
theorem elem_foldLine {cfmt cop has i : Nat} {mem d : List Byte} (hm : mem.length = 128) (hd : d.length = 128)
    (hi : i < 128 / elemBytes cfmt) :
    leBytes (elemBytesAt cfmt (foldLine cfmt cop (wholeLine cfmt mem) (d, has)).1 i) =
      if has.testBit i then foldElem cfmt cop (leBytes (elemBytesAt cfmt mem i)) (leBytes (elemBytesAt cfmt d i))
      else leBytes (elemBytesAt cfmt mem i) := by
  have hel : elemBytesAt cfmt (foldLine cfmt cop (wholeLine cfmt mem) (d, has)).1 i =
      foldedBytes cfmt cop (wholeLine cfmt mem) (d, has) i :=
    elem_flatten (fun j hj => foldedBytes_length (cop := cop) (x := wholeLine cfmt mem) (y := (d, has)) hm hd hj) hi
  have hmem : bitN (wholeLine cfmt mem).2 i = true := by simpa [bitN_eq, wholeLine] using hi
  have hbytes {bs : List Byte} (hb : bs.length = 128) : leBytes (elemBytesAt cfmt bs i) < 2 ^ (8 * elemBytes cfmt) := by
    simpa [elemBytesAt_length hb hi] using leBytes_lt (elemBytesAt cfmt bs i)
  rw [hel, foldedBytes, hmem, bitN_eq]
  cases has.testBit i
  · rfl
  · simp only [Bool.not_true, Bool.false_eq_true, if_false, if_true, leBytes_toBytes]
    exact Nat.mod_eq_of_lt (foldElem_lt cop (hbytes hm) (hbytes hd))

end Sys2Proof.Machine
end

section
/-!
PROOF. Commutative lines (03 R64, R73 to R76, 25 R468): joins, gathers, unpicks and fold deliveries.
-/
namespace Sys2Proof.Machine

/-! ### Joins -/

theorem join_hops {s : State} {id n q : Nat} {m : Msg} (h : Stands s id m .join) (hg : stitchOf s m.at' m.line = none)
    (hr : m.at' ≠ m.home) (hn : neighbour m.at' (routePort m.at' m.home) = some (n, q)) :
    Leads s (.joinRequest id) (fun t => t.mem = s.mem ∧ ∃ k, msgOf t id = some k ∧ k.at' = n ∧ k.port = q) := by
  obtain rfl := h.id_eq
  have hstep : exec (.joinRequest m.id) s = .next (moveMsg (markRenewal s m)
      { m with at' := n, port := q, path := (m.at', m.port) :: m.path }) := by
    simp [exec, execJoinRequest, h.1, h.2, hg, hr, hop_eq hn]
  refine ⟨_, hstep, ?_, _, msgOf_moveMsg _ { m with at' := n, port := q, path := (m.at', m.port) :: m.path }, rfl, rfl⟩
  exact mem_of_memory (by simp)

/-- The first router of a commutative tree answers a join (03 R73). -/
theorem join_caught {s : State} {id : Nat} {m : Msg} {g : Stitch} (h : Stands s id m .join) (hg : stitchOf s m.at' m.line = some g)
    (hunpk : g.unpk = false) (hcomm : g.comm = true) :
    Leads s (.joinRequest id) (fun t => t.mem = s.mem ∧
      Sent t .joinResp m.line m.at' 0 (fun k => k.st = .c ∧ k.src = m.src ∧ k.path = (m.at', m.port) :: m.path)) := by
  have hstep : exec (.joinRequest id) s = .next (sendMsg (dropMsg (markRenewal s m) m.id)
      { m with has := m.path.length + 1, evict := none, kind := .joinResp, path := (m.at', m.port) :: m.path, st := .c, port := 0 }) := by
    simp [exec, execJoinRequest, h.1, h.2, hg, hunpk, hcomm]
  refine ⟨_, hstep, ?_, sent_sendMsg ⟨rfl, rfl, rfl⟩⟩
  exact mem_of_memory (by simp)

theorem join_answered {s : State} {id : Nat} {m : Msg} (h : Stands s id m .join) (hr : m.at' = m.home)
    (hfree : HomeFree s m.line m.home (ahead s id)) (hpeer : peerLine s m.line = false) :
    Leads s (.joinRequest id) (fun t => t.mem = s.mem ∧
      Sent t .joinResp m.line m.at' 0 (fun k => k.st = .c ∧ k.src = m.src ∧ k.path = (m.at', m.port) :: m.path)) := by
  obtain rfl := h.id_eq
  have hwait := mustWait_eq_false hfree
  have hbare : stitchOf s m.at' m.line = none := hr ▸ hfree.bare
  have hstep : exec (.joinRequest m.id) s = .next (homeRespond (dropMsg s m.id) m .joinResp .c false (memLine s m.line)) := by
    simp only [exec, execJoinRequest, h.1, hbare]
    simp [h.2, hr, hwait, hfree.unflagged, hpeer]
  refine ⟨_, hstep, ?_, sent_sendMsg ⟨rfl, rfl, rfl⟩⟩
  exact mem_of_memory (by simp)

/-! ### The home opens a gather -/

/-- The routers that a request came by, the last first. -/
def nodesOf (m : Msg) : List (Nat × Nat) := (m.at', m.port) :: m.path

/-- The message's transaction is open. -/
def gatherOpen (s : State) (m : Msg) : State := { dropMsg s m.id with homeTx := { line := m.line, msg := m } :: s.homeTx }

theorem openGather_none {s : State} {m : Msg} (h : ∀ n ∈ nodesOf m, stitchOf s n.1 m.line = none) :
    openGather s m = (gatherOpen s m, false) := by
  have hfind : (nodesOf m).reverse.find? (fun n => (stitchOf (gatherOpen s m) n.1 m.line).isSome) = none := by
    refine List.find?_eq_none.2 fun n hn => ?_
    have : stitchOf (gatherOpen s m) n.1 m.line = none := h n (List.mem_reverse.1 hn)
    simp [this]
  unfold openGather
  extract_lets nodes _ t
  rw [show nodes.reverse.find? (fun n => (stitchOf t n.1 m.line).isSome) = none from hfind]
  rfl

/-- A gather-start goes back along the path to the entry router, which holds a stitch (03 R75). -/
theorem openGather_some {s : State} {m : Msg} {n : Nat × Nat} {g : Stitch} (hn : n ∈ nodesOf m) (hg : stitchOf s n.1 m.line = some g) :
    ∃ e, (stitchOf s e.1 m.line).isSome = true ∧ openGather s m =
      (sendMsg (gatherOpen s m) { newMsg .gatherStart m.line m.home 0 m.home m.src with
        path := ((nodesOf m).takeWhile (· ≠ e)) ++ [e] }, true) := by
  have hsome : ((nodesOf m).reverse.find? (fun n => (stitchOf (gatherOpen s m) n.1 m.line).isSome)).isSome = true := by
    refine List.find?_isSome.2 ⟨n, List.mem_reverse.2 hn, ?_⟩
    have : stitchOf (gatherOpen s m) n.1 m.line = some g := hg
    simp [this]
  obtain ⟨e, he⟩ := Option.isSome_iff_exists.1 hsome
  have hstitch : (stitchOf (gatherOpen s m) e.1 m.line).isSome = true := by simpa only using List.find?_some he
  refine ⟨e, hstitch, ?_⟩
  unfold openGather
  extract_lets nodes _ t
  rw [show nodes.reverse.find? (fun n => (stitchOf t n.1 m.line).isSome) = some e from he]
  rfl

theorem gather_answered {s : State} {id : Nat} {m : Msg} (h : Stands s id m .commRead) (hr : m.at' = m.home)
    (hpeer : peerLine s m.line = false) (hfree : HomeFree s m.line m.home (ahead s id))
    (hbare : ∀ n ∈ nodesOf m, stitchOf s n.1 m.line = none) :
    Leads s (.commutativeGather id) (fun t => t.mem = s.mem ∧ txOf t m.line = none ∧ Sent t .readResp m.line m.at' 0 (fun k =>
      k.st = .e ∧ k.src = m.src ∧ k.data = some (memBytes s (128 * m.line) 128))) := by
  obtain rfl := h.id_eq
  have hstep : exec (.commutativeGather m.id) s = .next (homeRespond (closeTx (dropStitch (gatherOpen s m) m.home m.line) m.line)
      { m with kind := .read, has := 0, uncached := m.ev6 || m.reroute } .readResp .e false
      (memLine (closeTx (dropStitch (gatherOpen s m) m.home m.line) m.line) m.line)) := by
    simp only [exec, execCommutativeGather, h.1, hfree.bare, openGather_none hbare]
    simp [h.2, hr, mustWait_eq_false hfree, hfree.unflagged, hpeer, finishGather, noPartial]
  refine ⟨_, hstep, (sends_sendMsg ..).mem, ?_, sent_sendMsg ⟨rfl, rfl, rfl⟩⟩
  exact (txOf_congr (sends_sendMsg _ _).homeTx _).trans (txOf_closeTx _ _)

theorem gather_starts {s : State} {id : Nat} {m : Msg} {g : Stitch} (h : Stands s id m .commRead) (hr : m.at' = m.home)
    (hpeer : peerLine s m.line = false) (hwait : mustWait s m = false) (hflag : lineFlagged s m.line = false)
    (hg : stitchOf s m.at' m.line = some g) (hunpk : g.unpk = false) (hcomm : g.comm = true) :
    Leads s (.commutativeGather id) (fun t => t.mem = s.mem ∧ (txOf t m.line).isSome = true ∧
      Sent t .gatherStart m.line m.at' 0 (fun k => ∃ e, k.path.getLast? = some e ∧ (stitchOf s e.1 m.line).isSome = true)) := by
  obtain ⟨e, he, hopen⟩ := openGather_some (s := s) (m := m) (n := (m.at', m.port)) List.mem_cons_self hg
  have hg' : stitchOf s m.home m.line = some g := hr ▸ hg
  have hstep : exec (.commutativeGather id) s = .next (openGather s m).1 := by
    simp only [exec, execCommutativeGather, h.1, hg', hopen]
    simp [h.2, hr, hwait, hflag, hpeer, hunpk, hcomm]
  refine ⟨_, hstep, ?_⟩
  rw [hopen, hr]
  refine ⟨(sends_sendMsg ..).mem, ?_, ?_⟩
  · rw [txOf_congr (sends_sendMsg ..).homeTx]
    simp [txOf, gatherOpen]
  · exact sent_sendMsg ⟨e, by simp, he⟩

/-! ### A gather on its way and at a node -/

theorem gatherStart_moves {s : State} {id c a n b : Nat} {m : Msg} {rest : List (Nat × Nat)} (h : Stands s id m .gatherStart)
    (hp : m.path = (c, a) :: (n, b) :: rest) :
    Leads s (.gatherStart id) (fun t => t.mem = s.mem ∧ ∃ k, msgOf t id = some k ∧ k.at' = n ∧ k.port = opposite a ∧
      k.path = (n, b) :: rest) := by
  obtain rfl := h.id_eq
  have hstep : exec (.gatherStart m.id) s = .next (moveMsg s { m with path := (n, b) :: rest, at' := n, port := opposite a }) := by
    simp [exec, execGatherStart, h.1, h.2, hp]
  refine ⟨_, hstep, ?_, _, msgOf_moveMsg s { m with path := (n, b) :: rest, at' := n, port := opposite a }, rfl, rfl, rfl⟩
  exact mem_of_memory (by simp)

/-- A router whose one branch left is its own agent, which holds a partial. -/
structure LastPartial (s : State) (c line a : Nat) (g : Stitch) (l : CLine) : Prop where
  stitch : stitchOf s c line = some g
  idle : unpickOf s c line = none
  cluster : c < 128
  here : maskBit g 0 = true
  port : a ≠ 0
  last : clearPort (clearPort g.mask 0) a = 0
  held : cacheLine s c line = some l
  comm : l.st = .c
  whole : l.data.length = 128
  valued : l.has ≠ 0
  unasked : s.emsen = []

theorem LastPartial.dropMsg {s : State} {c line a : Nat} {g : Stitch} {l : CLine} (h : LastPartial s c line a g l) (id : Nat) :
    LastPartial (Machine.dropMsg s id) c line a g l := { h with }

/-- The node of such a router when it has taken the partial. -/
def partialNode (c line a why : Nat) (l : CLine) : Unpick :=
  { router := c, line := line, port := a, left := 0, data := some l.data, has := l.has, pte := l.pte, why := why }

/-- The agent's partial goes with its line, and the node has nothing left to wait for (03 R75). -/
theorem gatherNode_takes {s : State} {c line a : Nat} {g : Stitch} {l : CLine} (h : LastPartial s c line a g l) (why : Nat) :
    gatherNode s c line a why = finishNode (setUnpick (dropHeld (modStitch s c line (fun t => { t with unpk := true })) c line)
      (partialNode c line a why l)) (partialNode c line a why l) := by
  obtain ⟨hg, hu, hc, h0, ha, hlast, hl, hst, hlen, hhas, hask⟩ := h
  have hc' : ¬ 153 ≤ c := by omega
  have hl' : cacheLine (modStitch s c line (fun t => { t with unpk := true })) c line = some l := hl
  have htake : takePartial (modStitch s c line (fun t => { t with unpk := true })) c line =
      (dropHeld (modStitch s c line (fun t => { t with unpk := true })) c line, (l.data, l.has), l.pte) := by
    simp only [takePartial, hc', if_false, hl', hst, if_true]
  have hask' : (dropHeld (modStitch s c line (fun t => { t with unpk := true })) c line).emsen = [] := hask
  have hfold : foldInto { router := c, line := line, port := a, left := 0, why := why, pte := l.pte } l.pte (l.data, l.has) =
      partialNode c line a why l := by
    simp only [foldInto, hhas, if_false]
    rw [foldLine_none rfl hlen]
    rfl
  have hpn : (partialNode c line a why l).left = 0 := rfl
  simp only [gatherNode, hg, hu, h0, if_true, htake, hask', List.any_nil, Bool.false_eq_true, if_false, and_false, hlast, hfold,
    advanceNode, hpn]

/-- The entry router sends what it gathered to the home, by route (03 R75). -/
theorem finishNode_reports {s : State} {u : Unpick} (hw : u.why = 4) :
    stitchOf (finishNode s u) u.router u.line = none ∧ (finishNode s u).mem = s.mem ∧ (finishNode s u).clusters = s.clusters ∧
      Sent (finishNode s u) .invalAck u.line u.router 0 (fun k => k.aux = 1 ∧ k.data = u.data ∧ k.has = u.has) := by
  have hsend : finishNode s u = sendMsg (dropUnpick (dropStitch s u.router u.line) u.router u.line)
      { newMsg .invalAck u.line u.router 0 (lineHome s u.line) u.router with
        data := u.data, has := u.has, pte := u.pte, aux := 1, lost := u.lost } := by
    simp only [finishNode, hw]
    rfl
  rw [hsend]
  exact ⟨((sends_sendMsg ..).stitches ..).trans (stitchOf_dropStitch s u.router u.line), (sends_sendMsg ..).mem,
    (sends_sendMsg ..).clusters, sent_sendMsg ⟨rfl, rfl, rfl⟩⟩

theorem gatherStart_takes {s : State} {id c a : Nat} {m : Msg} {g : Stitch} {l : CLine} (h : Stands s id m .gatherStart)
    (hp : m.path = [(c, a)]) (hn : LastPartial s c m.line a g l) :
    Leads s (.gatherStart id) (fun t => t.mem = s.mem ∧ cacheLine t c m.line = none ∧ stitchOf t c m.line = none ∧
      Sent t .invalAck m.line c 0 (fun k => k.aux = 1 ∧ k.data = some l.data ∧ k.has = l.has)) := by
  have hstep : exec (.gatherStart id) s = .next (gatherNode (dropMsg s m.id) c m.line a 4) := by
    simp [exec, execGatherStart, h.1, h.2, hp]
  refine ⟨_, hstep, ?_⟩
  rw [gatherNode_takes (hn.dropMsg m.id)]
  obtain ⟨hgone, hmem, hclusters, hsent⟩ := finishNode_reports (s := setUnpick (dropHeld (modStitch (dropMsg s m.id) c m.line
    (fun t => { t with unpk := true })) c m.line) (partialNode c m.line a 4 l)) (u := partialNode c m.line a 4 l) rfl
  refine ⟨hmem, ?_, hgone, hsent⟩
  exact (cacheLine_congr hclusters ..).trans (cacheLine_dropHeld (modStitch (dropMsg s m.id) ..) c m.line)

theorem collect_takes {s : State} {id n q : Nat} {m : Msg} {g : Stitch} {l : CLine} (h : Stands s id m .collect)
    (hn : neighbour m.at' m.port = some (n, q)) (hp : LastPartial s m.at' m.line m.port g l) :
    Leads s (.collect id) (fun t => t.mem = s.mem ∧ cacheLine t m.at' m.line = none ∧ stitchOf t m.at' m.line = none ∧
      Sent t .invalAck m.line n q (fun k => k.data = some l.data ∧ k.has = l.has)) := by
  have hstep : exec (.collect id) s = .next (gatherNode (dropMsg s m.id) m.at' m.line m.port 3) := by
    simp [exec, execCollect, h.1, h.2]
  refine ⟨_, hstep, ?_⟩
  rw [gatherNode_takes (hp.dropMsg m.id)]
  obtain ⟨hgone, hmem, hclusters, hsent⟩ := finishNode_acks (s := setUnpick (dropHeld (modStitch (dropMsg s m.id) m.at' m.line
    (fun t => { t with unpk := true })) m.at' m.line) (partialNode m.at' m.line m.port 3 l)) (u := partialNode m.at' m.line m.port 3 l)
    (.inr rfl) hn
  refine ⟨hmem, ?_, hgone, hsent⟩
  exact (cacheLine_congr hclusters ..).trans (cacheLine_dropHeld (modStitch (dropMsg s m.id) ..) m.at' m.line)

/-! ### Unpicks -/

theorem unpick_invalidates {s : State} {id p n q : Nat} {m : Msg} {g : Stitch} (h : Stands s id m .unpickReq) (hr : m.at' = m.home)
    (htx : txOf s m.line = none) (hg : stitchOf s m.at' m.line = some g) (hcomm : g.comm = false)
    (hp : p ∈ portsOf (clearPort g.mask 0)) (hn : neighbour m.at' p = some (n, q)) :
    Leads s (.unpickRequest id) (fun t => t.mem = s.mem ∧ (txOf t m.line).isSome = true ∧ Sent t .inval m.line n q (fun _ => True)) := by
  rw [hr] at hg hn
  have hstep : exec (.unpickRequest id) s = .next (openTx s m none) := by
    simp [exec, execUnpickRequest, h.1, h.2, hr, htx, hg, hcomm, runTx_waits hg hp]
  obtain ⟨k, hk, hkind, hline, hat, hport, -⟩ := sent_openTx (keep := none) hg hp hn
  refine ⟨_, hstep, ?_, by simp [txOf_openTx hg], k, hk, hkind, hline, hat, hport, trivial⟩
  exact mem_of_memory (by simp)

/-! ### Fold deliveries -/

theorem foldDelivery_runs {s : State} {id : Nat} {m : Msg} (h : Stands s id m .foldDelivery) (hlive : livePort s m = true)
    (hr : m.at' = m.home) (hwait : mustWait s m = false) (hpeer : peerLine s m.line = false) :
    exec (.foldDelivery id) s = .next (if lineFlagged s m.line then dropMsg s m.id
      else foldMemory (dropMsg s m.id) m.line m.pte (m.data.getD [], m.has) m.poison) := by
  have hpeer' : peerLine (dropMsg s m.id) m.line = false := hpeer
  have hflag : lineFlagged (dropMsg s m.id) m.line = lineFlagged s m.line := rfl
  simp [exec, execFoldDelivery, h.1, h.2, hlive, hr, hwait, hpeer', hflag]

theorem msgOf_writeHome (s : State) (line : Nat) (bs : List Byte) (pz : BitVec 16) (id : Nat) :
    msgOf (writeHome s line bs pz) id = msgOf s id := by
  rw [writeHome, putBytes_rest]
  rfl

/-- What a delivery's partial makes of its line in memory, and what it leaves (03 R76). -/
theorem foldMemory_spec {s : State} {line : Nat} {pte : DWord} {d : List Byte} {has : Nat} {pz : BitVec 16} (hd : d.length = 128) :
    MemKeptBut s (foldMemory s line pte (d, has) pz) (128 * line) 128 ∧
      (∀ id, msgOf (foldMemory s line pte (d, has) pz) id = msgOf s id) ∧
      memBytes (foldMemory s line pte (d, has) pz) (128 * line) 128 = if has = 0 then memBytes s (128 * line) 128
        else (foldLine (pteCfmt pte) (pteCop pte) (wholeLine (pteCfmt pte) (memBytes s (128 * line) 128)) (d, has)).1 := by
  have hm : (memLine s line).1.length = 128 := memBytes_length ..
  unfold foldMemory
  dsimp only
  split
  · split
    · exact ⟨fun _ _ => rfl, fun _ => rfl, rfl⟩
    · obtain ⟨hb, hk⟩ := writeHome_bytes s line hm ((memLine s line).2 ||| pz)
      exact ⟨hk, fun _ => msgOf_writeHome .., hb⟩
  · obtain ⟨hb, hk⟩ := writeHome_bytes s line (foldLine_length (cfmt := pteCfmt pte) (cop := pteCop pte)
      (x := wholeLine (pteCfmt pte) (memLine s line).1) (y := (d, has)) hm hd) ((memLine s line).2 ||| pz)
    exact ⟨hk, fun _ => msgOf_writeHome .., hb⟩

theorem fold_delivered {s : State} {id : Nat} {m : Msg} {d : List Byte} (h : Stands s id m .foldDelivery) (hlive : livePort s m = true)
    (hr : m.at' = m.home) (hwait : mustWait s m = false) (hpeer : peerLine s m.line = false) (hflag : lineFlagged s m.line = false)
    (hd : m.data = some d) (hlen : d.length = 128) :
    Leads s (.foldDelivery id) (fun t => msgOf t id = none ∧ MemKeptBut s t (128 * m.line) 128 ∧
      ∀ i, i < 128 / elemBytes (pteCfmt m.pte) → leBytes (elemBytesAt (pteCfmt m.pte) (memBytes t (128 * m.line) 128) i) =
        if m.has.testBit i then foldElem (pteCfmt m.pte) (pteCop m.pte)
          (leBytes (elemBytesAt (pteCfmt m.pte) (memBytes s (128 * m.line) 128) i)) (leBytes (elemBytesAt (pteCfmt m.pte) d i))
        else leBytes (elemBytesAt (pteCfmt m.pte) (memBytes s (128 * m.line) 128) i)) := by
  obtain rfl := h.id_eq
  have hstep := foldDelivery_runs h hlive hr hwait hpeer
  rw [hflag, if_neg Bool.false_ne_true, hd, Option.getD_some] at hstep
  obtain ⟨hkept, hmsg, hbytes⟩ := foldMemory_spec (s := dropMsg s m.id) (line := m.line) (pte := m.pte) (has := m.has) (pz := m.poison) hlen
  refine ⟨_, hstep, (hmsg m.id).trans (msgOf_dropMsg s m.id), hkept, fun i hi => ?_⟩
  rw [hbytes]
  split
  · rw [‹m.has = 0›, Nat.zero_testBit]
    rfl
  · exact elem_foldLine (memBytes_length s ..) hlen hi

/-- Settles O41: what a join, a gather at its home and at a node, an unpick request and a fold delivery each do. -/
theorem commutativeEvents : Obligations.CommutativeEvents := by
  refine fun s id m => ⟨fun h => ⟨fun n q hg hr hn => join_hops h hg hr hn, fun g hg hunpk hcomm => join_caught h hg hunpk hcomm,
      fun hr hfree hpeer => join_answered h hr hfree hpeer⟩,
    fun h hr hpeer => ⟨fun hfree hbare => gather_answered h hr hpeer hfree hbare,
      fun g hwait hflag hg hunpk hcomm => gather_starts h hr hpeer hwait hflag hg hunpk hcomm⟩,
    fun c a n b rest h hp => gatherStart_moves h hp, fun c a g l hg hu hc h0 ha hlast hl hst hlen hhas hask => ?_,
    fun g p n q h hr htx hg hcomm hp hn => unpick_invalidates h hr htx hg hcomm hp hn,
    fun d h hlive hr hwait hpeer hflag hd hlen => fold_delivered h hlive hr hwait hpeer hflag hd hlen,
    fun h hlive hr hwait hpeer hflag => ?_⟩
  · have hn : LastPartial s c m.line a g l := ⟨hg, hu, hc, h0, ha, hlast, hl, hst, hlen, hhas, hask⟩
    refine ⟨fun h hp => gatherStart_takes h hp hn, fun n q h hcr ham hnb => ?_⟩
    subst hcr ham
    exact collect_takes h hnb hn
  · obtain rfl := h.id_eq
    have hstep := foldDelivery_runs h hlive hr hwait hpeer
    rw [if_pos hflag] at hstep
    exact ⟨_, hstep, rfl, msgOf_dropMsg ..⟩

end Sys2Proof.Machine
end

section
/-!
PROOF. A copy that completes counts the exceptions of the elements that it has read (05 R120, 07 R184), and a counter that so reaches its
threshold writes an event record to the ring of the context's function in host memory (07 R186, 19 R449): bytes that no row of the copy
has written.
-/
namespace Sys2Proof.Machine

/-- A descriptor of a tensor of one E4M3 element at address 0: FMT 6, RANK 1, a pitch of 16 bytes, DIM0 1 and TILE0 1 (05 R108). -/
def byteTensor : Img := [0, 0x6200000000000100, 1, 0, 0x100000000] ++ List.replicate 27 0

/-- The copy of that tensor to the start of the scratch block. -/
def byteCopy : CopyArgs := { kind := 0, img := byteTensor, coords := [0], dest := 0 }

/-- Its operation on core 0, started by an engine. -/
def byteCopyOp : Async :=
  { id := 0, core := 0, slot := 0, ctx := 0, launch := 0, task := 0, tag := 0, scope := 2, mask := 1, priv := false, started := true,
    kind := .copy byteCopy }

/-- A state in which the element is a NaN in a readable page of HBM, the counter of E4M3 NaNs has the threshold 1 and the event ring of
function 0, at the start of host memory, is enabled. -/
def thresholdState : State :=
  { mem := [(0, 0x7F)],
    cores := [(0, { tlb := [{ ctx := 0, base := 0, size := 2 ^ 16, pte := 0x23 }] })],
    asyncs := [byteCopyOp],
    regs := [(regOff (.part 0 6), 0x8000000000000000), (regOff (.ctr 0 (4 * fmtIdx .e4m3)), 0x100000000)] }

/-- What the rows of the copy make of the state. -/
def byteCopyRows : CopyRes :=
  putRuns byteCopyOp ((List.range (tileRows byteTensor)).foldl (inRow byteCopyOp byteCopy) { s := thresholdState })

/-- Nothing stands before the copy: it waits for no access and no peer, and no tile, snapshot or message is in its way. -/
theorem byteCopy_unhindered :
    opReady thresholdState byteCopyOp = true ∧ opWaits thresholdState 0 = false ∧
      heldTile thresholdState (engOf byteCopyOp) (copyReads byteCopy ++ copyWrites byteCopy) = none ∧
      snapPages thresholdState byteCopyOp (copyWrites byteCopy) = [] ∧
      rangesQuiet thresholdState (engOf byteCopyOp) (copyReads byteCopy ++ copyWrites byteCopy) = true ∧
      farWrites (noteEngineOut thresholdState byteCopyOp (copyWrites byteCopy)) byteCopyOp false
        (packedRows (noteEngineOut thresholdState byteCopyOp (copyWrites byteCopy)) byteCopyOp byteCopy) = none := by
  decide +kernel

/-- The rows leave host memory alone. -/
theorem byteCopyRows_hostByte : memByte byteCopyRows.s (hostPa 0) = 0 := by decide +kernel

/-- The completion writes the record of the counter that has reached its threshold; its first byte is its kind. -/
theorem copyComplete_writes_record :
    ∃ t, exec (.copyComplete 0) thresholdState = .next t ∧ memByte t (hostPa 0) = 1 :=
  ⟨_, rfl, by decide +kernel⟩

/-- Refutes O43: a copy that reads a NaN counts it, and where the counter reaches its threshold the event record changes host memory,
which the statement says holds what the copy's rows have made of it. -/
theorem not_operationCompletions : ¬ Obligations.OperationCompletions := by
  intro h
  obtain ⟨-, -, -, -, -, -, -, -, -, -, -, -, hcopy⟩ := h thresholdState 0 byteCopyOp rfl
  obtain ⟨-, -, hcompletes⟩ := hcopy byteCopy rfl
  obtain ⟨hready, hanswered, htile, hsnap, hquiet, hfar⟩ := byteCopy_unhindered
  obtain ⟨t, ht, -, hmem, -⟩ := hcompletes rfl rfl hready rfl (by decide) hanswered htile hsnap hquiet hfar
    (by intro w hw; cases hw)
  obtain ⟨u, hu, hrecord⟩ := copyComplete_writes_record
  obtain rfl : t = u := by simpa [ht] using hu
  have hrows : t.mem = byteCopyRows.s.mem := hmem
  have hsame : memByte t (hostPa 0) = memByte byteCopyRows.s (hostPa 0) := by rw [memByte, memByte, hrows]
  rw [hrecord, byteCopyRows_hostByte] at hsame
  exact absurd hsame (by decide)

end Sys2Proof.Machine
end

section
/-!
SUPPORT. Grants of runs (06 R146, R151, R154, R155): what they make of a core with one leaf, or with two leaves that merge.
-/
namespace Sys2Proof.Machine

/-- Core `c` has one leaf, at the start of a run, with the lanes `m`: the leaf `l` in its ready state and else where it was. -/
def RunsAlone (t : State) (c : Nat) (l : Leaf) (m : Mask) : Prop :=
  ∃ e k, (coreOf t c).leaves = [(e, k)] ∧ k.inRun = true ∧ k.runLen = 0 ∧ k.st = readySt l ∧ k.pc = l.pc ∧ k.mask = m ∧ k.slot = l.slot

theorem RunsAlone.leafOf {t : State} {c : Nat} {l : Leaf} {m : Mask} (h : RunsAlone t c l m) :
    ∃ e k, leafOf t c e = some k ∧ k.inRun = true ∧ k.runLen = 0 ∧ k.st = readySt l ∧ k.pc = l.pc ∧ k.mask = m ∧ k.slot = l.slot := by
  obtain ⟨e, k, hk, rest⟩ := h
  exact ⟨e, k, by simp [Machine.leafOf, hk, tfind], rest⟩

theorem RunsAlone.length {t : State} {c : Nat} {l : Leaf} {m : Mask} (h : RunsAlone t c l m) : (coreOf t c).leaves.length = 1 := by
  obtain ⟨e, k, hk, -⟩ := h
  rw [hk, List.length_singleton]

theorem RunsAlone.of_leaves {s t : State} {c : Nat} {l : Leaf} {m : Mask} (h : RunsAlone s c l m)
    (he : (coreOf t c).leaves = (coreOf s c).leaves) : RunsAlone t c l m := by
  unfold RunsAlone
  rwa [he]

/-! ### Winners -/

/-- A leaf in a run gets no further one. -/
theorem eligible_of_inRun {s : State} {c : Nat} {l : Leaf} (h : l.inRun = true) : eligible s c l = false := by
  unfold eligible
  split <;> simp [h]

theorem inRun_of_eligible {s : State} {c : Nat} {l : Leaf} (h : eligible s c l = true) : l.inRun = false := by
  cases hr : l.inRun with
  | false => rfl
  | true => rw [eligible_of_inRun hr] at h; cases h

/-- A leaf that waits gets no run (06 R146). -/
theorem eligible_of_blocked {s : State} {c : Nat} {l : Leaf} {w : Wait} (h : l.st = .blocked w) : eligible s c l = false := by
  unfold eligible
  split <;> simp [h]

theorem winner_eq_none {s : State} {c : Nat} (h : ∀ p ∈ (coreOf s c).leaves, eligible s c p.2 = false) : winner s c = none := by
  have hf : (coreOf s c).leaves.filter (fun p =>
      eligible s c p.2 && (busySlices s c).all (fun b => !slicesMeet b (slicesOf (unionMask p.2 (mergers s c p.1 p.2))))) = [] :=
    List.filter_eq_nil_iff.2 fun p hp => by simp [h p hp]
  unfold winner
  dsimp only
  rw [hf, List.foldl_nil]

theorem grants_of_none {s : State} {c : Nat} (h : winner s c = none) (n : Nat) : grants s c n = s := by
  cases n with
  | zero => rfl
  | succ n => simp only [grants, h]

theorem RunsAlone.grants {t : State} {c : Nat} {l : Leaf} {m : Mask} (h : RunsAlone t c l m) (n : Nat) : grants t c n = t := by
  obtain ⟨e, k, hk, hr, -⟩ := h
  refine grants_of_none (winner_eq_none fun p hp => ?_) n
  rw [hk, List.mem_singleton] at hp
  rw [hp]
  exact eligible_of_inRun hr

/-- Where a winner's run leaves one leaf, in a run, the grants of the ac are made. -/
theorem grants_of_winner {s : State} {c e : Nat} {l k : Leaf} {m : Mask} (hw : winner s c = some (e, l))
    (h : RunsAlone (startRun s c e l) c k m) (n : Nat) : RunsAlone (grants s c (n + 1)) c k m := by
  simp only [Machine.grants, hw]
  rwa [h.grants]

theorem winner_alone {s : State} {c e : Nat} {l : Leaf} (hk : (coreOf s c).leaves = [(e, l)]) (he : eligible s c l = true) :
    winner s c = some (e, l) := by
  simp [winner, busySlices, hk, he, inRun_of_eligible he]

/-- Of two eligible leaves one wins. -/
theorem winner_pair {s : State} {c e f : Nat} {l k : Leaf} (hk : (coreOf s c).leaves = [(e, l), (f, k)]) (hl : eligible s c l = true)
    (hf : eligible s c k = true) : winner s c = some (e, l) ∨ winner s c = some (f, k) := by
  simp only [winner, busySlices, hk, List.filter_cons, hl, hf, inRun_of_eligible hl, inRun_of_eligible hf, List.filter_nil, List.map_nil,
    List.all_nil, Bool.and_true, if_true, Bool.false_eq_true, if_false, List.foldl_cons, List.foldl_nil]
  split
  · exact .inr rfl
  · exact .inl rfl

/-! ### Runs -/

theorem tput_single {α : Type} (k : Nat) (v w : α) : tput [(k, v)] k w = [(k, w)] := by simp [tput]

theorem startRun_alone {s : State} {c e : Nat} {l : Leaf} (hk : (coreOf s c).leaves = [(e, l)]) :
    RunsAlone (startRun s c e l) c l l.mask := by
  have hm : mergers s c e l = [] := by simp [mergers, hk]
  have hu : unmetWait s c [] = none := rfl
  simp only [startRun, hm, hu, List.map_nil, List.contains_nil, Bool.not_false, List.filter_true, hk]
  exact ⟨e, _, (congrArg Core.leaves (coreOf_setCore ..)).trans (tput_single ..), rfl, rfl, rfl, rfl, rfl, rfl⟩

theorem leaves_dropWaiter (s : State) (c e d : Nat) : (coreOf (dropWaiter s c e) d).leaves = (coreOf s d).leaves := by
  have hf : (coreOf (dropWalkFaults s c e) d).leaves = (coreOf s d).leaves := by
    unfold dropWalkFaults
    dsimp only
    split
    · rfl
    · by_cases h : d = c
      · subst h; simp
      · rw [coreOf_setCore_ne _ _ _ _ h]
  unfold dropWaiter
  dsimp only
  split
  · exact hf
  · exact hf

theorem RunsAlone.dropWaiter {t : State} {c : Nat} {l : Leaf} {m : Mask} (h : RunsAlone t c l m) (e : Nat) :
    RunsAlone (dropWaiter t c e) c l m := h.of_leaves (leaves_dropWaiter t c e c)

/-- The only leaf of a core that moves into its sheet's reserved entry is still the only one (06 R147). -/
theorem RunsAlone.promote {t : State} {c : Nat} {l : Leaf} {m : Mask} (h : RunsAlone t c l m) (slot : Nat) :
    RunsAlone (promote t c slot) c l m := by
  obtain ⟨e, k, hk, rest⟩ := h
  unfold Machine.promote
  dsimp only
  split
  · exact ⟨e, k, hk, rest⟩
  · split
    · rename_i p hp
      have hpe : p = (e, k) := by
        have := List.mem_of_find?_eq_some hp
        rwa [hk, List.mem_singleton] at this
      have hf : tfind (coreOf t c).leaves e = some k := by simp [hk, tfind]
      subst hpe
      refine ⟨slot, k, ?_, rest⟩
      simp only [moveEntry, hf]
      exact (congrArg Core.leaves (coreOf_setCore t c _)).trans (by simp [hk, tdel, tput])
    · exact ⟨e, k, hk, rest⟩

theorem cores_wakeStalled (s : State) (c : Nat) : (wakeStalled s c).cores = s.cores := by
  unfold wakeStalled
  generalize (coreOf s c).leaves = ls
  induction ls generalizing s with
  | nil => rfl
  | cons p ls ih =>
    rw [List.foldl_cons, ih]
    split <;> rfl

theorem RunsAlone.wakeStalled {t : State} {c : Nat} {l : Leaf} {m : Mask} (h : RunsAlone t c l m) : RunsAlone (wakeStalled t c) c l m :=
  h.of_leaves (by simp only [coreOf, cores_wakeStalled])

/-- A winner and the one sibling that merges with it, which does not wait (06 R151). -/
theorem startRun_merges {s : State} {c e f : Nat} {l k : Leaf} (hm : mergers s c e l = [(f, k)])
    (hrest : (coreOf s c).leaves.filter (fun p => !([f].contains p.1)) = [(e, l)]) (hk : k.st = .ready) :
    RunsAlone (startRun s c e l) c l (l.mask ||| k.mask) := by
  have hu : unmetWait s c [(f, k)] = none := by simp [unmetWait, hk]
  simp only [startRun, hm, hu, List.isEmpty_cons, Bool.false_eq_true, if_false, List.map_cons, List.map_nil, hrest, List.foldl_cons,
    List.foldl_nil]
  refine RunsAlone.wakeStalled (RunsAlone.promote (RunsAlone.dropWaiter ?_ f) l.slot)
  exact ⟨e, _, (congrArg Core.leaves (coreOf_setCore ..)).trans (tput_single ..), rfl, rfl, rfl, rfl, rfl, rfl⟩

/-! ### The grants of an ac -/

/-- Waking changes nothing where no leaf's wait is over. -/
theorem wakeCore_eq_self {s : State} {c : Nat}
    (h : ∀ p ∈ (coreOf s c).leaves, ∀ w, p.2.st = .blocked w → waitMet s c p.1 p.2 w = false) : wakeCore s c = s := by
  unfold wakeCore
  generalize (coreOf s c).leaves = ls at h
  induction ls with
  | nil => rfl
  | cons p ls ih =>
    have hls := ih fun q hq => h q (List.mem_cons_of_mem _ hq)
    simp only [List.foldl_cons]
    split
    · rename_i w hw
      rw [if_neg (by simp [h p List.mem_cons_self w hw])]
      exact hls
    · exact hls

theorem readySt_ne_blocked (l : Leaf) (w : Wait) : readySt l ≠ .blocked w := by
  unfold readySt
  split <;> exact fun h => LeafSt.noConfusion h

/-- An eligible leaf gets a run. -/
theorem issueGrant_alone {s : State} {c e : Nat} {l : Leaf} (hk : (coreOf s c).leaves = [(e, l)]) (he : eligible s c l = true)
    (n : Nat) : RunsAlone (grants s c (n + 1)) c l l.mask :=
  grants_of_winner (winner_alone hk he) (startRun_alone hk) n

/-- Whether a leaf may start a run does not depend on the leaves of its core. -/
theorem eligible_setLeaf (s : State) (c e : Nat) (k l : Leaf) : eligible (setLeaf s c e k) c l = eligible s c l := by
  have hn : now (setLeaf s c e k) c = now s c := by simp [now]
  simp only [eligible, sheetOf_setLeaf, hn]
  rfl

theorem issueGrant_memory (s : State) (c : Nat) : (grants (wakeCore s c) c 8).mem = s.mem :=
  mem_of_memory (by rw [grants_memory, wakeCore_memory])

theorem issueGrant_eligible {s : State} {c e : Nat} {l : Leaf} (hk : (coreOf s c).leaves = [(e, l)]) (he : eligible s c l = true)
    (hst : l.st = readySt l) : RunsAlone (grants (wakeCore s c) c 8) c l l.mask := by
  rw [wakeCore_eq_self]
  · exact issueGrant_alone hk he 7
  · intro p hp w hw
    rw [hk, List.mem_singleton] at hp
    subst hp
    exact absurd (hst.symm.trans hw) (readySt_ne_blocked l w)

/-- A leaf whose wait is over gets a run (06 R146). -/
theorem issueGrant_woken {s : State} {c e : Nat} {l : Leaf} {w : Wait} (hk : (coreOf s c).leaves = [(e, l)]) (hst : l.st = .blocked w)
    (hw : waitMet s c e l w = true) (he : eligible s c { l with st := readySt l } = true) :
    RunsAlone (grants (wakeCore s c) c 8) c l l.mask := by
  have hwake : wakeCore s c = setLeaf s c e { l with st := readySt l, since := now s c } := by
    simp [wakeCore, hk, hst, hw]
  have hleaves : (coreOf (wakeCore s c) c).leaves = [(e, { l with st := readySt l, since := now s c })] := by
    simp [hwake, hk, tput]
  exact issueGrant_alone hleaves (by rw [hwake, eligible_setLeaf]; exact he) 7

/-- A leaf whose wait is not over gets none. -/
theorem issueGrant_waits {s : State} {c e : Nat} {l : Leaf} {w : Wait} (hk : (coreOf s c).leaves = [(e, l)]) (hst : l.st = .blocked w)
    (hw : waitMet s c e l w = false) : grants (wakeCore s c) c 8 = s := by
  have hwake : wakeCore s c = s := wakeCore_eq_self fun p hp v hv => by
    rw [hk, List.mem_singleton] at hp
    subst hp
    cases hst.symm.trans hv
    exact hw
  rw [hwake]
  refine grants_of_none (winner_eq_none fun p hp => ?_) 8
  rw [hk, List.mem_singleton] at hp
  subst hp
  exact eligible_of_blocked hst

/-- Two siblings at one PC merge, whichever wins (06 R151). -/
theorem issueGrant_merges {s : State} {c e f : Nat} {l k : Leaf} (hk : (coreOf s c).leaves = [(e, l), (f, k)]) (hne : e ≠ f)
    (hl : eligible s c l = true) (hf : eligible s c k = true) (hls : l.st = .ready) (hks : k.st = .ready) (hlp : l.priv = false)
    (hkp : k.priv = false) (hslot : k.slot = l.slot) (hpc : k.pc = l.pc) :
    RunsAlone (grants (wakeCore s c) c 8) c l (l.mask ||| k.mask) := by
  rw [wakeCore_eq_self]
  · rcases winner_pair hk hl hf with hw | hw
    · exact grants_of_winner hw (startRun_merges (f := f) (by simp [mergers, hk, hlp, hkp, hks, hslot, hpc, hne.symm]) (by simp [hk, hne]) hks) 7
    · have hmerge : RunsAlone (startRun s c f k) c k (k.mask ||| l.mask) :=
        startRun_merges (f := e) (by simp [mergers, hk, hlp, hkp, hls, hslot, hpc, hne]) (by simp [hk, hne.symm]) hls
      have hready : readySt k = readySt l := by rw [readySt, readySt, hkp, hlp]
      rw [BitVec.or_comm]
      refine grants_of_winner hw ?_ 7
      obtain ⟨g, q, h1, h2, h3, h4, h5, h6, h7⟩ := hmerge
      exact ⟨g, q, h1, h2, h3, h4.trans hready, h5.trans hpc, h6, h7.trans hslot⟩
  · intro p hp w hw
    rw [hk] at hp
    rcases List.mem_cons.1 hp with rfl | hp
    · cases hls.symm.trans hw
    · rw [List.mem_singleton] at hp
      subst hp
      cases hks.symm.trans hw

end Sys2Proof.Machine
end

section
/-!
SUPPORT. The fetch of a line, and what ends a stall, a join or a park (10 R232, R233, 06 R149 to R152, 17 R421).
-/
namespace Sys2Proof.Machine

/-! ### The fetch of a line -/

/-- The leaf `l` of a sheet `h` on core `c` needs the line of its PC, whose translation by the entry `te` passes its checks and leads
to the storage address `a` (10 R232, 02 R36, R39). -/
structure FetchReaches (s : State) (c : Nat) (l : Leaf) (h : Sheet) (te : TlbEntry) (a : Nat) : Prop where
  needs : needsFetch l = true
  canon : canonical (l.pc.toNat / 64 * 64) = true
  entry : tlbLookup s c h.ctx (l.pc.toNat / 64 * 64) = some te
  frame : frameCheck s (pteImode te.pte) (paUnder te.pte te.size (l.pc.toNat / 64 * 64)) = 0
  perm : permCheck s h.ctx l.priv 3 te.pte (paUnder te.pte te.size (l.pc.toNat / 64 * 64)) = 0
  place : storeOf s te.pte (paUnder te.pte te.size (l.pc.toNat / 64 * 64)) = a
  unflagged : (frameLocal s (paUnder te.pte te.size (l.pc.toNat / 64 * 64)) && regionFlagged s a) = false

/-- Any copy of a line but a partial serves a fetch (03 R51). -/
theorem lineServes_fetch {l : CLine} {a : Acc} (hk : a.kind = .fetch) (hl : l.st ≠ .c) : lineServes l a = true := by
  cases h : l.st <;> simp_all [lineServes, accWrites]

/-- The leaf of a fetch that has gone out waits for it, where it was. -/
theorem leafOf_startFetch {s : State} {c e : Nat} {l : Leaf} (hl : leafOf s c e = some l) (a : Acc) :
    leafOf (startFetch s c e a) c e = some { l with st := .blocked (.results [a.id]), inRun := false, runLen := 0 } :=
  leafOf_blockLeaf (s := { s with nextId := s.nextId + 1, accs := s.accs ++ [a] }) hl _

section
variable {s : State} {c e : Nat} {l : Leaf} {h : Sheet} {te : TlbEntry} {a : Nat} (hl : leafOf s c e = some l)
  (hs : sheetOf s c l.slot = some h) (hr : FetchReaches s c l h te a)
include hl hs hr

/-- A fetch of a line that the cluster does not hold goes out, and its leaf waits for it (04 R92). -/
theorem fetchLine_misses (hc : cacheLine s (c / 4) (lineOf a) = none) :
    exec (.fetchLine c e) s = .next (startFetch s c e (fetchAcc s c l te.pte a (l.pc.toNat / 64 * 64))) := by
  obtain ⟨hn, hv, ht, hf, hp, ha, hu⟩ := hr
  show execFetchLine c e s = _
  simp only [execFetchLine, hl, hs, hn, hv, ht, hf, hp, ha, hu, hc, Option.map_none, Bool.not_true, Bool.false_eq_true, if_false]

/-- A fetch of a line that the cluster holds, not as a partial, has its bytes checked (10 R232, R233). -/
theorem fetchLine_hits {cl : CLine} (hc : cacheLine s (c / 4) (lineOf a) = some cl) (hst : cl.st ≠ .c) (hC : pteC te.pte = true)
    (hpz : linePoison cl.poison (a % 128) 64 = false) (hpl : Plain s a 64) :
    exec (.fetchLine c e) s = .next (checkFetched
      (touchIcache (if (coreOf s c).icache.contains (a / 64) then s else touchLine s (c / 4) (lineOf a) 0) c (a / 64)) c e l
      ((cl.data.drop (a % 128)).take 64)) := by
  obtain ⟨hn, hv, ht, hf, hp, ha, hu⟩ := hr
  have hserves : lineServes cl (fetchAcc s c l te.pte a (l.pc.toNat / 64 * 64)) = true := lineServes_fetch rfl hst
  have hseen : seenMem s a ((cl.data.drop (a % 128)).take 64) = (cl.data.drop (a % 128)).take 64 :=
    accSeen_plain (a := fetchAcc s c l te.pte a (l.pc.toNat / 64 * 64)) hpl (List.length_take_le ..)
  show execFetchLine c e s = _
  simp only [execFetchLine, hl, hs, hn, hv, ht, hf, hp, ha, hu, hc, hserves, hC, hpz, hseen, Option.map_some, Bool.not_true,
    Bool.and_self, Bool.false_eq_true, if_false, if_true]

end

/-- A line that passes its checks is at hand. -/
theorem checkFetched_passes {s : State} {c e : Nat} {l : Leaf} {bs : List Byte} (hp : lineParity bs = true) (hr : lineReserved bs = false)
    (hf : pcForm l.pc = true) (ht : l.checkTgt = true → lineTarget bs (l.pc.toNat % 64 / 12) = true) :
    checkFetched s c e l bs = setLeaf s c e { l with line := some { va := l.pc.toNat / 64 * 64, bytes := bs }, checkTgt := false } := by
  have htgt : (l.checkTgt && !lineTarget bs (l.pc.toNat % 64 / 12)) = false := by
    cases hc : l.checkTgt with
    | false => rfl
    | true => rw [ht hc]; rfl
  simp only [checkFetched, hp, hr, hf, htgt, Bool.not_true, Bool.false_eq_true, if_false]

/-- One with wrong parity makes its leaf trap (10 R232). -/
theorem checkFetched_parity {s : State} {c e : Nat} {l : Leaf} {bs : List Byte} (hp : lineParity bs = false) :
    checkFetched s c e l bs = trapRec s c e { cause := cFetchParity, status := 1, lanes := l.mask, pc := l.pc } := by
  simp only [checkFetched, hp, Bool.not_false, if_true]

/-! ### Traps of leaves at rest -/

/-- A leaf that is vectored stands at the handler of its cause, privileged, with the valid record of its fault (17 R421). -/
theorem enterHandler_vectors {s : State} {c e : Nat} {l : Leaf} {h : Sheet} {r : FaultRec} {pc : DWord} {later : Bool}
    (hv : trapVector s c h.ctx r.cause = some (pc, later)) :
    (∃ l', leafOf (enterHandler s c e l h r) c e = some l' ∧ l'.pc = pc ∧ l'.st = .trapped ∧ l'.priv = true ∧ l'.handler = r.cause ∧
      l'.mask = l.mask ∧ l'.slot = l.slot) ∧
    ∃ r', tfind (coreOf (enterHandler s c e l h r) c).recs e = some r' ∧ r'.v = true ∧ r'.cause = r.cause ∧ r'.status = r.status ∧
      r'.pc = r.pc ∧ r'.lanes = r.lanes ∧ r'.addr = r.addr := by
  simp only [enterHandler, hv, leafOf, coreOf_setCore, tfind_tput_same]
  exact ⟨⟨_, rfl, rfl, rfl, rfl, rfl, rfl, rfl⟩, _, rfl, rfl, rfl, rfl, rfl, rfl, rfl⟩

theorem enterHandler_mem (s : State) (c e : Nat) (l : Leaf) (h : Sheet) (r : FaultRec) : (enterHandler s c e l h r).mem = s.mem :=
  mem_of_memory (enterHandler_memory ..)

/-- A parked leaf at rest is vectored with the record of its fault (06 R150). -/
theorem parkedLeafVector_parked {s : State} {c e : Nat} {l : Leaf} {h : Sheet} (hl : leafOf s c e = some l)
    (hs : sheetOf s c l.slot = some h) (hst : l.st = .parked) (hrest : atRest s c l = true) :
    exec (.parkedLeafVector c e) s = .next (enterHandler s c e l h (tget {} (coreOf s c).recs e)) := by
  show execParkedLeafVector c e s = _
  simp [execParkedLeafVector, hl, hs, hst, hrest]

/-- A split-stalled leaf that has waited too long traps with LEAF-EXHAUSTED (06 R149). -/
theorem leafExhaustedStall_exhausted {s : State} {c e : Nat} {l : Leaf} {h : Sheet} (hl : leafOf s c e = some l)
    (hs : sheetOf s c l.slot = some h) (hx : exhausted s c e = true) (hp : l.pend = none) (hu : l.priv = false)
    (ho : outstanding s c l = []) :
    exec (.leafExhaustedStall c e) s =
      .next (enterHandler s c e l h { cause := cLeafExhausted, status := 1, lanes := l.mask, pc := l.pc }) := by
  show execLeafExhaustedStall c e s = _
  simp [execLeafExhaustedStall, trapRec, hl, hs, hx, hp, hu, ho]

/-! ### Stalls and joins -/

/-- A split-stalled leaf retries when an entry of the pool is free (06 R149). -/
theorem splitStallRetry_retries {s : State} {c e u : Nat} {l : Leaf} (hl : leafOf s c e = some l) (hst : l.st = .splitStalled u)
    (hp : poolFree s c ≠ []) :
    exec (.splitStallRetry c e) s = .next (setLeaf s c e { l with st := readySt l, since := now s c }) := by
  show execSplitStallRetry c e s = _
  simp [execSplitStallRetry, hl, hst, hp]

/-- A joining leaf goes on when no sibling is left in its range (06 R152). -/
theorem joinRelease_releases {s : State} {c e : Nat} {l : Leaf} {low : DWord} (hl : leafOf s c e = some l) (hst : l.st = .joining low)
    (hfree : ∀ p ∈ (coreOf s c).leaves, p.1 ≠ e → p.2.slot = l.slot → p.2.st ≠ .parked → ¬ (low ≤ p.2.pc ∧ p.2.pc < l.pc)) :
    exec (.joinRelease c e) s = .next (setLeaf s c e { l with st := readySt l, joined := true, since := now s c }) := by
  have hj : joinFree s c e = true := by
    simp only [joinFree, hl, hst, Bool.not_eq_true', List.any_eq_false]
    intro p hp hh
    simp only [holdsJoin, Bool.and_eq_true, bne_iff_ne, beq_iff_eq, decide_eq_true_eq] at hh
    obtain ⟨⟨⟨⟨hne, hslot⟩, hpark⟩, hlow⟩, hpc⟩ := hh
    exact hfree p hp hne hslot hpark ⟨hlow, hpc⟩
  show execJoinRelease c e s = _
  simp only [execJoinRelease, hj, hl, if_true]

/-! ### The statement -/

/-- Settles O45, event by event. -/
theorem leafEvents : Obligations.LeafEvents := by
  intro s c e l h hl hs
  refine ⟨?grant, ?waits, ?merge, ?fetch, ?vector, ?retry, ?exhausted, ?join⟩
  case grant => exact fun hk he hst => ⟨_, rfl, issueGrant_memory s c, (issueGrant_eligible hk he hst).leafOf⟩
  case waits =>
    intro w hk hst _
    refine ⟨fun hw he => ⟨_, rfl, issueGrant_memory s c, (issueGrant_woken hk hst hw he).leafOf⟩, fun hw => ?_⟩
    show Host.Outcome.next (grants (wakeCore s c) c 8) = _
    rw [issueGrant_waits hk hst hw]
  case merge =>
    intro f k hk hne hle hke hls hks hlp hkp hslot hpc
    have hruns := issueGrant_merges hk hne hle hke hls hks hlp hkp hslot hpc
    exact ⟨_, rfl, issueGrant_memory s c, hruns.leafOf, hruns.length⟩
  case fetch =>
    intro te bs hn va pa a hv ht hf hp hu
    have hr : FetchReaches s c l h te a := ⟨hn, hv, ht, hf, hp, rfl, hu⟩
    refine ⟨fun hc => ?_, fun cl hc hst hC hpz hpl hbs => ?_⟩
    · refine ⟨_, fetchLine_misses hl hs hr hc, mem_of_memory (blockLeaf_memory ..), ⟨fetchAcc s c l te.pte a va, ?_, rfl, rfl, rfl, rfl, rfl, rfl⟩,
        _, leafOf_startFetch hl _, rfl, rfl, rfl⟩
      rw [startFetch, blockLeaf_accs]
      exact List.mem_append_right _ (List.mem_singleton_self _)
    · have hhit := fetchLine_hits hl hs hr hc hst hC hpz hpl
      rw [hbs] at hhit
      refine ⟨fun hpar hres hpc htgt => ?_, fun hpar => ?_⟩
      · rw [checkFetched_passes hpar hres hpc htgt] at hhit
        exact ⟨_, hhit, mem_of_memory (by simp), leafOf_setLeaf ..⟩
      · rwa [checkFetched_parity hpar] at hhit
  case vector =>
    intro pc later r hst hrest hv
    exact ⟨_, parkedLeafVector_parked hl hs hst hrest, enterHandler_mem .., enterHandler_vectors hv⟩
  case retry => exact fun u hst hp => ⟨_, splitStallRetry_retries hl hst hp, rfl, _, leafOf_setLeaf .., rfl, rfl, rfl⟩
  case exhausted =>
    intro pc later hx hp hu ho hv
    obtain ⟨⟨l', hl', hpc, hst, hpriv, hcause, -⟩, r, hr, hrv, hrc, hrst, hrpc, -⟩ :=
      enterHandler_vectors (e := e) (l := l) (r := { cause := cLeafExhausted, status := 1, lanes := l.mask, pc := l.pc }) hv
    exact ⟨_, leafExhaustedStall_exhausted hl hs hx hp hu ho, enterHandler_mem .., ⟨l', hl', hpc, hst, hpriv, hcause⟩,
      r, hr, hrv, hrc, hrst, hrpc⟩
  case join => exact fun low hst hfree => ⟨_, joinRelease_releases hl hst hfree, rfl, _, leafOf_setLeaf .., rfl, rfl, rfl, rfl⟩

end Sys2Proof.Machine
end

section
/-!
SUPPORT. What an instruction that computes in registers writes: which elements, in which lanes (06 R135, 11 R259, R287).
-/
namespace Sys2Proof.Machine

/-- `t` is `s` after writes by the leaf of `x` to the registers `ws`, and to the sticky flags where `fl`, of a v-register in the
lanes `m` alone. -/
structure Wrote (s t : State) (x : Iss) (m : Mask) (ws : List Nat) (fl : Bool) : Prop where
  regs : RegsOnly s t x
  kept : ∀ c l, l < 32 → (fl = true → isE c = false) → (c ∈ ws → isV c = true ∧ m.has l = false) → rawElem t x c l = rawElem s x c l
  writable : ∀ c, Writable s x m c → Writable t x m c

theorem Wrote.refl (s : State) (x : Iss) (m : Mask) (ws : List Nat) (fl : Bool) : Wrote s s x m ws fl :=
  ⟨RegsOnly.refl s x, fun _ _ _ _ _ => rfl, fun _ h => h⟩

theorem Wrote.trans {s t u : State} {x : Iss} {m : Mask} {ws : List Nat} {fl : Bool} (a : Wrote s t x m ws fl)
    (b : Wrote t u x m ws fl) : Wrote s u x m ws fl :=
  ⟨a.regs.trans b.regs, fun c l hl he hc => (b.kept c l hl he hc).trans (a.kept c l hl he hc), fun c h => b.writable c (a.writable c h)⟩

/-- Where every v-register among codes may be written. -/
def AllWritable (s : State) (x : Iss) (m : Mask) (ws : List Nat) : Prop := ∀ c ∈ ws, isV c = true → Writable s x m c

theorem AllWritable.wrote {s t : State} {x : Iss} {m : Mask} {ws : List Nat} {fl : Bool} (h : AllWritable s x m ws)
    (a : Wrote s t x m ws fl) : AllWritable t x m ws := fun c hc hv => a.writable c (h c hc hv)

/-- Each step of a fold writes: so does the fold. -/
theorem Wrote.foldl {β : Type} {x : Iss} {m : Mask} {ws : List Nat} {fl : Bool} {f : State → β → State} (ls : List β)
    (hf : ∀ t, Home t x → ∀ b ∈ ls, Wrote t (f t b) x m ws fl) (s : State) (hh : Home s x) : Wrote s (ls.foldl f s) x m ws fl := by
  induction ls generalizing s with
  | nil => exact Wrote.refl s x m ws fl
  | cons b ls ih =>
    have hb := hf s hh b List.mem_cons_self
    exact hb.trans (ih (fun t ht d hd => hf t ht d (List.mem_cons_of_mem _ hd)) _ (hb.regs.home hh))

theorem wrote_markRaise {s : State} {x : Iss} (m k n : Mask) (hh : Home s x) (ws : List Nat) (fl : Bool) :
    Wrote s (markRaise s x m k) x n ws fl := by
  refine ⟨regsOnly_markRaise .., fun c l _ _ _ => rawElem_markRaise s x m k hh c l, fun c h => (writable_congr ?_ n c).2 h⟩
  unfold markRaise modSheet
  (repeat' split) <;> simp

section
variable {s : State} {x : Iss} {m : Mask} {ws : List Nat} {fl : Bool} (hm : m ≠ 0) (hh : Home s x)
include hm hh

/-- Writing a flag. -/
theorem wrote_writeFlag {i : Nat} (hi : i < 5) (lat : Nat) (v : Nat → Nat) : Wrote s (writeElem s x (0x198 + i) m lat v) x m ws true := by
  refine ⟨regsOnly_writeElem .., fun d l hl he _ => ?_, fun d => writable_writeElem s x _ m lat v d⟩
  rw [rawElem_writeFlag s x i hi m lat v hm hh d l hl, if_neg]
  rintro rfl
  rw [isE_code hi] at he
  exact absurd (he rfl) (by decide)

/-- Raising flags (11 R287). -/
theorem wrote_raiseFlags (lat : Nat) (f : Nat → Flags) : Wrote s (raiseFlags s x m lat f) x m ws true :=
  Wrote.foldl _ (fun _ ht _ hi => (wrote_writeFlag hm ht (List.mem_range.1 hi) lat _).trans
    (wrote_markRaise _ _ m ((regsOnly_writeElem ..).home ht) ws true)) s hh

/-- Clearing flags (11 R287). -/
theorem wrote_clearFlags (lat : Nat) (sel : Flags) : Wrote s (clearFlags s x m lat sel) x m ws true := by
  refine Wrote.foldl _ (fun t ht i hi => ?_) s hh
  split
  · exact wrote_writeFlag hm ht (List.mem_range.1 hi) lat _
  · exact Wrote.refl ..

variable (hw : AllWritable s x m ws)
include hw

/-- Writing an element. -/
theorem wrote_writeElem {c : Nat} (hc : c ∈ ws) (lat : Nat) (v : Nat → Nat) : Wrote s (writeElem s x c m lat v) x m ws fl := by
  obtain ⟨low, hlow⟩ := lowLane_isSome hm
  refine ⟨regsOnly_writeElem .., fun d l hl _ hd => ?_, fun d => writable_writeElem s x c m lat v d⟩
  rw [rawElem_writeElem s x c m lat v low hlow hm hh (hw c hc) d l hl]
  split
  · rename_i he
    subst he
    obtain ⟨hv, hout⟩ := hd hc
    simp [putVal, hv, hout]
  · rfl

/-- Writing a result. -/
theorem wrote_writeOpd {c : Nat} {w64 : Bool} (hc : resultCodes c w64 ⊆ ws) (sx : Bool) (lat : Nat) (v : Nat → Nat) :
    Wrote s (writeOpd s x m c w64 sx lat v) x m ws fl := by
  have hlow : c ∈ ws := hc (by unfold resultCodes; split <;> simp)
  have one : ∀ u, Wrote s (writeElem s x c m lat u) x m ws fl := wrote_writeElem hm hh hw hlow lat
  unfold writeOpd
  split
  · rename_i hv
    dsimp only
    split
    · rename_i h64
      have hhigh : c + 1 ∈ ws := hc (by simp [resultCodes, hv, h64])
      have first := one (fun l => v l % 2 ^ 32)
      exact first.trans (wrote_writeElem hm (first.regs.home hh) (hw.wrote first) hhigh lat _)
    · exact one _
  · split
    · exact one _
    · split
      · exact one _
      · exact Wrote.refl ..

/-- Writing a result, and a predicate where a second code names one. -/
theorem wrote_writeOpd_pred {c q : Nat} {w64 : Bool} (hc : resultCodes c w64 ⊆ ws) (hq : isP q = true → q ∈ ws) (sx : Bool) (lat : Nat)
    (v w : Nat → Nat) :
    Wrote s (if isP q then writeOpd (writeOpd s x m c w64 sx lat v) x m q false false lat w else writeOpd s x m c w64 sx lat v) x m ws fl := by
  have first : Wrote s (writeOpd s x m c w64 sx lat v) x m ws fl := wrote_writeOpd hm hh hw hc sx lat v
  split
  · rename_i hp
    exact first.trans (wrote_writeOpd hm (first.regs.home hh) (hw.wrote first) (by simpa [resultCodes] using hq hp) false lat w)
  · exact first

/-- Writing a predicate and, where a second code names one, that too. -/
theorem wrote_writePreds {p q : Opd} (hp : p.toNat ∈ ws) (hq : isP q.toNat = true → q.toNat ∈ ws) (lat : Nat) (v w : Nat → Bool) :
    Wrote s (writePreds s x m lat p q v w) x m ws fl :=
  wrote_writeOpd_pred hm hh hw (by simpa [resultCodes] using hp) hq false lat _ _

end

/-! ### The frame of an instruction -/

/-- The frame of an instruction that writes the registers `ws`, and the sticky flags where `fl`. -/
def RegisterFrame (i : Instr) (h : Hdr) (g : Sig) (ws : List Nat) (fl : Bool) : Prop :=
  ∀ s x act t, Runs s x h g act → AllWritable s x act ws → exec i s = .next t →
    GoneOn t x ∧ t = { s with cores := t.cores, accs := t.accs } ∧ (∀ c, c ≠ x.core → coreOf t c = coreOf s c) ∧
    coreOf t x.core = { coreOf s x.core with
      regs := (coreOf t x.core).regs, regPoison := (coreOf t x.core).regPoison, sheets := (coreOf t x.core).sheets,
      recs := (coreOf t x.core).recs, leaves := (coreOf t x.core).leaves, windows := (coreOf t x.core).windows } ∧
    (∀ e, e ≠ x.entry → leafOf t x.core e = leafOf s x.core e) ∧
    (∀ k, k ≠ x.leaf.slot → sheetOf t x.core k = sheetOf s x.core k) ∧
    (∀ q, sheetOf s x.core x.leaf.slot = some q → ∃ q', sheetOf t x.core x.leaf.slot = some q' ∧ q' = withRegsOf q q') ∧
    (∀ c l, l < 32 → c ∉ ws → (fl = true → isE c = false) → rawElem t x c l = rawElem s x c l) ∧
    ∀ c ∈ ws, isV c = true → ∀ l, l < 32 → act.has l = false → rawElem t x c l = rawElem s x c l

theorem coreOf_consumeTag_ne {c d : Nat} (h : d ≠ c) (s : State) (n : Nat) : coreOf (consumeTag s c n) d = coreOf s d := by
  unfold consumeTag
  dsimp only
  split
  · exact coreOf_setCore_ne _ _ _ _ h
  · rfl

/-- Tags are consumed on the core of the issuing leaf alone. -/
theorem coreOf_consumeSrc_ne {x : Iss} {d : Nat} (h : d ≠ x.core) (s : State) (u : List (Opd × Role)) (act : Mask) :
    coreOf (consumeSrc s x u act) d = coreOf s d := by
  unfold consumeSrc
  split
  · rfl
  · induction u generalizing s with
    | nil => rfl
    | cons a u ih =>
      rw [List.foldl_cons, ih]
      split
      · split
        · exact coreOf_consumeTag_ne h ..
        · rfl
      · rfl

/-- Where its leaf stands, going on changes that leaf alone. -/
theorem doneOp_eq {s : State} {x : Iss} (hl : leafOf s x.core x.entry = some x.leaf) (h : Hdr) :
    ∃ k, doneOp s x h = setLeaf s x.core x.entry k := by
  simp only [doneOp, retireAt, hl]
  exact ⟨_, rfl⟩

/-- Changes of cores and accesses alone compose. -/
theorem coresAndAccs_trans {s t u : State} (a : t = { s with cores := t.cores, accs := t.accs })
    (b : u = { t with cores := u.cores, accs := u.accs }) : u = { s with cores := u.cores, accs := u.accs } := by
  rw [b, a]

/-- An instruction that changes no control has the frame of its writes. -/
theorem registerFrame_plainOp {i : Instr} {h : Hdr} {g : Sig} {ws : List Nat} {fl : Bool} {f : State → Iss → Mask → State}
    (hex : ∀ s, exec i s = plainOp s h g f)
    (hf : ∀ s x act, g.ok = true → act ≠ 0 → Home s x → AllWritable s x act ws → Wrote s (f s x act) x act ws fl) :
    RegisterFrame i h g ws fl := by
  intro s x act t r hw ht
  have hleaf := (issuer_some r.issues).1
  have hwrote := hf (consumeSrc s x g.uses act) x act r.legal.1 r.some_lane r.home fun c hc hv => (writable_consumeSrc ..).2 (hw c hc hv)
  obtain ⟨hregs, hkept, -⟩ := hwrote
  have hstands : leafOf (f (consumeSrc s x g.uses act) x act) x.core x.entry = some x.leaf := by
    rw [hregs.leaf, leafOf_consumeSrc, hleaf]
  obtain rfl : doneOp (f (consumeSrc s x g.uses act) x act) x h = t := by
    simpa [hex, plainOp_runs r] using ht
  have hraw : ∀ c l, l < 32 → (fl = true → isE c = false) → (c ∈ ws → isV c = true ∧ act.has l = false) →
      rawElem (doneOp (f (consumeSrc s x g.uses act) x act) x h) x c l = rawElem s x c l := fun c l hl he hc => by
    rw [rawElem_doneOp, hkept c l hl he hc, rawElem_consumeSrc]
  have hgone := doneOp_gone hstands h
  obtain ⟨k, hk⟩ := doneOp_eq hstands h
  rw [hk] at hraw hgone ⊢
  generalize f (consumeSrc s x g.uses act) x act = u at *
  refine ⟨hgone, ?rest, ?others, ?core, ?leaves, ?slots, ?sheet, fun c l hl hc he => hraw c l hl he fun h => absurd h hc,
    fun c hc hv l hl hout => hraw c l hl (fun _ => isV_not_isE hv) fun _ => ⟨hv, hout⟩⟩
  case rest =>
    have hconsume : consumeSrc s x g.uses act =
        { s with cores := (consumeSrc s x g.uses act).cores, accs := (consumeSrc s x g.uses act).accs } := by rw [consumeSrc_rest]
    exact coresAndAccs_trans (coresAndAccs_trans hconsume hregs.rest) rfl
  case others =>
    intro c hc
    rw [coreOf_setLeaf_ne _ _ _ _ _ hc, hregs.others c hc, coreOf_consumeSrc_ne hc]
  case core =>
    rw [coreOf_setLeaf, hregs.core, coreOf_consumeSrc]
  case leaves =>
    intro e he
    rw [leafOf_setLeaf_ne _ _ _ _ _ he, hregs.leaf, leafOf_consumeSrc]
  case slots =>
    intro k hk
    rw [sheetOf_setLeaf, hregs.slots k hk, sheetOf, core_sheets_consumeSrc, sheetOf]
  case sheet =>
    intro q hq
    rw [sheetOf_setLeaf]
    exact hregs.sheet q (by rwa [sheetOf, core_sheets_consumeSrc])

end Sys2Proof.Machine
end

section
/-!
SUPPORT. The frame of each family of register instructions (06 R135, 11 R259 to R287), with the codes of its destinations.
-/
namespace Sys2Proof.Machine

/-! ### The codes of a result -/

@[simp] theorem resultCodes_one (c : Nat) : resultCodes c false = [c] := by simp [resultCodes]

/-- A narrow result has no code that a result under a width code lacks, and a wide one needs the width of 64 bits. -/
theorem resultCodes_subset {a b : Bool} (h : a = true → b = true) (c : Nat) : resultCodes c a ⊆ resultCodes c b := by
  cases b with
  | true => cases a <;> simp [resultCodes]; split <;> simp
  | false => rw [Bool.eq_false_iff.2 fun ha => Bool.false_ne_true (h ha)]; exact List.Subset.refl _

theorem intTy_wide {h : Hdr} {tw : BitVec 2} (w : ((intTy h tw).getD (32, false)).1 = 64) : tw = 3 := by
  unfold intTy at w
  split at w
  · split at w
    · simp at w
    · split at w
      · assumption
      · simp at w
  · simp at w

theorem bitsTy_wide {h : Hdr} {tw : BitVec 2} (w : (bitsTy h tw).getD 32 = 64) : tw = 3 := by
  unfold bitsTy at w
  split at w
  · split at w
    · simp at w
    · split at w
      · assumption
      · simp at w
  · simp at w

theorem redTy_wide {f : FmtR} {op : Nat} (w : ((redTy f op).getD (0, 32, false)).2.1 = 64) : f.tw = 3 := by
  unfold redTy at w
  split at w
  · have hint := intTy_wide (h := f.h) (tw := f.tw)
    split at w
    · rename_i he
      exact hint (by simpa [he] using w)
    · split at w <;> simp at w
  · split at w
    · refine bitsTy_wide (h := f.h) ?_
      cases he : bitsTy f.h f.tw <;> simp [he] at w ⊢
      exact w
    · simp at w

theorem moviVal_wide {h : Hdr} {tw : BitVec 2} {i : BitVec 32} (w : ((moviVal h tw i).getD (32, 0)).1 = 64) :
    (tw == 3 && h.cls != 4) = true := by
  unfold moviVal at w
  split at w <;> simp at w
  all_goals
    rename_i hc ht
    have : tw = 3 := BitVec.eq_of_toNat_eq ht
    have : h.cls ≠ 4#3 := by rintro he; simp [he] at hc
    simp [*]

/-- Where a width that is 64 needs the width code 3, a result of that width has the codes of that width code. -/
theorem resultCodes_wide {w : Nat} {tw : BitVec 2} (h : w = 64 → tw = 3) (c : Nat) :
    resultCodes c (decide (w = 64)) ⊆ resultCodes c (tw == 3) :=
  resultCodes_subset (fun hw => by simpa using h (by simpa using hw)) c

/-! ### One result -/

/-- An instruction that writes one result has its frame. -/
theorem registerFrame_result {i : Instr} {h : Hdr} {g : Sig} {ws : List Nat} {c lat : Nat} {w64 sx : Bool}
    {v : State → Iss → Mask → Nat → Nat} (hex : ∀ s, exec i s = plainOp s h g fun s x act => writeOpd s x act c w64 sx lat (v s x act))
    (hc : resultCodes c w64 ⊆ ws) :
    RegisterFrame i h g ws false :=
  registerFrame_plainOp hex fun _ _ _ _ hm hh hw => wrote_writeOpd hm hh hw hc _ _ _

section
variable {i : Instr} {f : FmtR} {imm : Option (BitVec 32)}

/-- Integer arithmetic (11 R260). -/
theorem registerFrame_intOp {hasB hasC satOk signedOnly : Bool} {lat : Nat} {op : Nat → Int → Int → Int → Int}
    (hex : ∀ s, exec i s = intOp f imm hasB hasC satOk signedOnly lat op s) :
    RegisterFrame i f.h (sigIntOp f imm hasB hasC satOk signedOnly) (resultCodes f.dst.toNat (f.tw == 3)) false :=
  registerFrame_result hex (resultCodes_wide intTy_wide _)

/-- Logic on bits (11 R261). -/
theorem registerFrame_logicOp {hasB : Bool} {op : Nat → Nat → Nat → Nat} (hex : ∀ s, exec i s = logicOp f imm hasB op s) :
    RegisterFrame i f.h (sigLogicOp f imm hasB) (resultCodes f.dst.toNat (f.tw == 3)) false :=
  registerFrame_result hex (resultCodes_wide bitsTy_wide _)

/-- Shifts (11 R261). -/
theorem registerFrame_shiftOp {modOk : Bool} {op : Nat → Nat → Nat → Nat} (hex : ∀ s, exec i s = shiftOp f imm modOk op s) :
    RegisterFrame i f.h (sigShiftOp f imm modOk) (resultCodes f.dst.toNat (f.tw == 3)) false :=
  registerFrame_result hex (resultCodes_wide bitsTy_wide _)

/-- Bit counts (11 R262). -/
theorem registerFrame_countOp {op : Nat → Nat → Nat} (hex : ∀ s, exec i s = countOp f op s) :
    RegisterFrame i f.h (sigCountOp f) [f.dst.toNat] false :=
  registerFrame_result hex (by simp)

/-- LEA (11 R265). -/
theorem registerFrame_leaOp (hex : ∀ s, exec i s = leaOp f imm s) :
    RegisterFrame i f.h (sigLeaOp f imm) (resultCodes f.dst.toNat true) false :=
  registerFrame_result hex (List.Subset.refl _)

/-! ### A result with flags -/

/-- A result with the flags that it raises. -/
theorem wrote_writeOpd_raiseFlags {s : State} {x : Iss} {m : Mask} {ws : List Nat} (hm : m ≠ 0) (hh : Home s x) (hw : AllWritable s x m ws)
    {c : Nat} {w64 : Bool} (hc : resultCodes c w64 ⊆ ws) (sx : Bool) (lat : Nat) (v : Nat → Nat) (g : Nat → Flags) :
    Wrote s (raiseFlags (writeOpd s x m c w64 sx lat v) x m lat g) x m ws true :=
  have first := wrote_writeOpd hm hh hw hc sx lat v
  first.trans (wrote_raiseFlags hm (first.regs.home hh) lat g)

/-- A result with the flags that it raises where it rounds. -/
theorem wrote_writeOpd_flagsWhere {s : State} {x : Iss} {m : Mask} {ws : List Nat} (hm : m ≠ 0) (hh : Home s x) (hw : AllWritable s x m ws)
    {c : Nat} {w64 : Bool} (hc : resultCodes c w64 ⊆ ws) (sx : Bool) (lat : Nat) (v : Nat → Nat) (g : Nat → Flags) (rounds : Prop)
    [Decidable rounds] :
    Wrote s (if rounds then raiseFlags (writeOpd s x m c w64 sx lat v) x m lat g else writeOpd s x m c w64 sx lat v) x m ws true := by
  split
  · exact wrote_writeOpd_raiseFlags hm hh hw hc sx lat v g
  · exact wrote_writeOpd hm hh hw hc sx lat v

/-- Floating arithmetic (11 R269). -/
theorem registerFrame_floatOp {hasB hasC modsIn satIn : Bool} {op : Bool → RMode → Bool → Fmt → Nat → Nat → Nat → Out}
    (hex : ∀ s, exec i s = floatOp f imm hasB hasC modsIn satIn op s) :
    RegisterFrame i f.h (sigFloatOp f imm hasB hasC modsIn satIn) [f.dst.toNat] true :=
  registerFrame_plainOp hex fun _ _ _ _ hm hh hw => wrote_writeOpd_raiseFlags hm hh hw (by simp) _ _ _ _

/-- Special functions (11 R279). -/
theorem registerFrame_sfuOp {fn : Nat} (hex : ∀ s, exec i s = sfuOp fn f s) : RegisterFrame i f.h (sigSfuOp fn f) [f.dst.toNat] true :=
  registerFrame_plainOp hex fun _ _ _ _ hm hh hw => wrote_writeOpd_raiseFlags hm hh hw (by simp) _ _ _ _

/-! ### Predicates -/

/-- ICMP (11 R266). -/
theorem registerFrame_icmpOp {ws : List Nat} (hex : ∀ s, exec i s = icmpOp f imm s) (hp : f.dst.toNat ∈ ws)
    (hq : isP f.dst2.toNat = true → f.dst2.toNat ∈ ws) : RegisterFrame i f.h (sigIcmpOp f imm) ws false :=
  registerFrame_plainOp hex fun _ _ _ _ hm hh hw => wrote_writePreds hm hh hw hp hq _ _ _

/-- FCMP (11 R272). -/
theorem registerFrame_fcmpOp {ws : List Nat} (hex : ∀ s, exec i s = fcmpOp f imm s) (hp : f.dst.toNat ∈ ws)
    (hq : isP f.dst2.toNat = true → f.dst2.toNat ∈ ws) : RegisterFrame i f.h (sigFcmpOp f imm) ws true :=
  registerFrame_plainOp hex fun _ _ _ _ hm hh hw =>
    have first := wrote_writePreds hm hh hw hp hq _ _ _
    first.trans (wrote_raiseFlags hm (first.regs.home hh) _ _)

end

section
variable (f : FmtR)

/-- BFE (11 R262). -/
theorem registerFrame_bfe : RegisterFrame (.bfe f) f.h (sigBfe f) (resultCodes f.dst.toNat (f.tw == 3)) false :=
  registerFrame_result (fun s => show exec (.bfe f) s = execBfe f s from rfl) (resultCodes_wide intTy_wide _)

/-- BFI (11 R262). -/
theorem registerFrame_bfi : RegisterFrame (.bfi f) f.h (sigBfi f) (resultCodes f.dst.toNat (f.tw == 3)) false :=
  registerFrame_result (fun s => show exec (.bfi f) s = execBfi f s from rfl) (resultCodes_wide bitsTy_wide _)

/-- SEL (11 R263). -/
theorem registerFrame_sel : RegisterFrame (.sel f) f.h (sigSel f) (resultCodes f.dst.toNat (f.tw == 3)) false :=
  registerFrame_result (fun s => show exec (.sel f) s = execSel f s from rfl) (resultCodes_wide bitsTy_wide _)

/-- MOV (11 R263). -/
theorem registerFrame_mov : RegisterFrame (.mov f) f.h (sigMov f) (resultCodes f.dst.toNat (f.tw == 3)) false :=
  registerFrame_result (fun s => show exec (.mov f) s = execMov f s from rfl) (resultCodes_wide bitsTy_wide _)

/-- FCLASS (11 R273). -/
theorem registerFrame_fclass : RegisterFrame (.fclass f) f.h (sigFclass f) [f.dst.toNat] false :=
  registerFrame_result (fun s => show exec (.fclass f) s = execFclass f s from rfl) (by simp)

/-- VOTE (11 R283). -/
theorem registerFrame_vote : RegisterFrame (.vote f) f.h (sigVote f) [f.dst.toNat] false :=
  registerFrame_result (fun s => show exec (.vote f) s = execVote f s from rfl) (by simp)

/-- PSET (11 R267). -/
theorem registerFrame_pset : RegisterFrame (.pset f) f.h (sigPset f) [f.dst.toNat] false :=
  registerFrame_plainOp (fun s => show exec (.pset f) s = execPset f s from rfl) fun _ _ _ _ hm hh hw =>
    wrote_writePreds hm hh hw List.mem_cons_self (fun h => absurd h (by decide)) _ _ _

/-- PLOP (11 R267). -/
theorem registerFrame_plop : RegisterFrame (.plop f) f.h (sigPlop f) [f.dst.toNat] false :=
  registerFrame_plainOp (fun s => show exec (.plop f) s = execPlop f s from rfl) fun _ _ _ _ hm hh hw =>
    wrote_writePreds hm hh hw List.mem_cons_self (fun h => absurd h (by decide)) _ _ _

/-- The predicates are no v-registers. -/
theorem allWritable_predicates (s : State) (x : Iss) (m : Mask) : AllWritable s x m ((List.range 7).map (· + 0x190)) := by
  intro c hc hv
  obtain ⟨i, -, rfl⟩ := List.mem_map.1 hc
  simp [isV] at hv
  omega

/-- The predicates that PMOV writes from a register. -/
theorem wrote_pmov_predicates {s : State} {x : Iss} {m : Mask} {fl : Bool} (hm : m ≠ 0) (hh : Home s x) (lat : Nat) (v : Nat → Nat → Nat) :
    Wrote s ((List.range 7).foldl (fun s i => writeElem s x (0x190 + i) m lat (v i)) s) x m ((List.range 7).map (· + 0x190)) fl := by
  refine Wrote.foldl _ (fun t ht i hi => ?_) s hh
  have hmem : 0x190 + i ∈ (List.range 7).map (· + 0x190) := by
    rw [Nat.add_comm]
    exact List.mem_map_of_mem hi
  exact wrote_writeElem hm ht (allWritable_predicates t x m) hmem lat _

/-- The flags that PMOV writes from a register. -/
theorem wrote_pmov_flags {s : State} {x : Iss} {m : Mask} {ws : List Nat} (hm : m ≠ 0) (hh : Home s x) (lat : Nat) (v : Nat → Nat → Nat) :
    Wrote s ((List.range 5).foldl (fun s i => writeElem s x (0x198 + i) m lat (v i)) s) x m ws true :=
  Wrote.foldl _ (fun _ ht _ hi => wrote_writeFlag hm ht (List.mem_range.1 hi) lat _) s hh

/-- PMOV (11 R268). -/
theorem registerFrame_pmov :
    RegisterFrame (.pmov f) f.h (sigPmov f) (if f.mod = 0 then [f.dst.toNat] else (List.range 7).map (· + 0x190)) (f.mod == 2) := by
  refine registerFrame_plainOp (fun s => show exec (.pmov f) s = execPmov f s from rfl) fun s x act _ hm hh hw => ?_
  have hzero : f.mod.toNat = 0 ↔ f.mod = 0 := BitVec.toNat_eq (y := 0#_).symm
  have htwo : f.mod.toNat = 2 ↔ f.mod = 2 := BitVec.toNat_eq (y := 2#_).symm
  simp only [hzero, htwo] at *
  split
  · simp only [*, if_true] at hw ⊢
    exact wrote_writeOpd hm hh hw (by simp) _ _ _
  · simp only [*, if_false] at hw ⊢
    have first := wrote_pmov_predicates (fl := f.mod == 2) hm hh latInt
    split
    · rename_i h2
      rw [h2] at first ⊢
      exact (first _).trans (wrote_pmov_flags hm ((first _).regs.home hh) latInt _)
    · exact first _

/-! ### The other instructions -/

/-- MOVI (11 R264): `.hi` writes the high half of DST. -/
theorem registerFrame_movi (f : FmtI) :
    RegisterFrame (.movi f) f.h (sigMovi f) (resultCodes f.dst.toNat (f.tw == 3 && f.h.cls != 4)) false := by
  refine registerFrame_plainOp (fun s => show exec (.movi f) s = execMovi f s from rfl) fun s x act hok hm hh hw => ?_
  split
  · rename_i hhi
    have hwide : (f.tw == 3 && f.h.cls != 4) = true := by
      simp only [sigMovi, hhi, Bool.and_eq_true, Bool.not_true, Bool.false_or, beq_iff_eq] at hok
      obtain ⟨-, hcls, htw⟩ := hok
      simp [hcls, htw]
    rw [hwide] at hw ⊢
    split
    · rename_i hv
      exact wrote_writeElem hm hh hw (by simp [resultCodes, hv]) _ _
    · split
      · exact wrote_writeElem hm hh hw (by unfold resultCodes; split <;> simp) _ _
      · exact Wrote.refl ..
  · exact wrote_writeOpd hm hh hw (resultCodes_subset (fun h => moviVal_wide (of_decide_eq_true h)) _) _ _ _

/-- SHFL (11 R282). -/
theorem registerFrame_shfl :
    RegisterFrame (.shfl f) f.h (sigShfl f) (f.dst2.toNat :: resultCodes f.dst.toNat (f.tw == 3)) false :=
  registerFrame_plainOp (fun s => show exec (.shfl f) s = execShfl f s from rfl) fun _ _ _ _ hm hh hw =>
    wrote_writeOpd_pred hm hh hw (List.subset_cons_of_subset _ (resultCodes_wide bitsTy_wide _)) (fun _ => List.mem_cons_self) _ _ _ _

/-- MATCH (11 R286). -/
theorem registerFrame_match : RegisterFrame (.matchV f) f.h (sigMatch f) [f.dst.toNat, f.dst2.toNat] false :=
  registerFrame_plainOp (fun s => show exec (.matchV f) s = execMatch f s from rfl) fun _ _ _ _ hm hh hw =>
    wrote_writeOpd_pred hm hh hw (by simp) (fun _ => by simp) _ _ _ _

/-- REDUX (11 R284). -/
theorem registerFrame_redux : RegisterFrame (.redux f) f.h (sigRedux f) (resultCodes f.dst.toNat (f.tw == 3)) true := by
  refine registerFrame_plainOp (fun s => show exec (.redux f) s = execRedux f s from rfl) fun s x act _ hm hh hw => ?_
  have hwide := resultCodes_wide (redTy_wide (f := f) (op := f.sub.toNat)) f.dst.toNat
  split
  · exact wrote_writeOpd hm hh hw (resultCodes_subset (fun h => absurd h Bool.false_ne_true) _) _ _ _
  · exact wrote_writeOpd_flagsWhere hm hh hw hwide _ _ _ _ _

/-- SCAN (11 R285). -/
theorem registerFrame_scan : RegisterFrame (.scan f) f.h (sigScan f) (resultCodes f.dst.toNat (f.tw == 3)) true :=
  registerFrame_plainOp (fun s => show exec (.scan f) s = execScan f s from rfl) fun _ _ _ _ hm hh hw =>
    wrote_writeOpd_flagsWhere hm hh hw (resultCodes_wide redTy_wide _) _ _ _ _ _

/-- FLAGCLR (11 R287). -/
theorem registerFrame_flagclr : RegisterFrame (.flagclr f) f.h (sigFlagclr f) [] true :=
  registerFrame_plainOp (fun s => show exec (.flagclr f) s = execFlagclr f s from rfl) fun _ _ _ _ hm hh _ => wrote_clearFlags hm hh _ _

end

/-! ### The statement -/

/-- An immediate form names no second destination. -/
theorem not_isP_asR_dst2 (f : FmtI) : ¬ isP (asR f).dst2.toNat = true := by simp [asR, isP]

/-- Settles O54: each family of instructions writes its destinations alone, and going on changes no other leaf. -/
theorem registerFrames : Obligations.RegisterFrames := by
  intro i h g ws fl hg hs
  show RegisterFrame i h g ws fl
  cases i <;> cases hs <;> cases hg
  case iadd f | iadd3 f | isub f | imul f | imulh f | imad f | imin f | imax f | iabs f =>
    exact registerFrame_intOp fun _ => by dsimp only [exec]; rfl
  case iaddImm f | isubImm f | imulImm f | imulhImm f | iminImm f | imaxImm f =>
    exact registerFrame_intOp (f := asR f) fun _ => by dsimp only [exec]; rfl
  case andB f | orB f | xorB f | notB f | brev f => exact registerFrame_logicOp fun _ => by dsimp only [exec]; rfl
  case andImm f | orImm f | xorImm f => exact registerFrame_logicOp (f := asR f) fun _ => by dsimp only [exec]; rfl
  case shl f | shr f | sar f | rot f => exact registerFrame_shiftOp fun _ => by dsimp only [exec]; rfl
  case shlImm f | shrImm f | sarImm f | rotImm f =>
    exact registerFrame_shiftOp (f := asR f) fun _ => by dsimp only [exec]; rfl
  case popc f | clz f => exact registerFrame_countOp fun _ => by dsimp only [exec]; rfl
  case bfe f => exact registerFrame_bfe f
  case bfi f => exact registerFrame_bfi f
  case sel f => exact registerFrame_sel f
  case mov f => exact registerFrame_mov f
  case movi f => exact registerFrame_movi f
  case lea f => exact registerFrame_leaOp fun _ => by dsimp only [exec]; rfl
  case leaImm f => exact registerFrame_leaOp (f := asR f) fun _ => by dsimp only [exec]; rfl
  case icmp f => exact registerFrame_icmpOp (fun _ => by dsimp only [exec]; rfl) (by simp) fun _ => by simp
  case icmpImm f =>
    exact registerFrame_icmpOp (f := asR f) (fun _ => by dsimp only [exec]; rfl) List.mem_cons_self fun h => absurd h (not_isP_asR_dst2 f)
  case pset f => exact registerFrame_pset f
  case plop f => exact registerFrame_plop f
  case pmov f => exact registerFrame_pmov f
  case fadd f | fsub f | fmul f | ffma f | fmin f | fmax f | frnd f =>
    exact registerFrame_floatOp fun _ => by dsimp only [exec]; rfl
  case faddImm f | fsubImm f | fmulImm f | fminImm f | fmaxImm f =>
    exact registerFrame_floatOp (f := asR f) fun _ => by dsimp only [exec]; rfl
  case rcp f | rsq f | sqrt f | exp2 f | log2 f | sin f | cos f =>
    exact registerFrame_sfuOp fun _ => by dsimp only [exec]; rfl
  case fcmp f => exact registerFrame_fcmpOp (fun _ => by dsimp only [exec]; rfl) (by simp) fun _ => by simp
  case fcmpImm f =>
    exact registerFrame_fcmpOp (f := asR f) (fun _ => by dsimp only [exec]; rfl) List.mem_cons_self fun h => absurd h (not_isP_asR_dst2 f)
  case fclass f => exact registerFrame_fclass f
  case shfl f => exact registerFrame_shfl f
  case vote f => exact registerFrame_vote f
  case redux f => exact registerFrame_redux f
  case scan f => exact registerFrame_scan f
  case matchV f => exact registerFrame_match f
  case flagclr f => exact registerFrame_flagclr f

end Sys2Proof.Machine
end

section
/-!
SUPPORT. A step at a leaf whose LEAF-EXHAUSTED is pending (06 R149, 09 R227): it issues nothing.
-/
namespace Sys2Proof.Machine

/-- A leaf in a run, its line fetched, whose LEAF-EXHAUSTED waits. The word at its PC is no instruction. -/
def pendingLeaf : Leaf :=
  { slot := 0, pc := 0, mask := 1, inRun := true, line := some { va := 0, bytes := List.replicate 64 0 }, pend := some {} }

/-- A device that has that leaf, which the agenda names. -/
def pendingState : State := { cores := [(0, { leaves := [(0, pendingLeaf)] })], agenda := [.issue 0 0] }

/-- The issues that core 0 has counted after an outcome. -/
def issuesAfter : Host.Outcome State Fault Refusal → Nat
  | .next t => (coreOf t 0).isCount
  | _ => 0

/-- The word at the leaf's PC decodes to nothing. -/
theorem decode_pendingLeaf : decode (lineSlot (List.replicate 64 0) (pendingLeaf.pc.toNat % 64 / 12)) = .error .unassignedOpcode := by
  decide

/-- The model's step passes over the leaf. -/
theorem step_pendingState : step pendingState = .next { pendingState with agenda := [] } := rfl

/-- Refutes O56: a leaf in a run whose LEAF-EXHAUSTED is pending does not issue, and the statement has it issue. -/
theorem not_stepRunsDecoded : ¬ Obligations.StepRunsDecoded := by
  rintro ⟨issues, -⟩
  have claimed := (issues pendingState { pendingState with agenda := [] } 0 0 pendingLeaf { va := 0, bytes := List.replicate 64 0 } false rfl
    (.inl ⟨rfl, rfl, ⟨[], rfl, rfl⟩, Nat.zero_le _⟩) rfl rfl rfl rfl).2 _ decode_pendingLeaf
  rw [step_pendingState] at claimed
  exact absurd (congrArg issuesAfter claimed) (by decide)

end Sys2Proof.Machine
end

section
/-!
PROOF. What floating arithmetic and the special functions give for NaN, infinities and zeros without flush-to-zero (07 R162, 11 R270,
R271, R280): the exact result on decoded values, delivered.
-/
namespace Sys2Proof.Machine

/-! ### Without flush-to-zero -/

theorem ftzIn_off {f : Fmt} {c : Nat} (h : c < 2 ^ fmtW f) : ftzIn false f c = c := by
  simp [ftzIn, Nat.mod_eq_of_lt h]

@[simp] theorem opF_off (f : Fmt) (c : Nat) : opF false f c = decodeF f c := by
  simp [opF, ftzIn, decodeF]

@[simp] theorem arith_off (m : RMode) (sat : Bool) (f : Fmt) (e : Ex) : arith false m sat f e = deliver f m sat e := by
  simp [arith, ftzOut]

theorem fAdd_off (m : RMode) (sat : Bool) (f : Fmt) (a b c : Nat) :
    fAdd false m sat f a b c = deliver f m sat (addF m (decodeF f a) (decodeF f b)) := by
  simp [fAdd]

theorem fMul_off (m : RMode) (sat : Bool) (f : Fmt) (a b c : Nat) :
    fMul false m sat f a b c = deliver f m sat (mulF (decodeF f a) (decodeF f b)) := by
  simp [fMul]

theorem fFma_off (m : RMode) (sat : Bool) (f : Fmt) (a b c : Nat) :
    fFma false m sat f a b c = deliver f m sat (fmaF m (decodeF f a) (decodeF f b) (decodeF f c)) := by
  simp [fFma]

/-! ### Sums and products of NaN and infinities (11 R270) -/

theorem addF_of_isNaN (m : RMode) {x y : FVal} (h : isNaN x = true ∨ isNaN y = true) : addF m x y = .nan (isSig x || isSig y) := by
  cases x with
  | nan s => rfl
  | inf p | fin p k e =>
    cases y with
    | nan s => simp [addF, isSig]
    | inf q | fin q n e' => simp [isNaN] at h

theorem mulF_of_isNaN {x y : FVal} (h : isNaN x = true ∨ isNaN y = true) : mulF x y = .nan (isSig x || isSig y) := by
  cases x with
  | nan s => rfl
  | inf p | fin p k e =>
    cases y with
    | nan s => simp [mulF, isSig]
    | inf q | fin q n e' => simp [isNaN] at h

/-- Infinities of one sign add to that infinity; of two they are an invalid operation. -/
theorem addF_inf_inf (m : RMode) (p q : Bool) : addF m (.inf p) (.inf q) = if p = q then .inf p else .nan true := rfl

theorem mulF_inf_inf (p q : Bool) : mulF (.inf p) (.inf q) = .inf (p != q) := rfl

/-- Infinity times zero is an invalid operation. -/
theorem mulF_inf_zero (p q : Bool) (e : Int) : mulF (.inf p) (.fin q 0 e) = .nan true := rfl

/-- It is one too where a NaN is added. -/
theorem fmaF_inf_zero (m : RMode) (p q : Bool) (e : Int) (z : FVal) : fmaF m (.inf p) (.fin q 0 e) z = .nan true := rfl

/-! ### FMIN and FMAX (11 R271) -/

/-- A NaN on either side gives way to the other operand. -/
theorem fMinMax_nan (isMax : Bool) (m : RMode) (sat : Bool) {f : Fmt} {a b : Nat} (c : Nat) (ha : a < 2 ^ fmtW f)
    (hb : b < 2 ^ fmtW f) (hx : isNaN (decodeF f a) = true) (hy : isNaN (decodeF f b) = false) :
    (fMinMax isMax false m sat f a b c).code = b ∧ (fMinMax isMax false m sat f b a c).code = b := by
  simp [fMinMax, ftzIn_off ha, ftzIn_off hb, hx, hy]

/-! ### Special functions (11 R280) -/

/-- Where R280 fixes the result, a special function gives it. -/
theorem sfOp_of_special {n : Nat} {m : RMode} {sat : Bool} {f : Fmt} {c b d : Nat} {o : Out} (hc : c < 2 ^ fmtW f)
    (h : sfSpecial n f (decodeF f c) = some o) : sfOp n false m sat f c b d = o := by
  simp [sfOp, ftzIn_off hc, h]

/-- A NaN gives the canonical NaN, and is invalid where it signals. -/
theorem sfOp_nan {n : Nat} {m : RMode} {sat : Bool} {f : Fmt} {c b d : Nat} (hc : c < 2 ^ fmtW f) (h : isNaN (decodeF f c) = true) :
    sfOp n false m sat f c b d = { code := canonNaN f, flags := if isSig (decodeF f c) then flagNV else 0 } := by
  refine sfOp_of_special hc ?_
  cases hv : decodeF f c with
  | nan s => rfl
  | inf p | fin p k e => simp [hv, isNaN] at h

/-- Settles O11: without flush-to-zero an operation delivers its exact result on the decoded values, and each case of R270, R271 and R280
fixes that result. -/
theorem floatSpecialCases : Obligations.FloatSpecialCases := by
  unfold Obligations.FloatSpecialCases
  refine ⟨fun f m sat a b c _ ha hb _ => ⟨fun h => ?nanOperand, fun p q hp hq => ?infinities, fun p q e hp hq => ?infinityTimesZero,
    fun hx hy => ?minMax⟩, fun f m c hc => ⟨fun n _ h => ?specialNan, fun neg h => ?specialInfinity, fun neg e h => ?specialZero⟩⟩
  case nanOperand =>
    rw [fAdd_off, fMul_off, addF_of_isNaN m h, mulF_of_isNaN h]
    exact ⟨rfl, rfl, rfl⟩
  case infinities =>
    rw [fAdd_off, fMul_off, hp, hq, addF_inf_inf, mulF_inf_inf]
    by_cases hpq : p = q <;> simp [hpq, deliver]
  case infinityTimesZero =>
    rw [fMul_off, fFma_off, hp, hq, mulF_inf_zero, fmaF_inf_zero]
    exact ⟨rfl, rfl, rfl, rfl⟩
  case minMax =>
    have hmin := fMinMax_nan false m sat c ha hb hx hy
    have hmax := fMinMax_nan true m sat c ha hb hx hy
    exact ⟨hmin.1, hmax.1, hmin.2, hmax.2⟩
  case specialNan =>
    rw [sfOp_nan hc h]
    exact ⟨rfl, rfl⟩
  case specialInfinity =>
    have fixed {n : Nat} {o : Out} (ho : sfSpecial n f (.inf neg) = some o) : sfOp n false m false f c 0 0 = o :=
      sfOp_of_special hc (h ▸ ho)
    refine ⟨?_, ?_, fun n hn => ?_, fun n hn hneg => ?_⟩
    · rw [fixed rfl]
    · rw [fixed rfl]
      cases neg <;> rfl
    · obtain rfl | rfl := hn <;> rw [fixed rfl] <;> exact ⟨rfl, rfl⟩
    · subst hneg
      obtain rfl | rfl | rfl := hn <;> rw [fixed rfl] <;> exact ⟨rfl, rfl⟩
  case specialZero =>
    have fixed {n : Nat} {o : Out} (ho : sfSpecial n f (.fin neg 0 e) = some o) : sfOp n false m false f c 0 0 = o :=
      sfOp_of_special hc (h ▸ ho)
    refine ⟨fun n hn => ?_, by rw [fixed rfl], by rw [fixed rfl], by rw [fixed rfl], by rw [fixed rfl]⟩
    obtain rfl | rfl : n = 0 ∨ n = 1 := by omega
    · rw [fixed rfl]
      exact ⟨rfl, rfl⟩
    · rw [fixed rfl]
      exact ⟨rfl, rfl⟩

end Sys2Proof.Machine
end

section
/-!
SUPPORT. Events that a pass counts (07 R177, R179, R184), and the event record that a counter at its threshold brings to a function's ring
in host memory (07 R186, 19 R449).
-/
namespace Sys2Proof.Machine

theorem ownerFn_congr {s t : State} (h : t.regs = s.regs) (kind n : Nat) : ownerFn t kind n = ownerFn s kind n := by
  simp only [ownerFn, vfHolds, rawReg_congr h]

/-- The first byte of a record is its kind (19 R449). -/
theorem recordBytes_getD_zero (s : State) (r : EventRec) (seq : Nat) : (recordBytes s r seq).getD 0 0 = BitVec.ofNat 8 r.kind := by
  have hmod : (r.kind + r.fn * 2 ^ 8 + seq * 2 ^ 32) % 2 ^ 8 = r.kind % 2 ^ 8 := by omega
  refine BitVec.eq_of_toNat_eq ?_
  simpa [recordBytes, toBytes] using hmod

theorem memByte_storeMem_first (s : State) (a : Nat) {bs : List Byte} (h : bs ≠ []) : memByte (storeMem s a bs) a = bs.getD 0 0 := by
  have hfirst := memByte_putBytes s a a bs
  rwa [if_pos ⟨Nat.le_refl _, Nat.lt_add_of_pos_right (List.length_pos_iff.2 h)⟩, Nat.sub_self] at hfirst

/-- A record for an enabled ring with room stands at the ring's head. -/
theorem memByte_postRecord {s : State} {r : EventRec} {base ctl : DWord} (hbase : rawReg s (.part r.fn 5) = base)
    (hctl : rawReg s (.part r.fn 6) = ctl) (hon : bitN ctl.toNat 63 = true)
    (hroom : (fld ctl 47 35 + 2 ^ 13 - fld ctl 34 22) % 2 ^ 13 ≠ 2 ^ (fld ctl 51 48 + 6)) :
    memByte (postRecord s r) (hostPa (base.toNat + 64 * (fld ctl 47 35 % 2 ^ (fld ctl 51 48 + 6)))) = BitVec.ofNat 8 r.kind := by
  have hmem : (postRecord s r).memory = (storeMem s (hostPa (base.toNat + 64 * (fld ctl 47 35 % 2 ^ (fld ctl 51 48 + 6))))
      (recordBytes s r (tget {} s.fns r.fn).seq)).memory := by
    simp only [postRecord, hbase, hctl, hon, Bool.not_true, Bool.false_eq_true, if_false, if_neg hroom, signalVec_memory, memory_update,
      setReg_memory]
  rw [memByte_of_memory hmem, memByte_storeMem_first _ _ (by simp [recordBytes, toBytes])]
  exact recordBytes_getD_zero ..

/-- A counter that has reached its threshold, and whose PEND bit is clear, brings a record to the ring of the function that owns the
context (07 R186). -/
theorem memByte_checkThreshold {s : State} {b i ctx : Nat} {base ctl : DWord} (launch : Nat)
    (hreached : fld (rawReg s (.ctr b i)) 63 32 ≠ 0 ∧ fld (rawReg s (.ctr b i)) 63 32 ≤ fld (rawReg s (.ctr b i)) 31 0 ∧
      (!bitN (rawReg s (.cxpend b)).toNat i) = true)
    (hbase : rawReg s (.part (ctxFn s ctx) 5) = base) (hctl : rawReg s (.part (ctxFn s ctx) 6) = ctl) (hon : bitN ctl.toNat 63 = true)
    (hroom : (fld ctl 47 35 + 2 ^ 13 - fld ctl 34 22) % 2 ^ 13 ≠ 2 ^ (fld ctl 51 48 + 6)) :
    memByte (checkThreshold s b i ctx launch) (hostPa (base.toNat + 64 * (fld ctl 47 35 % 2 ^ (fld ctl 51 48 + 6)))) = 1 := by
  have hfn : ctxFn s ctx < 64 := ownerFn_lt s 3 ctx
  have hpart (k : Nat) (hk : k < 8) (v : DWord) :
      rawReg (setReg s (.cxpend b) v) (.part (ctxFn s ctx) k) = rawReg s (.part (ctxFn s ctx) k) :=
    rawReg_setReg_ne s v (by simp only [regOff]; omega)
  rw [checkThreshold, if_pos hreached]
  exact memByte_postRecord ((hpart 5 (by decide) _).trans hbase) ((hpart 6 (by decide) _).trans hctl) hon hroom

theorem countEvents_singleton (s : State) (ctx launch : Nat) (e : Event) :
    countEvents s ctx launch [e] = countOne ctx launch s (counterIndex e) := by
  rw [countEvents, List.foldl_cons, List.foldl_nil]

/-- What counting an event reads of a state: the registers, and the launch that it is counted for. -/
def counting (s : State) : Tab DWord × List Launch := (s.regs, s.launches)

theorem counting_endQuarter (s : State) (c : Nat) (q : QOp) (st : Nat) : counting (endQuarter s c q st) = counting s := by
  unfold endQuarter
  dsimp only
  split <;> rfl

/-- A quarter operation that computes its tile hands its events on, and counts none itself. -/
theorem finishQuarter_of_ok {s : State} {c : Nat} {q : QOp} {codes : List Nat} {st : Nat} {es : List Event}
    (h : quarterOut s c q (taskPlace s q.ctx q.launch q.task).1 (taskPlace s q.ctx q.launch q.task).2 = .ok (codes, st, es)) :
    (finishQuarter s c q).2 = es ∧ counting (finishQuarter s c q).1 = counting s := by
  unfold finishQuarter
  simp only [h]
  refine ⟨trivial, (counting_endQuarter ..).trans ?_⟩
  split <;> split <;> rfl

/-- A pass of one operation, which has made its steps and waits for nothing, counts what the operation has met (07 R177, R184). -/
theorem passComplete_counts {s : State} {c : Nat} {p : Pass} {q : QOp} {codes : List Nat} {st : Nat} {es : List Event}
    (hpass : (coreOf s c).pass = some p) (hfrozen : (coreOf s c).frozen = []) (hqueue : (coreOf s c).queue = [q]) (hops : p.ops = [q.id])
    (hsteps : p.since + (passSteps q.imgB - p.step) ≤ (coreOf s c).cycles) (hquiet : quarterQuiet s c q = true)
    (hanswered : opWaits s q.id = false)
    (hout : quarterOut (setCore s c { coreOf s c with pass := none }) c q (taskPlace s q.ctx q.launch q.task).1
      (taskPlace s q.ctx q.launch q.task).2 = .ok (codes, st, es)) :
    ∃ u, exec (.passComplete c) s = .next (noteEmpty (countEvents u q.ctx q.launch es.eraseDups) c) ∧ counting u = counting s := by
  obtain ⟨hes, hu⟩ := finishQuarter_of_ok hout
  have hrun : exec (.passComplete c) s = execPassComplete c s := rfl
  refine ⟨_, ?_, hu⟩
  rw [← hes]
  simp [hrun, execPassComplete, hpass, hfrozen, hqueue, hops, hquiet, hanswered, Nat.not_lt.2 hsteps]

theorem isNaN_prodF_right {v : FVal} (w : FVal) (h : isNaN v = true) : isNaN (prodF w v) = true := by
  cases v with
  | nan g => cases w <;> rfl
  | inf p | fin p k e => simp [isNaN] at h

theorem isNaN_prodF_left {v : FVal} (w : FVal) (h : isNaN v = true) : isNaN (prodF v w) = true := by
  cases v with
  | nan g => cases w <;> rfl
  | inf p | fin p k e => simp [isNaN] at h

/-- A NaN scale makes each sum a NaN, which is counted where it is read and nowhere else (07 R179, R184). -/
theorem passOut_events_of_nan {τ : FVal} (h : isNaN τ = true) (blocks : List BlockSum) (d : Nat) : (passOut blocks τ true d).2 = [] := by
  unfold passOut
  generalize blocks.foldl (fun t b => addX t (prodF b.2.2 b.2.1)) (.fin false 0 0) = t
  have hprod := isNaN_prodF_right t h
  cases hp : prodF t τ with
  | inf p | fin p k e => simp [hp, isNaN] at hprod
  | nan g =>
    have hcanon : decodeF .f32 (canonNaN .f32) = .nan false := by decide
    have hsum : addF .rne (decodeF .f32 d) (.nan false) = .nan (isSig (decodeF .f32 d)) := by
      cases decodeF .f32 d <;> simp [addF, isSig]
    simp [hp, plusZero, isZeroF, exOf, deliver, hcanon, hsum, isNaN]

theorem operandScale_unscaled (s : State) (g : Eng) {d : Img} (pos row : Nat) (h : tBlk d = 0) :
    operandScale s g d pos row = .ok (none, .fin false 1 0, []) := by
  simp [operandScale, h]

/-- A quarter operation on integers without block scales, whose A has a NaN tensor scale, has the events of the tensor scales alone. -/
theorem quarterOut_events_of_nanScale {s : State} {c : Nat} {q : QOp} {scr tile : Nat} {codes : List Nat} {st : Nat} {es : List Event}
    (h : quarterOut s c q scr tile = .ok (codes, st, es)) (hτ : isNaN (tauOf q.imgA) = true) (ha : tBlk q.imgA = 0) (hb : tBlk q.imgB = 0)
    (hfa : eltFloat (tFmt q.imgA) = none) (hfb : eltFloat (tFmt q.imgB) = none) :
    es = (tauEvents q.imgA ++ tauEvents q.imgB).eraseDups := by
  unfold quarterOut at h
  simp only [operandScale_unscaled _ _ _ _ ha, operandScale_unscaled _ _ _ _ hb, hfa, hfb, hτ, Bool.true_or] at h
  split at h
  · cases h
  · split at h
    · cases h
    · simp only [Except.ok.injEq, Prod.mk.injEq] at h
      obtain ⟨-, -, rfl⟩ := h
      have hprod := isNaN_prodF_left (tauOf q.imgB) hτ
      refine congrArg List.eraseDups ?_
      rw [List.flatten_eq_nil_iff.2 ?scales, List.flatten_eq_nil_iff.2 ?sums]
      · simp
      case scales =>
        intro l hl
        obtain ⟨e, he, rfl⟩ := List.mem_map.1 hl
        obtain he | he := List.mem_append.1 he
        all_goals
          obtain ⟨row, hrow, he⟩ := List.mem_flatten.1 he
          obtain ⟨raw, hraw, rfl⟩ := List.mem_map.1 hrow
          obtain ⟨_, -, rfl⟩ := List.mem_map.1 hraw
          obtain ⟨v, hv, rfl⟩ := List.mem_map.1 he
          obtain ⟨_, -, rfl⟩ := List.mem_map.1 hv
          rfl
      case sums =>
        intro l hl
        obtain ⟨o, ho, rfl⟩ := List.mem_map.1 hl
        obtain ⟨row, hrow, ho⟩ := List.mem_flatten.1 ho
        obtain ⟨m, -, rfl⟩ := List.mem_map.1 hrow
        obtain ⟨n, -, rfl⟩ := List.mem_map.1 ho
        exact passOut_events_of_nan hprod ..

end Sys2Proof.Machine
end

section
/-!
PROOF. A pass counts the NaN scale of an operand (07 R168, R184), and the record of the counter that so reaches its threshold changes host
memory.
-/
namespace Sys2Proof.Machine

/-- A descriptor of an INT4 matrix of 64 by 32, in planes of 32 bytes a row, whose TSCALE is an FP32 code: FMT 1, RANK 2, PL 1, TSF 1 and a
pitch of 32 bytes (05 R108). -/
def numberTensor (tscale : DWord) : Img :=
  [0, 0x1404100000000200, 0x2000000040, 0, 0x20004000000000] ++ List.replicate 8 0 ++ [tscale] ++ List.replicate 18 0

/-- A quarter operation on two such matrices. The scale of A is a NaN. -/
def nanScaleOp : QOp :=
  { id := 0, ctx := 0, launch := 0, task := 0, sheet := 0, slot := 0, quarter := 0, sparse := false, imgA := numberTensor 0x7FC00000,
    imgB := numberTensor 0, idB := 1, bankA := 2, bankB := 2, xa := 0, xb := 0x200, k0 := 0, m0 := 0, n0 := 0, tile := 0, tag := 0,
    group := 0 }

/-- A core on which the pass of that operation alone has made its steps. -/
def nanScaleCore : Core := { cycles := 4, queue := [nanScaleOp], pass := some { ops := [0], step := 0 } }

/-- A state with that core, in which the counter of FP32 NaNs has the threshold 1 and the event ring of function 0, at the start of host
memory, is enabled. -/
def nanScaleState : State :=
  { cores := [(0, nanScaleCore)],
    regs := [(regOff (.part 0 6), 0x8000000000000000), (regOff (.ctr 0 (4 * fmtIdx .f32)), 0x100000000)] }

/-- What the operation computes as the pass ends. -/
def nanScaleOut : Except Nat (List Nat × Nat × List Event) :=
  quarterOut (setCore nanScaleState 0 { coreOf nanScaleState 0 with pass := none }) 0 nanScaleOp
    (taskPlace nanScaleState nanScaleOp.ctx nanScaleOp.launch nanScaleOp.task).1
    (taskPlace nanScaleState nanScaleOp.ctx nanScaleOp.launch nanScaleOp.task).2

/-- It computes a whole tile, and counts the NaN scale. -/
theorem nanScaleOut_ok : ∃ codes st, nanScaleOut = .ok (codes, st, [(3, 0)]) ∧ codes.length = 512 := by
  have hlength : nanScaleOut.toOption.map (·.1.length) = some 512 := by decide +kernel
  cases hout : nanScaleOut with
  | error e => simp [hout, Except.toOption] at hlength
  | ok r =>
    obtain ⟨codes, st, es⟩ := r
    have hevents := quarterOut_events_of_nanScale hout (by decide) (by decide) (by decide) (by decide) (by decide)
    obtain rfl : es = [(3, 0)] := hevents.trans (by decide)
    exact ⟨codes, st, rfl, by simpa [hout, Except.toOption] using hlength⟩

/-- The state once the NaN is counted, but for what its threshold brings. -/
def nanCounted : State := setReg nanScaleState (.ctr 0 12) 0x100000001

/-- Counting the NaN reaches the threshold, and the record's first byte is its kind. -/
theorem countOne_rings {u : State} (h : counting u = counting nanScaleState) : memByte (countOne 0 0 u 12) (hostPa 0) = 1 := by
  obtain ⟨hregs, hlaunches⟩ := Prod.mk.inj h
  have hbank : bankOf u 0 0 = 0 := by simp [bankOf, launchOf, hlaunches, nanScaleState]
  have hcount : BitVec.ofNat 64 (putSlice (rawReg nanScaleState (.ctr 0 12)).toNat 31 0
      (satTo 32 (fld (rawReg nanScaleState (.ctr 0 12)) 31 0 + 1))) = 0x100000001 := by decide +kernel
  have hregs' : (setReg u (.ctr 0 12) 0x100000001).regs = nanCounted.regs := by simp only [nanCounted, setReg, hregs]
  simp only [countOne, hbank, rawReg_congr hregs, hcount]
  have hfn : ctxFn (setReg u (.ctr 0 12) 0x100000001) 0 = 0 := (ownerFn_congr hregs' 3 0).trans (by decide +kernel)
  refine memByte_checkThreshold (base := 0) (ctl := 0x8000000000000000) 0 ?_ ?_ ?_ (by decide +kernel) (by decide +kernel)
  · simp only [rawReg_congr hregs']
    decide +kernel
  · rw [hfn, rawReg_congr hregs']
    decide +kernel
  · rw [hfn, rawReg_congr hregs']
    decide +kernel

/-- Nothing keeps the pass from ending: its steps are made, and it waits for no line and no peer. -/
theorem nanScalePass_unhindered :
    (coreOf nanScaleState 0).frozen = [] ∧ 0 + (passSteps nanScaleOp.imgB - 0) ≤ (coreOf nanScaleState 0).cycles ∧
      quarterQuiet nanScaleState 0 nanScaleOp = true ∧ opWaits nanScaleState nanScaleOp.id = false := by
  decide +kernel

/-- Refutes O44: a pass whose operand has a NaN tensor scale counts it, and where the counter reaches its threshold the event record
changes host memory, which the statement says the pass leaves as it was. -/
theorem not_arrayEvents : ¬ Obligations.ArrayEvents := by
  intro h
  obtain ⟨-, -, completes, -⟩ := h nanScaleState 0
  obtain ⟨codes, st, hout, hlength⟩ := nanScaleOut_ok
  obtain ⟨hfrozen, hsteps, hquiet, hanswered⟩ := nanScalePass_unhindered
  obtain ⟨t, ht, hmem, -⟩ := completes { ops := [0], step := 0 } nanScaleOp codes st [(3, 0)] rfl hfrozen rfl rfl hsteps hquiet hanswered
    rfl hout hlength
  obtain ⟨u, hu, hcounting⟩ := passComplete_counts (p := { ops := [0], step := 0 }) rfl hfrozen rfl rfl hsteps hquiet hanswered hout
  rw [hu, Host.Outcome.next.injEq] at ht
  have hdups : ([(3, 0)] : List Event).eraseDups = [(3, 0)] := by decide
  have hrecord : memByte t (hostPa 0) = 1 := by
    rw [← ht, memByte_of_memory (noteEmpty_memory ..), hdups, countEvents_singleton]
    exact countOne_rings hcounting
  rw [memByte, hmem] at hrecord
  exact absurd hrecord (by decide)

end Sys2Proof.Machine
end

section
/-!
SUPPORT. What a record can do to a state (19 R449), said once: nothing, count a lost record, or write the record to host memory.
-/
namespace Sys2Proof.Machine

/-- A function's own state replaced. -/
def putFn (s : State) (k : Nat) (f : Fn) : State := { s with fns := tput s.fns k f }

theorem putFn_ne (s : State) {k j : Nat} (f : Fn) (h : j ≠ k) : tget {} (putFn s k f).fns j = tget {} s.fns j := tget_tput_ne _ _ _ _ _ h

@[simp] theorem putFn_regs (s : State) (k : Nat) (f : Fn) : (putFn s k f).regs = s.regs := rfl
@[simp] theorem putFn_memory (s : State) (k : Nat) (f : Fn) : (putFn s k f).memory = s.memory := memory_of_eq rfl

/-- The state that a record leaves which its ring has room for. -/
def recorded (s : State) (r : EventRec) (a : Nat) (bs : List Byte) (v : DWord) (f : Fn) : State :=
  putFn (setReg (storeMem s (hostPa a) bs) (.part r.fn 6) v) r.fn f

theorem postRecord_cases (s : State) (r : EventRec) :
    postRecord s r = s ∨ (∃ v, postRecord s r = setReg s (.part r.fn 6) v) ∨
      ∃ a bs v f vec, postRecord s r = signalVec (recorded s r a bs v f) r.fn vec := by
  unfold postRecord
  dsimp only
  split
  · exact .inl rfl
  · split
    · exact .inr (.inl ⟨_, rfl⟩)
    · exact .inr (.inr ⟨_, _, _, _, _, rfl⟩)

/-- A record to a function whose ring is off changes nothing (19 R449). -/
theorem postRecord_off {s : State} {r : EventRec} (h : bitN (rawReg s (.part r.fn 6)).toNat 63 = false) : postRecord s r = s := by
  simp [postRecord, h]

end Sys2Proof.Machine
end

section
/-!
SUPPORT. Which contexts a state has. Kills and ended gatherings change no context but its levels, and make none (15 R381, 17 R430).
-/
namespace Sys2Proof.Machine

/-- The contexts that exist (14 R366). (A function of its own, so that `simp` compares states and does not compute with them.) -/
def State.contexts (s : State) : Nat → Bool := fun c => (ctxOf s c).isSome

theorem contexts_of_eq {s t : State} (h : t.ctxs = s.ctxs) : t.contexts = s.contexts := by
  funext c
  simp only [State.contexts, ctxOf, h]

theorem contexts_of_some {s : State} {c : Nat} {x : Ctx} (h : ctxOf s c = some x) : s.contexts c = true := by
  rw [State.contexts, h, Option.isSome_some]

theorem contexts_eq_false {s : State} {c : Nat} : s.contexts c = false ↔ ctxOf s c = none := by
  rw [State.contexts, Option.isSome_eq_false_iff, Option.isNone_iff_eq_none]

@[simp] theorem contexts_ite (p : Prop) [Decidable p] (a b : State) :
    (if p then a else b).contexts = if p then a.contexts else b.contexts := apply_ite State.contexts p a b

/-- A fold whose step keeps the contexts keeps them. -/
@[simp] theorem contexts_foldl {β : Type} {f : State → β → State} (l : List β) (s : State)
    (h : ∀ s b, (f s b).contexts = s.contexts) : (l.foldl f s).contexts = s.contexts := by
  induction l generalizing s with
  | nil => rfl
  | cons b l ih => exact (ih _).trans (h s b)

/-! ### Updates of other fields -/

@[simp] theorem contexts_emit (s : State) (m : EmsenOut) : (emit s m).contexts = s.contexts := contexts_of_eq rfl
@[simp] theorem contexts_postWork (s : State) (i : Instr) : (postWork s i).contexts = s.contexts := contexts_of_eq rfl
@[simp] theorem contexts_setCore (s : State) (c : Nat) (k : Core) : (setCore s c k).contexts = s.contexts := contexts_of_eq rfl
@[simp] theorem contexts_setSheet (s : State) (c i : Nat) (h : Sheet) : (setSheet s c i h).contexts = s.contexts := contexts_of_eq rfl
@[simp] theorem contexts_setTag (s : State) (c n : Nat) (t : Tag) : (setTag s c n t).contexts = s.contexts := contexts_of_eq rfl
@[simp] theorem contexts_setCluster (s : State) (c : Nat) (k : Cluster) : (setCluster s c k).contexts = s.contexts := contexts_of_eq rfl
@[simp] theorem contexts_setReg (s : State) (r : CReg) (v : DWord) : (setReg s r v).contexts = s.contexts := contexts_of_eq rfl
@[simp] theorem contexts_modLaunch (s : State) (ctx i : Nat) (f : Launch → Launch) :
    (modLaunch s ctx i f).contexts = s.contexts := contexts_of_eq rfl
@[simp] theorem contexts_makeEligible (s : State) : (makeEligible s).contexts = s.contexts := contexts_of_eq rfl
@[simp] theorem contexts_setG (s : State) (i : Nat) (g : GEntry) : (setG s i g).contexts = s.contexts := contexts_of_eq rfl
@[simp] theorem contexts_mapSlots (s : State) (w : Word) (f : Member → Member) : (mapSlots s w f).contexts = s.contexts :=
  contexts_of_eq rfl
@[simp] theorem contexts_endTags (s : State) (w : Word) (ph st : Nat) (v : Word) : (endTags s w ph st v).contexts = s.contexts :=
  contexts_of_eq rfl
@[simp] theorem contexts_dropReqs (s : State) (op : Nat) : (dropReqs s op).contexts = s.contexts := contexts_of_eq rfl
@[simp] theorem contexts_dropAsync (s : State) (id : Nat) : (dropAsync s id).contexts = s.contexts := contexts_of_eq rfl
@[simp] theorem contexts_setRing (s : State) (k r : Nat) (g : Ring) : (setRing s k r g).contexts = s.contexts := contexts_of_eq rfl
@[simp] theorem contexts_completeTag (s : State) (c n status : Nat) (va : DWord) :
    (completeTag s c n status va).contexts = s.contexts := contexts_of_eq rfl
@[simp] theorem contexts_dropHeld (s : State) (c line : Nat) : (dropHeld s c line).contexts = s.contexts := contexts_of_eq rfl
@[simp] theorem contexts_dropStitches (s : State) (line : Nat) : (dropStitches s line).contexts = s.contexts := contexts_of_eq rfl
@[simp] theorem contexts_noteHit (s : State) (w : Nat × Window) (lo hi : Nat) : (noteHit s w lo hi).contexts = s.contexts :=
  contexts_of_eq rfl
@[simp] theorem contexts_sendWrites (s : State) (op : Nat) (runs : List (Nat × Nat × List Byte)) :
    (sendWrites s op runs).contexts = s.contexts :=
  contexts_foldl _ _ fun _ _ => contexts_foldl _ _ fun _ _ => contexts_of_eq rfl
@[simp] theorem contexts_storeMem (s : State) (a : Nat) (bs : List Byte) : (storeMem s a bs).contexts = s.contexts := by
  rw [storeMem_rest]
  exact contexts_of_eq rfl
@[simp] theorem contexts_writeHome (s : State) (line : Nat) (bs : List Byte) (pz : BitVec 16) :
    (writeHome s line bs pz).contexts = s.contexts := by
  rw [writeHome, putBytes_rest]
  exact contexts_of_eq rfl
@[simp] theorem contexts_coherentWrite (s : State) (a : Nat) (bs : List Byte) : (coherentWrite s a bs).contexts = s.contexts := by
  simp [coherentWrite, collapse]
@[simp] theorem contexts_discard (s : State) (line : Nat) : (discard s line).contexts = s.contexts := by simp [discard]
@[simp] theorem contexts_setFlag (s : State) (region : Nat) (v : Bool) : (setFlag s region v).contexts = s.contexts := by
  unfold setFlag
  dsimp only
  split
  · rfl
  · exact contexts_of_eq rfl
@[simp] theorem contexts_putFn (s : State) (k : Nat) (f : Fn) : (putFn s k f).contexts = s.contexts := contexts_of_eq rfl
@[simp] theorem contexts_signalVec (s : State) (fn vec : Nat) : (signalVec s fn vec).contexts = s.contexts := by
  unfold signalVec
  dsimp only
  split
  · exact contexts_of_eq rfl
  · split <;> exact contexts_of_eq rfl
@[simp] theorem contexts_postRecord (s : State) (r : EventRec) : (postRecord s r).contexts = s.contexts := by
  obtain h | ⟨v, h⟩ | ⟨a, bs, v, f, vec, h⟩ := postRecord_cases s r <;> simp [h, recorded]

/-! ### Gatherings -/

@[simp] theorem contexts_modSheet (s : State) (c slot : Nat) (f : Sheet → Sheet) : (modSheet s c slot f).contexts = s.contexts := by
  unfold modSheet
  split <;> simp
@[simp] theorem contexts_abortHere (s : State) (i status : Nat) : (abortHere s i status).contexts = s.contexts := by simp [abortHere]
@[simp] theorem contexts_abortG (s : State) (i status : Nat) : (abortG s i status).contexts = s.contexts := by simp [abortG]
@[simp] theorem contexts_gatherDestroy (s : State) (ctx : Nat) : (gatherDestroy s ctx).contexts = s.contexts := by
  simp [gatherDestroy]
@[simp] theorem contexts_repause (s : State) (i : Nat) : (repause s i).contexts = s.contexts := by
  unfold repause
  dsimp only
  split <;> simp
@[simp] theorem contexts_settle (s : State) (i : Nat) : (settle s i).contexts = s.contexts := by
  simp [settle, tellHome, tryComplete, finishPhase]
@[simp] theorem contexts_departSlot (s : State) (c slot k : Nat) (m : Mask) (killed : Bool) :
    (departSlot s c slot k m killed).contexts = s.contexts := by
  unfold departSlot
  split
  · rfl
  · dsimp only
    split <;> simp [reportCount]
@[simp] theorem contexts_departAll (s : State) (c slot : Nat) (m : Mask) (killed : Bool) :
    (departAll s c slot m killed).contexts = s.contexts := by simp [departAll]
@[simp] theorem contexts_departAway (s : State) (p : Away → Bool) : (departAway s p).contexts = s.contexts := by simp [departAway]

/-! ### Operations that end early -/

@[simp] theorem contexts_endOp (s : State) (a : Async) (status : Nat) (va : DWord) : (endOp s a status va).contexts = s.contexts := by
  unfold endOp
  dsimp only
  split <;> simp
@[simp] theorem contexts_chipPut (s : State) (c : Nat) (acc : Bool) (o : Nat) (bs : List Byte) :
    (chipPut s c acc o bs).contexts = s.contexts := by simp [chipPut]
@[simp] theorem contexts_putPhys (s : State) (c g : Nat) (m : Mask) (v : Nat → Word) : (putPhys s c g m v).contexts = s.contexts := by
  simp [putPhys]
@[simp] theorem contexts_windowRegs (s : State) (c off : Nat) (words : List Word) (store : Bool) :
    (windowRegs s c off words store).contexts = s.contexts := by
  unfold windowRegs
  extract_lets g l0 put t
  have hput (s : State) (ws : List Word) : (put s ws).contexts = s.contexts := contexts_putPhys ..
  split
  · rfl
  · split
    · exact hput s words
    · exact (hput _ _).trans ((contexts_of_eq rfl).trans ((contexts_foldl _ _ fun _ _ => contexts_noteHit ..).trans (hput s words)))
@[simp] theorem contexts_spoilOp (s : State) (c op : Nat) : (spoilOp s c op).contexts = s.contexts := by
  unfold spoilOp
  dsimp only
  refine (contexts_foldl _ _ fun _ _ => contexts_chipPut ..).trans ((contexts_of_eq rfl).trans ?_)
  split <;> exact contexts_of_eq rfl
@[simp] theorem contexts_chipWrite (s : State) (c : Nat) (acc : Bool) (o : Nat) (bs : List Byte) :
    (chipWrite s c acc o bs).contexts = s.contexts := by
  unfold chipWrite
  split <;> simp
@[simp] theorem contexts_chipStore (s : State) (c : Nat) (acc : Bool) (o : Nat) (bs : List Byte) :
    (chipStore s c acc o bs).contexts = s.contexts := by
  unfold chipStore
  extract_lets t
  have ht : t.contexts = s.contexts := by simp [t, dropDests]
  clear_value t
  split
  · exact ht
  · exact (contexts_foldl _ _ fun _ _ => by simp).trans ((contexts_of_eq rfl).trans ht)
@[simp] theorem contexts_engWindow (s : State) (c o : Nat) (bs : List Byte) : (engWindow s c o bs).contexts = s.contexts := by
  simp [engWindow, windowWrite, putCtlWord]
@[simp] theorem contexts_noteEngineOut (s : State) (a : Async) (rs : List (Nat × Nat)) :
    (noteEngineOut s a rs).contexts = s.contexts := by simp [noteEngineOut]
@[simp] theorem contexts_leavePart (s : State) (a : Async) (c : CopyArgs) : (leavePart s a c).contexts = s.contexts := by
  unfold leavePart
  extract_lets rs u rows t v far w
  have hu : u.contexts = s.contexts := contexts_noteEngineOut ..
  have ht : t.contexts = u.contexts := by
    refine contexts_foldl _ _ fun s r => contexts_foldl _ _ fun s run => ?_
    dsimp only
    split
    · split <;> simp
    · simp
  have hv : v.contexts = t.contexts := by
    refine contexts_foldl _ _ fun s w => contexts_foldl _ _ fun s r => ?_
    split
    · split <;> simp
    · rfl
  have hw : w.contexts = v.contexts := by
    simp only [w]
    split <;> simp
  clear_value w v t u
  split
  · rfl
  · exact (contexts_of_eq rfl).trans (hw.trans (hv.trans (ht.trans hu)))
@[simp] theorem contexts_endEarly (s : State) (a : Async) : (endEarly s a).contexts = s.contexts := by
  unfold endEarly
  split <;> simp
@[simp] theorem contexts_noteEmpty (s : State) (c : Nat) : (noteEmpty s c).contexts = s.contexts := by
  unfold noteEmpty
  dsimp only
  split
  · exact contexts_of_eq rfl
  · rfl
@[simp] theorem contexts_endQuarter (s : State) (c : Nat) (q : QOp) (status : Nat) :
    (endQuarter s c q status).contexts = s.contexts := by simp [endQuarter]
@[simp] theorem contexts_endRound (s : State) (k : Nat) (r : Round) (status : Nat) :
    (endRound s k r status).contexts = s.contexts := by simp [endRound, endPart]
@[simp] theorem contexts_endOps (s : State) (p : Nat → Nat → Nat → Bool) (all : Bool) : (endOps s p all).contexts = s.contexts := by
  unfold endOps
  extract_lets u mine v
  have hu : u.contexts = s.contexts := by
    simp only [u]
    split
    · simp
    · exact contexts_of_eq rfl
  have hv : v.contexts = u.contexts := by simp [v]
  clear_value v
  simp [hv, hu]

/-! ### Kills -/

@[simp] theorem contexts_freeRings (s : State) (p : Nat → Nat → Nat → Bool) : (freeRings s p).contexts = s.contexts := by
  unfold freeRings
  dsimp only
  split
  · exact contexts_of_eq rfl
  · rfl
@[simp] theorem contexts_spoilTiles (s : State) (l : Launch) (t : Task) : (spoilTiles s l t).contexts = s.contexts := by
  unfold spoilTiles
  split
  · rfl
  · exact (contexts_foldl _ _ fun _ _ => contexts_chipPut ..).trans (contexts_of_eq rfl)
@[simp] theorem contexts_wakeStalled (s : State) (c : Nat) : (wakeStalled s c).contexts = s.contexts := by
  refine contexts_foldl _ _ fun s p => ?_
  split <;> simp
@[simp] theorem contexts_dropSheet (s : State) (c slot : Nat) : (dropSheet s c slot).contexts = s.contexts := by
  unfold dropSheet
  dsimp only
  split
  · rfl
  · exact (contexts_wakeStalled ..).trans (contexts_of_eq rfl)
@[simp] theorem contexts_killWork (s : State) (ctx launch : Nat) : (killWork s ctx launch).contexts = s.contexts := by
  unfold killWork
  extract_lets p hs departed away ended freed spoiled dropped
  have h1 : freed.contexts = s.contexts := by simp [freed, ended, away, departed]
  have h2 : spoiled.contexts = freed.contexts := contexts_foldl _ _ fun _ _ => contexts_foldl _ _ fun _ _ => contexts_spoilTiles ..
  have h3 : dropped.contexts = spoiled.contexts := contexts_foldl _ _ fun _ _ => contexts_dropSheet ..
  exact (contexts_modLaunch ..).trans (h3.trans (h2.trans h1))

/-- A change of a context's levels makes no context (14 R366). -/
@[simp] theorem contexts_modCtx (s : State) (ctx : Nat) (f : Ctx → Ctx) : (modCtx s ctx f).contexts = s.contexts := by
  unfold modCtx
  split
  · rename_i x hx
    funext c
    by_cases h : c = ctx
    · subst h
      rw [contexts_of_some hx]
      exact contexts_of_some (tfind_tput_same s.ctxs c (f x))
    · simp only [State.contexts, ctxOf, tfind_tput_ne _ _ _ _ h]
  · rfl
@[simp] theorem contexts_modLevel (s : State) (ctx cid : Nat) (f : Level → Level) : (modLevel s ctx cid f).contexts = s.contexts :=
  contexts_modCtx ..
@[simp] theorem contexts_endLevel (s : State) (ctx cid : Nat) (c : Bool) : (endLevel s ctx cid c).contexts = s.contexts :=
  contexts_modCtx ..
@[simp] theorem contexts_graphDone (s : State) (ctx g : Nat) (c : Bool) : (graphDone s ctx g c).contexts = s.contexts := by
  simp [graphDone]
@[simp] theorem contexts_dropLaunch (s : State) (l : Launch) (ok : Bool) : (dropLaunch s l ok).contexts = s.contexts := by
  unfold dropLaunch
  extract_lets u r q v g up w lv left
  have hu : u.contexts = s.contexts := contexts_of_eq rfl
  have hv : v.contexts = u.contexts := by
    simp only [v]
    split <;> simp
  have hw : w.contexts = v.contexts := by simp [w]
  clear_value w v u
  simp [hw, hv, hu]
@[simp] theorem contexts_cancelLaunch (s : State) (l : Launch) : (cancelLaunch s l).contexts = s.contexts := by simp [cancelLaunch]
@[simp] theorem contexts_cascade (s : State) (n : Nat) : (cascade s n).contexts = s.contexts := by
  induction n generalizing s with
  | zero => rfl
  | succ n ih =>
    unfold cascade
    split
    · simp [ih]
    · rfl
@[simp] theorem contexts_cancelJob (s : State) (ctx : Nat) : (cancelJob s ctx).contexts = s.contexts := by simp [cancelJob]

/-- A kill of every launch of a function leaves the contexts as they are. -/
@[simp] theorem contexts_killFunction (s : State) (fn : Nat) : (killFunction s fn).contexts = s.contexts := by
  simp [killFunction, killRecord, settleStore]

end Sys2Proof.Machine
end

section
/-!
SUPPORT. A context that is destroyed (15 R381): its entry of the table and its gatherings go, and no other.
-/
namespace Sys2Proof.Machine

/-- A table from which entries have gone by their keys. -/
theorem tfind_filter_key {α : Type} (t : Tab α) (p : Nat → Bool) (k : Nat) :
    tfind (t.filter fun e => p e.1) k = if p k then tfind t k else none := by
  induction t with
  | nil => simp [tfind]
  | cons e t ih =>
    obtain ⟨i, v⟩ := e
    by_cases hk : i = k
    · subst hk
      cases hp : p i <;> simp [hp, tfind, ih]
    · cases hp : p i <;> simp [hp, tfind, hk, ih]

theorem mem_keys_iff {α : Type} (t : Tab α) (k : Nat) : k ∈ t.map (·.1) ↔ (tfind t k).isSome = true := by
  induction t with
  | nil => simp [tfind]
  | cons e t ih =>
    obtain ⟨i, v⟩ := e
    by_cases hk : i = k
    · simp [tfind, hk]
    · simp only [List.map_cons, List.mem_cons, ih, tfind, if_neg hk, Ne.symm hk, false_or]

theorem contexts_destroyCtx (s : State) (ctx c : Nat) : (destroyCtx s ctx).contexts c = (decide (c ≠ ctx) && s.contexts c) := by
  have hfind : ctxOf (destroyCtx s ctx) c = if decide (c ≠ ctx) then ctxOf (gatherDestroy s ctx) c else none :=
    tfind_filter_key (gatherDestroy s ctx).ctxs (fun k => decide (k ≠ ctx)) c
  rw [State.contexts, hfind, ← contexts_gatherDestroy s ctx, State.contexts]
  cases decide (c ≠ ctx) <;> rfl

theorem contexts_destroyCtxs (cs : List Nat) (s : State) (c : Nat) :
    (cs.foldl destroyCtx s).contexts c = (decide (c ∉ cs) && s.contexts c) := by
  induction cs generalizing s with
  | nil => simp
  | cons k cs ih =>
    rw [List.foldl_cons, ih, contexts_destroyCtx]
    simp only [List.mem_cons, not_or, Bool.decide_and, Bool.and_left_comm, Bool.and_assoc]

/-! ### Its gatherings -/

@[simp] theorem gEntry_setG_same (s : State) (i : Nat) (g : GEntry) : gEntry (setG s i g) i = g := tget_tput_same ..

theorem gEntry_setG_ne (s : State) {i j : Nat} (g : GEntry) (h : j ≠ i) : gEntry (setG s i g) j = gEntry s j := tget_tput_ne _ _ _ _ _ h

theorem gEntry_congr {s t : State} (h : t.gather = s.gather) (i : Nat) : gEntry t i = gEntry s i := by rw [gEntry, gEntry, h]

theorem gEntry_abortHere_ne (s : State) {i j : Nat} (status : Nat) (h : j ≠ i) : gEntry (abortHere s i status) j = gEntry s j :=
  (gEntry_congr rfl j).trans (gEntry_setG_ne _ _ h)

theorem gather_emits {β : Type} (m : State → β → EmsenOut) (l : List β) (s : State) :
    (l.foldl (fun s b => emit s (m s b)) s).gather = s.gather := by
  induction l generalizing s with
  | nil => rfl
  | cons b l ih => exact ih _

theorem gEntry_abortG_ne (s : State) {i j : Nat} (status : Nat) (h : j ≠ i) : gEntry (abortG s i status) j = gEntry s j := by
  unfold abortG
  dsimp only
  split
  · rfl
  · split
    · exact gEntry_congr rfl j
    · exact (gEntry_congr (gather_emits _ _ _) j).trans (gEntry_abortHere_ne s status h)

/-- What the end of a context does to one entry of the gathering table (15 R381). -/
def freeGathering (ctx : Nat) (s : State) (i : Nat) : State :=
  let g := gEntry s i
  if g.role = 0 ∨ g.ctx ≠ ctx then s
  else
    let s := if g.role = 3 then emit (abortHere s i gsSoftware) (.gone g.homedev g.homeHandle (gatherDeadline s g))
      else if g.shadows.any (fun x => x.lanes != 0) then abortG s i gsSoftware
      else s
    setG s i { gen := nextGen (gEntry s i).gen }

theorem gatherDestroy_eq (s : State) (ctx : Nat) : gatherDestroy s ctx = (s.gather.map (·.1)).foldl (freeGathering ctx) s := rfl

theorem gEntry_freeGathering_ne (ctx : Nat) (s : State) {i j : Nat} (h : j ≠ i) : gEntry (freeGathering ctx s i) j = gEntry s j := by
  unfold freeGathering
  dsimp only
  split
  · rfl
  · rw [gEntry_setG_ne _ _ h]
    split
    · exact (gEntry_congr rfl j).trans (gEntry_abortHere_ne s _ h)
    · split
      · exact gEntry_abortG_ne s _ h
      · rfl

theorem role_freeGathering_same {ctx : Nat} {s : State} {i : Nat} (h : (gEntry s i).role = 0 ∨ (gEntry s i).ctx = ctx) :
    (gEntry (freeGathering ctx s i) i).role = 0 := by
  unfold freeGathering
  dsimp only
  split
  · rename_i hidle
    exact h.elim id fun hc => hidle.resolve_right (not_not_intro hc)
  · rw [gEntry_setG_same]

theorem role_freeGatherings_of_free {ctx i : Nat} (l : List Nat) {s : State} (h : (gEntry s i).role = 0) :
    (gEntry (l.foldl (freeGathering ctx) s) i).role = 0 := by
  induction l generalizing s with
  | nil => exact h
  | cons j l ih =>
    refine ih ?_
    by_cases hj : i = j
    · exact hj ▸ role_freeGathering_same (.inl h)
    · rwa [gEntry_freeGathering_ne ctx s hj]

theorem role_freeGatherings {ctx i : Nat} {l : List Nat} (hi : i ∈ l) {s : State} (h : (gEntry s i).ctx = ctx) :
    (gEntry (l.foldl (freeGathering ctx) s) i).role = 0 := by
  induction l generalizing s with
  | nil => cases hi
  | cons j l ih =>
    by_cases hj : i = j
    · exact role_freeGatherings_of_free l (hj ▸ role_freeGathering_same (.inr h))
    · exact ih ((List.mem_cons.1 hi).resolve_left hj) (by rwa [gEntry_freeGathering_ne ctx s hj])

/-- A destroyed context's gatherings are free. -/
theorem role_destroyCtx {s : State} {ctx i : Nat} {g : GEntry} (hg : tfind s.gather i = some g) (hc : g.ctx = ctx) :
    (gEntry (destroyCtx s ctx) i).role = 0 := by
  have hi : i ∈ s.gather.map (·.1) := (mem_keys_iff _ _).2 (by rw [hg]; rfl)
  have he : gEntry s i = g := by rw [gEntry, tget, hg]; rfl
  exact (gatherDestroy_eq s ctx ▸ role_freeGatherings hi (he ▸ hc) : (gEntry (gatherDestroy s ctx) i).role = 0)

theorem leads_contextDestruction {s : State} {ctx : Nat} {c : Ctx} (h : ctxOf s ctx = some c) :
    Leads s (.contextDestruction ctx) (fun t => ctxOf t ctx = none ∧
      ∀ i, (∃ g, tfind s.gather i = some g ∧ g.role ≠ 0 ∧ g.ctx = ctx) → (gEntry t i).role = 0) := by
  refine ⟨destroyCtx s ctx, ?_, contexts_eq_false.1 ?_, fun i ⟨g, hg, _, hc⟩ => role_destroyCtx hg hc⟩
  · change execContextDestruction ctx s = _
    simp [execContextDestruction, h]
  · simp [contexts_destroyCtx]

theorem leads_contextCreation {s : State} {ctx : Nat} (root table : DWord) (hctx : ctx < 4096) (h : ctxOf s ctx = none) :
    Leads s (.contextCreation ctx root table) (fun t => t.mem = s.mem ∧
      ∃ c, ctxOf t ctx = some c ∧ c.root = root.toNat / 4096 * 4096 ∧ c.table = table.toNat ∧ c.events = [] ∧ c.levels = []) := by
  refine ⟨{ s with ctxs := tput s.ctxs ctx { root := root.toNat / 4096 * 4096, table := table.toNat } }, ?_, rfl, _,
    tfind_tput_same .., rfl, rfl, rfl, rfl⟩
  change execContextCreation ctx root table s = _
  simp [execContextCreation, h, Nat.not_le.2 hctx]

end Sys2Proof.Machine
end

section
/-!
SUPPORT. What a function-level reset leaves (19 R451): the function's contexts gone, its HBM zero, its registers of the host's view at
their reset values, and every partition as it was.
-/
namespace Sys2Proof.Machine

/-! ### The record that a reset posts -/

theorem fns_signalVec_ne (s : State) {fn f : Nat} (vec : Nat) (h : f ≠ fn) :
    tget {} (signalVec s fn vec).fns f = tget {} s.fns f := by
  unfold signalVec
  dsimp only
  split
  · rfl
  · split
    · rfl
    · exact tget_tput_ne _ _ _ _ _ h

@[simp] theorem signalVec_regs (s : State) (fn vec : Nat) : (signalVec s fn vec).regs = s.regs := by
  unfold signalVec
  dsimp only
  split
  · rfl
  · split <;> rfl

@[simp] theorem storeMem_regs (s : State) (a : Nat) (bs : List Byte) : (storeMem s a bs).regs = s.regs := by rw [storeMem_rest]

theorem fns_postRecord_ne (s : State) {r : EventRec} {f : Nat} (h : f ≠ r.fn) : tget {} (postRecord s r).fns f = tget {} s.fns f := by
  obtain he | ⟨v, he⟩ | ⟨a, bs, v, g, vec, he⟩ := postRecord_cases s r <;> rw [he]
  · rfl
  · rw [fns_signalVec_ne _ _ h, recorded, putFn_ne _ _ h, setReg_fns, storeMem_fns]

/-- A record moves no register but the EVCTL of its function. -/
theorem rawReg_postRecord_ne (s : State) {r : EventRec} {q : CReg} (h : regOff q ≠ regOff (.part r.fn 6)) :
    rawReg (postRecord s r) q = rawReg s q := by
  obtain he | ⟨v, he⟩ | ⟨a, bs, v, g, vec, he⟩ := postRecord_cases s r <;> rw [he]
  · exact rawReg_setReg_ne _ _ h
  · rw [rawReg_congr (signalVec_regs ..), recorded, rawReg_congr (putFn_regs ..), rawReg_setReg_ne _ _ h, rawReg_congr (storeMem_regs ..)]

/-- A record is written to host memory, so that no byte of the HBM changes (02 R19). -/
theorem memByte_postRecord_hbm (s : State) (r : EventRec) {b : Nat} (h : b < 2 ^ 51) : memByte (postRecord s r) b = memByte s b := by
  obtain he | ⟨v, he⟩ | ⟨a, bs, v, g, vec, he⟩ := postRecord_cases s r <;> rw [he]
  · exact memByte_of_memory (setReg_memory ..) b
  · rw [memByte_of_memory (signalVec_memory ..), recorded, memByte_of_memory (putFn_memory ..), memByte_of_memory (setReg_memory ..)]
    exact memKept_storeMem _ _ _ b (.inl (by rw [hostPa]; omega))

/-! ### Partitions -/

theorem selfWritten_partition {f k : Nat} (hf : f < 64) (hk : k ≤ 5) : selfWritten (regOff (.part f k)) = false := by
  rw [selfWritten_eq_false, regOff]
  omega

/-- The partitions depend on their registers alone (19 R445, R448). -/
theorem ownerFn_of_parts {s t : State} (h : ∀ f < 64, ∀ k ≤ 4, rawReg t (.part f k) = rawReg s (.part f k)) (kind n : Nat) :
    ownerFn t kind n = ownerFn s kind n := by
  have hholds : ∀ f ∈ List.range 64, (0 < f && vfHolds t f kind n) = (0 < f && vfHolds s f kind n) := by
    intro f hf
    have hp := h f (List.mem_range.1 hf)
    simp only [vfHolds, hp 0 (by omega), hp 1 (by omega), hp 2 (by omega), hp 3 (by omega), hp 4 (by omega)]
  simp only [ownerFn, List.find?_congr hholds]

theorem ownerFn_of_control {s t : State} (h : control t = control s) (kind n : Nat) : ownerFn t kind n = ownerFn s kind n :=
  ownerFn_of_parts (fun _ hf _ hk => rawReg_of_control h (selfWritten_partition hf (by omega))) kind n

/-! ### Memory set to zero -/

/-- A byte of memory after entries have gone by their addresses. -/
theorem memByte_of_filter {s t : State} {p : Nat → Bool} (h : t.mem = s.mem.filter fun c => p c.1) (a : Nat) :
    memByte t a = if p a then memByte s a else 0 := by
  rw [memByte, h, tget, tfind_filter_key]
  cases p a <;> rfl

theorem memByte_zeroRange (s : State) (lo hi a : Nat) : memByte (zeroRange s lo hi) a = if lo ≤ a ∧ a < hi then 0 else memByte s a := by
  have hmem : (zeroRange s lo hi).mem = s.mem.filter fun c => decide (c.1 < lo) || decide (hi ≤ c.1) := by
    rw [zeroRange, foldl_setFlag_mem]
  rw [memByte_of_filter (p := fun b => decide (b < lo) || decide (hi ≤ b)) hmem]
  by_cases h : lo ≤ a ∧ a < hi
  · simp [h, Nat.not_lt.2 h.1, Nat.not_le.2 h.2]
  · rw [if_neg h, if_pos]
    simp only [Bool.or_eq_true, decide_eq_true_eq]
    omega

/-- The end of the lines of a range and its zeroes (19 R451). -/
def wipe (s : State) (r : Nat × Nat) : State := zeroRange (scrubLines s r.1 r.2) r.1 r.2

theorem memByte_wipe (s : State) (r : Nat × Nat) (a : Nat) : memByte (wipe s r) a = if r.1 ≤ a ∧ a < r.2 then 0 else memByte s a := by
  rw [wipe, memByte_zeroRange, memByte_of_memory (scrubLines_memory ..)]

theorem memByte_wipes {rs : List (Nat × Nat)} {s : State} {a : Nat} (h : memByte s a = 0 ∨ ∃ r ∈ rs, r.1 ≤ a ∧ a < r.2) :
    memByte (rs.foldl wipe s) a = 0 := by
  induction rs generalizing s with
  | nil => simpa using h
  | cons r rs ih =>
    refine ih ?_
    rw [memByte_wipe]
    by_cases hr : r.1 ≤ a ∧ a < r.2
    · exact .inl (if_pos hr)
    · rw [if_neg hr]
      exact h.imp_right fun ⟨q, hq, hin⟩ => ⟨q, (List.mem_cons.1 hq).resolve_left fun he => hr (he ▸ hin), hin⟩

/-- Each byte of a function's HBM lies in one of its ranges. -/
theorem mem_hbmRanges {s : State} {fn a : Nat} (ha : a < 768 * 2 ^ 30) (ho : ownerFn s 1 (a / 2 ^ 30) = fn) :
    ∃ r ∈ hbmRanges s fn, r.1 ≤ a ∧ a < r.2 := by
  refine ⟨(a / 2 ^ 30 * 2 ^ 30, (a / 2 ^ 30 + 1) * 2 ^ 30),
    List.mem_map.2 ⟨a / 2 ^ 30, List.mem_filter.2 ⟨?_, by simpa using ho⟩, rfl⟩, ?_⟩
  · exact List.mem_range.2 (by omega)
  · dsimp only
    omega

/-! ### The stages of a reset -/

/-- The contexts of a function. -/
def ownCtxs (s : State) (fn : Nat) : List Nat := (s.ctxs.map (·.1)).filter (fun c => ctxFn s c = fn)

/-- The function's launches killed, and its contexts and launches gone. -/
def workEnded (s : State) (fn : Nat) : State :=
  let u := (ownCtxs s fn).foldl destroyCtx (killFunction s fn)
  { u with launches := u.launches.filter (fun l => !(ownCtxs s fn).contains l.ctx) }

/-- The function's HBM zero. -/
def hbmWiped (s : State) (fn : Nat) : State := (hbmRanges (workEnded s fn) fn).foldl wipe (workEnded s fn)

/-- The function's translations and walks gone. -/
def walksEnded (s : State) (fn : Nat) : State :=
  let u := (ownCtxs s fn).foldl (fun s c => dropTranslations s 1 c 0 0) (hbmWiped s fn)
  let mine (w : Walk) : Bool := (ownCtxs s fn).contains w.ctx
  { u with dies := u.dies.map (fun (d : Nat × Die) =>
    (d.1, { d.2 with active := d.2.active.filter (fun w => !mine w), missed := d.2.missed.filter (fun w => !mine w) })) }

/-- The function's own state at its reset values, but its record sequence and IDE stream (log entry 66). -/
def fnCleared (s : State) (fn : Nat) : State :=
  let u := walksEnded s fn
  let f : Fn := tget {} u.fns fn
  setReg { u with fns := tput u.fns fn { seq := f.seq, ide := f.ide } } (.part fn 6) 0

theorem scrub_eq (s : State) (fn : Nat) : scrub s fn = postRecord (fnCleared s fn) { fn := 0, kind := 9, unit := fn } := rfl

theorem mem_ownCtxs {s : State} {fn c : Nat} : c ∈ ownCtxs s fn ↔ s.contexts c = true ∧ ctxFn s c = fn := by
  rw [ownCtxs, List.mem_filter, mem_keys_iff]
  simp [State.contexts, ctxOf]

theorem control_destroyCtx (s : State) (ctx : Nat) : control (destroyCtx s ctx) = control s := by
  have h : control (gatherDestroy s ctx) = control s := by simp [gatherDestroy]
  exact (control_of_eq rfl rfl).trans h

theorem control_workEnded (s : State) (fn : Nat) : control (workEnded s fn) = control s := by
  have h := (control_foldl (ownCtxs s fn) (killFunction s fn) control_destroyCtx).trans (control_killFunction s fn)
  exact (control_of_eq rfl rfl).trans h

theorem control_wipe (s : State) (r : Nat × Nat) : control (wipe s r) = control s := by
  have hlines : control (scrubLines s r.1 r.2) = control s :=
    (control_of_eq rfl rfl).trans (control_foldl _ s fun _ _ => control_discard ..)
  exact (control_foldl _ _ fun _ _ => control_setFlag ..).trans ((control_of_eq rfl rfl).trans hlines)

theorem control_dropTranslations (s : State) (form ctx va n : Nat) : control (dropTranslations s form ctx va n) = control s :=
  control_of_eq rfl rfl

theorem control_walksEnded (s : State) (fn : Nat) : control (walksEnded s fn) = control s := by
  have hwiped : control (hbmWiped s fn) = control s := (control_foldl _ _ control_wipe).trans (control_workEnded s fn)
  exact (control_of_eq rfl rfl).trans ((control_foldl _ _ fun s c => control_dropTranslations s 1 c 0 0).trans hwiped)

theorem contexts_workEnded (s : State) (fn c : Nat) : (workEnded s fn).contexts c = (decide (c ∉ ownCtxs s fn) && s.contexts c) := by
  have h := contexts_destroyCtxs (ownCtxs s fn) (killFunction s fn) c
  rw [contexts_killFunction] at h
  exact (congrFun (contexts_of_eq rfl) c).trans h

theorem contexts_wipe (s : State) (r : Nat × Nat) : (wipe s r).contexts = s.contexts := by
  have hlines : (scrubLines s r.1 r.2).contexts = s.contexts :=
    (contexts_of_eq rfl).trans (contexts_foldl _ s fun _ _ => contexts_discard ..)
  exact (contexts_foldl _ _ fun _ _ => contexts_setFlag ..).trans ((contexts_of_eq rfl).trans hlines)

theorem contexts_dropTranslations (s : State) (form ctx va n : Nat) : (dropTranslations s form ctx va n).contexts = s.contexts :=
  contexts_of_eq rfl

/-! ### What a scrub leaves -/

/-- A scrub leaves the contexts of the other functions (19 R451). -/
theorem contexts_scrub (s : State) (fn c : Nat) : (scrub s fn).contexts c = (decide (ctxFn s c ≠ fn) && s.contexts c) := by
  have hwiped : (hbmWiped s fn).contexts = (workEnded s fn).contexts := contexts_foldl _ _ contexts_wipe
  have hwalks : (walksEnded s fn).contexts = (hbmWiped s fn).contexts :=
    (contexts_of_eq rfl).trans (contexts_foldl _ _ fun s c => contexts_dropTranslations s 1 c 0 0)
  have hcleared : (fnCleared s fn).contexts = (walksEnded s fn).contexts := (contexts_setReg ..).trans (contexts_of_eq rfl)
  rw [scrub_eq, contexts_postRecord, hcleared, hwalks, hwiped, contexts_workEnded]
  cases hc : s.contexts c <;> simp [mem_ownCtxs, hc]

theorem rawReg_fnCleared_ne (s : State) {fn : Nat} {q : CReg} (h : regOff q ≠ regOff (.part fn 6)) :
    rawReg (fnCleared s fn) q = rawReg (walksEnded s fn) q := (rawReg_setReg_ne _ _ h).trans (rawReg_congr rfl q)

/-- A scrub leaves every partition as it is (19 R445, R451). -/
theorem ownerFn_scrub (s : State) (fn kind n : Nat) : ownerFn (scrub s fn) kind n = ownerFn s kind n := by
  have hne (g f k : Nat) (hk : k ≤ 4) : regOff (.part f k) ≠ regOff (.part g 6) := by simp only [regOff]; omega
  refine (ownerFn_of_parts (fun f _ k hk => ?_) kind n).trans (ownerFn_of_control (control_walksEnded s fn) kind n)
  rw [scrub_eq, rawReg_postRecord_ne _ (hne 0 f k hk), rawReg_fnCleared_ne s (hne fn f k hk)]

theorem rawReg_evctl_fnCleared (s : State) (fn : Nat) : rawReg (fnCleared s fn) (.part fn 6) = 0 := rawReg_setReg_same ..

theorem scrub_zero (s : State) : scrub s 0 = fnCleared s 0 := by
  rw [scrub_eq, postRecord_off]
  rw [rawReg_evctl_fnCleared]
  rfl

theorem rawReg_evctl_scrub (s : State) (fn : Nat) : rawReg (scrub s fn) (.part fn 6) = 0 := by
  cases fn with
  | zero => rw [scrub_zero, rawReg_evctl_fnCleared]
  | succ n => rw [scrub_eq, rawReg_postRecord_ne _ (by simp only [regOff]; omega), rawReg_evctl_fnCleared]

/-- A scrub leaves a function's own state at its reset values, but its record sequence and IDE stream. -/
theorem fns_scrub (s : State) (fn : Nat) : ∃ seq ide, tget {} (scrub s fn).fns fn = { seq := seq, ide := ide } := by
  have hcleared : ∃ seq ide, tget {} (fnCleared s fn).fns fn = { seq := seq, ide := ide } := ⟨_, _, tget_tput_same ..⟩
  cases fn with
  | zero => rwa [scrub_zero]
  | succ n => rwa [scrub_eq, fns_postRecord_ne _ (Nat.succ_ne_zero n)]

/-- A scrub leaves the HBM of the function zero. -/
theorem memByte_scrub {s : State} {fn a : Nat} (ha : a < 768 * 2 ^ 30) (ho : ownerFn s 1 (a / 2 ^ 30) = fn) :
    memByte (scrub s fn) a = 0 := by
  have hown : ownerFn (workEnded s fn) 1 (a / 2 ^ 30) = fn := (ownerFn_of_control (control_workEnded s fn) ..).trans ho
  have hwiped : memByte (hbmWiped s fn) a = 0 := memByte_wipes (.inr (mem_hbmRanges ha hown))
  have hwalks : (walksEnded s fn).memory = (hbmWiped s fn).memory :=
    (memory_of_eq rfl).trans (foldl_memory _ _ fun s c => dropTranslations_memory s 1 c 0 0)
  have hcleared : (fnCleared s fn).memory = (walksEnded s fn).memory := (setReg_memory ..).trans (memory_of_eq rfl)
  rw [scrub_eq, memByte_postRecord_hbm _ _ (by omega), memByte_of_memory (hcleared.trans hwalks), hwiped]

/-! ### Function-level resets -/

/-- A scrub of each of several functions. -/
theorem ownerFn_scrubs (fns : List Nat) (s : State) (kind n : Nat) : ownerFn (fns.foldl scrub s) kind n = ownerFn s kind n := by
  induction fns generalizing s with
  | nil => rfl
  | cons f fns ih => exact (ih _).trans (ownerFn_scrub ..)

theorem contexts_scrubs (fns : List Nat) (s : State) (c : Nat) :
    (fns.foldl scrub s).contexts c = (decide (ctxFn s c ∉ fns) && s.contexts c) := by
  induction fns generalizing s with
  | nil => simp
  | cons f fns ih =>
    have hown : ctxFn (scrub s f) c = ctxFn s c := ownerFn_scrub ..
    rw [List.foldl_cons, ih, contexts_scrub, hown]
    simp only [List.mem_cons, not_or, Bool.decide_and, Bool.and_left_comm, Bool.and_assoc]

/-- The functions that a reset of `fn` scrubs before it: those of the virtual functions, where `fn` is 0. -/
def scrubbedFirst (fn : Nat) : List Nat := if fn = 0 then (List.range 63).map (· + 1) else []

theorem exec_functionLevelReset (s : State) {fn : Nat} (h : fn < 64) :
    exec (.functionLevelReset fn) s = .next (scrub ((scrubbedFirst fn).foldl scrub s) fn) := by
  change execFunctionLevelReset fn s = _
  rw [execFunctionLevelReset, if_neg (by rw [fnCount]; omega), scrubbedFirst]
  by_cases h0 : fn = 0
  · simp [h0, List.foldl_map]
  · simp [h0]

theorem ctxs_eq_nil {s : State} (h : ∀ c, s.contexts c = false) : s.ctxs = [] := by
  refine List.eq_nil_iff_forall_not_mem.2 fun e he => ?_
  have hkey := (mem_keys_iff s.ctxs e.1).1 (List.mem_map_of_mem he)
  exact Bool.false_ne_true ((h e.1).symm.trans hkey)

/-- A reset ends the contexts of the function, and that of function 0 every context. -/
theorem contexts_reset (s : State) {fn c : Nat} (h : ctxFn s c = fn ∨ fn = 0) :
    (scrub ((scrubbedFirst fn).foldl scrub s) fn).contexts c = false := by
  have hown : ctxFn ((scrubbedFirst fn).foldl scrub s) c = ctxFn s c := ownerFn_scrubs ..
  rw [contexts_scrub, contexts_scrubs, hown]
  by_cases hc : ctxFn s c = fn
  · simp [hc]
  · have hlt : ctxFn s c < 64 := ownerFn_lt s 3 c
    have hfirst : ctxFn s c ∈ scrubbedFirst fn := by
      obtain rfl := h.resolve_left hc
      exact List.mem_map.2 ⟨ctxFn s c - 1, List.mem_range.2 (by omega), by omega⟩
    simp [hfirst]

theorem leads_functionLevelReset (s : State) {fn : Nat} (h : fn < 64) : Leads s (.functionLevelReset fn) (fun t =>
    (tget {} t.fns fn).tdisp = .configUnlocked ∧ (tget {} t.fns fn).pending = [] ∧ (tget {} t.fns fn).unmasked = [] ∧
    (tget {} t.fns fn).mbhead = 0 ∧ (tget {} t.fns fn).mbtail = 0 ∧ rawReg t (.part fn 6) = 0 ∧
    (∀ c, ctxFn s c = fn → ctxOf t c = none) ∧ (fn = 0 → t.ctxs = []) ∧
    ∀ a, a < 768 * 2 ^ 30 → ownerFn s 1 (a / 2 ^ 30) = fn → memByte t a = 0) := by
  refine ⟨_, exec_functionLevelReset s h, ?_⟩
  obtain ⟨seq, ide, hf⟩ := fns_scrub ((scrubbedFirst fn).foldl scrub s) fn
  rw [hf]
  refine ⟨rfl, rfl, rfl, rfl, rfl, rawReg_evctl_scrub .., fun c hc => contexts_eq_false.1 (contexts_reset s (.inl hc)),
    fun h0 => ctxs_eq_nil fun c => contexts_reset s (.inr h0), fun a ha ho => memByte_scrub ha ?_⟩
  rw [ownerFn_scrubs, ho]

end Sys2Proof.Machine
end

section
/-!
SUPPORT. The host's requests (09 R226, 19 R444): which function answers, the registers through BAR0, and the bytes of the HBM through
BAR2.
-/
namespace Sys2Proof.Machine

/-! ### Who answers -/

/-- The function of a request answers it: it does not reset, and its interface is not in ERROR (19 R451, R454). -/
structure Answers (s : State) (r : HostReq) : Prop where
  isFn : r.fn < 64
  live : (tget {} s.fns r.fn).resetting = false
  sound : (tget {} s.fns r.fn).tdisp ≠ .error

theorem Answers.count {s : State} {r : HostReq} (h : Answers s r) : ¬ fnCount ≤ r.fn := Nat.not_le.2 h.isFn

theorem Answers.resetting {s : State} {r : HostReq} (h : Answers s r) : fnResetting s r.fn = false := h.live

theorem Answers.error {s : State} {r : HostReq} (h : Answers s r) : fnError s r.fn = false := by
  simpa [fnError] using h.sound

/-- A function that resets takes no write, and answers every other request with Unsupported Request (19 R451). -/
theorem requests_of_resetting {s : State} {r : HostReq} (h : (tget {} s.fns r.fn).resetting = true) :
    exec (.hostPostedWrite r) s = .next s ∧ exec (.hostReadRequest r) s = .next (unsupported s r) ∧
      exec (.hostAtomicopRequest r) s = .next (unsupported s r) := by
  have hr : fnResetting s r.fn = true := h
  refine ⟨?_, ?_, ?_⟩
  · change execHostPostedWrite r s = _
    rw [execHostPostedWrite, if_pos (.inr (.inl hr))]
  · change execHostReadRequest r s = _
    rw [execHostReadRequest, if_pos (.inr hr)]
  · change execHostAtomicopRequest r s = _
    rw [execHostAtomicopRequest, if_pos (.inr (.inl hr))]

/-- A function in ERROR takes no write, and reads as ones (19 R454). -/
theorem requests_of_error {s : State} {r : HostReq} (hfn : r.fn < 64) (hr : (tget {} s.fns r.fn).resetting = false)
    (he : (tget {} s.fns r.fn).tdisp = .error) :
    exec (.hostPostedWrite r) s = .next s ∧ exec (.hostReadRequest r) s = .next (complete s r (List.replicate r.len 0xFF)) := by
  have hreset : fnResetting s r.fn = false := hr
  have herror : fnError s r.fn = true := by
    rw [fnError, he]
    rfl
  refine ⟨?_, ?_⟩
  · change execHostPostedWrite r s = _
    rw [execHostPostedWrite, if_pos (.inr (.inr (.inl herror)))]
  · change execHostReadRequest r s = _
    rw [execHostReadRequest, if_neg (by simp [fnCount, hreset, hfn]), if_pos herror]

/-- An AtomicOp outside BAR2, or that is none of the three, is unsupported (19 R444). -/
theorem atomicop_unsupported (s : State) {r : HostReq} (h : r.bar ≠ 2 ∨ r.atomic = 0 ∨ 3 < r.atomic) :
    exec (.hostAtomicopRequest r) s = .next (unsupported s r) := by
  change execHostAtomicopRequest r s = _
  rw [execHostAtomicopRequest, if_pos]
  refine .inr (.inr (h.imp_right fun ha => .inl ?_))
  have h1 : r.atomic ≠ 1 := by omega
  have h2 : r.atomic ≠ 2 := by omega
  have h3 : r.atomic ≠ 3 := by omega
  simp [atomicSize, h1, h2, h3]

/-! ### Registers through BAR0 -/

/-- The register write that a request to BAR0 makes at an offset of the control range (02 R471). -/
def regWrOf (r : HostReq) (off : Nat) : RegWr := { off := off, part := partOf r.off r.len, val := BitVec.ofNat 64 (leBytes r.data) }

/-- A request that BAR0 takes (02 R471). -/
structure Bar0 (s : State) (r : HostReq) : Prop extends Answers s r where
  bar : r.bar = 0
  form : bar0Form r = true

theorem Bar0.write {s : State} {r : HostReq} (h : Bar0 s r) (hd : r.data.length = r.len) : exec (.hostPostedWrite r) s = .next (
    if r.fn = 0 then (if r.off < 2 ^ 32 then postRegWrite s (regWrOf r r.off) else s)
    else if r.off / 8 * 8 = 0x1408 then putTail s r.fn (partOf r.off r.len) (BitVec.ofNat 64 (leBytes r.data))
    else ((vfReg r.fn r.off).map fun o => postRegWrite s (regWrOf r o)).getD s) := by
  change execHostPostedWrite r s = _
  rw [execHostPostedWrite, if_neg (by simp [h.count, h.resetting, h.error, hd]), if_pos h.bar]
  cases vfReg r.fn r.off <;> simp [h.form, regWrOf]

/-- A register write that nothing stands before is carried out next. -/
theorem postRegWrite_of_idle {s : State} (h : s.agenda = []) (w : RegWr) :
    (postRegWrite s w).mem = s.mem ∧ (postRegWrite s w).agenda = [.event (regRow s w)] := by
  simp [postRegWrite, h]

theorem vfReg_eq (fn off : Nat) : vfReg fn off = if off < 16 then some (0x2A0028 + 64 * fn + off) else none := by
  unfold vfReg
  by_cases h0 : off / 8 = 0
  · rw [if_pos h0, if_pos (by omega), Nat.mod_eq_of_lt (by omega)]
  · rw [if_neg h0]
    by_cases h1 : off / 8 = 1
    · rw [if_pos h1, if_pos (by omega)]
      exact congrArg some (by omega)
    · rw [if_neg h1, if_neg (by omega)]

theorem Bar0.write_zero {s : State} {r : HostReq} (h : Bar0 s r) (hd : r.data.length = r.len) (h0 : r.fn = 0) (ho : r.off < 2 ^ 32) :
    exec (.hostPostedWrite r) s = .next (postRegWrite s (regWrOf r r.off)) := by
  rw [h.write hd, if_pos h0, if_pos ho]

theorem Bar0.write_evctl {s : State} {r : HostReq} (h : Bar0 s r) (hd : r.data.length = r.len) (h0 : r.fn ≠ 0) (ho : r.off < 16) :
    exec (.hostPostedWrite r) s = .next (postRegWrite s (regWrOf r (0x2A0028 + 64 * r.fn + r.off))) := by
  rw [h.write hd, if_neg h0, if_neg (by omega), vfReg_eq, if_pos ho, Option.map_some, Option.getD_some]

theorem Bar0.write_none {s : State} {r : HostReq} (h : Bar0 s r) (hd : r.data.length = r.len) (h0 : r.fn ≠ 0) (ho : 16 ≤ r.off)
    (htail : r.off / 8 * 8 ≠ 0x1408) : exec (.hostPostedWrite r) s = .next s := by
  rw [h.write hd, if_neg h0, if_neg htail, vfReg_eq, if_neg (by omega), Option.map_none, Option.getD_none]

theorem Bar0.write_tail {s : State} {r : HostReq} (h : Bar0 s r) (hd : r.data.length = r.len) (h0 : r.fn ≠ 0) (ho : r.off = 0x1408) :
    exec (.hostPostedWrite r) s = .next (putTail s r.fn (partOf r.off r.len) (BitVec.ofNat 64 (leBytes r.data))) := by
  rw [h.write hd, if_neg h0, if_pos (by omega)]

theorem mbtail_putTail (s : State) (fn : Nat) (v : DWord) : (tget {} (putTail s fn .full v).fns fn).mbtail = v := by
  simp only [putTail, tget_tput_same]
  exact merged_full rfl rfl ..

theorem Bar0.read_register {s : State} {r : HostReq} {q : CReg} (h : Bar0 s r) (h0 : r.fn = 0) (hl : r.len = 8) (hal : r.off % 8 = 0)
    (ho : r.off < 2 ^ 32) (hq : regOf r.off = some q) :
    exec (.hostReadRequest r) s = .next (complete s r (toBytes 8 (readReg s q).toNat)) := by
  have hoff : r.off / 8 * 8 = r.off := by omega
  have hword : bar0Word s r.fn r.off = readReg s q := by rw [bar0Word, if_pos h0, readCtl, hq]
  change execHostReadRequest r s = _
  rw [execHostReadRequest, if_neg (by simp [h.count, h.resetting]), if_neg (by simp [h.error]), if_pos h.bar,
    if_neg (by simp [h.form]; omega), hoff, hword, hal, hl, List.drop_zero, List.take_of_length_le (by simp)]

/-- A request to BAR0 without every byte enabled is unsupported (02 R471). -/
theorem Answers.read_disabled {s : State} {r : HostReq} (h : Answers s r) (hb : r.bar = 0) (he : r.enabled = false) :
    exec (.hostReadRequest r) s = .next (unsupported s r) := by
  change execHostReadRequest r s = _
  rw [execHostReadRequest, if_neg (by simp [h.count, h.resetting]), if_neg (by simp [h.error]), if_pos hb,
    if_pos (by simp [bar0Form, he])]

/-! ### Bytes of one line that memory alone holds -/

/-- Bytes of one line that no cache and no message holds, and that are plain. -/
structure InMemory (s : State) (a n : Nat) : Prop where
  pos : 0 < n
  fits : a % 128 + n ≤ 128
  alone : holdersOf s (a / 128) = []
  still : movingLine s (a / 128) = none
  plain : Plain s a n

theorem reqLines_of_fits {a n : Nat} (hp : 0 < n) (hf : a % 128 + n ≤ 128) : reqLines a n = [a / 128] := by
  have hcount : (a + n - 1) / 128 + 1 - a / 128 = 1 := by omega
  rw [reqLines, if_neg (by omega), hcount]
  simp

theorem lineSpan_of_fits {a n : Nat} (hf : a % 128 + n ≤ 128) : lineSpan a n (a / 128) = (a, a + n) := by
  rw [lineSpan, Nat.max_eq_left (by omega), Nat.min_eq_left (by omega)]

theorem cacheLine_of_alone {s : State} {line : Nat} (h : holdersOf s line = []) (k : Nat) : cacheLine s k line = none := by
  cases hk : tfind s.clusters k with
  | none => simp [cacheLine, clusterOf, tget, hk]
  | some c =>
    have hnone := List.filterMap_eq_nil_iff.1 h (k, c) (mem_of_tfind hk)
    simpa [cacheLine, clusterOf, tget, hk] using hnone

theorem coherentLine_of_alone {s : State} {line : Nat} (h : holdersOf s line = []) (hm : movingLine s line = none) :
    (coherentLine s line).1 = memBytes s (128 * line) 128 := by
  simp [coherentLine, currentHolder, h, hm]

/-- Bytes inside a line of memory. -/
theorem memBytes_within (s : State) {a n : Nat} (hf : a % 128 + n ≤ 128) :
    ((memBytes s (128 * (a / 128)) 128).drop (a % 128)).take n = memBytes s a n := by
  refine List.ext_getElem (by simp; omega) fun i h1 h2 => ?_
  have hi : 128 * (a / 128) + (a % 128 + i) = a + i := by omega
  simp [memBytes, hi]

theorem InMemory.reads {s : State} {a n : Nat} (h : InMemory s a n) : readLines s a n = memBytes s a n := by
  have hline : (coherentRead s a n).1 = memBytes s a n := by
    simp only [coherentRead, seenMixed, h.plain.mapped, List.isEmpty_nil, if_true, lineOf]
    rw [coherentLine_of_alone h.alone h.still, memBytes_within s h.fits]
  have hseen : seenMem s a (memBytes s a n) = memBytes s a n := seenMem_plain h.plain.mapped (by simpa using h.plain.windows)
  simp [readLines, reqLines_of_fits h.pos h.fits, lineSpan_of_fits h.fits, hline, hseen]

theorem InMemory.gives {s : State} {a n : Nat} (h : InMemory s a n) (agent : Nat) : giveLines s agent a n = s := by
  simp [giveLines, reqLines_of_fits h.pos h.fits, cacheLine_of_alone h.alone]

theorem InMemory.writes {s : State} {a : Nat} {bs : List Byte} (h : InMemory s a bs.length) (agent : Nat) :
    writeLines s agent a bs = storeMem (dropStitches s (a / 128)) a bs := by
  have hdropped : Plain (dropStitches s (a / 128)) a bs.length :=
    ⟨h.plain.windows, h.plain.mapped, h.plain.tables, h.plain.unflagged⟩
  have hplain := hdropped.storeMem a bs
  have hwritten : coherentWrite s a bs = storeMem (dropStitches s (a / 128)) a bs := by
    simp [coherentWrite, collapse, lineOf, h.alone]
  have hnote := noteTable_plain hplain.tables
  simp only [writeLines, reqLines_of_fits h.pos h.fits, List.foldl_cons, List.foldl_nil, lineSpan_of_fits h.fits,
    cacheLine_of_alone h.alone, Nat.add_sub_cancel_left, Nat.sub_self, List.drop_zero, List.take_length, hwritten]
  rw [spoilMem_plain true (by rw [hnote]; exact hplain.windows), hnote]

/-- What a write of the host leaves: its bytes, every other byte as it was, and nothing said to the host. -/
theorem InMemory.written {s : State} {a : Nat} {bs : List Byte} (h : InMemory s a bs.length) (agent : Nat) :
    memBytes (writeLines s agent a bs) a bs.length = bs ∧ MemKeptBut s (writeLines s agent a bs) a bs.length ∧
      (writeLines s agent a bs).hostOut = s.hostOut := by
  rw [h.writes agent]
  refine ⟨memBytes_storeMem .., memKept_storeMem (dropStitches s (a / 128)) a bs, ?_⟩
  rw [storeMem_rest]
  rfl

/-! ### Bytes through BAR2 -/

/-- A request to bytes of the HBM that memory alone holds. -/
structure Bar2 (s : State) (r : HostReq) (a : Nat) : Prop extends Answers s r, InMemory s a r.len where
  bar : r.bar = 2
  addr : bar2Addr s r.fn r.off r.len = some a

theorem Bar2.read {s : State} {r : HostReq} {a : Nat} (h : Bar2 s r a) :
    exec (.hostReadRequest r) s = .next (complete s r (memBytes s a r.len)) := by
  change execHostReadRequest r s = _
  rw [execHostReadRequest, if_neg (by simp [h.count, h.resetting]), if_neg (by simp [h.error]), if_neg (by simp [h.bar]),
    if_pos h.bar]
  simp [h.addr, h.reads, h.gives]

theorem Bar2.write {s : State} {r : HostReq} {a : Nat} (h : Bar2 s r a) (hd : r.data.length = r.len) :
    exec (.hostPostedWrite r) s = .next (writeLines s 152 a r.data) := by
  change execHostPostedWrite r s = _
  rw [execHostPostedWrite, if_neg (by simp [h.count, h.resetting, h.error, hd]), if_neg (by simp [h.bar]), if_pos h.bar]
  simp [h.addr]

theorem Bar2.atomic {s : State} {r : HostReq} {a : Nat} (h : Bar2 s r a) (hs : atomicSize r.atomic r.len = true) (ho : r.off % r.len = 0) :
    exec (.hostAtomicopRequest r) s = .next (writeLines (complete s r (memBytes s a r.len)) 152 a
      (toBytes r.len (atomicNew r.atomic r.len (leBytes (memBytes s a r.len)) r.data))) := by
  change execHostAtomicopRequest r s = _
  rw [execHostAtomicopRequest, if_neg (by simp [h.count, h.resetting, h.bar, hs, ho]), if_neg (by simp [h.error])]
  simp [h.addr, h.reads]

/-- An AtomicOp is completed with the bytes before, leaves the bytes of its new value, and every other byte as it was (19 R444). -/
theorem Bar2.leads_atomic {s : State} {r : HostReq} {a : Nat} (h : Bar2 s r a) (hs : atomicSize r.atomic r.len = true)
    (ho : r.off % r.len = 0) : Leads s (.hostAtomicopRequest r) (fun t => .completion r.fn r.tag (memBytes s a r.len) ∈ t.hostOut ∧
      MemKeptBut s t a r.len ∧
      memBytes t a r.len = toBytes r.len (atomicNew r.atomic r.len (leBytes (memBytes s a r.len)) r.data)) := by
  have hin : InMemory (complete s r (memBytes s a r.len)) a
      (toBytes r.len (atomicNew r.atomic r.len (leBytes (memBytes s a r.len)) r.data)).length := by
    rw [toBytes_length]
    exact ⟨h.pos, h.fits, h.alone, h.still, h.plain.windows, h.plain.mapped, h.plain.tables, h.plain.unflagged⟩
  obtain ⟨hbytes, hkept, hout⟩ := hin.written 152
  rw [toBytes_length] at hbytes hkept
  exact ⟨_, h.atomic hs ho, by rw [hout]; simp [complete], hkept, hbytes⟩

theorem toBytes_leBytes (bs : List Byte) : toBytes bs.length (leBytes bs) = bs := by
  induction bs with
  | nil => rfl
  | cons b bs ih =>
    have hb := b.isLt
    have hlow : BitVec.ofNat 8 (b.toNat + 256 * leBytes bs) = b := BitVec.eq_of_toNat_eq (by rw [BitVec.toNat_ofNat]; omega)
    have hrest : (b.toNat + 256 * leBytes bs) / 256 = leBytes bs := by omega
    rw [leBytes, List.length_cons, toBytes, hlow, hrest, ih]

theorem leBytes_inj {as bs : List Byte} (h : as.length = bs.length) : leBytes as = leBytes bs ↔ as = bs :=
  ⟨fun he => by rw [← toBytes_leBytes as, he, h, toBytes_leBytes], fun he => he ▸ rfl⟩

/-- FetchAdd and Swap (19 R444). -/
theorem leBytes_atomicNew {op n old : Nat} {data : List Byte} (hop : op = 1 ∨ op = 2) (hd : data.length = n) :
    leBytes (toBytes n (atomicNew op n old data)) =
      if op = 1 then (old + leBytes data) % 2 ^ (8 * n) else leBytes data := by
  have hlt : leBytes data < 2 ^ (8 * n) := hd ▸ leBytes_lt data
  rw [leBytes_toBytes, atomicNew, List.take_of_length_le (by omega)]
  rcases hop with rfl | rfl
  · simp
  · simp [Nat.mod_eq_of_lt hlt]

/-- CAS, which carries the value to compare and then the value to put there (19 R444, log entry 45). -/
theorem toBytes_atomicNew_cas {old data : List Byte} (hd : data.length = 2 * old.length) :
    toBytes old.length (atomicNew 3 old.length (leBytes old) data) =
      if old = data.take old.length then data.drop old.length else old := by
  have htake : old.length = (data.take old.length).length := by simp; omega
  have hdrop : (data.drop old.length).length = old.length := by simp; omega
  have hswap : (data.drop old.length).take old.length = data.drop old.length := List.take_of_length_le (by omega)
  simp only [atomicNew, leBytes_inj htake, hswap, Nat.reduceEqDiff, if_false]
  split
  · exact (congrArg (fun n => toBytes n _) hdrop.symm).trans (toBytes_leBytes _)
  · exact toBytes_leBytes _

end Sys2Proof.Machine
end

section
/-!
O50, the host's requests, function-level reset, and the states of the interface (19 R444, R451 to R455, 14 R366, R377, 15 R381).
-/
namespace Sys2Proof.Machine

/-! ### Vectors -/

/-- A vector that becomes unmasked is pending no more, and is sent where it was (14 R377). -/
theorem leads_msixUnmask {s : State} {fn v : Nat} (hfn : fn < 64) (hv : v < if fn = 0 then 2048 else 64)
    (hopen : fn = 0 ∨ (tget {} s.fns fn).tdisp = .configUnlocked) :
    Leads s (.msixUnmask fn v) (fun t => t.mem = s.mem ∧ v ∈ (tget {} t.fns fn).unmasked ∧ v ∉ (tget {} t.fns fn).pending ∧
      (v ∈ (tget {} s.fns fn).pending → .msix fn v ∈ t.hostOut)) := by
  have hrange : ¬ (fnCount ≤ fn ∨ vectorCount fn ≤ v) := by
    rw [fnCount, vectorCount]
    omega
  have hfree : ¬ (fn ≠ 0 ∧ (tget {} s.fns fn).tdisp ≠ .configUnlocked) := fun h => hopen.elim h.1 h.2
  simp only [Leads, exec, execMsixUnmask, if_neg hrange, if_neg hfree]
  generalize tget {} s.fns fn = f
  have hmem : v ∈ if f.unmasked.contains v then f.unmasked else f.unmasked ++ [v] := by
    split
    · rename_i h
      simpa using h
    · simp
  refine ⟨_, rfl, rfl, ?_, ?_, fun hp => ?_⟩
  · simpa only [tget_tput_same] using hmem
  · simp only [tget_tput_same, List.mem_filter, List.contains_iff_mem.2 hmem, Bool.not_true, Bool.false_eq_true, and_false,
      not_false_eq_true]
  · exact List.mem_append_right _ (List.mem_map_of_mem (List.mem_filter.2 ⟨hp, List.contains_iff_mem.2 hmem⟩))

/-! ### The states of the interface -/

theorem tdispMove_spec (s : State) (fn : Nat) (d : Tdisp) :
    (tget {} (tdispMove s fn d).fns fn).tdisp = d ∧ .tdispOk fn ∈ (tdispMove s fn d).hostOut := by
  simp [tdispMove]

theorem hasTdisp_of_lt {fn : Nat} (h0 : 0 < fn) (h : fn < 64) : hasTdisp fn = true := by
  simp [hasTdisp, fnCount, h0, h]

/-- An interface that enters ERROR is told so (19 R454). -/
theorem enterError_spec {s : State} {fn : Nat} (h64 : fn < 64) (he : (tget {} s.fns fn).tdisp ≠ .error) (reason addr : Nat) :
    (tget {} (enterError s fn reason addr).fns fn).tdisp = .error ∧ .tdispError fn ∈ (enterError s fn reason addr).hostOut := by
  unfold enterError
  extract_lets f u rec' v
  rw [if_neg he]
  have hv : control v = control { s with fns := tput s.fns fn { f with tdisp := .error } } :=
    (control_postRecord _ (by simp)).trans ((control_postRecord _ h64).trans (control_killFunction ..))
  clear_value v
  exact ⟨(tdisp_of_control hv fn).trans (by simp), by simp⟩

/-- The registers of the function stand in its interface report (19 R455, log entry 67). -/
theorem interfaceReport_part (s : State) (fn : Nat) {k : Nat} (hk : k < 5) :
    (interfaceReport s fn)[12 + k]? = some (rawReg s (.part fn k)) := by
  interval_cases k <;> rfl

/-- Settles O50: a request reaches one register or the bytes of one line, a reset is a scrub of each function that it ends, and a request
of the interface moves it or is refused. -/
theorem hostEvents : Obligations.HostEvents := by
  unfold Obligations.HostEvents
  refine ⟨fun s r hfn => ?_, fun s fn v => leads_msixUnmask, fun s ctx root table => leads_contextCreation root table,
    fun s ctx c => leads_contextDestruction, fun s fn => leads_functionLevelReset s, fun s fn h0 h64 => ?_⟩
  · intro f
    refine ⟨fun hreset => ?_, fun hlive herror => ?_, fun h => ⟨_, atomicop_unsupported s h, rfl⟩,
      fun hlive hsound hbar hlen halign hoff => ?_, fun a hlive hsound hbar haddr hpos hfits halone hstill hplain => ?_⟩
    · obtain ⟨hwrite, hread, hatomic⟩ := requests_of_resetting hreset
      refine ⟨hwrite, ?_⟩
      rintro i (rfl | rfl)
      · exact ⟨_, hread, rfl⟩
      · exact ⟨_, hatomic, rfl⟩
    · obtain ⟨hwrite, hread⟩ := requests_of_error hfn hlive herror
      exact ⟨hwrite, _, hread, rfl⟩
    · have hanswers : Answers s r := ⟨hfn, hlive, hsound⟩
      have hbar0 (henabled : r.enabled = true) : Bar0 s r := ⟨hanswers, hbar, by simpa [bar0Form, henabled, halign] using hlen⟩
      refine ⟨fun hoffline => ⟨_, hanswers.read_disabled hbar hoffline, List.mem_append_right _ List.mem_cons_self⟩,
        fun he h0 hd hidle => ⟨_, (hbar0 he).write_zero hd h0 hoff, postRegWrite_of_idle hidle _⟩,
        fun he h0 hd hev hidle => ⟨_, (hbar0 he).write_evctl hd h0 hev, postRegWrite_of_idle hidle _⟩,
        fun he h0 hd h16 htail htail' => (hbar0 he).write_none hd h0 h16 ?_,
        fun he h0 htail h8 hd => ⟨_, (hbar0 he).write_tail (hd.trans h8.symm) h0 htail, rfl, ?_⟩,
        fun q he h0 h8 hq =>
          ⟨_, (hbar0 he).read_register h0 h8 (h8 ▸ halign) hoff hq, List.mem_append_right _ List.mem_cons_self, rfl⟩⟩
      · rcases hlen with hlen | hlen <;> rw [hlen] at halign <;> omega
      · rw [h8, partOf, if_pos rfl, mbtail_putTail, BitVec.toNat_ofNat, Nat.mod_eq_of_lt (by simpa [hd] using leBytes_lt r.data)]
    · have hbar2 : Bar2 s r a := ⟨⟨hfn, hlive, hsound⟩, ⟨hpos, hfits, halone, hstill, hplain⟩, hbar, haddr⟩
      refine ⟨⟨_, hbar2.read, rfl, List.mem_append_right _ List.mem_cons_self⟩, fun hd => ?_, fun hal hop hlen hd => ?_,
        fun hal hop hlen hd => ?_⟩
      · obtain ⟨hbytes, hkept, -⟩ := (hd ▸ hbar2.toInMemory : InMemory s a r.data.length).written 152
        exact ⟨_, hbar2.write hd, hd ▸ hbytes, hd ▸ hkept⟩
      · have hsize : atomicSize r.atomic r.len = true := by
          rcases hop with hop | hop <;> simpa [atomicSize, hop] using hlen
        obtain ⟨t, hx, hdone, hkept, hbytes⟩ := hbar2.leads_atomic hsize hal
        exact ⟨t, hx, hdone, hkept, by rw [hbytes, leBytes_atomicNew hop hd]⟩
      · have hsize : atomicSize r.atomic r.len = true := by simpa [atomicSize, hop, or_assoc] using hlen
        obtain ⟨t, hx, hdone, hkept, hbytes⟩ := hbar2.leads_atomic hsize hal
        have hcas := toBytes_atomicNew_cas (old := memBytes s a r.len) (data := r.data) (by simpa using hd)
        rw [memBytes_length] at hcas
        exact ⟨t, hx, hdone, hkept, by rw [hbytes, hop, hcas]⟩
  · intro f refused moved held
    have hvf : hasTdisp fn = true := hasTdisp_of_lt h0 h64
    refine ⟨fun hd hide hheld => ?_, fun h => ?_, fun hd => ?_, fun hd => ?_, ?_, fun hd => ?_, fun hd => ?_, fun hd => ?_,
      fun hd => ?_⟩
    · exact ⟨_, congrArg Host.Outcome.next (if_pos ⟨hvf, hd, hide, hheld⟩), rfl, tdispMove_spec ..⟩
    · refine congrArg Host.Outcome.next (if_neg ?_)
      rintro ⟨-, hd, hide, hheld⟩
      exact h.elim (fun hn => hn hd) fun h => h.elim (fun hn => Bool.false_ne_true (hn.symm.trans hide)) fun hn => hn hheld
    · exact ⟨_, congrArg Host.Outcome.next (if_pos ⟨hvf, hd⟩), rfl, tdispMove_spec ..⟩
    · exact congrArg Host.Outcome.next (if_neg fun h => hd h.2)
    · obtain ⟨hstate, hok⟩ := tdispMove_spec (scrub s fn) fn .configUnlocked
      exact ⟨_, congrArg Host.Outcome.next (if_pos hvf), hstate, hok, fun a ha ho => memByte_scrub ha ho⟩
    · exact congrArg Host.Outcome.next (if_neg fun h => h.2 hd)
    · exact ⟨_, congrArg Host.Outcome.next (if_pos ⟨hvf, hd⟩), rfl, _, List.mem_append_right _ List.mem_cons_self,
        fun k hk => interfaceReport_part s fn hk⟩
    · have hsound : (tget {} s.fns fn).tdisp ≠ .error := fun he => by rcases hd with hd | hd <;> cases hd.symm.trans he
      exact ⟨_, congrArg Host.Outcome.next (if_pos ⟨hvf, hd⟩), enterError_spec h64 hsound 2 0⟩
    · refine congrArg Host.Outcome.next (if_neg ?_)
      rintro ⟨-, hd' | hd'⟩ <;> rcases hd with hd | hd <;> cases hd.symm.trans hd'

end Sys2Proof.Machine
end

section
/-!
SUPPORT. The seven instruction formats under one interface (10 R234, R242 to R248): how the fields of each stand in a word, and that
reading and writing them undo each other.
-/
namespace Sys2Proof.Machine
open Laws

/-- A field of a word is the value that was written to it. -/
theorem ofNat_toNat_mod {w : Nat} (v : BitVec w) : BitVec.ofNat w (v.toNat % 2 ^ w) = v := by
  rw [Nat.mod_eq_of_lt v.isLt, BitVec.ofNat_toNat, BitVec.setWidth_eq]

/-- A one-bit field is the flag that was written to it. -/
theorem b2n_mod_beq_one (b : Bool) : (b2n b % 2 ^ 1 == 1) = b := by cases b <;> rfl

/-- Writing the flag of a bit writes the bit. -/
theorem b2n_beq_one_mod (n : Nat) : b2n (n % 2 ^ 1 == 1) % 2 ^ 1 = n % 2 ^ 1 := by
  obtain h | h := Nat.mod_two_eq_zero_or_one n <;> simp [h, b2n]

/-- The fields of a word are its low 72 bits. -/
theorem word_mod {p : Nat} (q : Nat) (hp : p < 2 ^ 72) : (p + 2 ^ 72 * q) % 2 ^ 72 = p := by omega

/-- `unpack_pack` for a list of widths given by name. -/
theorem unpack_of_widths {ws : List Nat} {fs : List (Nat × Nat)} (h : ws = fs.map Prod.fst) :
    unpack ws (pack fs) = fs.map (fun f => f.2 % 2 ^ f.1) := h ▸ unpack_pack fs

/-- `pack_lt` for the widths of a format, given by name. -/
theorem pack_lt_of_widths {ws : List Nat} {fs : List (Nat × Nat)} (h : ws = fs.map Prod.fst) (hsum : ws.sum = 72) : pack fs < 2 ^ 72 :=
  hsum ▸ h ▸ pack_lt fs

/-- What was read with the reserved bits zero. -/
theorem eq_of_ite_ok {ε α : Type} {p : Prop} [Decidable p] {a b : α} {e : ε} (h : (if p then Except.ok a else .error e) = .ok b) :
    p ∧ a = b := by
  split at h
  · exact ⟨‹p›, Except.ok.inj h⟩
  · cases h

/-- Writing undoes reading of a header. -/
theorem packHdr_of_unpackHdr {x opc : Nat} {h : Hdr} (hx : x < 2 ^ 24) (hread : unpackHdr x = (opc, h)) : packHdr opc h = x := by
  have hpack := pack_unpack hdrWidths x hx
  cases hread
  simp only [hdrWidths, unpack, List.zip_cons_cons, List.zip_nil_right, pack, Nat.mod_mod] at hpack
  simp only [packHdr, pack, BitVec.toNat_ofNat, Nat.mod_mod, b2n_beq_one_mod, hpack]

/-- A format: its fields, the header among them; the word that they make under a major, and what is read from a header and bits 71:0; the
row that a major and the fields select. Reading undoes writing, and writing undoes reading. -/
structure Codec where
  Fields : Type
  hdr : Fields → Hdr
  enc : Nat → Fields → Nat
  read : Hdr → Nat → Except DecodeErr Fields
  row : Nat → Fields → Except DecodeErr (Fields → Instr)
  unpackHdr_enc : ∀ {opc} f, opc < 128 → unpackHdr (enc opc f / 2 ^ 72 % 2 ^ 24) = (opc, hdr f)
  enc_lt : ∀ opc f, enc opc f < 2 ^ 96
  read_enc : ∀ opc f, read (hdr f) (enc opc f % 2 ^ 72) = .ok f
  enc_of_read : ∀ {h x f} opc, x < 2 ^ 72 → read h x = .ok f → enc opc f = x + 2 ^ 72 * packHdr opc h

/-- Format R (10 R242). -/
def codecR : Codec where
  Fields := FmtR
  hdr f := f.h
  enc := encR
  read := decR
  row opc f := rowR opc f.sub.toNat
  unpackHdr_enc f := unpackHdr_word f.h (pack_lt_of_widths (ws := widthsR) rfl rfl)
  enc_lt := encR_lt
  read_enc opc f := by
    rw [encR, word_mod _ (pack_lt_of_widths (ws := widthsR) (by rfl) rfl), decR, unpack_of_widths (ws := widthsR) (by rfl)]
    simp only [List.map_cons, List.map_nil, ofNat_toNat_mod, b2n_mod_beq_one, Nat.zero_mod, if_true]
  enc_of_read {_ x _} opc hx hread := by
    have hpack := pack_unpack widthsR x hx
    obtain ⟨hrsv, rfl⟩ := eq_of_ite_ok hread
    simp only [widthsR, unpack, List.zip_cons_cons, List.zip_nil_right, pack, Nat.mod_mod, hrsv, Nat.zero_mod] at hpack
    simp only [encR, pack, BitVec.toNat_ofNat, Nat.mod_mod, b2n_beq_one_mod, Nat.zero_mod, hpack]

/-- Format I (10 R243). -/
def codecI : Codec where
  Fields := FmtI
  hdr f := f.h
  enc := encI
  read := decI
  row opc f := rowI opc f.sub.toNat
  unpackHdr_enc f := unpackHdr_word f.h (pack_lt_of_widths (ws := widthsI) rfl rfl)
  enc_lt := encI_lt
  read_enc opc f := by
    rw [encI, word_mod _ (pack_lt_of_widths (ws := widthsI) (by rfl) rfl), decI, unpack_of_widths (ws := widthsI) (by rfl)]
    simp only [List.map_cons, List.map_nil, ofNat_toNat_mod, b2n_mod_beq_one, Nat.zero_mod, if_true]
  enc_of_read {_ x _} opc hx hread := by
    have hpack := pack_unpack widthsI x hx
    obtain ⟨hrsv, rfl⟩ := eq_of_ite_ok hread
    simp only [widthsI, unpack, List.zip_cons_cons, List.zip_nil_right, pack, Nat.mod_mod, hrsv, Nat.zero_mod] at hpack
    simp only [encI, pack, BitVec.toNat_ofNat, Nat.mod_mod, b2n_beq_one_mod, Nat.zero_mod, hpack]

/-- Format M (10 R244). -/
def codecM : Codec where
  Fields := FmtM
  hdr f := f.h
  enc := encM
  read := decM
  row opc _ := rowM opc 0
  unpackHdr_enc f := unpackHdr_word f.h (pack_lt_of_widths (ws := widthsM) rfl rfl)
  enc_lt := encM_lt
  read_enc opc f := by
    rw [encM, word_mod _ (pack_lt_of_widths (ws := widthsM) (by rfl) rfl), decM, unpack_of_widths (ws := widthsM) (by rfl)]
    simp only [List.map_cons, List.map_nil, ofNat_toNat_mod]
  enc_of_read {_ x _} opc hx hread := by
    have hpack := pack_unpack widthsM x hx
    cases hread
    simp only [widthsM, unpack, List.zip_cons_cons, List.zip_nil_right, pack, Nat.mod_mod] at hpack
    simp only [encM, pack, BitVec.toNat_ofNat, Nat.mod_mod, hpack]

/-- Format B (10 R245). -/
def codecB : Codec where
  Fields := FmtB
  hdr f := f.h
  enc := encB
  read := decB
  row opc f := rowB opc f.sub.toNat
  unpackHdr_enc f := unpackHdr_word f.h (pack_lt_of_widths (ws := widthsB) rfl rfl)
  enc_lt := encB_lt
  read_enc opc f := by
    rw [encB, word_mod _ (pack_lt_of_widths (ws := widthsB) (by rfl) rfl), decB, unpack_of_widths (ws := widthsB) (by rfl)]
    simp only [List.map_cons, List.map_nil, ofNat_toNat_mod, b2n_mod_beq_one, Nat.zero_mod, if_true]
  enc_of_read {_ x _} opc hx hread := by
    have hpack := pack_unpack widthsB x hx
    obtain ⟨hrsv, rfl⟩ := eq_of_ite_ok hread
    simp only [widthsB, unpack, List.zip_cons_cons, List.zip_nil_right, pack, Nat.mod_mod, hrsv, Nat.zero_mod] at hpack
    simp only [encB, pack, BitVec.toNat_ofNat, Nat.mod_mod, b2n_beq_one_mod, Nat.zero_mod, hpack]

/-- Format A (10 R246). -/
def codecA : Codec where
  Fields := FmtA
  hdr f := f.h
  enc := encA
  read := decA
  row opc f := rowA opc f.sub.toNat
  unpackHdr_enc f := unpackHdr_word f.h (pack_lt_of_widths (ws := widthsA) rfl rfl)
  enc_lt := encA_lt
  read_enc opc f := by
    rw [encA, word_mod _ (pack_lt_of_widths (ws := widthsA) (by rfl) rfl), decA, unpack_of_widths (ws := widthsA) (by rfl)]
    simp only [List.map_cons, List.map_nil, ofNat_toNat_mod]
  enc_of_read {_ x _} opc hx hread := by
    have hpack := pack_unpack widthsA x hx
    cases hread
    simp only [widthsA, unpack, List.zip_cons_cons, List.zip_nil_right, pack, Nat.mod_mod] at hpack
    simp only [encA, pack, BitVec.toNat_ofNat, Nat.mod_mod, hpack]

/-- Format X (10 R247). -/
def codecX : Codec where
  Fields := FmtX
  hdr f := f.h
  enc := encX
  read := decX
  row opc f := rowX opc f.sub.toNat
  unpackHdr_enc f := unpackHdr_word f.h (pack_lt_of_widths (ws := widthsX) rfl rfl)
  enc_lt := encX_lt
  read_enc opc f := by
    rw [encX, word_mod _ (pack_lt_of_widths (ws := widthsX) (by rfl) rfl), decX, unpack_of_widths (ws := widthsX) (by rfl)]
    simp only [List.map_cons, List.map_nil, ofNat_toNat_mod, b2n_mod_beq_one, Nat.zero_mod, if_true]
  enc_of_read {_ x _} opc hx hread := by
    have hpack := pack_unpack widthsX x hx
    obtain ⟨hrsv, rfl⟩ := eq_of_ite_ok hread
    simp only [widthsX, unpack, List.zip_cons_cons, List.zip_nil_right, pack, Nat.mod_mod, hrsv, Nat.zero_mod] at hpack
    simp only [encX, pack, BitVec.toNat_ofNat, Nat.mod_mod, b2n_beq_one_mod, Nat.zero_mod, hpack]

/-- Format G (10 R248). -/
def codecG : Codec where
  Fields := FmtG
  hdr f := f.h
  enc := encG
  read := decG
  row opc f := rowG opc f.sub.toNat
  unpackHdr_enc f := unpackHdr_word f.h (pack_lt_of_widths (ws := widthsG) rfl rfl)
  enc_lt := encG_lt
  read_enc opc f := by
    rw [encG, word_mod _ (pack_lt_of_widths (ws := widthsG) (by rfl) rfl), decG, unpack_of_widths (ws := widthsG) (by rfl)]
    simp only [List.map_cons, List.map_nil, ofNat_toNat_mod]
  enc_of_read {_ x _} opc hx hread := by
    have hpack := pack_unpack widthsG x hx
    cases hread
    simp only [widthsG, unpack, List.zip_cons_cons, List.zip_nil_right, pack, Nat.mod_mod] at hpack
    simp only [encG, pack, BitVec.toNat_ofNat, Nat.mod_mod, hpack]

/-- The format that a name stands for. -/
def codec : Format → Codec
  | .R => codecR
  | .I => codecI
  | .M => codecM
  | .B => codecB
  | .A => codecA
  | .X => codecX
  | .G => codecG

end Sys2Proof.Machine
end

section
/-!
PROOF. Decoding and encoding undo each other (10 R230, R234, R249 to R251, 11 R291): the major selects a format, and the major and SUB a
row.
-/
namespace Sys2Proof.Machine

/-- The instruction of what was read, by the row that it selects. -/
def instrOf {φ : Type} (fields : Except DecodeErr φ) (row : φ → Except DecodeErr (φ → Instr)) : Except DecodeErr Instr :=
  match fields with
  | .error e => .error e
  | .ok f => match row f with
    | .error e => .error e
    | .ok c => .ok (c f)

/-- It is an instruction where both the fields and the row are there. -/
theorem instrOf_ok {φ : Type} {fields : Except DecodeErr φ} {row : φ → Except DecodeErr (φ → Instr)} {i : Instr} :
    instrOf fields row = .ok i ↔ ∃ f c, fields = .ok f ∧ row f = .ok c ∧ c f = i := by
  cases fields with
  | error e => simp [instrOf]
  | ok f => cases hrow : row f <;> simp [instrOf, hrow]

/-- A word is decoded by the format of its major (10 R249). -/
theorem decode_of_format {w opc : Nat} {h : Hdr} {F : Format} (hword : unpackHdr (w / 2 ^ 72 % 2 ^ 24) = (opc, h))
    (hformat : formatOf opc = some F) : decode w = instrOf ((codec F).read h (w % 2 ^ 72)) ((codec F).row opc) := by
  simp only [decode, hword, hformat]
  cases F
  all_goals
    simp only [codec, codecR, codecI, codecM, codecB, codecA, codecX, codecG]
    split
    · simp only [instrOf, *]
    · split <;> simp only [instrOf, *]

/-- A word whose major has no format does not decode. -/
theorem decode_of_no_format {w opc : Nat} {h : Hdr} (hword : unpackHdr (w / 2 ^ 72 % 2 ^ 24) = (opc, h)) (hformat : formatOf opc = none) :
    decode w = .error .unassignedOpcode := by
  simp only [decode, hword, hformat]

/-- An assigned major has seven bits (10 R249). -/
theorem formatOf_lt {opc : Nat} {F : Format} (h : formatOf opc = some F) : opc < 128 := by
  unfold formatOf at h
  split at h <;> simp at h ⊢

/-- The word of fields whose major and fields select a row decodes to that row's instruction. -/
theorem decode_enc {F : Format} {opc : Nat} {f : (codec F).Fields} {c : (codec F).Fields → Instr} (hformat : formatOf opc = some F)
    (hrow : (codec F).row opc f = .ok c) : decode ((codec F).enc opc f) = .ok (c f) := by
  rw [decode_of_format ((codec F).unpackHdr_enc f (formatOf_lt hformat)) hformat, instrOf_ok]
  exact ⟨f, c, (codec F).read_enc opc f, hrow, rfl⟩

/-- What a word decodes to is a row's instruction, and the word is that of its fields under its header. -/
theorem enc_of_decode {w : Nat} {i : Instr} (hw : w < 2 ^ 96) (hdecode : decode w = .ok i) :
    ∃ F opc f c, (codec F).row opc f = .ok c ∧ c f = i ∧ (codec F).enc opc f = w := by
  obtain ⟨⟨opc, h⟩, hword⟩ : ∃ p, unpackHdr (w / 2 ^ 72 % 2 ^ 24) = p := ⟨_, rfl⟩
  cases hformat : formatOf opc with
  | none => cases hdecode.symm.trans (decode_of_no_format hword hformat)
  | some F =>
    rw [decode_of_format hword hformat] at hdecode
    obtain ⟨f, c, hread, hrow, hi⟩ := instrOf_ok.1 hdecode
    refine ⟨F, opc, f, c, hrow, hi, ?_⟩
    rw [(codec F).enc_of_read opc (Nat.mod_lt _ (by decide)) hread, packHdr_of_unpackHdr (Nat.mod_lt _ (by decide)) hword]
    omega

/-- The instruction of a row is well formed, and its word is that of the row's format and major (10 R250, R251, 11 R291). -/
theorem row_wellFormed {F : Format} {opc : Nat} {f : (codec F).Fields} {c : (codec F).Fields → Instr}
    (hrow : (codec F).row opc f = .ok c) : WellFormed (c f) = true ∧ encode (c f) = (codec F).enc opc f := by
  cases F
  case B =>
    change rowB opc f.sub.toNat = .ok c at hrow
    unfold rowB at hrow
    repeat' split at hrow
    all_goals cases hrow
    case h_5.isFalse.refl hodd => exact ⟨beq_iff_eq.2 (Nat.mod_two_ne_zero.1 hodd), rfl⟩
    all_goals exact ⟨by simp only [WellFormed, beq_iff_eq, *], rfl⟩
  all_goals
    simp only [codec, codecR, codecI, codecM, codecA, codecX, codecG, rowR, rowI, rowM, rowA, rowX, rowG] at hrow
    repeat' split at hrow
    all_goals cases hrow
    all_goals exact ⟨by simp only [WellFormed, beq_iff_eq, *], rfl⟩

/-- An immediate major selects by the whole of SUB (10 R251). -/
theorem rowI_of_sub {opc n : Nat} {f : FmtI} {c : FmtI → Instr} (h : (f.sub.toNat == n) = true) (hrow : rowI opc n = .ok c) :
    (codec .I).row opc f = .ok c := by
  change rowI opc f.sub.toNat = .ok c
  rw [← hrow, ← eq_of_beq h]

/-- CALL selects by SUB<0> (11 R291). -/
theorem rowB_of_sub {opc n : Nat} {f : FmtB} {c : FmtB → Instr} (h : (f.sub.toNat % 2 == n) = true) (hrow : rowB opc n = .ok c) :
    (codec .B).row opc f = .ok c := by
  change rowB opc f.sub.toNat = .ok c
  rw [← hrow, ← eq_of_beq h]
  simp only [rowB, Nat.mod_mod]

/-- A shared major selects by SUB<3:0> (10 R250). -/
theorem rowA_of_sub {opc n : Nat} {f : FmtA} {c : FmtA → Instr} (h : (f.sub.toNat % 16 == n) = true) (hrow : rowA opc n = .ok c) :
    (codec .A).row opc f = .ok c := by
  change rowA opc f.sub.toNat = .ok c
  rw [← hrow, ← eq_of_beq h]
  simp only [rowA, Nat.mod_mod]

/-- The same in format X. -/
theorem rowX_of_sub {opc n : Nat} {f : FmtX} {c : FmtX → Instr} (h : (f.sub.toNat % 16 == n) = true) (hrow : rowX opc n = .ok c) :
    (codec .X).row opc f = .ok c := by
  change rowX opc f.sub.toNat = .ok c
  rw [← hrow, ← eq_of_beq h]
  simp only [rowX, Nat.mod_mod]

/-- The same in format G. -/
theorem rowG_of_sub {opc n : Nat} {f : FmtG} {c : FmtG → Instr} (h : (f.sub.toNat % 16 == n) = true) (hrow : rowG opc n = .ok c) :
    (codec .G).row opc f = .ok c := by
  change rowG opc f.sub.toNat = .ok c
  rw [← hrow, ← eq_of_beq h]
  simp only [rowG, Nat.mod_mod]

/-- Each well-formed instruction is that of a row, and its word that of the row's format and major (10 R249 to R251, 11 R291). -/
theorem wellFormed_row {i : Instr} (h : WellFormed i = true) :
    ∃ F opc f c, encode i = (codec F).enc opc f ∧ c f = i ∧ formatOf opc = some F ∧ (codec F).row opc f = .ok c := by
  cases i with
  | split f | exitL f | yield f | nop f | iadd f | iadd3 f | isub f | imul f | imulh f | imad f | imin f | imax f | iabs f
  | andB f | orB f | xorB f | notB f | shl f | shr f | sar f | rot f | bfe f | bfi f | popc f | clz f | brev f | sel f | mov f
  | lea f | icmp f | pset f | plop f | pmov f | fadd f | fsub f | fmul f | ffma f | fmin f | fmax f | fcmp f | fclass f | frnd f
  | cvt f | rcp f | rsq f | sqrt f | exp2 f | log2 f | sin f | cos f | shfl f | vote f | redux f | scan f | matchV f | flagclr f =>
    exact ⟨.R, _, f, _, rfl, rfl, rfl, rfl⟩
  | movi f =>
    exact ⟨.I, _, f, _, rfl, rfl, rfl, rfl⟩
  | iaddImm f | isubImm f | imulImm f | imulhImm f | iminImm f | imaxImm f | andImm f | orImm f | xorImm f | shlImm f | shrImm f
  | sarImm f | rotImm f | leaImm f | icmpImm f | faddImm f | fsubImm f | fmulImm f | fminImm f | fmaxImm f | fcmpImm f =>
    exact ⟨.I, _, f, _, rfl, rfl, rfl, rowI_of_sub h rfl⟩
  | ld f | st f | atom f | red f | pref f | cflush f | cinv f | fence f =>
    exact ⟨.M, _, f, _, rfl, rfl, rfl, rfl⟩
  | bra f | brx f | ret f | join f =>
    exact ⟨.B, _, f, _, rfl, rfl, rfl, rfl⟩
  | call f | callInd f =>
    exact ⟨.B, _, f, _, rfl, rfl, rfl, rowB_of_sub h rfl⟩
  | stt f | xlate f | cpy f | cpyr f =>
    exact ⟨.A, _, f, _, rfl, rfl, rfl, rfl⟩
  | tdset f | tdget f | rinit f | rwait f | rrel f | wait f | waitany f | waitall f | tfirst f | ttest f | tcancel f =>
    exact ⟨.A, _, f, _, rfl, rfl, rfl, rowA_of_sub h rfl⟩
  | mxrdy f | mxa f | mxsp f | mxld f | mxst f | mxzero f | tmask f | cred f | mcast f =>
    exact ⟨.X, _, f, _, rfl, rfl, rfl, rfl⟩
  | mxsave f | mxrest f | cbset f | cbswap f =>
    exact ⟨.X, _, f, _, rfl, rfl, rfl, rowX_of_sub h rfl⟩
  | trap f | syscall f | rtt f | bkpt f | gnew f | launch f | halt f =>
    exact ⟨.G, _, f, _, rfl, rfl, rfl, rfl⟩
  | gjoin f | gleave f | garrive f | gvote f | gred f | gwait f | gstat f | gabort f | gfree f | ctradd f | ctrwait f | cancel f
  | sysrd f | syswr f | tlbinv f | rfclr f | mbox f | irq f =>
    exact ⟨.G, _, f, _, rfl, rfl, rfl, rowG_of_sub h rfl⟩
  | _ => nomatch h

/-- A word of 96 bits is read whole. -/
theorem decodeTableWord_of_decode {w : Nat} {i : Instr} (hw : w < 2 ^ 96) (hdecode : decode w = .ok i) : decodeTableWord 96 w = some i := by
  rw [decodeTableWord, Nat.mod_mod, Nat.mod_eq_of_lt hw, hdecode]

/-- Settles O57: both ways through the row that the major and SUB select, in the format of the major. -/
theorem encodeDecode : Obligations.EncodeDecode := by
  refine ⟨fun i hwf => ?_, fun w i hw hdecode => ?_⟩
  · obtain ⟨F, opc, f, c, henc, rfl, hformat, hrow⟩ := wellFormed_row hwf
    have hdecode := henc ▸ decode_enc hformat hrow
    exact ⟨hdecode, decodeTableWord_of_decode (henc ▸ (codec F).enc_lt opc f) hdecode⟩
  · obtain ⟨F, opc, f, c, hrow, rfl, henc⟩ := enc_of_decode hw hdecode
    obtain ⟨hwf, hword⟩ := row_wellFormed hrow
    exact ⟨hwf, hword.trans henc⟩

/-- Settles O58: each word is that of a well-formed instruction; the last two have an unassigned major and a reserved bit set. -/
theorem decodedWords : Obligations.DecodedWords := by
  have decodes (w : Nat) (i : Instr) (hwf : WellFormed i = true) (hword : encode i = w) : decode w = .ok i :=
    hword ▸ (encodeDecode.1 i hwf).1
  exact ⟨decodes _ _ rfl rfl, decodes _ _ rfl rfl, decodes _ _ rfl rfl, decodes _ _ rfl rfl, decodes _ _ rfl rfl, decodes _ _ rfl rfl,
    decodes _ _ rfl rfl, decodes _ _ rfl rfl, decodes _ _ rfl rfl, by decide, by decide⟩

end Sys2Proof.Machine
end

section
/-!
PROOF. The immediate forms of the integer instructions (10 R243, R251, 11 R260).
-/
namespace Sys2Proof.Machine

/-- `int_gives` for the immediate form of an instruction: what is left to say is what the model computes in it. -/
theorem intImmediate_gives {i : Instr} {f : FmtI} {w : Nat} {sgn sat : Bool} (hty : intTy f.h f.tw = some (w, sgn)) (lat : Nat)
    (op : Nat → Int → Int → Int → Int) {z : Int → Int → Int → Int}
    (hexec : ∀ s, exec i s = intOp (asR f) (some f.imm) true false sat false lat op s) (hop : op w = z) :
    IntGives i (asR f) (sigIntOp (asR f) (some f.imm) true false sat false) w sgn (some (immClass sgn f.imm)) z :=
  int_gives i (asR f) w sgn hty (some f.imm) true false sat false lat op z hop hexec

/-- Settles O2: each form is the shared integer operation with the immediate in the place of OPB. -/
theorem integerImmediateResults : Obligations.IntegerImmediateResults := by
  intro f w sgn hty
  refine ⟨intImmediate_gives hty latInt (fun _ a b _ => a + b) (fun s => (rfl : _ = execIaddImm f s)) rfl,
    intImmediate_gives hty latInt (fun _ a b _ => a - b) (fun s => (rfl : _ = execIsubImm f s)) rfl,
    intImmediate_gives hty latMul (fun _ a b _ => a * b) (fun s => (rfl : _ = execImulImm f s)) rfl,
    intImmediate_gives hty latMul (fun w a b _ => a * b / ((2 ^ w : Nat) : Int)) (fun s => (rfl : _ = execImulhImm f s)) ?_,
    intImmediate_gives hty latInt (fun _ a b _ => min a b) (fun s => (rfl : _ = execIminImm f s)) ?_,
    intImmediate_gives hty latInt (fun _ a b _ => max a b) (fun s => (rfl : _ = execImaxImm f s)) ?_⟩ <;> funext a b _
  · rw [Nat.cast_pow, Nat.cast_ofNat]
  · exact (min_comm a b).trans (min_def_lt b a)
  · exact max_def_lt a b

end Sys2Proof.Machine
end

section
/-!
PROOF. A FENCE whose guard is false in every lane still writes its tag (09 R218, 12 R312), and so traps where the tag is pending (12 R315).
-/
namespace Sys2Proof.Machine

/-- A FENCE that passes its checks and whose tag is pending traps with TAG-PENDING, whatever its guard. -/
theorem exec_fence_of_pending {s : State} {x : Iss} {f : FmtM} {act : Mask} (hissues : issuer s = some x)
    (hpasses : vet s x f.h (sigFence f) = .go act)
    (hpending : (tagOf (consumeSrc s x (sigFence f).uses act) x.core (tagNo x.sheet f.data.toNat)).ready = false) :
    exec (.fence f) s = .next (sheetTrap (consumeSrc s x (sigFence f).uses act) x cControl ctlTagPending) := by
  show execFence f s = _
  simp only [execFence, issueOp, hissues, hpasses, withTag, hpending, Bool.false_eq_true, if_false]

/-- `FENCE.sc.dev t0` with the guard `!p7`, which is false in every lane. -/
def idleFence : FmtM :=
  { h := ⟨false, 0, 15, 7, false, 0⟩, data := 0x140, base := 0x1FF, index := 0x1FF, off := 0, ord := 3, scope := 5, evp := 0, asp := 0,
    wid := 0, subop := 0 }

/-- A leaf of lane 0 in a run. -/
def fencingLeaf : Leaf := { slot := 0, pc := 0, mask := 1, inRun := true }

/-- Its sheet, with one tag and no v-registers. -/
def fencingSheet : Sheet := { ctx := 0, launch := 0, task := 0, index := 0, base := 0, nregs := 0, tbase := 0, ntags := 1 }

/-- A device that has that leaf, about to issue, and whose tag is pending. -/
def fencingState : State :=
  { cores := [(0, { leaves := [(0, fencingLeaf)], sheets := [(0, fencingSheet)], tags := [(0, { ready := false })] })], cur := some (0, 0) }

/-- That leaf as it issues. -/
def fencingIss : Iss := { core := 0, entry := 0, leaf := fencingLeaf, sheet := fencingSheet }

/-- Refutes O53: a FENCE whose guard is false in every lane traps where its tag is pending, and the statement has it go on. -/
theorem not_issueChecks : ¬ Obligations.IssueChecks := by
  rintro ⟨-, -, checked⟩
  have hissues : issuer fencingState = some fencingIss := rfl
  have hpasses : vet fencingState fencingIss idleFence.h (sigFence idleFence) = .go 0 := by decide
  obtain ⟨t, hexec, ⟨l, hleaf, hpc, -⟩, -⟩ := (checked (.fence idleFence) _ _ rfl fencingState fencingIss hissues).2.2
    (by decide) (by decide) rfl (by decide) (by decide) (fun _ => nofun) (fun _ => nofun) (fun _ => nofun)
  cases (exec_fence_of_pending hissues hpasses rfl).symm.trans hexec
  have htrap : (leafOf (sheetTrap fencingState fencingIss cControl ctlTagPending) 0 0).map (·.pc) ≠ some (nextPc 0) := by decide
  exact htrap ((congrArg (Option.map (·.pc)) hleaf).trans (congrArg some hpc))

end Sys2Proof.Machine
end

section
/-!
PROOF. Integer arithmetic in registers (11 R260).
-/
namespace Sys2Proof.Machine

/-- `int_gives` for the register form of an instruction. -/
theorem intRegister_gives {i : Instr} {f : FmtR} {w : Nat} {sgn hasB hasC satOk signedOnly : Bool} {lat : Nat}
    {op : Nat → Int → Int → Int → Int} {z : Int → Int → Int → Int} (hty : intTy f.h f.tw = some (w, sgn)) (hop : op w = z)
    (hexec : ∀ s, exec i s = intOp f none hasB hasC satOk signedOnly lat op s) :
    IntGives i f (sigIntOp f none hasB hasC satOk signedOnly) w sgn none z :=
  int_gives i f w sgn hty none hasB hasC satOk signedOnly lat op z hop hexec

/-- Settles O1: each instruction is the shared integer operation on its exact result. -/
theorem integerResults : Obligations.IntegerResults := by
  intro f w sgn hty
  refine ⟨intRegister_gives hty rfl fun s => (rfl : _ = execIadd f s), intRegister_gives hty rfl fun s => (rfl : _ = execIadd3 f s),
    intRegister_gives hty rfl fun s => (rfl : _ = execIsub f s), intRegister_gives hty rfl fun s => (rfl : _ = execImul f s),
    intRegister_gives hty ?high fun s => (rfl : _ = execImulh f s), intRegister_gives hty rfl fun s => (rfl : _ = execImad f s),
    intRegister_gives hty ?least fun s => (rfl : _ = execImin f s), intRegister_gives hty ?greatest fun s => (rfl : _ = execImax f s),
    fun _ => intRegister_gives hty ?magnitude fun s => (rfl : _ = execIabs f s)⟩ <;> funext a b _
  case high => rw [Nat.cast_pow, Nat.cast_ofNat]
  case least => exact (min_comm a b).trans (min_def_lt b a)
  case greatest => exact max_def_lt a b
  case magnitude => split <;> omega

end Sys2Proof.Machine
end

section
/-!
SUPPORT. The model's arithmetic on numbers as arithmetic on bit vectors (11 R260 to R265).
-/
namespace Sys2Proof.Machine

theorem wrapZ_eq (w : Nat) (z : Int) : wrapZ w z = (BitVec.ofInt w z).toNat := (BitVec.toNat_ofInt ..).symm

theorem sgnN_eq (w x : Nat) : sgnN w x = (BitVec.ofNat w x).toInt := by
  rw [sgnN, BitVec.toInt_eq_toNat_cond, BitVec.toNat_ofNat]
  split <;> split <;> omega

/-- An immediate of a signed or bits class is sign-extended (10 R243). -/
theorem immInt_signed (w : Nat) (i : BitVec 32) : immInt true w i = (i.signExtend w).toNat := by
  rw [immInt, if_pos rfl, wrapZ_eq, sgnN_eq, BitVec.ofNat_toNat, BitVec.setWidth_eq, BitVec.signExtend]

theorem shlN_eq (w n : Nat) (a : BitVec w) : shlN w a.toNat n = (a <<< n).toNat := by
  rw [shlN, BitVec.toNat_shiftLeft, Nat.shiftLeft_eq]
  split
  · rename_i h
    exact (Nat.mod_eq_zero_of_dvd (Dvd.dvd.mul_left (Nat.pow_dvd_pow 2 h) _)).symm
  · rfl

theorem shrN_eq (w n : Nat) (a : BitVec w) : shrN w a.toNat n = (a >>> n).toNat := by
  rw [shrN, BitVec.toNat_ushiftRight, Nat.shiftRight_eq_div_pow]
  split
  · rename_i h
    exact (Nat.div_eq_of_lt (a.isLt.trans_le (Nat.pow_le_pow_right Nat.two_pos h))).symm
  · rfl

/-- Shifting out more places than a value has bits changes nothing further. -/
theorem toInt_shiftRight_min (w n : Nat) (a : BitVec w) : a.toInt >>> min n w = a.toInt >>> n := by
  rcases Nat.le_total n w with h | h
  · rw [Nat.min_eq_left h]
  · have hlow := BitVec.le_toInt a
    have hhigh := BitVec.toInt_lt (x := a)
    have bound (k : Nat) (hk : w ≤ k) : (2 : Int) ^ (w - 1) ≤ 2 ^ k := pow_le_pow_right₀ (by decide) (by omega)
    have value (k : Nat) (hk : w ≤ k) : a.toInt / (2 : Int) ^ k = if a.toInt < 0 then -1 else 0 := by
      have := bound k hk
      split
      · rw [Int.ediv_eq_neg_one_of_neg_of_le] <;> omega
      · exact Int.ediv_eq_zero_of_lt (by omega) (by omega)
    rw [Nat.min_eq_right h, Int.shiftRight_eq_div_pow, Int.shiftRight_eq_div_pow]
    push_cast
    rw [value w le_rfl, value n h]

theorem sarN_eq (w n : Nat) (a : BitVec w) : sarN w a.toNat n = (a.sshiftRight n).toNat := by
  rw [sarN, wrapZ_eq, sgnN_eq, BitVec.ofNat_toNat, BitVec.setWidth_eq, ← Int.shiftRight_eq_div_pow, toInt_shiftRight_min]
  rfl

/-- A value turned by fewer places than it has: the two parts do not overlap. -/
theorem rotated_add {w k a : Nat} (hk : k ≤ w) (ha : a < 2 ^ w) : a * 2 ^ k % 2 ^ w + a / 2 ^ (w - k) = a * 2 ^ k % 2 ^ w ||| a / 2 ^ (w - k) := by
  have hw : 2 ^ w = 2 ^ (w - k) * 2 ^ k := by rw [← Nat.pow_add, Nat.sub_add_cancel hk]
  have hhigh : a / 2 ^ (w - k) < 2 ^ k := Nat.div_lt_of_lt_mul (hw ▸ ha)
  rw [hw, Nat.mul_mod_mul_right, Nat.mul_comm, Nat.two_pow_add_eq_or_of_lt hhigh]

theorem rotN_left_eq (w n : Nat) (a : BitVec w) : rotN false w a.toNat n = (a.rotateLeft (n % w)).toNat := by
  rcases Nat.eq_zero_or_pos w with rfl | hw
  · simp [rotN, BitVec.of_length_zero]
  · have hk := Nat.mod_lt n hw
    rw [BitVec.toNat_rotateLeft, Nat.mod_mod, Nat.shiftLeft_eq, Nat.shiftRight_eq_div_pow, rotN]
    exact rotated_add hk.le a.isLt

theorem rotN_right_eq (w n : Nat) (a : BitVec w) : rotN true w a.toNat n = (a.rotateRight (n % w)).toNat := by
  rcases Nat.eq_zero_or_pos w with rfl | hw
  · simp [rotN, BitVec.of_length_zero]
  · have hk := Nat.mod_lt n hw
    rw [BitVec.toNat_rotateRight, Nat.mod_mod, Nat.shiftLeft_eq, Nat.shiftRight_eq_div_pow, rotN]
    generalize n % w = k at hk
    rcases Nat.eq_zero_or_pos k with rfl | hpos
    · simp [Nat.mod_eq_of_lt a.isLt, Nat.div_eq_of_lt a.isLt]
    · have hturn : (w - k) % w = w - k := Nat.mod_eq_of_lt (by omega)
      have hback : w - (w - k) = k := by omega
      have := rotated_add (Nat.sub_le w k) a.isLt
      rw [hback] at this
      simp only [if_true, hturn, hback]
      rw [this, Nat.or_comm]

end Sys2Proof.Machine
end

section
/-!
PROOF. Logic and shifts (11 R261, 10 R251).
-/
namespace Sys2Proof.Machine

/-- What `logicOp` gives, on bit vectors. -/
theorem logic_givesBits {i : Instr} {f : FmtR} {w : Nat} (hty : bitsTy f.h f.tw = some w) {imm : Option (BitVec 32)} {hasB : Bool}
    {op : Nat → Nat → Nat → Nat} {z : BitVec w → BitVec w → BitVec w} (hz : ∀ a b : BitVec w, op w a.toNat b.toNat = (z a b).toNat)
    (hexec : ∀ s, exec i s = logicOp f imm hasB op s) :
    BitsGives i f (sigLogicOp f imm hasB) w (imm.map (·.signExtend w)) z := by
  refine logic_gives i f w hty imm hasB op _ (fun s x act l _ _ => ?_) hexec
  have value (c : Opd) : (BitVec.ofNat w (readOpd s x (rdW w) c.toNat l)).toNat = readOpd s x (rdW w) c.toNat l :=
    ofNat_toNat_lt (readOpd_lt s x w (bitsTy_w hty) c.toNat l)
  rw [← hz, value]
  cases imm with
  | none => exact congrArg _ (value f.opb).symm
  | some b => exact congrArg _ (immInt_signed w b)

/-- What `shiftOp` gives, on bit vectors. -/
theorem shift_givesBits {i : Instr} {f : FmtR} {w : Nat} (hty : bitsTy f.h f.tw = some w) {imm : Option (BitVec 32)} {modOk : Bool}
    {op : Nat → Nat → Nat → Nat} {z : BitVec w → Nat → BitVec w} (hz : ∀ n (a : BitVec w), op w a.toNat n = (z a n).toNat)
    (hexec : ∀ s, exec i s = shiftOp f imm modOk op s) :
    ShiftGives i f (sigShiftOp f imm modOk) w (imm.map (·.toNat)) z := by
  refine shift_gives i f w hty imm modOk op z (fun a n ha _ => ?_) hexec
  rw [← hz, ofNat_toNat_lt ha]

/-- ROT, in the direction that MOD<0> gives. -/
theorem rotN_eq (right : Bool) (w n : Nat) (a : BitVec w) :
    rotN right w a.toNat n = (if right then a.rotateRight (n % w) else a.rotateLeft (n % w)).toNat := by
  cases right
  · exact rotN_left_eq w n a
  · exact rotN_right_eq w n a

theorem notN_eq (w : Nat) (a : BitVec w) : 2 ^ w - 1 - a.toNat % 2 ^ w = (~~~a).toNat := by
  rw [BitVec.toNat_not, Nat.mod_eq_of_lt a.isLt]

/-- Settles O3: the register forms and the immediate forms are the same operations on bits. -/
theorem logicAndShiftResults : Obligations.LogicAndShiftResults := by
  refine ⟨fun f w hty => ⟨?_, ?_, ?_, ?_, ?_, ?_, ?_, ?_⟩, fun f w hty => ⟨?_, ?_, ?_, ?_, ?_, ?_, ?_⟩⟩
  · exact logic_givesBits hty (fun a b => (BitVec.toNat_and a b).symm) fun s => (rfl : _ = execAnd f s)
  · exact logic_givesBits hty (fun a b => (BitVec.toNat_or a b).symm) fun s => (rfl : _ = execOr f s)
  · exact logic_givesBits hty (fun a b => (BitVec.toNat_xor a b).symm) fun s => (rfl : _ = execXor f s)
  · exact logic_givesBits hty (fun a _ => notN_eq w a) fun s => (rfl : _ = execNot f s)
  · exact shift_givesBits hty (shlN_eq w) fun s => (rfl : _ = execShl f s)
  · exact shift_givesBits hty (shrN_eq w) fun s => (rfl : _ = execShr f s)
  · exact shift_givesBits hty (sarN_eq w) fun s => (rfl : _ = execSar f s)
  · exact shift_givesBits hty (rotN_eq _ w) fun s => (rfl : _ = execRot f s)
  · exact logic_givesBits (f := asR f) hty (fun a b => (BitVec.toNat_and a b).symm) fun s => (rfl : _ = execAndImm f s)
  · exact logic_givesBits (f := asR f) hty (fun a b => (BitVec.toNat_or a b).symm) fun s => (rfl : _ = execOrImm f s)
  · exact logic_givesBits (f := asR f) hty (fun a b => (BitVec.toNat_xor a b).symm) fun s => (rfl : _ = execXorImm f s)
  · exact shift_givesBits (f := asR f) hty (shlN_eq w) fun s => (rfl : _ = execShlImm f s)
  · exact shift_givesBits (f := asR f) hty (shrN_eq w) fun s => (rfl : _ = execShrImm f s)
  · exact shift_givesBits (f := asR f) hty (sarN_eq w) fun s => (rfl : _ = execSarImm f s)
  · exact shift_givesBits (f := asR f) hty (rotN_eq _ w) fun s => (rfl : _ = execRotImm f s)

end Sys2Proof.Machine
end

section
/-!
PROOF. Bit fields and bit counts (11 R262).
-/
namespace Sys2Proof.Machine

/-! ### Fields -/

theorem fieldOf_eq_none {w p n : Nat} (h : w ≤ p % 256 ∨ n % 256 = 0) : fieldOf w p n = none := if_pos h

theorem fieldOf_eq_some {w p n : Nat} (h : ¬ (w ≤ p % 256 ∨ n % 256 = 0)) :
    fieldOf w p n = some (p % 256, min (n % 256) (w - p % 256)) := if_neg h

/-- The bits of a value of which a field is replaced. -/
theorem testBit_putSlice (x v l n i : Nat) (hn : 0 < n) :
    (putSlice x (l + n - 1) l v).testBit i = if l ≤ i ∧ i < l + n then v.testBit (i - l) else x.testBit i := by
  have hlow : x % 2 ^ l < 2 ^ l := Nat.mod_lt _ (Nat.two_pow_pos l)
  have hslice : v % 2 ^ n < 2 ^ n := Nat.mod_lt _ (Nat.two_pow_pos n)
  have hinner : 2 ^ l * (v % 2 ^ n) + x % 2 ^ l < 2 ^ (l + n) := by
    rw [Nat.pow_add]
    calc 2 ^ l * (v % 2 ^ n) + x % 2 ^ l < 2 ^ l * (v % 2 ^ n) + 2 ^ l := by omega
      _ = 2 ^ l * (v % 2 ^ n + 1) := by ring
      _ ≤ 2 ^ l * 2 ^ n := Nat.mul_le_mul_left _ hslice
  have hput : putSlice x (l + n - 1) l v = 2 ^ (l + n) * (x / 2 ^ (l + n)) + (2 ^ l * (v % 2 ^ n) + x % 2 ^ l) := by
    have hhigh : l + n - 1 + 1 = l + n := by omega
    have hwidth : l + n - l = n := by omega
    simp only [putSlice, hhigh, hwidth]
    ring
  rw [hput, Nat.testBit_two_pow_mul_add _ hinner]
  split
  · rw [Nat.testBit_two_pow_mul_add _ hlow]
    split
    · rw [if_neg (by omega), Nat.testBit_mod_two_pow]
      simp [*]
    · rw [if_pos (by omega), Nat.testBit_mod_two_pow]
      simp; omega
  · rw [if_neg (by omega), Nat.testBit_div_two_pow, Nat.sub_add_cancel (by omega)]

/-- BFE of one lane: the field, extended by the class. -/
theorem extracted_eq {w a p n : Nat} {sgn : Bool} (ha : a < 2 ^ w) (h : ¬ (w ≤ p ∨ n = 0)) :
    (if sgn then wrapZ w (sgnN (min n (w - p)) (a / 2 ^ p % 2 ^ min n (w - p))) else a / 2 ^ p % 2 ^ min n (w - p)) =
      if sgn then (((BitVec.ofNat w a).extractLsb' p (min n (w - p))).signExtend w).toNat
      else (((BitVec.ofNat w a).extractLsb' p (min n (w - p))).zeroExtend w).toNat := by
  have hfield : BitVec.ofNat (min n (w - p)) (a / 2 ^ p % 2 ^ min n (w - p)) = (BitVec.ofNat w a).extractLsb' p (min n (w - p)) := by
    refine BitVec.eq_of_toNat_eq ?_
    rw [BitVec.extractLsb'_toNat, ofNat_toNat_lt ha, BitVec.toNat_ofNat, Nat.mod_mod, Nat.shiftRight_eq_div_pow]
  cases sgn
  · have hlt : a / 2 ^ p % 2 ^ min n (w - p) < 2 ^ min n (w - p) := Nat.mod_lt _ (Nat.two_pow_pos _)
    have hle : (2 : Nat) ^ min n (w - p) ≤ 2 ^ w := Nat.pow_le_pow_right Nat.two_pos (by omega)
    simp only [Bool.false_eq_true, if_false, ← hfield, BitVec.zeroExtend_eq_setWidth, BitVec.toNat_setWidth, BitVec.toNat_ofNat, Nat.mod_mod]
    exact (Nat.mod_eq_of_lt (hlt.trans_le hle)).symm
  · rw [if_pos rfl, if_pos rfl, wrapZ_eq, sgnN_eq, hfield, BitVec.signExtend]

/-- The bits of BFI in one lane. -/
theorem inserted_spec {w a p n : Nat} (ins : Nat) (ha : a < 2 ^ w) (h : ¬ (w ≤ p ∨ n = 0)) :
    putSlice a (p + min n (w - p) - 1) p ins < 2 ^ w ∧ ∀ i, i < w → (putSlice a (p + min n (w - p) - 1) p ins).testBit i =
      if p ≤ i ∧ i < p + n then ins.testBit (i - p) else a.testBit i := by
  have bits (i : Nat) := testBit_putSlice a ins p (min n (w - p)) i (by omega)
  refine ⟨Nat.lt_pow_two_of_testBit _ fun i hi => ?_, fun i hi => ?_⟩
  · rw [bits, if_neg (by omega), Nat.testBit_lt_two_pow (ha.trans_le (Nat.pow_le_pow_right Nat.two_pos hi))]
  · rw [bits]
    exact if_congr (by omega) rfl rfl

/-! ### Counts and reversal -/

theorem popcN_eq (w a : Nat) : popcN w a = (List.range w).countP a.testBit := by
  simp only [popcN, bitN_eq, List.countP_eq_length_filter]

theorem clzN_spec {w a : Nat} (ha : a < 2 ^ w) :
    clzN w a ≤ w ∧ (∀ i, i < w → w - clzN w a ≤ i → a.testBit i = false) ∧ (clzN w a < w → a.testBit (w - 1 - clzN w a) = true) := by
  rw [clzN, Nat.mod_eq_of_lt ha]
  split
  · rename_i h0
    exact ⟨le_rfl, fun i _ _ => by simp [h0], fun h => absurd h (lt_irrefl w)⟩
  · rename_i h0
    have htop : a.log2 < w := (Nat.log2_lt h0).2 ha
    refine ⟨by omega, fun i _ hi => ?_, fun _ => ?_⟩
    · exact Nat.testBit_lt_two_pow (Nat.lt_log2_self.trans_le (Nat.pow_le_pow_right Nat.two_pos (by omega)))
    · rw [show w - 1 - (w - 1 - a.log2) = a.log2 by omega]
      exact Nat.testBit_log2 h0

theorem foldl_add_eq_sum (g : Nat → Nat) (n : Nat) : (List.range n).foldl (fun r i => r + g i) 0 = ∑ i ∈ Finset.range n, g i := by
  induction n with
  | zero => rfl
  | succ n ih => rw [List.range_succ, List.foldl_append, ih, Finset.sum_range_succ, List.foldl_cons, List.foldl_nil]

/-- The sum over the bits, taken from the other end. -/
theorem brevN_eq (w a : Nat) :
    brevN w a = (List.range w).foldl (fun r i => r + if a.testBit (w - 1 - i) then 2 ^ i else 0) 0 := by
  rw [brevN, foldl_add_eq_sum (fun i => if bitN a i then 2 ^ (w - 1 - i) else 0), foldl_add_eq_sum fun i => if a.testBit (w - 1 - i) then 2 ^ i else 0,
    ← Finset.sum_range_reflect]
  refine Finset.sum_congr rfl fun i hi => ?_
  have := Finset.mem_range.1 hi
  rw [bitN_eq, show w - 1 - (w - 1 - i) = i by omega]

theorem brevN_spec (w a : Nat) : brevN w a < 2 ^ w ∧ ∀ i, i < w → (brevN w a).testBit i = a.testBit (w - 1 - i) := by
  rw [brevN_eq]
  exact foldl_bits (fun i => a.testBit (w - 1 - i)) w

/-- What `countOp` gives. -/
theorem count_gives {i : Instr} {f : FmtR} {w : Nat} (hty : bitsTy f.h f.tw = some w) (op : Nat → Nat → Nat) {P : State → Iss → Mask → Nat → Nat → Prop}
    (hP : ∀ s x act l, readOpd s x (rdW w) f.opa.toNat l < 2 ^ w → P s x act l (op w (readOpd s x (rdW w) f.opa.toNat l)))
    (hexec : ∀ s, exec i s = countOp f op s) : Gives i f.h (sigCountOp f) f.dst.toNat false false P := by
  refine gives_plain latInt (fun s x _ l => op w (readOpd s x (rdW w) f.opa.toNat l)) (fun s => ?_) (fun _ _ _ _ h => absurd h Bool.false_ne_true)
    fun s x act l _ _ => ?_
  · rw [hexec]
    simp only [countOp, hty, Option.getD_some]
  · rw [readOpd_consumeSrc]
    exact hP s x act l (readOpd_lt s x w (bitsTy_w hty) f.opa.toNat l)

/-! ### The instructions -/

theorem bfe_gives {f : FmtR} {w : Nat} {sgn : Bool} (hty : intTy f.h f.tw = some (w, sgn)) :
    Gives (.bfe f) f.h (sigBfe f) f.dst.toNat (w = 64) sgn (fun s x _ l y =>
      let a := BitVec.ofNat w (readOpd s x (rdW w) f.opa.toNat l)
      let pos := readOpd s x .i32 f.opb.toNat l % 256
      let len := readOpd s x .i32 f.opc.toNat l % 256
      if w ≤ pos ∨ len = 0 then y = 0
      else
        let field := a.extractLsb' pos (min len (w - pos))
        y = if sgn then (field.signExtend w).toNat else (field.zeroExtend w).toNat) := by
  obtain rfl : ((intTy f.h f.tw).getD (32, false)).1 = w := by rw [hty]; rfl
  obtain rfl : ((intTy f.h f.tw).getD (32, false)).2 = sgn := by rw [hty]; rfl
  refine gives_plain latInt _ (fun s => (rfl : _ = execBfe f s)) (fun s x act r => dst_pair r f.dst _ List.mem_cons_self) fun s x act l _ _ => ?_
  simp only [readOpd_consumeSrc]
  split
  · rename_i h
    rw [fieldOf_eq_none h]
  · rename_i h
    rw [fieldOf_eq_some h]
    exact extracted_eq (readOpd_lt s x _ (intTy_w hty) f.opa.toNat l) h

theorem bfi_gives {f : FmtR} {w : Nat} (hty : bitsTy f.h f.tw = some w) :
    Gives (.bfi f) f.h (sigBfi f) f.dst.toNat (w = 64) false (fun s x _ l y =>
      let a := readOpd s x (rdW w) f.opa.toNat l
      let ins := readOpd s x (rdW w) f.opb.toNat l
      let pos := readOpd s x .i32 f.opc.toNat l % 256
      let len := readOpd s x .i32 f.dst2.toNat l % 256
      y < 2 ^ w ∧ ∀ i, i < w → y.testBit i = if pos ≤ i ∧ i < pos + len then ins.testBit (i - pos) else a.testBit i) := by
  obtain rfl : (bitsTy f.h f.tw).getD 32 = w := by rw [hty]; rfl
  refine gives_plain latInt _ (fun s => (rfl : _ = execBfi f s)) (fun s x act r => dst_pair r f.dst _ List.mem_cons_self) fun s x act l _ _ => ?_
  have ha := readOpd_lt s x _ (bitsTy_w hty) f.opa.toNat l
  simp only [readOpd_consumeSrc]
  by_cases h : (bitsTy f.h f.tw).getD 32 ≤ readOpd s x .i32 f.opc.toNat l % 256 ∨ readOpd s x .i32 f.dst2.toNat l % 256 = 0
  · rw [fieldOf_eq_none h]
    exact ⟨ha, fun i hi => (if_neg (by omega)).symm⟩
  · rw [fieldOf_eq_some h]
    exact inserted_spec _ ha h

/-- Settles O4: fields by their bits, counts and reversal by the model's own functions on one value. -/
theorem bitFieldResults : Obligations.BitFieldResults := by
  refine ⟨fun f w sgn hty => bfe_gives hty, fun f w hty => ⟨bfi_gives hty, ?_, ?_, ?_⟩⟩
  · exact count_gives hty popcN (fun _ _ _ _ _ => popcN_eq w _) fun s => (rfl : _ = execPopc f s)
  · exact count_gives hty clzN (fun _ _ _ _ ha => clzN_spec ha) fun s => (rfl : _ = execClz f s)
  · exact logic_gives (.brev f) f w hty none false (fun w a _ => brevN w a) _ (fun s x _ l _ _ => brevN_spec w _) fun s => (rfl : _ = execBrev f s)

end Sys2Proof.Machine
end

section
/-!
PROOF. Selection, moves and addresses (11 R263 to R265, 10 R243).
-/
namespace Sys2Proof.Machine

/-! ### SEL and MOV -/

theorem sel_gives {f : FmtR} {w : Nat} (hty : bitsTy f.h f.tw = some w) :
    Gives (.sel f) f.h (sigSel f) f.dst.toNat (w = 64) false (fun s x _ l y =>
      y = if readBit s x f.opc.toNat l then readOpd s x (rdW w) f.opa.toNat l else readOpd s x (rdW w) f.opb.toNat l) := by
  obtain rfl : (bitsTy f.h f.tw).getD 32 = w := by rw [hty]; rfl
  refine gives_plain latInt _ (fun s => (rfl : _ = execSel f s)) (fun s x act r => dst_pair r f.dst _ List.mem_cons_self) fun s x act l _ _ => ?_
  simp only [readOpd_consumeSrc, readBit_consumeSrc]

/-- A v-register that MOV may write is one that any result may go to. -/
theorem dst_of_dstH {h : Sheet} {w64 : Bool} {c : Nat} (hl : opdLegal h (.dstH w64) c = true) (hv : isV c = true) :
    opdLegal h (.dst w64) c = true := by
  have hh : isH c = false := Bool.eq_false_iff.2 fun hh => by rw [(isH_not hh).1] at hv; cases hv
  simpa only [opdLegal, hh, Bool.or_false] using hl

theorem mov_gives {f : FmtR} {w : Nat} (hty : bitsTy f.h f.tw = some w) :
    Gives (.mov f) f.h (sigMov f) f.dst.toNat (w = 64) false (fun s x _ l y => y = readOpd s x (rdW w) f.opa.toNat l) := by
  obtain rfl : (bitsTy f.h f.tw).getD 32 = w := by rw [hty]; rfl
  refine gives_plain latInt _ (fun s => (rfl : _ = execMov f s)) (fun s x act r h64 hv => ?_) fun s x act l _ _ => readOpd_consumeSrc ..
  have hdst := r.legal.2 (f.dst, .dstH _) List.mem_cons_self
  rw [h64] at hdst
  exact pair_isV (dst_of_dstH hdst hv) hv

/-! ### LEA -/

/-- The address that LEA forms, in 64-bit arithmetic. -/
theorem address_eq (sgn : Bool) (a i m : Nat) :
    wrapZ 64 ((a : Int) + asInt 32 sgn (i % 2 ^ 32) * ((2 ^ m : Nat) : Int)) =
      (BitVec.ofNat 64 a + (if sgn then (BitVec.ofNat 32 i).signExtend 64 else (BitVec.ofNat 32 i).zeroExtend 64) <<< m).toNat := by
  have hi : BitVec.ofInt 64 (asInt 32 sgn (i % 2 ^ 32)) =
      if sgn then (BitVec.ofNat 32 i).signExtend 64 else (BitVec.ofNat 32 i).zeroExtend 64 := by
    cases sgn
    · exact BitVec.eq_of_toNat_eq (by simp [asInt]; omega)
    · rw [asInt, if_pos rfl, if_pos rfl, sgnN_eq, BitVec.signExtend]
      exact congrArg (fun v : BitVec 32 => BitVec.ofInt 64 v.toInt) (BitVec.eq_of_toNat_eq (by simp))
  rw [wrapZ_eq, BitVec.ofInt_add, BitVec.ofInt_mul, hi, BitVec.ofInt_natCast, BitVec.ofInt_natCast, BitVec.shiftLeft_eq_mul_twoPow,
    BitVec.twoPow_eq]
  congr 3
  exact BitVec.eq_of_toNat_eq (by simp [Nat.shiftLeft_eq])

/-- What `leaOp` gives. -/
theorem lea_gives {i : Instr} {f : FmtR} {sgn : Bool} (hty : intTy f.h f.tw = some (64, sgn)) (imm : Option (BitVec 32))
    (hexec : ∀ s, exec i s = leaOp f imm s) :
    Gives i f.h (sigLeaOp f imm) f.dst.toNat true false (fun s x _ l y =>
      let b := (imm.getD (BitVec.ofNat 32 (readOpd s x .i64 f.opb.toNat l)))
      y = (BitVec.ofNat 64 (readOpd s x .i64 f.opa.toNat l) + (if sgn then b.signExtend 64 else b.zeroExtend 64) <<< f.mod.toNat).toNat) := by
  obtain rfl : ((intTy f.h f.tw).getD (64, false)).2 = sgn := by rw [hty]; rfl
  refine gives_plain latInt _ (fun s => (hexec s).trans (rfl : _ = leaOp f imm s)) (fun s x act r => dst_pair r f.dst _ List.mem_cons_self)
    fun s x act l _ _ => ?_
  rw [address_eq, readOpd_consumeSrc]
  cases imm with
  | none => simp only [Option.map_none, srcB, readOpd_consumeSrc, Option.getD_none]
  | some b => simp only [Option.map_some, srcB, Option.getD_some, BitVec.ofNat_toNat, BitVec.setWidth_eq]

/-- Settles O5: SEL and MOV write one of the values that they read, LEA its address in 64-bit arithmetic. -/
theorem selectMoveAddressResults : Obligations.SelectMoveAddressResults :=
  ⟨fun _ _ hty => ⟨sel_gives hty, mov_gives hty⟩, fun f _ hty => lea_gives hty none fun s => (rfl : _ = execLea f s),
    fun f _ hty => lea_gives (f := asR f) hty (some f.imm) fun s => (rfl : _ = execLeaImm f s)⟩

/-! ### MOVI -/

/-- A 64-bit result is not extended. -/
theorem Gives.wide {i : Instr} {h : Hdr} {g : Sig} {c : Nat} {sx : Bool} {P : State → Iss → Mask → Nat → Nat → Prop}
    (hg : Gives i h g c true sx P) (sx' : Bool) : Gives i h g c true sx' P := hg

/-- What MOVI gives without `.hi`. -/
theorem movi_gives {f : FmtI} {w v : Nat} (hval : moviVal f.h f.tw f.imm = some (w, v)) (hlow : f.mod.getLsbD 0 = false) :
    Gives (.movi f) f.h (sigMovi f) f.dst.toNat (w = 64) (f.h.cls == 1) (fun _ _ _ _ y => y = v) := by
  obtain rfl : ((moviVal f.h f.tw f.imm).getD (32, 0)).1 = w := by rw [hval]; rfl
  obtain rfl : ((moviVal f.h f.tw f.imm).getD (32, 0)).2 = v := by rw [hval]; rfl
  refine gives_plain latInt (fun _ _ _ _ => ((moviVal f.h f.tw f.imm).getD (32, 0)).2) (fun s => ?_)
    (fun s x act r => dst_pair r f.dst _ List.mem_cons_self) fun _ _ _ _ _ _ => rfl
  show execMovi f s = _
  simp only [execMovi, hlow, Bool.false_eq_true, if_false]

/-- `.hi` is accepted under `.b64` alone (11 R264). -/
theorem movi_hi_legal {s : State} {x : Iss} {f : FmtI} {act : Mask} (r : Runs s x f.h (sigMovi f) act) (hhi : f.mod.getLsbD 0 = true) :
    f.h.cls = 3 ∧ f.tw = 3 := by
  have hok := r.legal.1
  simp only [sigMovi, hhi, Bool.and_eq_true, Bool.not_true, Bool.false_or, beq_iff_eq] at hok
  exact hok.2

/-- What MOVI gives under a floating type. -/
theorem movi_givesFloat {f : FmtI} {v : Nat} (hcls : f.h.cls = 4) (hval : moviVal f.h f.tw f.imm = some (32, v)) :
    Gives (.movi f) f.h (sigMovi f) f.dst.toNat false false (fun _ _ _ _ y => y = v) := by
  cases hhi : f.mod.getLsbD 0 with
  | true =>
    intro s x act r
    have := (movi_hi_legal r hhi).1
    rw [hcls] at this
    exact absurd this (by decide)
  | false =>
    have := movi_gives hval hhi
    rwa [hcls] at this

/-- What `.hi` writes: the high register of a pair, or the high half of an s-register. -/
theorem movi_hi {s : State} {x : Iss} {f : FmtI} {act : Mask} (r : Runs s x f.h (sigMovi f) act) (hhi : f.mod.getLsbD 0 = true)
    (hw : isV f.dst.toNat = true → Writable s x act (f.dst.toNat + 1)) :
    ∃ t, exec (.movi f) s = .next t ∧ GoneOn t x ∧
      (isV f.dst.toNat = true → ∀ l, act.has l = true →
        rawElem t x f.dst.toNat l = rawElem s x f.dst.toNat l ∧ rawElem t x (f.dst.toNat + 1) l = f.imm.toNat) ∧
      (isS f.dst.toNat = true →
        rawElem t x f.dst.toNat 0 = f.imm.toNat * 2 ^ 32 + rawElem s x f.dst.toNat 0 % 2 ^ 32) := by
  obtain ⟨hcls, htw⟩ := movi_hi_legal r hhi
  obtain ⟨low, hlow⟩ := lowLane_isSome r.some_lane
  have hpair : isV f.dst.toNat = true → isV (f.dst.toNat + 1) = true :=
    dst_pair r f.dst _ List.mem_cons_self (by simp [moviVal, hcls, htw])
  have hexec := (show exec (.movi f) s = execMovi f s from rfl).trans (plainOp_runs r _)
  simp only [hhi, if_true] at hexec
  generalize hs0 : consumeSrc s x (sigMovi f).uses act = s0 at hexec
  have hraw (c l : Nat) : rawElem s0 x c l = rawElem s x c l := hs0 ▸ rawElem_consumeSrc ..
  have hhome : Home s0 x := hs0 ▸ r.home
  have hleaf : leafOf s0 x.core x.entry = some x.leaf := hs0 ▸ (leafOf_consumeSrc ..).trans (issuer_some r.issues).1
  by_cases hv : isV f.dst.toNat = true
  · rw [if_pos hv] at hexec
    have hs : ¬ isS f.dst.toNat = true := fun hs => by rw [isS_not_isV hs] at hv; cases hv
    refine ⟨_, hexec, doneOp_gone (((regsOnly_writeElem ..).leaf ..).trans hleaf) _, fun _ l hl => ?_, fun h => absurd h hs⟩
    have written (c : Nat) := rawElem_writeElem s0 x (f.dst.toNat + 1) act latInt (fun _ => f.imm.toNat) low hlow r.some_lane hhome
      (fun _ => hs0 ▸ (writable_consumeSrc ..).2 (hw hv)) c l (has_lt hl)
    rw [rawElem_doneOp, rawElem_doneOp, written, written, if_neg (by omega), if_pos rfl, hraw]
    simp only [putVal, hpair hv, hl, if_true]
    exact ⟨trivial, Nat.mod_eq_of_lt f.imm.isLt⟩
  · rw [if_neg hv] at hexec
    by_cases hs : isS f.dst.toNat = true
    · rw [if_pos hs] at hexec
      refine ⟨_, hexec, doneOp_gone (((regsOnly_writeElem ..).leaf ..).trans hleaf) _, fun h => absurd h hv, fun _ => ?_⟩
      have huniform : rawElem s x f.dst.toNat low = rawElem s x f.dst.toNat 0 := by simp [rawElem, hv, hs]
      have himm := f.imm.isLt
      rw [rawElem_doneOp, rawElem_writeElem s0 x f.dst.toNat act latInt _ low hlow r.some_lane hhome (fun h => absurd h hv) _ 0 (by decide),
        if_pos rfl, hraw]
      simp only [putVal, hv, hs, Bool.false_eq_true, if_false, if_true, hraw, huniform]
      omega
    · rw [if_neg hs] at hexec
      exact ⟨_, hexec, doneOp_gone hleaf _, fun h => absurd h hv, fun h => absurd h hs⟩

/-- Settles O6: the immediate at its type, and the two halves under `.hi`. -/
theorem moveImmediateResults : Obligations.MoveImmediateResults := by
  intro f
  refine ⟨fun hmod htw hcls => ?_, fun hmod htw hcls => ?_, fun hmod htw hcls => ?_, fun hcls htw => ?_, fun hcls htw => ?_,
    fun hmod s x act r hw => movi_hi r (by rw [hmod]; rfl) hw⟩
  · exact movi_gives (w := 32) (by rcases hcls with h | h | h <;> simp [moviVal, h, htw]) (by rw [hmod]; rfl)
  · have hval : moviVal f.h f.tw f.imm = some (64, (f.imm.signExtend 64).toNat) := by
      rw [← immInt_signed]
      rcases hcls with h | h <;> simp [moviVal, h, htw]
    exact (movi_gives hval (by rw [hmod]; rfl)).wide false
  · exact (movi_gives (w := 64) (by simp [moviVal, hcls, htw]) (by rw [hmod]; rfl)).wide false
  · exact movi_givesFloat hcls (by rcases htw with h | h <;> simp [moviVal, hcls, h])
  · refine movi_givesFloat hcls ?_
    rcases htw with h | h <;> simp [moviVal, hcls, h]

end Sys2Proof.Machine
end

section
/-!
PROOF. Comparisons, predicates and flags (11 R266 to R268, R287).
-/
namespace Sys2Proof.Machine

/-! ### ICMP, PSET and PLOP -/

theorem condInt_iff (m : Nat) (a b : Int) : condInt m a b = true ↔ icmpCond m a b := by
  unfold condInt icmpCond
  split <;> simp_all

theorem not_condInt_iff (m : Nat) (a b : Int) : (!condInt m a b) = false ↔ icmpCond m a b := by
  rw [Bool.not_eq_false', condInt_iff]

/-- Source B of an integer instruction, read as the class says. -/
theorem asInt_srcB {w : Nat} (hw : w = 32 ∨ w = 64) (sgn : Bool) (s : State) (x : Iss) (t : RdTy) (f : FmtR) (imm : Option (BitVec 32)) (l : Nat) :
    asInt w sgn (srcB s x t f (imm.map (immInt sgn w)) l) =
      (imm.map (immClass sgn)).getD (asClass w sgn (readOpd s x t f.opb.toNat l)) := by
  cases imm with
  | none => exact asClass_eq w hw sgn _
  | some b => exact immInt_eq w hw sgn b

/-- What `icmpOp` gives. -/
theorem icmp_gives {i : Instr} {f : FmtR} {w : Nat} {sgn : Bool} (hty : intTy f.h f.tw = some (w, sgn)) (imm : Option (BitVec 32))
    (hdst2 : f.dst2 = 0x1FF ∨ (f.dst2, Role.dstPN) ∈ (sigIcmpOp f imm).uses) (hexec : ∀ s, exec i s = icmpOp f imm s) :
    let c := fun (s : State) (x : Iss) (l : Nat) => icmpCond f.mod.toNat (asClass w sgn (readOpd s x (rdW w) f.opa.toNat l))
      ((imm.map (immClass sgn)).getD (asClass w sgn (readOpd s x (rdW w) f.opb.toNat l)))
    GivesPred i f.h (sigIcmpOp f imm) f.dst.toNat f.dst2.toNat
      (fun s x _ l v => v = true ↔ c s x l) (fun s x _ l v => v = false ↔ c s x l) := by
  have hw := intTy_w hty
  obtain rfl : ((intTy f.h f.tw).getD (32, false)).1 = w := by rw [hty]; rfl
  obtain rfl : ((intTy f.h f.tw).getD (32, false)).2 = sgn := by rw [hty]; rfl
  refine gives_pred f.dst f.dst2 latInt _ _ (fun s => (hexec s).trans (rfl : _ = icmpOp f imm s)) List.mem_cons_self hdst2
    fun s x act l _ _ => ?_
  simp only [condInt_iff, not_condInt_iff, asInt_srcB hw, asClass_eq _ hw, readOpd_consumeSrc, and_self]

/-- What is said of the first predicate alone. -/
theorem GivesPred.first {i : Instr} {h : Hdr} {g : Sig} {c c2 : Nat} {P Q : State → Iss → Mask → Nat → Bool → Prop}
    (hg : GivesPred i h g c c2 P Q) : GivesPred i h g c c2 P fun _ _ _ _ _ => True := by
  intro s x act r
  obtain ⟨t, v, w, hexec, hgone, hv, hw, hP⟩ := hg s x act r
  exact ⟨t, v, w, hexec, hgone, hv, hw, fun l hl => ⟨(hP l hl).1, trivial⟩⟩

theorem pset_gives (f : FmtR) :
    GivesPred (.pset f) f.h (sigPset f) f.dst.toNat 0x1FF
      (fun s x _ l v => v = if f.mod = 1 then readOpd s x .i32 f.opa.toNat l != 0 else (readOpd s x .i32 f.opa.toNat l).testBit l)
      (fun _ _ _ _ _ => True) := by
  refine gives_pred f.dst 0x1FF latInt _ _ (fun s => (rfl : _ = execPset f s)) List.mem_cons_self (.inl rfl) fun s x act l r _ => ⟨?_, trivial⟩
  have hok := r.legal.1
  have hmod : f.mod.getLsbD 0 = decide (f.mod = 1) := by
    simp only [sigPset, Bool.and_eq_true, decide_eq_true_eq] at hok
    have hle := hok.2
    revert hle
    generalize f.mod = m
    revert m
    decide
  simp only [readOpd_consumeSrc, bitN_eq, hmod, decide_eq_true_eq]

theorem plop_gives (f : FmtR) :
    GivesPred (.plop f) f.h (sigPlop f) f.dst.toNat 0x1FF
      (fun s x _ l v => v = f.sub.getLsbD (4 * (readBit s x f.opa.toNat l).toNat + 2 * (readBit s x f.opb.toNat l).toNat +
        (readBit s x f.opc.toNat l).toNat)) (fun _ _ _ _ _ => True) := by
  refine gives_pred f.dst 0x1FF latInt _ _ (fun s => (rfl : _ = execPlop f s)) List.mem_cons_self (.inl rfl) fun s x act l _ _ => ⟨?_, trivial⟩
  have hbit : b2n = Bool.toNat := funext fun b => by cases b <;> rfl
  simp only [readBit_consumeSrc, bitN_eq, hbit]
  rfl

/-! ### PMOV -/

/-- Bit `i` of what PMOV packs: the predicates `p` in bits 6:0, a 1 in bit 7, the flags `e` in bits 12:8. -/
def packedBit (p e : Nat → Bool) (i : Nat) : Bool := if i < 7 then p i else if i = 7 then true else e (i - 8)

theorem packedBit_flag (p e : Nat → Bool) (i : Nat) : packedBit p e (8 + i) = e i := by
  rw [packedBit, if_neg (by omega), if_neg (by omega), Nat.add_sub_cancel_left]

theorem two_pow_mul_b2n (i : Nat) (b : Bool) : 2 ^ i * b2n b = if b then 2 ^ i else 0 := by cases b <;> simp [b2n]

theorem packed_eq (p e : Nat → Bool) :
    (List.range 7).foldl (fun a i => a + 2 ^ i * b2n (p i)) 0x80 + (List.range 5).foldl (fun a i => a + 2 ^ (8 + i) * b2n (e i)) 0 =
      (List.range 13).foldl (fun a i => a + if packedBit p e i then 2 ^ i else 0) 0 := by
  simp only [two_pow_mul_b2n, List.range_succ, List.range_zero, List.nil_append, List.cons_append, List.foldl_cons, List.foldl_nil, packedBit]
  norm_num
  ring

theorem pmov_packs {f : FmtR} (hmod : f.mod = 0) :
    Gives (.pmov f) f.h (sigPmov f) f.dst.toNat false false (fun s x _ l y =>
      y < 2 ^ 13 ∧ (∀ i, i < 7 → y.testBit i = readBit s x (0x190 + i) l) ∧ y.testBit 7 = true ∧
        ∀ i, i < 5 → y.testBit (8 + i) = readBit s x (0x198 + i) l) := by
  have hzero : f.mod.toNat = 0 := by rw [hmod]; rfl
  refine gives_plain latInt (fun s x _ l => (List.range 7).foldl (fun a i => a + 2 ^ i * b2n (readBit s x (0x190 + i) l)) 0x80 +
      (List.range 5).foldl (fun a i => a + 2 ^ (8 + i) * b2n (readBit s x (0x198 + i) l)) 0) (fun s => ?_)
    (fun _ _ _ _ h => absurd h Bool.false_ne_true) fun s x act l _ _ => ?_
  · show execPmov f s = _
    simp only [execPmov, hzero, if_true]
  · simp only [readBit_consumeSrc]
    rw [packed_eq (fun i => readBit s x (0x190 + i) l) fun i => readBit s x (0x198 + i) l]
    obtain ⟨hlt, hbit⟩ := foldl_bits (packedBit (fun i => readBit s x (0x190 + i) l) fun i => readBit s x (0x198 + i) l) 13
    exact ⟨hlt, fun i hi => (hbit i (by omega)).trans (if_pos hi), hbit 7 (by decide), fun i hi => (hbit (8 + i) (by omega)).trans (packedBit_flag ..)⟩

/-- What every element holds after writes to the registers from `b`, none of them a v-register. -/
theorem rawElem_foldWrites {x : Iss} {m : Mask} {low : Nat} (hlow : lowLane m = some low) (hm : m ≠ 0) (lat b : Nat) (v : Nat → Nat → Nat) (n : Nat)
    (hb : ∀ i, i < n → isV (b + i) = false) (s : State) (hh : Home s x) :
    Home ((List.range n).foldl (fun s i => writeElem s x (b + i) m lat (v i)) s) x ∧ ∀ c l, l < 32 →
      rawElem ((List.range n).foldl (fun s i => writeElem s x (b + i) m lat (v i)) s) x c l =
        if b ≤ c ∧ c < b + n then putVal c m (v (c - b)) low l (rawElem s x c l) else rawElem s x c l := by
  induction n with
  | zero => exact ⟨hh, fun c l _ => (if_neg (by omega)).symm⟩
  | succ n ih =>
    obtain ⟨ihHome, ihRaw⟩ := ih fun i hi => hb i (by omega)
    rw [List.range_succ, List.foldl_append, List.foldl_cons, List.foldl_nil]
    refine ⟨(regsOnly_writeElem ..).home ihHome, fun c l hl => ?_⟩
    rw [rawElem_writeElem _ x (b + n) m lat (v n) low hlow hm ihHome (fun h => by rw [hb n (by omega)] at h; cases h) c l hl]
    split
    · rename_i hc
      subst hc
      rw [ihRaw _ l hl, if_neg (by omega), if_pos (by omega), Nat.add_sub_cancel_left]
    · rw [ihRaw c l hl]
      exact if_congr (by omega) rfl rfl

theorem isP_code {i : Nat} (hi : i < 7) : isP (0x190 + i) = true ∧ 0x190 + i ≠ 0x197 := ⟨by simp [isP]; omega, by omega⟩

/-- A predicate takes the bits that are written to it. -/
theorem putVal_predicate {i : Nat} (hi : i < 7) {m : Mask} {l : Nat} (hl : m.has l = true) (v : Nat → Nat) (low old : Nat) :
    putVal (0x190 + i) m v low l old = b2n (v l != 0) := by
  obtain ⟨hp, hne⟩ := isP_code hi
  obtain ⟨hv, hs, hh⟩ := isP_not hp
  simp only [putVal, hv, hs, hh, hp, bne_iff_ne.2 hne, Bool.and_self, Bool.true_or, Bool.false_eq_true, if_false, if_true, hl]

/-- A flag takes the bits that are written to it. -/
theorem putVal_flag {i : Nat} (hi : i < 5) {m : Mask} {l : Nat} (hl : m.has l = true) (v : Nat → Nat) (low old : Nat) :
    putVal (0x198 + i) m v low l old = b2n (v l != 0) := by
  obtain ⟨hv, hs, hh, hp⟩ := isE_not (isE_code hi)
  simp only [putVal, hv, hs, hh, hp, isE_code hi, Bool.or_true, Bool.false_eq_true, if_false, if_true, hl]

/-- What a list of one entry for each lane holds for a lane. -/
theorem getD_map_lanes {α : Type} (q : Nat → α) (d : α) {l : Nat} (hl : l < 32) : (lanes.map q)[l]?.getD d = q l := by
  simp [lanes, List.getElem?_range hl]

/-- What PMOV writes of the values `a`: the predicates, and under `.all` the flags. -/
def unpack (x : Iss) (act : Mask) (all : Bool) (a : Nat → Nat) (s : State) : State :=
  let s := (List.range 7).foldl (fun s i => writeElem s x (0x190 + i) act latInt fun l => b2n (bitN (a l) i)) s
  if all then (List.range 5).foldl (fun s i => writeElem s x (0x198 + i) act latInt fun l => b2n (bitN (a l) (8 + i))) s else s

theorem regsOnly_unpack {s : State} {x : Iss} {act : Mask} (hm : act ≠ 0) (hh : Home s x) (all : Bool) (a : Nat → Nat) :
    RegsOnly s (unpack x act all a s) x := by
  have first := (wrote_pmov_predicates (fl := false) hm hh latInt fun i l => b2n (bitN (a l) i)).regs
  unfold unpack
  cases all
  · exact first
  · exact first.trans (wrote_pmov_flags (ws := []) hm (first.home hh) latInt fun i l => b2n (bitN (a l) (8 + i))).regs

theorem unpack_spec {s : State} {x : Iss} {act : Mask} (hm : act ≠ 0) (hh : Home s x) (all : Bool) (a : Nat → Nat) {l : Nat} (hl : act.has l = true) :
    (∀ i, i < 7 → rawElem (unpack x act all a s) x (0x190 + i) l = b2n ((a l).testBit i)) ∧
    ∀ i, i < 5 → flagBit (unpack x act all a s) x i l = if all then (a l).testBit (8 + i) else flagBit s x i l := by
  obtain ⟨low, hlow⟩ := lowLane_isSome hm
  obtain ⟨hhome, first⟩ := rawElem_foldWrites hlow hm latInt 0x190 (fun i l => b2n (bitN (a l) i)) 7 (fun i hi => (isP_not (isP_code hi).1).1) s hh
  have second := (rawElem_foldWrites hlow hm latInt 0x198 (fun i l => b2n (bitN (a l) (8 + i))) 5 (fun i hi => (isE_not (isE_code hi)).1) _ hhome).2
  have hl' := has_lt hl
  have hpred (i : Nat) (hi : i < 7) := (first (0x190 + i) l hl').trans (if_pos (by omega))
  simp only [Nat.add_sub_cancel_left, bitN_eq] at hpred
  unfold unpack flagBit
  cases all
  · refine ⟨fun i hi => ?_, fun i hi => ?_⟩
    · simp only [Bool.false_eq_true, if_false, bitN_eq, hpred i hi, putVal_predicate hi hl, b2n_bne]
    · simp only [Bool.false_eq_true, if_false, first (0x198 + i) l hl']
      rw [if_neg (by omega)]
  · refine ⟨fun i hi => ?_, fun i hi => ?_⟩
    · simp only [if_true, second (0x190 + i) l hl']
      rw [if_neg (by omega)]
      simp only [bitN_eq, hpred i hi, putVal_predicate hi hl, b2n_bne]
    · simp only [if_true, second (0x198 + i) l hl']
      rw [if_pos (by omega), putVal_flag hi hl, Nat.add_sub_cancel_left, bitN_eq, b2n_bne, b2n_bne]

theorem exec_pmov_unpacks {f : FmtR} (hmod : f.mod = 1 ∨ f.mod = 2) (s : State) :
    exec (.pmov f) s = plainOp s f.h (sigPmov f) fun s x act =>
      unpack x act (decide (f.mod = 2)) (fun l => (lanes.map fun l => readOpd s x .i32 f.opa.toNat l)[l]?.getD 0) s := by
  show execPmov f s = _
  rcases hmod with h | h <;> simp [execPmov, h, unpack]

theorem pmov_unpacks {f : FmtR} (hmod : f.mod = 1 ∨ f.mod = 2) {s : State} {x : Iss} {act : Mask} (r : Runs s x f.h (sigPmov f) act) :
    ∃ t, exec (.pmov f) s = .next t ∧ GoneOn t x ∧
      ∀ l, act.has l = true →
        (∀ i, i < 7 → rawElem t x (0x190 + i) l = b2n ((readOpd s x .i32 f.opa.toNat l).testBit i)) ∧
        ∀ i, i < 5 → flagBit t x i l = if f.mod = 2 then (readOpd s x .i32 f.opa.toNat l).testBit (8 + i) else flagBit s x i l := by
  have hregs := regsOnly_unpack r.some_lane r.home (decide (f.mod = 2))
  refine ⟨_, (exec_pmov_unpacks hmod s).trans (plainOp_runs r _), doneOp_gone ?_ _, fun l hl => ?_⟩
  · rw [(hregs _).leaf, leafOf_consumeSrc]
    exact (issuer_some r.issues).1
  · obtain ⟨hpred, hflag⟩ := unpack_spec r.some_lane r.home (decide (f.mod = 2))
      (fun l => (lanes.map fun l => readOpd (consumeSrc s x (sigPmov f).uses act) x .i32 f.opa.toNat l)[l]?.getD 0) hl
    have hval : (lanes.map fun l => readOpd (consumeSrc s x (sigPmov f).uses act) x .i32 f.opa.toNat l)[l]?.getD 0 =
        readOpd s x .i32 f.opa.toNat l := by
      rw [getD_map_lanes _ _ (has_lt hl), readOpd_consumeSrc]
    simp only [hval, flagBit_consumeSrc, decide_eq_true_eq] at hpred hflag
    exact ⟨fun i hi => by rw [rawElem_doneOp, hpred i hi], fun i hi => by rw [flagBit_doneOp, hflag i hi]⟩

/-! ### FLAGCLR -/

theorem flagclr_clears {f : FmtR} {s : State} {x : Iss} {act : Mask} (r : Runs s x f.h (sigFlagclr f) act) :
    ∃ t, exec (.flagclr f) s = .next t ∧ GoneOn t x ∧
      ∀ l, act.has l = true → ∀ i, i < 5 → flagBit t x i l = (flagBit s x i l && !f.sub.getLsbD i) := by
  obtain ⟨hregs, -, hclear⟩ := clearFlags_spec _ x act latCross (BitVec.ofNat 5 f.sub.toNat) r.some_lane r.home
  refine ⟨_, (show exec (.flagclr f) s = execFlagclr f s from rfl).trans (plainOp_runs r _), doneOp_gone ?_ _, fun l hl i hi => ?_⟩
  · rw [hregs.leaf, leafOf_consumeSrc]
    exact (issuer_some r.issues).1
  · rw [flagBit_doneOp, hclear l hl i hi, flagBit_consumeSrc, BitVec.getLsbD_ofNat, BitVec.testBit_toNat]
    simp only [hi, decide_true, Bool.true_and]

/-- Settles O7: comparisons and tables by their conditions, PMOV by the bits that it packs and unpacks. -/
theorem predicateAndFlagResults : Obligations.PredicateAndFlagResults := by
  refine ⟨⟨fun f w sgn hty => ?_, fun f w sgn hty => ?_, fun f => ⟨pset_gives f, plop_gives f⟩⟩,
    fun f => ⟨pmov_packs, fun hmod s x act r => pmov_unpacks hmod r⟩, fun f s x act r => flagclr_clears r⟩
  · exact icmp_gives hty none (.inr (by simp [sigIcmpOp, usesR])) fun s => (rfl : _ = execIcmp f s)
  · exact (icmp_gives (i := .icmpImm f) (f := asR f) hty (some f.imm) (.inl rfl) fun s => (rfl : _ = execIcmpImm f s)).first

end Sys2Proof.Machine
end

section
/-!
PROOF. Floating arithmetic, comparisons, classes and special functions (11 R269 to R275, R279, R280, 10 R251).
-/
namespace Sys2Proof.Machine

/-- Settles O8: each instruction is the shared floating operation on its function of codes. -/
theorem floatResults : Obligations.FloatResults := by
  refine ⟨fun f => ⟨?_, ?_, ?_, ?_, ?_, ?_, ?_⟩, fun f => ⟨?_, ?_, ?_, ?_, ?_⟩⟩
  · exact float_gives (.fadd f) f none true false true true fAdd fun s => (rfl : _ = execFadd f s)
  · exact float_gives (.fsub f) f none true false true true fSub fun s => (rfl : _ = execFsub f s)
  · exact float_gives (.fmul f) f none true false true true fMul fun s => (rfl : _ = execFmul f s)
  · exact float_gives (.ffma f) f none true true true true fFma fun s => (rfl : _ = execFfma f s)
  · exact float_gives (.fmin f) f none true false false false (fMinMax false) fun s => (rfl : _ = execFmin f s)
  · exact float_gives (.fmax f) f none true false false false (fMinMax true) fun s => (rfl : _ = execFmax f s)
  · exact float_gives (.frnd f) f none false false true false fRnd fun s => (rfl : _ = execFrnd f s)
  · exact float_gives (.faddImm f) (asR f) (some f.imm) true false true true fAdd fun s => (rfl : _ = execFaddImm f s)
  · exact float_gives (.fsubImm f) (asR f) (some f.imm) true false true true fSub fun s => (rfl : _ = execFsubImm f s)
  · exact float_gives (.fmulImm f) (asR f) (some f.imm) true false true true fMul fun s => (rfl : _ = execFmulImm f s)
  · exact float_gives (.fminImm f) (asR f) (some f.imm) true false false false (fMinMax false) fun s => (rfl : _ = execFminImm f s)
  · exact float_gives (.fmaxImm f) (asR f) (some f.imm) true false false false (fMinMax true) fun s => (rfl : _ = execFmaxImm f s)

/-! ### Special functions -/

/-- What an entry of a lane list holds for an active lane. -/
theorem getD_lanes {α : Type} {act : Mask} {l : Nat} (hl : act.has l = true) (g : Nat → α) (d e : α) :
    (lanes.map fun l => if act.has l then g l else d)[l]?.getD e = g l := by
  rw [getD_map_lanes _ _ (has_lt hl), if_pos hl]

/-- What `sfuOp` gives. -/
theorem sfu_gives {i : Instr} {fn : Nat} {f : FmtR} (hexec : ∀ s, exec i s = sfuOp fn f s) :
    FloatGives i f.h (sigSfuOp fn f) f.dst.toNat fun s x _ l =>
      sfOp fn x.sheet.ftz (rmode f.rnd) false (floatFmt f.tw) (readOpd s x (.fl (floatFmt f.tw)) f.opa.toNat l) 0 0 := by
  refine gives_float 12 (fun _ _ _ r => dst_isE r f.dst false List.mem_cons_self) _ (fun s => (hexec s).trans (rfl : _ = sfuOp fn f s))
    fun s x act l _ hl => ?_
  rw [getD_lanes hl, readOpd_consumeSrc]

/-- Settles O10: each function is the shared operation on its number. -/
theorem specialFunctionResults : Obligations.SpecialFunctionResults := fun f =>
  ⟨sfu_gives fun s => (rfl : _ = execRcp f s), sfu_gives fun s => (rfl : _ = execRsq f s), sfu_gives fun s => (rfl : _ = execSqrt f s),
    sfu_gives fun s => (rfl : _ = execExp2 f s), sfu_gives fun s => (rfl : _ = execLog2 f s), sfu_gives fun s => (rfl : _ = execSin f s),
    sfu_gives fun s => (rfl : _ = execCos f s)⟩

/-! ### FCMP -/

theorem ltF_of_isNaN {a b : FVal} (h : isNaN a = true ∨ isNaN b = true) : ltF a b = false := by
  rcases h with h | h
  · cases a <;> simp_all [isNaN, ltF]
  · cases a <;> cases b <;> simp_all [isNaN, ltF]

theorem condFloat_iff (m : Nat) (a b : FVal) : condFloat m a b = true ↔ fcmpCond m a b := by
  unfold condFloat fcmpCond
  cases hn : isNaN a || isNaN b with
  | true =>
    have hnan := Bool.or_eq_true_iff.mp hn
    have hab := ltF_of_isNaN hnan
    have hba := ltF_of_isNaN hnan.symm
    have heq : eqF a b = false := by rcases hnan with h | h <;> simp [eqF, h]
    split <;> simp_all
  | false =>
    have hnan : ¬ (isNaN a = true ∨ isNaN b = true) := by rw [← Bool.or_eq_true_iff, hn]; exact Bool.false_ne_true
    split <;> simp_all

/-- Whether FCMP sets e0, as the model computes it. -/
def comparesInvalid (m : Nat) (a b : FVal) : Bool :=
  if 2 ≤ m ∧ m ≤ 5 then isNaN a || isNaN b else isSig a || isSig b

theorem comparesInvalid_iff (m : Nat) (a b : FVal) : comparesInvalid m a b = true ↔ fcmpInvalid m a b := by
  unfold comparesInvalid fcmpInvalid
  split <;> exact Bool.or_eq_true_iff

/-- The state that FCMP leaves before it retires, for the operands `a` and `b`. -/
def compared (f : FmtR) (s : State) (x : Iss) (act : Mask) (a b : Nat → FVal) : State :=
  raiseFlags (writePreds s x act latFloat f.dst f.dst2 (fun l => condFloat f.mod.toNat (a l) (b l)) fun l => !condFloat f.mod.toNat (a l) (b l)) x act latFloat
    fun l => ((lanes.map fun l => if act.has l && comparesInvalid f.mod.toNat (a l) (b l) then flagNV else 0)[l]?).getD 0

theorem fcmpOp_eq (f : FmtR) (imm : Option (BitVec 32)) (s : State) :
    fcmpOp f imm s = plainOp s f.h (sigFcmpOp f imm) fun s x act =>
      compared f s x act (fun l => opF x.sheet.ftz (floatFmt f.tw) (readOpd s x (.fl (floatFmt f.tw)) f.opa.toNat l))
        fun l => opF x.sheet.ftz (floatFmt f.tw) (srcB s x (.fl (floatFmt f.tw)) f (imm.map (immFloat f.tw)) l) := rfl

theorem compared_spec {f : FmtR} {s : State} {x : Iss} {act : Mask} (a b : Nat → FVal) (hany : act ≠ 0) (hhome : Home s x)
    (hp : isP f.dst.toNat = true) (hq : isP f.dst2.toNat = true ∨ f.dst2.toNat = 0x1FF) :
    let t := compared f s x act a b
    RegsOnly s t x ∧ (f.dst ≠ f.dst2 → HoldsPred t x act f.dst.toNat fun l => condFloat f.mod.toNat (a l) (b l)) ∧
      HoldsPred t x act f.dst2.toNat (fun l => !condFloat f.mod.toNat (a l) (b l)) ∧
      ∀ l, act.has l = true → ∀ i < 5,
        flagBit t x i l = (flagBit s x i l || decide (i = 0) && comparesInvalid f.mod.toNat (a l) (b l)) := by
  intro t
  obtain ⟨hregs, hkept, hfirst, hsecond⟩ := writePreds_spec s x act latFloat f.dst f.dst2
    (fun l => condFloat f.mod.toNat (a l) (b l)) (fun l => !condFloat f.mod.toNat (a l) (b l)) hany hhome hp hq
  obtain ⟨hregs', hkept', hraised⟩ := raiseFlags_spec _ x act latFloat
    (fun l => ((lanes.map fun l => if act.has l && comparesInvalid f.mod.toNat (a l) (b l) then flagNV else 0)[l]?).getD 0) hany (hregs.home hhome)
  refine ⟨hregs.trans hregs', fun hne => holdsPred_noE hkept' (hfirst fun h => hne (BitVec.eq_of_toNat_eq h)),
    holdsPred_noE hkept' hsecond, fun l hl i hi => ?_⟩
  have hother : ∀ c : Nat, isP c = true ∨ c = 0x1FF → 0x198 + i ≠ c := by
    rintro c (h | h)
    · simp [isP] at h; omega
    · omega
  have hbefore : flagBit (writePreds s x act latFloat f.dst f.dst2 (fun l => condFloat f.mod.toNat (a l) (b l))
      fun l => !condFloat f.mod.toNat (a l) (b l)) x i l = flagBit s x i l := by
    unfold flagBit
    rw [hkept _ l (has_lt hl) (hother _ (.inl hp)) (hother _ hq)]
  refine (hraised l hl i hi).trans ?_
  dsimp only
  rw [hbefore, getD_map_lanes _ _ (has_lt hl), hl, Bool.true_and]
  congr 1
  cases comparesInvalid f.mod.toNat (a l) (b l) with
  | false => simp
  | true => interval_cases i <;> rfl

theorem fcmp_spec {i : Instr} {f : FmtR} {imm : Option (BitVec 32)} (hexec : ∀ s, exec i s = fcmpOp f imm s)
    (hdst2 : f.dst2 = 0x1FF ∨ (f.dst2, Role.dstPN) ∈ (sigFcmpOp f imm).uses)
    {s : State} {x : Iss} {act : Mask} (r : Runs s x f.h (sigFcmpOp f imm) act) :
    let fm := floatFmt f.tw
    let a (l : Nat) := opF x.sheet.ftz fm (readOpd s x (.fl fm) f.opa.toNat l)
    let b (l : Nat) := opF x.sheet.ftz fm ((imm.map (immFloat f.tw)).getD (readOpd s x (.fl fm) f.opb.toNat l))
    ∃ t v, exec i s = .next t ∧ GoneOn t x ∧ (f.dst ≠ f.dst2 → HoldsPred t x act f.dst.toNat v) ∧
      HoldsPred t x act f.dst2.toNat (fun l => !v l) ∧
      ∀ l, act.has l = true → (v l = true ↔ fcmpCond f.mod.toNat (a l) (b l)) ∧
        (flagBit t x 0 l = true ↔ flagBit s x 0 l = true ∨ fcmpInvalid f.mod.toNat (a l) (b l)) ∧
        ∀ i, 1 ≤ i → i < 5 → flagBit t x i l = flagBit s x i l := by
  intro fm a b
  have hA (l : Nat) : opF x.sheet.ftz fm (readOpd (consumeSrc s x (sigFcmpOp f imm).uses act) x (.fl fm) f.opa.toNat l) = a l := by
    rw [readOpd_consumeSrc]
  have hB (l : Nat) : opF x.sheet.ftz fm (srcB (consumeSrc s x (sigFcmpOp f imm).uses act) x (.fl fm) f (imm.map (immFloat f.tw)) l) = b l := by
    cases imm with
    | none => exact congrArg _ (readOpd_consumeSrc ..)
    | some c => rfl
  have hp : isP f.dst.toNat = true := r.legal.2 (f.dst, .dstP) List.mem_cons_self
  have hq : isP f.dst2.toNat = true ∨ f.dst2.toNat = 0x1FF := by
    rcases hdst2 with h | h
    · exact .inr (by rw [h]; rfl)
    · simpa [opdLegal] using r.legal.2 _ h
  have hexec' : exec i s = .next (doneOp (compared f (consumeSrc s x (sigFcmpOp f imm).uses act) x act a b) x f.h) := by
    rw [hexec, fcmpOp_eq, plainOp_runs r, funext hA, funext hB]
  obtain ⟨hregs, hfirst, hsecond, hflags⟩ := compared_spec a b r.some_lane r.home hp hq
  refine ⟨_, fun l => condFloat f.mod.toNat (a l) (b l), hexec', doneOp_gone ?_ _, fun hne => holdsPred_doneOp (hfirst hne),
    holdsPred_doneOp hsecond, fun l hl => ⟨condFloat_iff .., ?_, fun i h1 hi => ?_⟩⟩
  · rw [hregs.leaf, leafOf_consumeSrc]
    exact (issuer_some r.issues).1
  · rw [flagBit_doneOp, hflags l hl 0 (by decide), flagBit_consumeSrc, ← comparesInvalid_iff]
    simp
  · rw [flagBit_doneOp, hflags l hl i hi, flagBit_consumeSrc]
    simp [show i ≠ 0 by omega]

/-! ### FCLASS -/

theorem fclass_gives {f : FmtR} {g : Fmt} (hty : classFmt f.h f.tw = some g) :
    Gives (.fclass f) f.h (sigFclass f) f.dst.toNat false false (fun s x _ l y =>
       y = 2 ^ classBit g (readOpd s x (.fl g) f.opa.toNat l % 2 ^ fmtW g)) := by
  obtain rfl : (classFmt f.h f.tw).getD .f32 = g := by rw [hty]; rfl
  refine gives_plain latFloat _ (fun s => (rfl : _ = execFclass f s)) (fun _ _ _ _ h => absurd h Bool.false_ne_true) fun s x act l _ _ => ?_
  rw [readOpd_consumeSrc]

theorem classBit_spec (g : Fmt) (c : Nat) : classBit g c ≤ 9 ∧
    match decodeF g c with
    | .nan sig => classBit g c = if sig then 0 else 1
    | .inf neg => classBit g c = if neg then 2 else 9
    | .fin neg m _ =>
      if m = 0 then classBit g c = (if neg then 5 else 6)
      else if isSubnormal g c then classBit g c = (if neg then 4 else 7) else classBit g c = if neg then 3 else 8 := by
  unfold classBit
  cases decodeF g c with
  | nan sig => cases sig <;> simp
  | inf neg => cases neg <;> simp
  | fin neg m e => cases neg <;> by_cases hm : m = 0 <;> by_cases hs : isSubnormal g c = true <;> simp [hm, hs]

/-- Settles O9: FCMP by its condition and its invalid operands, FCLASS by the class of the code. -/
theorem floatCompareAndClassResults : Obligations.FloatCompareAndClassResults := by
  refine ⟨fun i f imm hi s x act r => ?_, fun f g hty s x act r hw => ?_⟩
  · rcases hi with ⟨rfl, rfl⟩ | ⟨f', c, rfl, rfl, rfl, rfl⟩
    · exact fcmp_spec (i := .fcmp f) (fun s => (rfl : _ = execFcmp f s)) (.inr (by simp [sigFcmpOp, usesR])) r
    · exact fcmp_spec (i := .fcmpImm f') (f := asR f') (fun s => (rfl : _ = execFcmpImm f' s)) (.inl rfl) r
  · obtain ⟨t, v, hexec, hgone, hholds, hv⟩ := fclass_gives hty s x act r hw
    exact ⟨t, v, hexec, hgone, hholds, fun l hl => ⟨_, (classBit_spec ..).1, hv l hl, (classBit_spec ..).2⟩⟩

end Sys2Proof.Machine
end

section
/-!
PROOF. SHFL, VOTE and MATCH (11 R282, R283, R286).
-/
namespace Sys2Proof.Machine

/-- A result in a register is a matter of the v-, s- and h-registers alone. -/
theorem holds_of_unchanged_outside_predicates {s t : State} {x : Iss} {m : Mask} {c : Nat} {w64 sx : Bool} {v : Nat → Nat}
    (hc : ∀ c' l, l < 32 → isP c' = false → rawElem t x c' l = rawElem s x c' l)
    (hp : w64 = true → isV c = true → isV (c + 1) = true) (h : Holds s x m c w64 sx v) : Holds t x m c w64 sx v := by
  have hV {c : Nat} (h : isV c = true) : isP c = false := by simp [isV, isP] at *; omega
  have hS {c : Nat} (h : isS c = true) : isP c = false := by simp [isS, isP] at *; omega
  have hH {c : Nat} (h : isH c = true) : isP c = false := by simp [isH, isP] at *; omega
  cases w64 with
  | false =>
    obtain ⟨h1, h2, h3⟩ := h
    exact ⟨fun hv l hl => (hc c l (has_lt hl) (hV hv)).trans (h1 hv l hl), fun hs low hl => (hc c 0 (by decide) (hS hs)).trans (h2 hs low hl),
      fun hh low hl => (hc c 0 (by decide) (hH hh)).trans (h3 hh low hl)⟩
  | true =>
    obtain ⟨h1, h2, h3⟩ := h
    exact ⟨fun hv l hl => ⟨(hc c l (has_lt hl) (hV hv)).trans (h1 hv l hl).1, (hc (c + 1) l (has_lt hl) (hV (hp rfl hv))).trans (h1 hv l hl).2⟩,
      fun hs low hl => (hc c 0 (by decide) (hS hs)).trans (h2 hs low hl), fun hh low hl => (hc c 0 (by decide) (hH hh)).trans (h3 hh low hl)⟩

/-- A result with the predicate that goes to DST2, as SHFL and MATCH write them. -/
def writeWithPred (s : State) (x : Iss) (act : Mask) (dst dst2 : Opd) (w64 : Bool) (v : Nat → Nat) (ok : Nat → Bool) : State :=
  if isP dst2.toNat then
    writeOpd (writeOpd s x act dst.toNat w64 false latCross v) x act dst2.toNat false false latCross fun l => b2n (ok l)
  else writeOpd s x act dst.toNat w64 false latCross v

theorem writeWithPred_spec {s : State} {x : Iss} {act : Mask} {dst dst2 : Opd} {w64 : Bool} (v : Nat → Nat) (ok : Nat → Bool) (hany : act ≠ 0)
    (hhome : Home s x) (hw : WritableTo s x act dst.toNat w64) (hpair : w64 = true → isV dst.toNat = true → isV (dst.toNat + 1) = true) :
    let t := writeWithPred s x act dst dst2 w64 v ok
    RegsOnly s t x ∧ Holds t x act dst.toNat w64 false v ∧ HoldsPred t x act dst2.toNat ok := by
  intro t
  have hw' : isV dst.toNat = true → Writable s x act dst.toNat ∧ (w64 = true → Writable s x act (dst.toNat + 1)) := hw
  have hregs := regsOnly_writeOpd s x act dst.toNat w64 false latCross v
  have hholds := holds_writeOpd s x act dst.toNat w64 false latCross v hany hhome hw' hpair
  by_cases hp : isP dst2.toNat = true
  · have ht : t = writeOpd _ x act dst2.toNat false false latCross fun l => b2n (ok l) := if_pos hp
    refine ⟨hregs.trans (ht ▸ regsOnly_writeOpd ..), ?_, ht ▸ holds_writeOpdP _ x act _ false latCross ok hany (hregs.home hhome)⟩
    refine holds_of_unchanged_outside_predicates (fun c l hl hc => ?_) hpair hholds
    rw [ht]
    refine rawElem_writeOpd_other _ x act _ false false latCross _ hany (hregs.home hhome)
      (fun hv => absurd hv (by simp [(isP_not hp).1])) c l (fun hmem => ?_) hl
    obtain rfl : c = dst2.toNat := by simpa [resultCodes] using hmem
    exact absurd hp (by simp [hc])
  · have ht : t = writeOpd s x act dst.toNat w64 false latCross v := if_neg hp
    exact ⟨ht ▸ hregs, ht ▸ hholds, fun h => absurd h hp⟩

theorem withPred_gives {i : Instr} {h : Hdr} {g : Sig} {dst dst2 : Opd} {w64 : Bool} (v : State → Iss → Mask → Nat → Nat)
    (ok : State → Iss → Mask → Nat → Bool)
    (hexec : ∀ s, exec i s = plainOp s h g fun s x act => writeWithPred s x act dst dst2 w64 (v s x act) (ok s x act))
    (hdst : (dst, Role.dst w64) ∈ g.uses) {s : State} {x : Iss} {act : Mask} (r : Runs s x h g act) (hw : WritableTo s x act dst.toNat w64) :
    ∃ t, exec i s = .next t ∧ GoneOn t x ∧ Holds t x act dst.toNat w64 false (v (consumeSrc s x g.uses act) x act) ∧
      HoldsPred t x act dst2.toNat (ok (consumeSrc s x g.uses act) x act) := by
  obtain ⟨hregs, hholds, hpred⟩ := writeWithPred_spec (dst2 := dst2) (v (consumeSrc s x g.uses act) x act) (ok (consumeSrc s x g.uses act) x act)
    r.some_lane r.home (fun hv => ⟨(writable_consumeSrc ..).2 (hw hv).1, fun h => (writable_consumeSrc ..).2 ((hw hv).2 h)⟩)
    (dst_pair r dst w64 hdst)
  refine ⟨_, (hexec s).trans (plainOp_runs r _), doneOp_gone ?_ _, holds_doneOp hholds, holdsPred_doneOp hpred⟩
  rw [hregs.leaf, leafOf_consumeSrc]
  exact (issuer_some r.issues).1

/-! ### SHFL -/

theorem shflLane_eq (mode n l d : Nat) : shflLane mode n l d =
    if mode = 0 then ((l - l % n + d % n : Nat) : Int) else if mode = 1 then (l : Int) - d
    else if mode = 2 then (l : Int) + d else ((l - l % n + (l % n ^^^ d % n) : Nat) : Int) := by
  unfold shflLane
  split <;> simp_all

theorem shflOk_iff (act : Mask) (mode n l d : Nat) : shflOk act mode n l d = true ↔
    ((l - l % n : Nat) : Int) ≤ shflLane mode n l d ∧ shflLane mode n l d < ((l - l % n + n : Nat) : Int) ∧
      act.has (shflLane mode n l d).toNat = true := by
  simp [shflOk, and_assoc]

theorem shfl_gives {f : FmtR} {w : Nat} (hty : bitsTy f.h f.tw = some w) {s : State} {x : Iss} {act : Mask} (r : Runs s x f.h (sigShfl f) act)
    (hw : WritableTo s x act f.dst.toNat (w = 64)) :
    let j (l : Nat) := shflLane (f.sub.toNat % 4) (2 ^ (f.sub.toNat / 4)) l (readOpd s x .i32 f.opb.toNat l)
    let ok (l : Nat) := shflOk act (f.sub.toNat % 4) (2 ^ (f.sub.toNat / 4)) l (readOpd s x .i32 f.opb.toNat l)
    ∃ t, exec (.shfl f) s = .next t ∧ GoneOn t x ∧
      Holds t x act f.dst.toNat (w = 64) false (fun l => readOpd s x (rdW w) f.opa.toNat (if ok l then (j l).toNat else l)) ∧
      HoldsPred t x act f.dst2.toNat ok := by
  obtain rfl : (bitsTy f.h f.tw).getD 32 = w := by rw [hty]; rfl
  have hsub : f.sub.toNat / 4 % 8 = f.sub.toNat / 4 := by
    have hok := r.legal.1
    simp only [sigShfl, Bool.and_eq_true, decide_eq_true_eq] at hok
    omega
  intro j ok
  have h := withPred_gives (i := .shfl f) _ _ (fun s => (rfl : _ = execShfl f s)) List.mem_cons_self r hw
  simpa only [readOpd_consumeSrc, hsub] using h

/-! ### VOTE -/

theorem mask_eq_zero_iff (m : Mask) : m = 0 ↔ ∀ l, m.has l ≠ true := by
  refine ⟨fun h l => by simp [h, Mask.has], fun h => BitVec.eq_of_getLsbD_eq fun l _ => ?_⟩
  simpa [Mask.has] using h l

theorem maskOf_eq_iff (act : Mask) (q : Nat → Bool) : maskOf (fun l => act.has l && q l) = act ↔ ∀ l, act.has l = true → q l = true := by
  refine ⟨fun h l hl => ?_, fun h => maskOf_eq fun l _ => ?_⟩
  · have := has_maskOf (fun l => act.has l && q l) l
    rw [h, hl] at this
    simpa [has_lt hl] using this.symm
  · cases hl : act.has l with
    | false => rfl
    | true => exact h l hl

theorem maskOf_eq_zero_iff (act : Mask) (q : Nat → Bool) : maskOf (fun l => act.has l && q l) = 0 ↔ ∀ l, act.has l = true → ¬ q l = true := by
  rw [mask_eq_zero_iff]
  refine forall_congr' fun l => ?_
  rw [has_maskOf]
  constructor
  · exact fun h hl hq => h (by simp [has_lt hl, hl, hq])
  · exact fun h hm => by simp_all

theorem testBit_maskOf (act : Mask) (q : Nat → Bool) (l : Nat) :
    (maskOf fun l => act.has l && q l).toNat.testBit l = true ↔ act.has l = true ∧ q l = true := by
  rw [← BitVec.getLsbD, ← Mask.has, has_maskOf]
  simp only [Bool.and_eq_true, decide_eq_true_eq]
  exact ⟨And.right, fun h => ⟨has_lt h.1, h⟩⟩

/-- What VOTE gives as a predicate for the number of its mode. -/
def voted (m : Nat) (act : Mask) (q : Nat → Bool) : Bool :=
  let v := maskOf fun l => act.has l && q l
  if m = 0 then v == act else if m = 1 then v != 0 else v == act || v == 0

theorem voted_iff (m : Nat) (act : Mask) (q : Nat → Bool) : voted m act q = true ↔
    if m = 0 then ∀ l, act.has l = true → q l = true else if m = 1 then ∃ l, act.has l = true ∧ q l = true
    else (∀ l, act.has l = true → q l = true) ∨ ∀ l, act.has l = true → ¬ q l = true := by
  unfold voted
  dsimp only
  split
  · rw [beq_iff_eq, maskOf_eq_iff]
  split
  · rw [bne_iff_ne, ne_eq, maskOf_eq_zero_iff]
    push Not
    rfl
  · rw [Bool.or_eq_true, beq_iff_eq, beq_iff_eq, maskOf_eq_iff, maskOf_eq_zero_iff]

theorem vote_gives_pred {f : FmtR} (hsub : f.sub.toNat < 3) :
    GivesPred (.vote f) f.h (sigVote f) f.dst.toNat 0x1FF
      (fun s x act _ v => v = voted f.sub.toNat act (readBit s x f.opa.toNat)) (fun _ _ _ _ _ => True) := by
  have hballot : (f.sub.toNat == 3) = false := by rw [beq_eq_false_iff_ne]; omega
  refine gives_pred f.dst 0x1FF latCross (fun s x act _ => voted f.sub.toNat act (readBit s x f.opa.toNat)) (fun _ _ _ _ => false)
    (fun s => (rfl : _ = execVote f s).trans ?_) ?_ (.inl rfl) fun s x act l _ _ => ⟨?_, trivial⟩
  · unfold execVote
    simp only [hballot]
    rfl
  · simp only [sigVote, usesR, hballot]
    exact List.mem_cons_self
  · rw [funext (readBit_consumeSrc s x (sigVote f).uses act f.opa.toNat)]

theorem vote_gives_ballot {f : FmtR} (hsub : f.sub = 3) :
    Gives (.vote f) f.h (sigVote f) f.dst.toNat false false fun s x act _ y =>
      y = (maskOf fun l => act.has l && readBit s x f.opa.toNat l).toNat := by
  have hballot : (f.sub.toNat == 3) = true := by rw [hsub]; rfl
  refine gives_plain latCross (fun s x act _ => (maskOf fun l => act.has l && readBit s x f.opa.toNat l).toNat)
    (fun s => (rfl : _ = execVote f s).trans ?_) (fun _ _ _ _ h => absurd h Bool.false_ne_true) fun s x act l _ _ => ?_
  · unfold execVote
    simp only [hballot]
    rfl
  · simp only [readBit_consumeSrc]

/-! ### MATCH -/

theorem match_gives {f : FmtR} {w : Nat} (hty : bitsTy f.h f.tw = some w) {s : State} {x : Iss} {act : Mask} (r : Runs s x f.h (sigMatch f) act)
    (hw : WritableTo s x act f.dst.toNat false) :
    let m (l : Nat) := maskOf fun j => act.has j && readOpd s x (rdW w) f.opa.toNat j == readOpd s x (rdW w) f.opa.toNat l
    ∃ t, exec (.matchV f) s = .next t ∧ GoneOn t x ∧ Holds t x act f.dst.toNat false false (fun l => (m l).toNat) ∧
      HoldsPred t x act f.dst2.toNat (fun l => m l == act) := by
  obtain rfl : (bitsTy f.h f.tw).getD 32 = w := by rw [hty]; rfl
  intro m
  have h := withPred_gives (i := .matchV f) _ _ (fun s => (rfl : _ = execMatch f s)) List.mem_cons_self r hw
  simpa only [readOpd_consumeSrc] using h

/-- The lanes with the value of an active lane are all the active lanes where all agree. -/
theorem agree_iff (act : Mask) (a : Nat → Nat) {l : Nat} (hl : act.has l = true) :
    (maskOf (fun j => act.has j && a j == a l) == act) = true ↔ ∀ i, act.has i = true → ∀ j, act.has j = true → a i = a j := by
  rw [beq_iff_eq, maskOf_eq_iff act fun j => a j == a l]
  simp only [beq_iff_eq]
  exact ⟨fun h i hi j hj => (h i hi).trans (h j hj).symm, fun h j hj => h j hj l hl⟩

/-- Settles O13: SHFL and MATCH write a result with a predicate, VOTE the one or the other. -/
theorem shuffleVoteMatchResults : Obligations.ShuffleVoteMatchResults := by
  refine ⟨fun f w hty s x act r hw => ?_, fun f => ⟨fun hsub s x act r => ?_, fun hsub s x act r hw => ?_⟩, fun f w hty s x act r hw => ?_⟩
  · obtain ⟨t, hexec, hgone, hholds, hpred⟩ := shfl_gives hty r hw
    refine ⟨t, _, _, hexec, hgone, hholds, hpred, fun l _ => ⟨?_, ?_⟩⟩
    · rw [shflOk_iff, shflLane_eq]
    · simp only [shflLane_eq]
  · obtain ⟨t, v, q, hexec, hgone, hv, hq, hP⟩ := vote_gives_pred hsub s x act r
    refine ⟨t, v, q, hexec, hgone, hv, hq, fun l hl => ⟨?_, trivial⟩⟩
    have h0 : f.sub = 0 ↔ f.sub.toNat = 0 := BitVec.toNat_inj.symm
    have h1 : f.sub = 1 ↔ f.sub.toNat = 1 := BitVec.toNat_inj.symm
    have hvoted := voted_iff f.sub.toNat act (readBit s x f.opa.toNat)
    rw [← show v l = _ from (hP l hl).1] at hvoted
    simpa only [h0, h1] using hvoted
  · obtain ⟨t, v, hexec, hgone, hv, hP⟩ := vote_gives_ballot hsub s x act r hw
    exact ⟨t, v, hexec, hgone, hv, fun l hl => hP l hl ▸ ⟨BitVec.isLt _, fun j => testBit_maskOf act _ j⟩⟩
  · obtain ⟨t, hexec, hgone, hholds, hpred⟩ := match_gives hty r hw
    refine ⟨t, _, _, hexec, hgone, hholds, hpred, fun l hl => ⟨BitVec.isLt _, fun j => ?_, agree_iff act _ hl⟩⟩
    rw [testBit_maskOf, beq_iff_eq]

end Sys2Proof.Machine
end

section
/-!
PROOF. REDUX and SCAN (11 R284, R285).
-/
namespace Sys2Proof.Machine

/-- A result with the flags of its rounding steps, raised where the instruction rounds. -/
def writeWithFlags (s : State) (x : Iss) (act : Mask) (dst : Opd) (w64 sx : Bool) (lat : Nat) (rounds : Prop) [Decidable rounds] (v : Nat → Nat)
    (fl : Nat → Flags) : State :=
  if rounds then raiseFlags (writeOpd s x act dst.toNat w64 sx lat v) x act lat fl else writeOpd s x act dst.toNat w64 sx lat v

theorem flagBit_writeOpd {s : State} {x : Iss} {act : Mask} {c : Nat} {w64 sx : Bool} {lat : Nat} {v : Nat → Nat} (hany : act ≠ 0)
    (hhome : Home s x) (hw : WritableTo s x act c w64) (hc : isE c = false) (hpair : w64 = true → isV c = true → isV (c + 1) = true)
    {i l : Nat} (hi : i < 5) (hl : l < 32) : flagBit (writeOpd s x act c w64 sx lat v) x i l = flagBit s x i l := by
  unfold flagBit
  rw [rawElem_writeOpd_other s x act c w64 sx lat v hany hhome hw _ l ?_ hl]
  intro hmem
  have hE := isE_code hi
  unfold resultCodes at hmem
  split at hmem
  case isFalse =>
    obtain h := List.mem_singleton.mp hmem
    exact absurd hE (by simp [h, hc])
  case isTrue hcond =>
    obtain ⟨hv, h64⟩ := Bool.and_eq_true_iff.mp hcond
    rcases List.mem_pair.mp hmem with h | h
    · exact absurd hE (by simp [h, hc])
    · exact absurd hE (by simp [h, isV_not_isE (hpair h64 hv)])

theorem writeWithFlags_spec {s : State} {x : Iss} {act : Mask} {dst : Opd} {w64 sx : Bool} {lat : Nat} {rounds : Prop} [Decidable rounds]
    (v : Nat → Nat) (fl : Nat → Flags) (hany : act ≠ 0) (hhome : Home s x) (hw : WritableTo s x act dst.toNat w64)
    (hc : isE dst.toNat = false) (hpair : w64 = true → isV dst.toNat = true → isV (dst.toNat + 1) = true) :
    let t := writeWithFlags s x act dst w64 sx lat rounds v fl
    RegsOnly s t x ∧ Holds t x act dst.toNat w64 sx v ∧ FlagsRaised s t x act fun l => if rounds then fl l else 0 := by
  intro t
  have hregs := regsOnly_writeOpd s x act dst.toNat w64 sx lat v
  have hholds := holds_writeOpd s x act dst.toNat w64 sx lat v hany hhome hw hpair
  have hflags {i l : Nat} (hi : i < 5) (hl : act.has l = true) :=
    flagBit_writeOpd (sx := sx) (lat := lat) (v := v) hany hhome hw hc hpair hi (has_lt hl)
  by_cases hr : rounds
  · have ht : t = raiseFlags _ x act lat fl := if_pos hr
    obtain ⟨hregs', hkept, hraised⟩ := raiseFlags_spec _ x act lat fl hany (hregs.home hhome)
    rw [← ht] at hregs' hkept hraised
    refine ⟨hregs.trans hregs', holds_noE hkept hpair hholds, fun l hl i hi => ?_⟩
    rw [hraised l hl i hi, hflags hi hl]
    simp [hr]
  · have ht : t = writeOpd s x act dst.toNat w64 sx lat v := if_neg hr
    refine ⟨ht ▸ hregs, ht ▸ hholds, fun l hl i hi => ?_⟩
    rw [ht, hflags hi hl]
    simp [hr]

theorem withFlags_gives {i : Instr} {h : Hdr} {g : Sig} {dst : Opd} {w64 sx : Bool} {lat : Nat} {rounds : Prop} [Decidable rounds]
    (v : State → Iss → Mask → Nat → Nat) (fl : State → Iss → Mask → Nat → Flags)
    (hexec : ∀ s, exec i s = plainOp s h g fun s x act => writeWithFlags s x act dst w64 sx lat rounds (v s x act) (fl s x act))
    (hdst : (dst, Role.dst w64) ∈ g.uses) {s : State} {x : Iss} {act : Mask} (r : Runs s x h g act) (hw : WritableTo s x act dst.toNat w64) :
    ∃ t, exec i s = .next t ∧ GoneOn t x ∧ Holds t x act dst.toNat w64 sx (v (consumeSrc s x g.uses act) x act) ∧
      FlagsRaised s t x act fun l => if rounds then fl (consumeSrc s x g.uses act) x act l else 0 := by
  obtain ⟨hregs, hholds, hflags⟩ := writeWithFlags_spec (sx := sx) (lat := lat) (rounds := rounds) (v (consumeSrc s x g.uses act) x act)
    (fl (consumeSrc s x g.uses act) x act) r.some_lane r.home
    (fun hv => ⟨(writable_consumeSrc ..).2 (hw hv).1, fun h => (writable_consumeSrc ..).2 ((hw hv).2 h)⟩)
    (dst_isE r dst w64 hdst) (dst_pair r dst w64 hdst)
  refine ⟨_, (hexec s).trans (plainOp_runs r _), doneOp_gone ?_ _, holds_doneOp hholds, fun l hl i hi => ?_⟩
  · rw [hregs.leaf, leafOf_consumeSrc]
    exact (issuer_some r.issues).1
  · rw [flagBit_doneOp, hflags l hl i hi, flagBit_consumeSrc]

/-! ### The type of an operation -/

theorem redTy_lt {f : FmtR} {op : Nat} {k : Nat × Nat × Bool} (h : redTy f op = some k) : op < 6 := by
  by_contra hop
  simp [redTy, show ¬ op < 3 by omega, hop] at h

theorem redTy_w {f : FmtR} {op : Nat} {k : Nat × Nat × Bool} (h : redTy f op = some k) : k.2.1 = 32 ∨ k.2.1 = 64 := by
  unfold redTy at h
  split at h
  · split at h
    case h_1 w sgn hty => cases h; exact intTy_w hty
    case h_2 =>
      split at h
      · cases h; exact .inl rfl
      · cases h
  · split at h
    · obtain ⟨w, hty, rfl⟩ := Option.map_eq_some_iff.mp h
      exact bitsTy_w hty
    · cases h

/-! ### REDUX -/

theorem redux_gives {f : FmtR} {k : Nat × Nat × Bool} (hk : redTy f f.sub.toNat = some k) {s : State} {x : Iss} {act : Mask}
    (r : Runs s x f.h (sigRedux f) act) (hw : WritableTo s x act f.dst.toNat (k.2.1 = 64)) :
    let vs := lanes.map fun l => if act.has l then some (readOpd s x (if k.1 = 1 then .fl .f32 else rdW k.2.1) f.opa.toNat l) else none
    let q := redTree (combine x.sheet.ftz f.sub.toNat k (rmode f.rnd)) 5 vs
    ∃ u, exec (.redux f) s = .next u ∧ GoneOn u x ∧
      Holds u x act f.dst.toNat (k.2.1 = 64) (f.h.cls = 1) (fun _ => if f.sat then satSum k.2.1 k.2.2 (vs.filterMap id) else q.1.getD 0) ∧
      FlagsRaised s u x act fun _ => if k.1 = 1 then q.2 else 0 := by
  obtain rfl : (redTy f f.sub.toNat).getD (0, 32, false) = k := by rw [hk]; rfl
  have hpopc : (f.sub.toNat == 6) = false := beq_eq_false_iff_ne.mpr (Nat.ne_of_lt (redTy_lt hk))
  have hexec (s : State) : exec (.redux f) s = plainOp s f.h (sigRedux f) fun s x act =>
      let k := (redTy f f.sub.toNat).getD (0, 32, false)
      let vs := lanes.map fun l => if act.has l then some (readOpd s x (if k.1 = 1 then .fl .f32 else rdW k.2.1) f.opa.toNat l) else none
      let q := redTree (combine x.sheet.ftz f.sub.toNat k (rmode f.rnd)) 5 vs
      writeWithFlags s x act f.dst (k.2.1 = 64) (f.h.cls = 1) latCross (k.1 = 1)
        (fun _ => if f.sat then satSum k.2.1 k.2.2 (vs.filterMap id) else q.1.getD 0) fun _ => q.2 := by
    refine (rfl : _ = execRedux f s).trans ?_
    unfold execRedux
    simp only [hpopc]
    rfl
  intro vs q
  have hdst : (f.dst, Role.dst (((redTy f f.sub.toNat).getD (0, 32, false)).2.1 = 64)) ∈ (sigRedux f).uses := by
    simp only [sigRedux, usesR, hpopc]
    exact List.mem_cons_self
  have h := withFlags_gives _ _ hexec hdst r hw
  simpa only [readOpd_consumeSrc] using h

/-- Counting predicate bits is the sum over the participating lanes. -/
theorem popc_gives {f : FmtR} (hsub : f.sub = 6) :
    Gives (.redux f) f.h (sigRedux f) f.dst.toNat false false fun s x act _ y =>
      y = (List.range 32).countP fun l => act.has l && readBit s x f.opa.toNat l := by
  have hpopc : (f.sub.toNat == 6) = true := by rw [hsub]; rfl
  refine gives_plain latCross (fun s x act _ => ((laneList act).filter fun l => readBit s x f.opa.toNat l).length)
    (fun s => (rfl : _ = execRedux f s).trans ?_) (fun _ _ _ _ h => absurd h Bool.false_ne_true) fun s x act l _ _ => ?_
  · unfold execRedux
    simp only [hpopc]
    rfl
  · simp only [readBit_consumeSrc, laneList, lanes, List.filter_filter, List.countP_eq_length_filter, Mask.has, Bool.and_comm]

/-! ### SCAN -/

/-- A step of a scan: the first value as it is, then combinations. -/
def scanStep (c : Comb) (a : Nat → Nat) (o : Option Nat) (j : Nat) : Option Nat :=
  match o with
  | none => some (a j)
  | some v => some (c v (a j)).code

/-- What `scanFrom` keeps for a lane: the combination of the lanes before it, and with its own value. -/
theorem find_scanFrom (c : Comb) (a : Nat → Nat) (e l : Nat) (later : List Nat) : ∀ (before : List Nat) (o : Option Nat), l ∉ before →
    (scanFrom c o.isNone (o.getD e) ((before ++ l :: later).map fun l => (l, a l))).find? (fun q => q.1 = l) =
      some (l, (before.foldl (scanStep c a) o).getD e, (scanStep c a (before.foldl (scanStep c a) o) l).getD e,
        ((before.foldl (scanStep c a) o).map fun v => (c v (a l)).flags).getD 0) := by
  intro before
  induction before with
  | nil => intro o _; cases o <;> simp [scanFrom, scanStep]
  | cons p before ih =>
    intro o hl
    obtain ⟨hp, hbefore⟩ := not_or.mp (mt List.mem_cons.mpr hl)
    rw [List.foldl_cons, ← ih (scanStep c a o p) hbefore]
    cases o <;> simp [scanFrom, scanStep, Ne.symm hp]

theorem filter_range_split {l n : Nat} (q : Nat → Bool) (hl : l < n) (hq : q l = true) :
    ∃ later, (List.range n).filter q = (List.range l).filter q ++ l :: later := by
  obtain ⟨d, rfl⟩ := Nat.exists_eq_add_of_lt hl
  refine ⟨((List.range d).map fun i => l + 1 + i).filter q, ?_⟩
  rw [Nat.add_right_comm, List.range_add, List.filter_append, List.range_succ, List.filter_append]
  simp [hq]

/-- The combination of the participating lanes below `n`. -/
def scanUpTo (c : Comb) (a : Nat → Nat) (act : Mask) (n : Nat) : Option Nat :=
  ((List.range n).filter fun j => act.has j).foldl (scanStep c a) none

theorem scanUpTo_succ (c : Comb) (a : Nat → Nat) {act : Mask} {l : Nat} (hl : act.has l = true) :
    scanUpTo c a act (l + 1) = scanStep c a (scanUpTo c a act l) l := by
  simp [scanUpTo, List.range_succ, hl]

theorem scan_lane (c : Comb) (a : Nat → Nat) (e : Nat) {act : Mask} {l : Nat} (hl : act.has l = true) :
    ((scanFrom c true e ((laneList act).map fun l => (l, a l))).find? (fun q => q.1 = l)).getD (l, 0, 0, 0) =
      (l, (scanUpTo c a act l).getD e, (scanUpTo c a act (l + 1)).getD e, ((scanUpTo c a act l).map fun v => (c v (a l)).flags).getD 0) := by
  obtain ⟨later, hlater⟩ := filter_range_split (fun j => act.has j) (has_lt hl) hl
  have hlist : laneList act = (List.range l).filter (fun j => act.has j) ++ l :: later := hlater
  rw [scanUpTo_succ c a hl, hlist]
  exact congrArg (Option.getD · _) (find_scanFrom c a e l later _ none (by simp))

/-- The combination of a scan, by the exact sum where it saturates. -/
def scanComb (ftz sat : Bool) (op : Nat) (k : Nat × Nat × Bool) (m : RMode) (p q : Nat) : Out :=
  if sat then { code := formed k.2.1 k.2.2 true (asClass k.2.1 k.2.2 p + asClass k.2.1 k.2.2 q) } else combine ftz op k m p q

theorem scan_gives {f : FmtR} {k : Nat × Nat × Bool} (hk : redTy f f.sub.toNat = some k) {s : State} {x : Iss} {act : Mask}
    (r : Runs s x f.h (sigScan f) act) (hw : WritableTo s x act f.dst.toNat (k.2.1 = 64)) :
    let a (j : Nat) := readOpd s x (if k.1 = 1 then .fl .f32 else rdW k.2.1) f.opa.toNat j
    let c := scanComb x.sheet.ftz f.sat f.sub.toNat k (rmode f.rnd)
    let at' (l : Nat) := ((scanFrom c true (identity f.sub.toNat k) ((laneList act).map fun l => (l, a l))).find? (fun q => q.1 = l)).getD (l, 0, 0, 0)
    ∃ u, exec (.scan f) s = .next u ∧ GoneOn u x ∧
      Holds u x act f.dst.toNat (k.2.1 = 64) (f.h.cls = 1) (fun l => if f.mod.getLsbD 0 then (at' l).2.1 else (at' l).2.2.1) ∧
      FlagsRaised s u x act fun l => if k.1 = 1 then (at' l).2.2.2 else 0 := by
  have hcomb (ftz : Bool) : (fun p q => if f.sat then
        ({ code := intResult k.2.1 k.2.2 true (asInt k.2.1 k.2.2 p + asInt k.2.1 k.2.2 q) } : Out)
        else combine ftz f.sub.toNat k (rmode f.rnd) p q) = scanComb ftz f.sat f.sub.toNat k (rmode f.rnd) := by
    funext p q
    simp only [scanComb, formed_eq _ (redTy_w hk), asClass_eq _ (redTy_w hk)]
  obtain rfl : (redTy f f.sub.toNat).getD (0, 32, false) = k := by rw [hk]; rfl
  intro a c at'
  have h := withFlags_gives (i := .scan f) _ _ (fun s => (rfl : _ = execScan f s)) List.mem_cons_self r hw
  simp only [readOpd_consumeSrc, hcomb] at h
  exact h

/-- Settles O14: REDUX combines along its tree, SCAN lane by lane. -/
theorem reduceScanResults : Obligations.ReduceScanResults := by
  refine ⟨fun f k hk s x act r hw => redux_gives hk r hw, fun f hsub => popc_gives hsub, fun f k hk s x act r hw => ?_⟩
  intro t a c upTo
  have hupTo : upTo = scanUpTo (scanComb x.sheet.ftz f.sat f.sub.toNat k (rmode f.rnd)) a act := rfl
  obtain ⟨u, hexec, hgone, hholds, hflags⟩ := scan_gives hk r hw
  refine ⟨u, _, hexec, hgone, hholds, fun l hl => ?_, fun l hl i hi => ?_⟩
  · have hmod : f.mod.getLsbD 0 = decide (f.mod = 1) := by
      have hok := r.legal.1
      simp only [sigScan, Bool.and_eq_true, decide_eq_true_eq] at hok
      obtain h | h : f.mod = 0 ∨ f.mod = 1 := by
        obtain ⟨⟨-, hlt⟩, -⟩ := hok
        bv_omega
      · rw [h]; rfl
      · rw [h]; rfl
    rw [hmod]
    by_cases h1 : f.mod = 1 <;> simp only [h1, decide_true, decide_false, if_true, if_false, Bool.false_eq_true] <;> rw [scan_lane _ _ _ hl] <;> rfl
  · rw [hflags l hl i hi]
    dsimp only
    rw [scan_lane _ _ _ hl]
    rfl

end Sys2Proof.Machine
end

section
/-!
PROOF. BKPT, TRAP and SYSCALL (11 R296, 14 R371, 17 R421, R422).
-/
namespace Sys2Proof.Machine

/-- An instruction none of whose operands is a source consumes no tag. -/
theorem consumeSrc_of_no_source {s : State} {x : Iss} {uses : List (Opd × Role)} {act : Mask} (h : ∀ u ∈ uses, ∀ t, u.2 ≠ .src t) :
    consumeSrc s x uses act = s := by
  unfold consumeSrc
  split
  · rfl
  · induction uses with
    | nil => rfl
    | cons u uses ih =>
      rw [List.foldl_cons]
      have hu : ∀ t, u.2 ≠ .src t := h u List.mem_cons_self
      split
      · exact absurd ‹_› (hu _)
      · exact ih fun u hu => h u (List.mem_cons_of_mem _ hu)

/-- The trap of an issuing leaf is the trap of the leaf at its entry. -/
theorem sheetTrap_of_unprivileged {s : State} {x : Iss} (hx : issuer s = some x) (hpriv : x.leaf.priv = false) (cause status : Nat) :
    sheetTrap s x cause status = if (outstanding s x.core x.leaf).isEmpty then
      enterHandler s x.core x.entry x.leaf x.sheet (sheetRec x cause status)
      else blockLeaf s x.core x.entry (.results (outstanding s x.core x.leaf)) := by
  obtain ⟨hleaf, hsheet⟩ := issuer_some hx
  simp [sheetTrap, trapRec, hleaf, hsheet, hpriv]

theorem sheetTrap_of_privileged {s : State} {x : Iss} (hx : issuer s = some x) (hpriv : x.leaf.priv = true) (cause status : Nat) :
    sheetTrap s x cause status = killLaunch s x.sheet.ctx x.sheet.launch .nested cause status x.leaf.pc := by
  obtain ⟨hleaf, hsheet⟩ := issuer_some hx
  simp [sheetTrap, trapRec, hleaf, hsheet, hpriv, sheetRec]

/-- A leaf that is vectored for its instruction stands in the handler, with a record of all its lanes. -/
theorem enterHandler_of_sheetRec {s : State} {x : Iss} {cause : Nat} (status : Nat) {pc : DWord} {later : Bool}
    (hv : trapVector s x.core x.sheet.ctx cause = some (pc, later)) :
    let t := enterHandler s x.core x.entry x.leaf x.sheet (sheetRec x cause status)
    InHandler t x cause pc ∧ TrapRecorded t x cause status ∧ t.mem = s.mem ∧ t.regs = s.regs := by
  have hv' : trapVector s x.core x.sheet.ctx (sheetRec x cause status).cause = some (pc, later) := hv
  simp only [enterHandler, hv', InHandler, TrapRecorded, leafOf, coreOf_setCore, tfind_tput_same]
  exact ⟨⟨_, rfl, rfl, rfl, rfl, rfl, rfl, rfl⟩, ⟨_, rfl, rfl, rfl, rfl, rfl, rfl, rfl, rfl, rfl⟩, rfl, rfl⟩

/-- A code trap that passes its checks is the sheet trap of its cause. -/
theorem codeTrap_runs {f : FmtG} {s : State} {x : Iss} {act : Mask} (r : Runs s x f.h (sigCodeTrap f) act) (cause : Nat) :
    codeTrap f cause s = .next (sheetTrap s x cause f.imm.toNat) := by
  rw [codeTrap, issueOp_runs r, if_neg r.some_lane, consumeSrc_of_no_source (by simp [sigCodeTrap])]

/-- Settles O19: each is the sheet trap of its cause, by the privilege of the leaf and its outstanding accesses. -/
theorem codeTrapResults : Obligations.CodeTrapResults := by
  intro f i cause hi s x act r
  have hexec : exec i s = .next (sheetTrap s x cause f.imm.toNat) := by
    rcases hi with ⟨rfl, rfl⟩ | ⟨rfl, rfl⟩ | ⟨rfl, rfl⟩
    · exact codeTrap_runs r 15
    · exact codeTrap_runs r 16
    · exact codeTrap_runs r 17
  refine ⟨fun hpriv hrest pc later hv => ⟨_, hexec, ?_⟩, fun hpriv hleft => ?_, fun hpriv => ⟨_, hexec, ?_⟩⟩
  · rw [sheetTrap_of_unprivileged r.issues hpriv, hrest]
    exact enterHandler_of_sheetRec f.imm.toNat hv
  · rw [sheetTrap_of_unprivileged r.issues hpriv, if_neg (by simpa using hleft)] at hexec
    exact ⟨_, _, hexec, leafOf_blockLeaf (issuer_some r.issues).1 _, rfl, rfl⟩
  · rw [sheetTrap_of_privileged r.issues hpriv]
    rfl

end Sys2Proof.Machine
end

section
/-!
SUPPORT. Leaves that transfer and divide (06 R148, R149, 11 R288): where a leaf stands, and what the registers of its lanes
hold, after each step of a division.
-/
namespace Sys2Proof.Machine

/-! ### Where leaves stand -/

theorem leafAt_issuer {s : State} {x : Iss} (h : leafOf s x.core x.entry = some x.leaf) : LeafAt s x x.entry x.leaf.mask x.leaf.pc :=
  ⟨_, h, rfl, rfl, rfl, rfl⟩

theorem LeafAt.of_leafOf_eq {s t : State} {x : Iss} {e : Nat} {m : Mask} {pc : DWord} (h : LeafAt s x e m pc)
    (ht : leafOf t x.core e = leafOf s x.core e) : LeafAt t x e m pc := by
  unfold LeafAt at *
  rwa [ht]

/-- What is written at an entry of the core of `x`, where it is a leaf of its sheet. -/
theorem leafAt_setLeaf (s : State) {x : Iss} (e : Nat) {k : Leaf} (hslot : k.slot = x.leaf.slot) (hpriv : k.priv = x.leaf.priv) :
    LeafAt (setLeaf s x.core e k) x e k.mask k.pc :=
  ⟨k, leafOf_setLeaf .., hslot, rfl, rfl, hpriv⟩

theorem leafAt_retireAt {s : State} {x : Iss} {e : Nat} {m : Mask} {pc : DWord} (hl : LeafAt s x e m pc) (h : Hdr) (ends : Bool) (pc' : DWord) :
    LeafAt (retireAt s x.core e h ends pc') x e m pc' := by
  obtain ⟨k, hk, hslot, rfl, -, hpriv⟩ := hl
  rw [retireAt, hk]
  exact leafAt_setLeaf s e hslot hpriv

theorem leafOf_retireAt_ne {s : State} {c e d : Nat} (hd : d ≠ e) (h : Hdr) (ends : Bool) (pc : DWord) :
    leafOf (retireAt s c e h ends pc) c d = leafOf s c d := by
  unfold retireAt
  split
  · rfl
  · exact leafOf_setLeaf_ne _ _ _ _ _ hd

theorem leafAt_setMask_same {s : State} {x : Iss} {e : Nat} {m : Mask} {pc : DWord} (hl : LeafAt s x e m pc) (m' : Mask) :
    LeafAt (setMask s x.core e m') x e m' pc := by
  obtain ⟨k, hk, hslot, -, rfl, hpriv⟩ := hl
  rw [setMask, hk]
  exact leafAt_setLeaf s e hslot hpriv

theorem leafAt_setMask_ne {s : State} {x : Iss} {d e : Nat} {m : Mask} {pc : DWord} (hl : LeafAt s x d m pc) (hd : d ≠ e) (m' : Mask) :
    LeafAt (setMask s x.core e m') x d m pc := by
  refine hl.of_leafOf_eq ?_
  unfold setMask
  split
  · exact leafOf_setLeaf_ne _ _ _ _ _ hd
  · rfl

theorem leafAt_leaveCheck {s : State} {x : Iss} {d : Nat} {m : Mask} {pc : DWord} (hl : LeafAt s x d m pc) (e : Nat) (later : Bool) :
    LeafAt (leaveCheck s x.core e later) x d m pc := by
  unfold leaveCheck
  split
  case h_2 => exact hl
  case h_1 k hk =>
    split
    case isFalse => exact hl
    case isTrue =>
      by_cases hd : d = e
      · subst hd
        obtain ⟨k', hk', hslot, rfl, rfl, hpriv⟩ := hl
        cases hk.symm.trans hk'
        exact leafAt_setLeaf s d hslot hpriv
      · exact hl.of_leafOf_eq (leafOf_setLeaf_ne _ _ _ _ _ hd)

theorem leafOf_shareRec (s : State) (c e n d : Nat) : leafOf (shareRec s c e n) c d = leafOf s c d := by
  unfold shareRec
  split
  · dsimp only
    split
    · simp [leafOf]
    · rfl
  · rfl

/-- One new leaf: the leaf at `e` gives its sheet and mode to another at `n`. -/
theorem leafAt_newLeaf {s : State} {x : Iss} {e n : Nat} {k : Leaf} (hslot : k.slot = x.leaf.slot) (hpriv : k.priv = x.leaf.priv) (m : Mask)
    (pc : DWord) (later : Bool) : LeafAt (shareRec (addLeaf s x.core n k m pc later) x.core e n) x n m pc := by
  refine LeafAt.of_leafOf_eq ?_ (leafOf_shareRec ..)
  exact leafAt_setLeaf s n hslot hpriv

theorem leafOf_newLeaf_ne {s : State} {c e n d : Nat} (hd : d ≠ n) (k : Leaf) (m : Mask) (pc : DWord) (later : Bool) :
    leafOf (shareRec (addLeaf s c n k m pc later) c e n) c d = leafOf s c d := by
  rw [leafOf_shareRec]
  exact leafOf_setLeaf_ne _ _ _ _ _ hd

/-- New leaves change no entry but those they take. -/
theorem leafOf_newLeaves {c e d : Nat} : ∀ (gs : List (Mask × DWord × Bool)) (pool : List Nat) (s : State), d ∉ pool →
    leafOf (newLeaves s c e gs pool) c d = leafOf s c d := by
  intro gs
  induction gs with
  | nil => intro pool s _; cases pool <;> rfl
  | cons g gs ih =>
    intro pool s hd
    cases pool with
    | nil => rfl
    | cons n pool =>
      obtain ⟨hn, hpool⟩ := not_or.mp (mt List.mem_cons.mpr hd)
      rw [newLeaves]
      split
      · rw [ih pool _ hpool, leafOf_newLeaf_ne hn]
      · rfl

/-- Each group of lanes stands in the pool entry that comes to it. -/
theorem leafAt_newLeaves {x : Iss} {e : Nat} {m : Mask} {pc : DWord} : ∀ (gs : List (Mask × DWord × Bool)) (pool : List Nat) (s : State),
    LeafAt s x e m pc → e ∉ pool → pool.Nodup →
    ∀ q ∈ gs.zip pool, LeafAt (newLeaves s x.core e gs pool) x q.2 q.1.1 q.1.2.1 := by
  intro gs
  induction gs with
  | nil => intro pool s _ _ _ q hq; simp at hq
  | cons g gs ih =>
    intro pool s hl he hnodup q hq
    cases pool with
    | nil => simp at hq
    | cons n pool =>
      obtain ⟨hen, hepool⟩ := not_or.mp (mt List.mem_cons.mpr he)
      obtain ⟨hn, hpool⟩ := List.nodup_cons.mp hnodup
      obtain ⟨k, hk, hslot, hmask, hpc, hpriv⟩ := hl
      rw [newLeaves, hk]
      rcases List.mem_cons.mp hq with rfl | hq
      · exact (leafAt_newLeaf hslot hpriv ..).of_leafOf_eq (leafOf_newLeaves gs pool _ hn)
      · exact ih pool _ ⟨k, (leafOf_newLeaf_ne hen ..).trans hk, hslot, hmask, hpc, hpriv⟩ hepool hpool q hq

/-! ### The pool -/

theorem mem_poolFree {s : State} {c e : Nat} (h : e ∈ poolFree s c) : leafOf s c e = none := by
  obtain ⟨-, hfree⟩ := List.mem_filter.mp h
  exact Option.isNone_iff_eq_none.mp hfree

theorem nodup_poolFree (s : State) (c : Nat) : (poolFree s c).Nodup :=
  ((List.nodup_range (n := 16)).map (add_left_injective 48)).filter _

theorem not_mem_poolFree {s : State} {c e : Nat} {k : Leaf} (h : leafOf s c e = some k) : e ∉ poolFree s c := fun hmem => by
  cases h.symm.trans (mem_poolFree hmem)

theorem poolFree_consumeSrc (s : State) (x : Iss) (u : List (Opd × Role)) (act : Mask) (c : Nat) :
    poolFree (consumeSrc s x u act) c = poolFree s c := by
  unfold poolFree
  rw [core_leaves_consumeSrc]

theorem uniOpd_consumeSrc (s : State) (x : Iss) (u : List (Opd × Role)) (act m : Mask) (t : RdTy) (c : Nat) :
    uniOpd (consumeSrc s x u act) x m t c = uniOpd s x m t c := by
  unfold uniOpd
  split
  · exact readOpd_consumeSrc ..
  · rfl

/-! ### The registers of a leaf that divides -/

/-- In `t` the registers read as in `s` for the lanes of `x`. -/
structure SameRegs (s t : State) (x : Iss) : Prop where
  rawElem_eq : ∀ c l, rawElem t x c l = rawElem s x c l

theorem SameRegs.refl (s : State) (x : Iss) : SameRegs s s x := ⟨fun _ _ => rfl⟩

theorem SameRegs.trans {s t u : State} {x : Iss} (h : SameRegs s t x) (h' : SameRegs t u x) : SameRegs s u x :=
  ⟨fun c l => (h'.rawElem_eq c l).trans (h.rawElem_eq c l)⟩

theorem SameRegs.holds64 {s t : State} {x : Iss} {act : Mask} {c : Nat} {v : Nat → Nat} (h : SameRegs s t x) (hs : Holds64 s x act c v) :
    Holds64 t x act c v := by
  unfold Holds64 at *
  simpa only [h.rawElem_eq] using hs

theorem sameRegs_setLeaf (s : State) (x : Iss) (e : Nat) (k : Leaf) : SameRegs s (setLeaf s x.core e k) x := by
  constructor
  simp [rawElem, physReg, sReg]

theorem sameRegs_retireAt (s : State) (x : Iss) (h : Hdr) (ends : Bool) (pc : DWord) : SameRegs s (retireAt s x.core x.entry h ends pc) x :=
  ⟨fun _ _ => rawElem_retireAt ..⟩

theorem sameRegs_setMask (s : State) (x : Iss) (e : Nat) (m : Mask) : SameRegs s (setMask s x.core e m) x := by
  unfold setMask
  split
  · exact sameRegs_setLeaf ..
  · exact .refl ..

theorem sameRegs_leaveCheck (s : State) (x : Iss) (e : Nat) (later : Bool) : SameRegs s (leaveCheck s x.core e later) x := by
  unfold leaveCheck
  split
  · split
    · exact sameRegs_setLeaf ..
    · exact .refl ..
  · exact .refl ..

theorem sameRegs_shareRec {s : State} {x : Iss} {n : Nat} (hn : x.entry ≠ n) (e : Nat) : SameRegs s (shareRec s x.core e n) x := by
  unfold shareRec
  split
  case h_2 => exact .refl ..
  case h_1 k _ =>
    dsimp only
    split
    · constructor
      intro c l
      simp [rawElem, physReg, sReg, sheetOf, tget_tset_ne _ _ _ _ _ hn]
    · exact .refl ..

theorem sameRegs_newLeaves {x : Iss} {e : Nat} : ∀ (gs : List (Mask × DWord × Bool)) (pool : List Nat) (s : State), x.entry ∉ pool →
    SameRegs s (newLeaves s x.core e gs pool) x := by
  intro gs
  induction gs with
  | nil => intro pool s _; cases pool <;> exact .refl ..
  | cons g gs ih =>
    intro pool s hx
    cases pool with
    | nil => exact .refl ..
    | cons n pool =>
      obtain ⟨hn, hpool⟩ := not_or.mp (mt List.mem_cons.mpr hx)
      rw [newLeaves]
      split
      · exact ((sameRegs_setLeaf ..).trans (sameRegs_shareRec hn e)).trans (ih pool _ hpool)
      · exact .refl ..

/-! ### Direct targets and masks -/

/-- The direct target of format B as the rule gives it (10 R245). -/
theorem directTarget_eq (pc : DWord) (f : FmtB) :
    directTarget pc f = (pc &&& ~~~(63 : DWord)) + (f.loff.signExtend 64 <<< 6) + 12 * f.slot.zeroExtend 64 := by
  have hline : BitVec.ofInt 64 (64 * sgnN 24 f.loff.toNat) = f.loff.signExtend 64 <<< 6 := by
    rw [sgnN_eq, BitVec.ofNat_toNat, BitVec.setWidth_eq, BitVec.ofInt_mul, BitVec.shiftLeft_eq_mul_twoPow, BitVec.mul_comm]
    rfl
  have hslot : BitVec.ofNat 64 (12 * f.slot.toNat) = 12 * f.slot.zeroExtend 64 := by
    rw [BitVec.ofNat_mul, BitVec.ofNat_toNat]
    rfl
  rw [directTarget, hline, hslot]

theorem maskOf_and (act : Mask) (q : Nat → Bool) : maskOf (fun l => act.has l && q l) = act &&& maskOf q := by
  refine maskOf_eq fun l hl => ?_
  have hq := has_maskOf q l
  simp only [Mask.has, hl, decide_true, Bool.true_and] at hq
  simp [Mask.has, hq]

theorem maskOf_and_has (act m : Mask) : maskOf (fun l => act.has l && m.has l) = act &&& m :=
  maskOf_eq fun l _ => by simp [Mask.has]

end Sys2Proof.Machine
end

section
/-!
PROOF. BRA, CALL, CALL.ind and SPLIT (11 R288, R289, R291, R292, 06 R148, R149).
-/
namespace Sys2Proof.Machine

/-! ### The branches of a transfer -/

section
variable {s : State} {x : Iss} {h : Hdr} {ends tgt first later : Bool} {t n : Mask} {target : DWord} {link : State → State}

theorem transfer_of_no_lane : transfer s x h ends 0 target tgt first link = retireAt s x.core x.entry h ends (nextPc x.leaf.pc) := rfl

theorem transfer_of_failing (ht : t ≠ 0) (hc : (checkTarget s x.core x.sheet.ctx x.leaf.priv target tgt).1 ≠ 0) :
    transfer s x h ends t target tgt first link =
      sheetTrap s x cControl (checkTarget s x.core x.sheet.ctx x.leaf.priv target tgt).1 := by
  rw [transfer, if_neg ht]
  rcases hr : checkTarget s x.core x.sheet.ctx x.leaf.priv target tgt with ⟨st, b⟩
  rw [hr] at hc
  cases st with
  | zero => exact absurd rfl hc
  | succ st => rfl

theorem transfer_of_passing (ht : t ≠ 0) (hc : (checkTarget s x.core x.sheet.ctx x.leaf.priv target tgt).1 = 0) :
    transfer s x h ends t target tgt first link = divide s x h ends t (x.leaf.mask &&& ~~~t) target
      (checkTarget s x.core x.sheet.ctx x.leaf.priv target tgt).2 first link := by
  rw [transfer, if_neg ht]
  rcases hr : checkTarget s x.core x.sheet.ctx x.leaf.priv target tgt with ⟨st, b⟩
  rw [hr] at hc
  obtain rfl : st = 0 := hc
  rfl

theorem divide_of_whole : divide s x h ends t 0 target later first link =
    leaveCheck (retireAt (link s) x.core x.entry h ends target) x.core x.entry later := rfl

theorem divide_of_empty_pool (hn : n ≠ 0) (hp : poolFree s x.core = []) :
    divide s x h ends t n target later first link = splitStall s x.core x.entry := by
  rw [divide, if_neg hn, hp]

/-- A leaf that divides, where the pool has an entry: the side that keeps the entry goes on, the other takes the first of the pool. -/
theorem divide_of_pool (hn : n ≠ 0) (hp : poolFree s x.core ≠ []) :
    divide s x h ends t n target later first link =
      if first then
        leaveCheck (setMask (newLeaves (retireAt (link s) x.core x.entry h true target) x.core x.entry [(n, nextPc x.leaf.pc, false)]
          (poolFree s x.core)) x.core x.entry t) x.core x.entry later
      else setMask (newLeaves (retireAt (link s) x.core x.entry h true (nextPc x.leaf.pc)) x.core x.entry [(t, target, later)]
          (poolFree s x.core)) x.core x.entry n := by
  rw [divide, if_neg hn]
  split
  · exact absurd ‹_› hp
  · rfl

theorem standsAt_leaveCheck {m : Mask} {pc : DWord} (hs : StandsAt s x m pc) (later : Bool) :
    StandsAt (leaveCheck s x.core x.entry later) x m pc := by
  obtain ⟨k, hk, hpc, hmask, hslot, hpriv, hhandler⟩ := hs
  simp only [leaveCheck, hk]
  split
  · exact ⟨_, leafOf_setLeaf .., hpc, hmask, hslot, hpriv, hhandler⟩
  · exact ⟨k, hk, hpc, hmask, hslot, hpriv, hhandler⟩

/-- The two sides of a division: the one keeps the entry of the leaf, the other stands in the first of the pool. -/
theorem divided_leaves {e : Nat} {p : List Nat} {m m' : Mask} {pc pc' : DWord} {b : Bool} (hleaf : leafOf s x.core x.entry = some x.leaf)
    (hentry : x.entry ∉ e :: p) (hnodup : (e :: p).Nodup) :
    let u := setMask (newLeaves (retireAt s x.core x.entry h true pc) x.core x.entry [(m', pc', b)] (e :: p)) x.core x.entry m
    LeafAt u x x.entry m pc ∧ LeafAt u x e m' pc' := by
  have hretired := leafAt_retireAt (leafAt_issuer hleaf) h true pc
  have hne : e ≠ x.entry := fun heq => hentry (heq ▸ List.mem_cons_self)
  constructor
  · exact leafAt_setMask_same (hretired.of_leafOf_eq (leafOf_newLeaves _ _ _ hentry)) m
  · exact leafAt_setMask_ne (leafAt_newLeaves _ _ _ hretired hentry hnodup ((m', pc', b), e) (by simp)) hne m

end

/-- An instruction that transfers the lanes `tm` to `pc` after what `link` writes. -/
theorem transfers {i : Instr} {h : Hdr} {g : Sig} {ends tgt first : Bool} {tm : State → Iss → Mask → Mask} {pc : State → Iss → Mask → DWord}
    {link : Iss → Mask → State → State}
    (hexec : ∀ s, exec i s = issueOp s h g fun s x act => transfer s x h ends (tm s x act) (pc s x act) tgt first (link x act))
    (hlink : ∀ s x act e, leafOf (link x act s) x.core e = leafOf s x.core e)
    (htm : ∀ s x act, tm (consumeSrc s x g.uses act) x act = tm s x act)
    (hpc : ∀ s x act, pc (consumeSrc s x g.uses act) x act = pc s x act) : Transfers i h g tgt first tm pc := by
  intro s x act r
  unfold afterChecks
  have hrun := (hexec s).trans (issueOp_runs r _)
  rw [htm, hpc] at hrun
  have hpool := poolFree_consumeSrc s x g.uses act x.core
  have hleaf : leafOf (consumeSrc s x g.uses act) x.core x.entry = some x.leaf := (leafOf_consumeSrc ..).trans (issuer_some r.issues).1
  have hlinked := (hlink (consumeSrc s x g.uses act) x act x.entry).trans hleaf
  refine ⟨fun hm => ?_, fun hm hc => ?_, fun hm hc hn => ?_, fun hm hc hn e p hp => ?_, fun hm hc hn hp => ?_⟩
  · rw [hm, transfer_of_no_lane] at hrun
    exact ⟨_, hrun, retireAt_stands hleaf ..⟩
  · exact hrun.trans (congrArg _ (transfer_of_failing hm hc))
  · rw [transfer_of_passing hm hc, hn, divide_of_whole] at hrun
    exact ⟨_, hrun, standsAt_leaveCheck (retireAt_stands hlinked ..) _⟩
  · have hentry : x.entry ∉ e :: p := hp ▸ not_mem_poolFree (issuer_some r.issues).1
    have hnodup : (e :: p).Nodup := hp ▸ nodup_poolFree s x.core
    rw [transfer_of_passing hm hc, divide_of_pool hn (by simp [hpool, hp]), hpool, hp] at hrun
    refine ⟨_, hrun, ?_⟩
    cases first with
    | true =>
      obtain ⟨hown, hnew⟩ := divided_leaves (h := h) (m := tm s x act) (pc := pc s x act) hlinked hentry hnodup
      exact ⟨leafAt_leaveCheck hown .., leafAt_leaveCheck hnew ..⟩
    | false => exact divided_leaves hlinked hentry hnodup
  · rw [transfer_of_passing hm hc, divide_of_empty_pool hn (hpool.trans hp)] at hrun
    rw [splitStall, hleaf, now_consumeSrc] at hrun
    exact ⟨_, _, hrun, leafOf_setLeaf .., rfl, rfl, rfl⟩

theorem leafOf_writeLink (s : State) (x : Iss) (act : Mask) (c e : Nat) : leafOf (writeLink x act c s) x.core e = leafOf s x.core e :=
  (regsOnly_writeOpd ..).leaf _ _

theorem bra_transfers (f : FmtB) : Transfers (.bra f) f.h (sigBra f) true f.fp
    (fun s x act => if f.opa = 0x1FF then act else act &&& maskOf fun l => readBit s x f.opa.toNat l) fun _ x _ => directTarget x.leaf.pc f := by
  have hopa : f.opa = 0x1FF ↔ f.opa.toNat = 0x1FF := BitVec.toNat_inj.symm
  refine transfers (ends := false) (link := fun _ _ => id) (fun s => ?_) (fun _ _ _ _ => rfl) (fun s x act => ?_) fun _ _ _ => rfl
  · simp only [hopa, ← maskOf_and]
    rfl
  · simp only [readBit_consumeSrc]

theorem call_transfers (f : FmtB) : Transfers (.call f) f.h (sigCall f) true f.fp (fun _ _ act => act) fun _ x _ => directTarget x.leaf.pc f :=
  transfers (fun s => (rfl : _ = execCall f s)) (fun _ _ _ _ => leafOf_writeLink ..) (fun _ _ _ => rfl) fun _ _ _ => rfl

theorem callInd_transfers (f : FmtB) : Transfers (.callInd f) f.h (sigCallInd f) true f.fp (fun _ _ act => act)
    fun s x act => BitVec.ofNat 64 (uniOpd s x act .i64 f.opa.toNat) :=
  transfers (fun s => (rfl : _ = execCallInd f s)) (fun _ _ _ _ => leafOf_writeLink ..) (fun _ _ _ => rfl)
    fun s x act => by rw [uniOpd_consumeSrc]

theorem split_transfers (f : FmtR) : Transfers (.split f) f.h (sigSplit f) false (f.mod.getLsbD 0)
    (fun s x act => if isP f.opa.toNat || isE f.opa.toNat then act &&& maskOf (fun l => readBit s x f.opa.toNat l)
      else act &&& BitVec.ofNat 32 (uniOpd s x act .i32 f.opa.toNat))
    fun s x act => BitVec.ofNat 64 (uniOpd s x act .i64 f.opb.toNat) := by
  refine transfers (ends := true) (link := fun _ _ => id) (fun s => (rfl : _ = execSplit f s).trans ?_) (fun _ _ _ _ => rfl) (fun s x act => ?_)
    fun s x act => by rw [uniOpd_consumeSrc]
  · unfold execSplit
    dsimp only
    cases isP f.opa.toNat || isE f.opa.toNat with
    | true => simp only [if_true, maskOf_and]
    | false => simp only [Bool.false_eq_true, if_false, maskOf_and_has]
  · simp only [readBit_consumeSrc, uniOpd_consumeSrc]

/-- Settles O15: each is a transfer of its lanes to its target. -/
theorem transferResults : Obligations.TransferResults := by
  refine ⟨fun f => ⟨?_, ?_, callInd_transfers f⟩, split_transfers⟩
  · simpa only [directTarget_eq] using bra_transfers f
  · simpa only [directTarget_eq] using call_transfers f

/-! ### The link -/

/-- A transfer of lanes whose target passes keeps what its link has written, where the leaf does not stall. -/
theorem sameRegs_transfer {s : State} {x : Iss} {h : Hdr} {ends tgt first : Bool} {t : Mask} {target : DWord} {link : State → State}
    (hleaf : leafOf s x.core x.entry = some x.leaf) (ht : t ≠ 0) (hc : (checkTarget s x.core x.sheet.ctx x.leaf.priv target tgt).1 = 0)
    (hroom : t = x.leaf.mask ∨ poolFree s x.core ≠ []) : SameRegs (link s) (transfer s x h ends t target tgt first link) x := by
  have hentry := not_mem_poolFree hleaf
  rw [transfer_of_passing ht hc]
  by_cases hn : x.leaf.mask &&& ~~~t = 0
  · rw [hn, divide_of_whole]
    exact (sameRegs_retireAt ..).trans (sameRegs_leaveCheck ..)
  · have hp : poolFree s x.core ≠ [] := hroom.resolve_left fun heq => hn (by rw [heq, BitVec.and_not_self])
    rw [divide_of_pool hn hp]
    cases first with
    | true => exact (((sameRegs_retireAt ..).trans (sameRegs_newLeaves _ _ _ hentry)).trans (sameRegs_setMask ..)).trans (sameRegs_leaveCheck ..)
    | false => exact ((sameRegs_retireAt ..).trans (sameRegs_newLeaves _ _ _ hentry)).trans (sameRegs_setMask ..)

theorem call_links {i : Instr} {h : Hdr} {g : Sig} {ends tgt first : Bool} {c : Opd} {pc : State → Iss → Mask → DWord}
    (hexec : ∀ s, exec i s = issueOp s h g fun s x act => transfer s x h ends act (pc s x act) tgt first (writeLink x act c.toNat))
    (hpc : ∀ s x act, pc (consumeSrc s x g.uses act) x act = pc s x act) (hlink : (c, Role.link) ∈ g.uses)
    {s : State} {x : Iss} {act : Mask} (r : Runs s x h g act) (hw : WritableTo s x act c.toNat true)
    (hc : (checkTarget (afterChecks s x g act) x.core x.sheet.ctx x.leaf.priv (pc s x act) tgt).1 = 0)
    (hroom : act = x.leaf.mask ∨ poolFree s x.core ≠ []) :
    ∃ t, exec i s = .next t ∧ Holds64 t x act c.toNat fun _ => (nextPc x.leaf.pc).toNat := by
  have hrun := (hexec s).trans (issueOp_runs r _)
  rw [hpc] at hrun
  refine ⟨_, hrun, (sameRegs_transfer ((leafOf_consumeSrc ..).trans (issuer_some r.issues).1) r.some_lane hc
    (by rwa [poolFree_consumeSrc])).holds64 ?_⟩
  refine holds_writeOpd64 _ x act c.toNat false 0 _ r.some_lane r.home (fun hv => ?_) fun hv => ?_
  · exact ⟨(writable_consumeSrc ..).2 (hw hv).1, (writable_consumeSrc ..).2 ((hw hv).2 rfl)⟩
  · refine pair_isV (h := x.sheet) ?_ hv
    have hlegal : opdLegal x.sheet .link c.toNat = true := r.legal.2 _ hlink
    simp only [opdLegal] at hlegal ⊢
    simp only [if_true, hlegal, Bool.true_or]

/-! ### Where a transfer may go -/

theorem pcForm_iff (pc : DWord) : pcForm pc = true ↔ pc.toNat % 64 % 12 = 0 ∧ pc.toNat % 64 ≤ 48 := by
  simp [pcForm]

theorem checkTarget_line {s : State} {c ctx : Nat} {p : Bool} {pc : DWord} {bs : List Byte} (hpc : pcForm pc = true)
    (hline : readLine s c ctx p pc.toNat = .ok bs) (hparity : lineParity bs = true) (hreserved : lineReserved bs = false) :
    checkTarget s c ctx p pc true = if lineTarget bs (pc.toNat % 64 / 12) then (0, false) else (2, false) := by
  simp only [checkTarget, hpc, hline, hparity, hreserved, Bool.not_true, Bool.or_false, Bool.false_eq_true, if_false]
  rfl

theorem nextPc_in_line {pc : DWord} (h : pc.toNat % 64 < 48) : nextPc pc = pc + 12 := if_pos h

theorem nextPc_next_line {pc : DWord} (h : pc.toNat % 64 = 48) : nextPc pc = pc + 16 := by
  have hline : pc &&& ~~~(63 : DWord) = pc >>> 6 <<< 6 := (BitVec.shiftLeft_ushiftRight (x := pc) (n := 6)).symm
  rw [nextPc, if_neg (by omega), hline]
  bv_omega

theorem pcForm_nextPc {pc : DWord} (hslot : pc.toNat % 64 % 12 = 0) (hline : pc.toNat % 64 ≤ 48) : pcForm (nextPc pc) = true := by
  rw [pcForm_iff]
  by_cases h : pc.toNat % 64 < 48
  · rw [nextPc_in_line h, BitVec.toNat_add]
    change (pc.toNat + 12) % 2 ^ 64 % 64 % 12 = 0 ∧ (pc.toNat + 12) % 2 ^ 64 % 64 ≤ 48
    have hnext : (pc.toNat + 12) % 2 ^ 64 % 64 = pc.toNat % 64 + 12 := by omega
    omega
  · rw [nextPc_next_line (by omega), BitVec.toNat_add]
    change (pc.toNat + 16) % 2 ^ 64 % 64 % 12 = 0 ∧ (pc.toNat + 16) % 2 ^ 64 % 64 ≤ 48
    omega

/-- Settles O16: the link is written before the leaf divides; the forms of targets are the branches of the check. -/
theorem callLinksAndTargetForms : Obligations.CallLinksAndTargetForms := by
  refine ⟨fun f s x act i g a hi r hw hc hroom => ?_, fun s c ctx p pc tgt hpc => ?_, fun s c ctx p pc hslot hline => ?_,
    fun s c ctx p pc bs hslot hline => checkTarget_line ((pcForm_iff pc).2 ⟨hslot, hline⟩),
    fun pc hslot hline => ⟨pcForm_nextPc hslot hline, nextPc_in_line, nextPc_next_line⟩⟩
  · rcases hi with ⟨rfl, rfl, rfl⟩ | ⟨rfl, rfl, rfl⟩
    · rw [← directTarget_eq] at hc
      exact call_links (i := .call f) (pc := fun _ x _ => directTarget x.leaf.pc f) (fun s => (rfl : _ = execCall f s)) (fun _ _ _ => rfl) (by simp [sigCall])
        r hw hc hroom
    · exact call_links (i := .callInd f) (pc := fun s x act => BitVec.ofNat 64 (uniOpd s x act .i64 f.opa.toNat)) (fun s => (rfl : _ = execCallInd f s))
        (fun s x act => by rw [uniOpd_consumeSrc]) (by simp [sigCallInd]) r hw hc hroom
  · have hform : pcForm pc = false := by rw [← Bool.not_eq_true, pcForm_iff]; exact hpc
    simp only [checkTarget, hform, Bool.not_false, if_true]
    rfl
  · have hform := (pcForm_iff pc).2 ⟨hslot, hline⟩
    simp [checkTarget, hform]

end Sys2Proof.Machine
end

section
/-!
PROOF. BRX and RET (11 R290, 06 R148).
-/
namespace Sys2Proof.Machine

/-! ### Groups of lanes -/

section
variable (m act : Mask) (tgt : Nat → DWord × Bool)

/-- The group of lane `l`: the lanes of the leaf with its guard and its target. -/
def groupOf (l : Nat) : Mask × DWord × Bool := (maskOf fun j => m.has j && act.has j == act.has l && tgt j == tgt l, tgt l)

/-- What the fold of `groups` does at a lane. -/
def addGroup (gs : List (Mask × DWord × Bool)) (l : Nat) : List (Mask × DWord × Bool) :=
  if gs.any fun g => g.1.has l then gs else gs ++ [groupOf m act tgt l]

theorem groups_eq_foldl : groups m act tgt = (laneList m).foldl (addGroup m act tgt) [] := rfl

variable {m act tgt}

theorem has_groupOf {l j : Nat} : (groupOf m act tgt l).1.has j = true ↔ m.has j = true ∧ act.has j = act.has l ∧ tgt j = tgt l := by
  rw [groupOf, has_maskOf]
  simp only [Bool.and_eq_true, decide_eq_true_eq, beq_iff_eq, and_assoc, and_iff_right_iff_imp]
  exact fun h => has_lt h.1

/-- Each group added is the group of a lane. -/
theorem mem_foldl_addGroup (ls : List Nat) : ∀ (gs : List (Mask × DWord × Bool)) g, g ∈ ls.foldl (addGroup m act tgt) gs →
    g ∈ gs ∨ ∃ l, g = groupOf m act tgt l := by
  induction ls with
  | nil => exact fun gs g hg => .inl hg
  | cons l ls ih =>
    intro gs g hg
    rcases ih _ g hg with h | h
    · unfold addGroup at h
      split at h
      · exact .inl h
      · rcases List.mem_append.mp h with h | h
        · exact .inl h
        · exact .inr ⟨l, List.mem_singleton.mp h⟩
    · exact .inr h

theorem prefix_foldl_addGroup (ls : List Nat) : ∀ gs : List (Mask × DWord × Bool), gs <+: ls.foldl (addGroup m act tgt) gs := by
  induction ls with
  | nil => exact List.prefix_refl
  | cons l ls ih =>
    intro gs
    refine List.IsPrefix.trans ?_ (ih _)
    unfold addGroup
    split
    · exact List.prefix_refl _
    · exact List.prefix_append ..

/-- A lane that comes up stands in a group from then on. -/
theorem covered_foldl_addGroup (ls : List Nat) : ∀ (gs : List (Mask × DWord × Bool)) l, l ∈ ls → m.has l = true →
    ∃ g ∈ ls.foldl (addGroup m act tgt) gs, g.1.has l = true := by
  induction ls with
  | nil => exact fun gs l hl => absurd hl List.not_mem_nil
  | cons a ls ih =>
    intro gs l hl hm
    rcases List.mem_cons.mp hl with rfl | hl
    · obtain ⟨g, hg, hhas⟩ : ∃ g ∈ addGroup m act tgt gs l, g.1.has l = true := by
        unfold addGroup
        split
        · exact List.any_eq_true.mp ‹gs.any _ = true›
        · exact ⟨_, List.mem_append_right _ List.mem_cons_self, has_groupOf.mpr ⟨hm, rfl, rfl⟩⟩
      exact ⟨g, (prefix_foldl_addGroup ls _).subset hg, hhas⟩
    · exact ih _ l hl hm

theorem mem_groups {g : Mask × DWord × Bool} (hg : g ∈ groups m act tgt) : ∃ l, g = groupOf m act tgt l :=
  (mem_foldl_addGroup _ _ g hg).resolve_left List.not_mem_nil

theorem groups_cover {l : Nat} (hl : m.has l = true) : ∃ g ∈ groups m act tgt, g.1.has l = true :=
  covered_foldl_addGroup _ _ l ((mem_laneList m l).mpr ⟨has_lt hl, hl⟩) hl

/-- The first group has the lowest lane. -/
theorem groups_head {low : Nat} (hlow : lowLane m = some low) : ∃ rest, groups m act tgt = groupOf m act tgt low :: rest := by
  obtain ⟨ls, hls⟩ : ∃ ls, laneList m = low :: ls := List.head?_eq_some_iff.mp hlow
  obtain ⟨rest, hrest⟩ := prefix_foldl_addGroup (m := m) (act := act) (tgt := tgt) ls [groupOf m act tgt low]
  refine ⟨rest, ?_⟩
  rw [groups_eq_foldl, hls]
  exact hrest.symm

/-- A lane of a group has its target, and every lane of the group is of the leaf and has the target of that lane. -/
theorem target_of_mem_group {g : Mask × DWord × Bool} (hg : g ∈ groups m act tgt) {l : Nat} (hl : g.1.has l = true) :
    tgt l = g.2 ∧ ∀ j, g.1.has j = true → m.has j = true ∧ tgt j = tgt l := by
  obtain ⟨a, rfl⟩ := mem_groups hg
  obtain ⟨-, -, htgt⟩ := has_groupOf.mp hl
  refine ⟨htgt, fun j hj => ?_⟩
  obtain ⟨hm, -, htgt'⟩ := has_groupOf.mp hj
  exact ⟨hm, htgt'.trans htgt.symm⟩

end

/-! ### The division into groups -/

/-- What a scattered leaf leaves: each lane in a leaf at its target with lanes of that target alone, and the lowest lane in the
entry of the leaf. -/
def Scattered (t : State) (x : Iss) (dest : Nat → DWord) : Prop :=
  (∀ l, x.leaf.mask.has l = true → ∃ e m, LeafAt t x e m (dest l) ∧ m.has l = true ∧
    ∀ j, m.has j = true → x.leaf.mask.has j = true ∧ dest j = dest l) ∧
  ∃ m pc, LeafAt t x x.entry m pc ∧ ∀ low, lowLane x.leaf.mask = some low → m.has low = true

theorem scatter_of_pool {s : State} {x : Iss} {h : Hdr} {g g' : Mask × DWord × Bool} {rest : List (Mask × DWord × Bool)}
    (hlen : (g' :: rest).length ≤ (poolFree s x.core).length) : scatter s x h (g :: g' :: rest) =
      leaveCheck (setMask (newLeaves (retireAt s x.core x.entry h true g.2.1) x.core x.entry (g' :: rest) (poolFree s x.core))
        x.core x.entry g.1) x.core x.entry g.2.2 := by
  have hne : (poolFree s x.core).length ≠ 0 := by rw [List.length_cons] at hlen; omega
  simp only [scatter, hne, hlen, if_true, if_false]

theorem leafAt_scatter_first {s : State} {x : Iss} (hleaf : leafOf s x.core x.entry = some x.leaf) (h : Hdr) (g g' : Mask × DWord × Bool)
    (rest : List (Mask × DWord × Bool)) (hlen : (g' :: rest).length ≤ (poolFree s x.core).length) :
    LeafAt (scatter s x h (g :: g' :: rest)) x x.entry g.1 g.2.1 := by
  rw [scatter_of_pool hlen]
  have hretired := leafAt_retireAt (leafAt_issuer hleaf) h true g.2.1
  exact leafAt_leaveCheck (leafAt_setMask_same (hretired.of_leafOf_eq (leafOf_newLeaves _ _ _ (not_mem_poolFree hleaf))) _) ..

theorem leafAt_scatter_other {s : State} {x : Iss} (hleaf : leafOf s x.core x.entry = some x.leaf) (h : Hdr) (g g' : Mask × DWord × Bool)
    (rest : List (Mask × DWord × Bool)) (hlen : (g' :: rest).length ≤ (poolFree s x.core).length) {q : Mask × DWord × Bool} (hq : q ∈ g' :: rest) :
    ∃ e, LeafAt (scatter s x h (g :: g' :: rest)) x e q.1 q.2.1 := by
  have hentry := not_mem_poolFree hleaf
  obtain ⟨i, hi, rfl⟩ := List.mem_iff_getElem.mp hq
  have hzip : ((g' :: rest)[i], (poolFree s x.core)[i]) ∈ (g' :: rest).zip (poolFree s x.core) := by
    refine List.mem_iff_getElem.mpr ⟨i, by rw [List.length_zip]; omega, List.getElem_zip⟩
  have hne : (poolFree s x.core)[i] ≠ x.entry := fun heq => hentry (heq ▸ List.getElem_mem _)
  rw [scatter_of_pool hlen]
  have hretired := leafAt_retireAt (leafAt_issuer hleaf) h true g.2.1
  exact ⟨_, leafAt_leaveCheck (leafAt_setMask_ne (leafAt_newLeaves _ _ _ hretired hentry (nodup_poolFree ..) _ hzip) hne _) ..⟩

theorem scattered_of_groups {s : State} {x : Iss} (hleaf : leafOf s x.core x.entry = some x.leaf) (h : Hdr) {act : Mask}
    {tgt : Nat → DWord × Bool} (hlen : (groups x.leaf.mask act tgt).length ≤ (poolFree s x.core).length + 1) :
    Scattered (scatter s x h (groups x.leaf.mask act tgt)) x fun l => (tgt l).1 := by
  have hcover {l : Nat} (hl : x.leaf.mask.has l = true) : ∃ g ∈ groups x.leaf.mask act tgt, g.1.has l = true ∧ (tgt l).1 = g.2.1 ∧
      ∀ j, g.1.has j = true → x.leaf.mask.has j = true ∧ (tgt j).1 = (tgt l).1 := by
    obtain ⟨g, hg, hgl⟩ := groups_cover (act := act) (tgt := tgt) hl
    obtain ⟨htgt, hall⟩ := target_of_mem_group hg hgl
    exact ⟨g, hg, hgl, congrArg Prod.fst htgt, fun j hj => ⟨(hall j hj).1, congrArg Prod.fst (hall j hj).2⟩⟩
  have hhead {low : Nat} (hlow : lowLane x.leaf.mask = some low) : ∃ g rest, groups x.leaf.mask act tgt = g :: rest ∧ g.1.has low = true := by
    obtain ⟨rest, hrest⟩ := groups_head (act := act) (tgt := tgt) hlow
    exact ⟨_, rest, hrest, has_groupOf.mpr ⟨lowLane_has hlow, rfl, rfl⟩⟩
  rcases hgroups : groups x.leaf.mask act tgt with _ | ⟨g, _ | ⟨g', rest⟩⟩
  case nil =>
    refine ⟨fun l hl => ?_, _, _, leafAt_retireAt (leafAt_issuer hleaf) .., fun low hlow => lowLane_has hlow⟩
    obtain ⟨g, hg, -⟩ := hcover hl
    simp [hgroups] at hg
  case cons.nil =>
    have hstands : LeafAt (scatter s x h [g]) x x.entry x.leaf.mask g.2.1 :=
      leafAt_leaveCheck (leafAt_retireAt (leafAt_issuer hleaf) ..) ..
    have hto {l : Nat} (hl : x.leaf.mask.has l = true) : (tgt l).1 = g.2.1 := by
      obtain ⟨g', hg, -, hto, -⟩ := hcover hl
      rw [hgroups] at hg
      rwa [List.mem_singleton.mp hg] at hto
    exact ⟨fun l hl => ⟨_, _, hto hl ▸ hstands, hl, fun j hj => ⟨hj, (hto hj).trans (hto hl).symm⟩⟩, _, _, hstands, fun low => lowLane_has⟩
  case cons.cons =>
    have hroom : (g' :: rest).length ≤ (poolFree s x.core).length := by
      rw [hgroups, List.length_cons] at hlen
      omega
    have hfirst := leafAt_scatter_first hleaf h g g' rest hroom
    refine ⟨fun l hl => ?_, _, _, hfirst, fun low hlow => ?_⟩
    · obtain ⟨q, hq, hql, hto, hall⟩ := hcover hl
      rw [hgroups] at hq
      rcases List.mem_cons.mp hq with rfl | hq
      · exact ⟨_, _, hto ▸ hfirst, hql, hall⟩
      · obtain ⟨e, he⟩ := leafAt_scatter_other hleaf h g g' rest hroom hq
        rw [← hto] at he
        exact ⟨e, _, he, hql, hall⟩
    · obtain ⟨q, rest', hq, hlow⟩ := hhead hlow
      rw [hgroups] at hq
      cases hq
      exact hlow

/-! ### BRX and RET -/

/-- Where a lane of BRX or RET goes. -/
def scatterPc (f : FmtB) (s : State) (x : Iss) (act : Mask) (l : Nat) : DWord :=
  if act.has l then BitVec.ofNat 64 (readOpd s x .i64 f.opa.toNat l) else nextPc x.leaf.pc

/-- The target of a lane with what its check leaves to the fetch. -/
def scatterTo (f : FmtB) (tgt : Bool) (s : State) (x : Iss) (act : Mask) (l : Nat) : DWord × Bool :=
  (scatterPc f s x act l, act.has l && (checkTarget s x.core x.sheet.ctx x.leaf.priv (scatterPc f s x act l) tgt).2)

theorem scatterOp_runs {f : FmtB} (tgt : Bool) {s : State} {x : Iss} {act : Mask} (r : Runs s x f.h (sigScatterOp f) act)
    (hc : ∀ l, act.has l = true → (checkTarget (consumeSrc s x (sigScatterOp f).uses act) x.core x.sheet.ctx x.leaf.priv
      (scatterPc f (consumeSrc s x (sigScatterOp f).uses act) x act l) tgt).1 = 0) :
    scatterOp f tgt s = .next (scatter (consumeSrc s x (sigScatterOp f).uses act) x f.h
      (groups x.leaf.mask act (scatterTo f tgt (consumeSrc s x (sigScatterOp f).uses act) x act))) := by
  rw [scatterOp, issueOp_runs r]
  generalize consumeSrc s x (sigScatterOp f).uses act = s0 at hc ⊢
  let check (l : Nat) := checkTarget s0 x.core x.sheet.ctx x.leaf.priv (scatterPc f s0 x act l) tgt
  have hpc {l : Nat} (hl : act.has l = true) :
      (lanes.map fun l => BitVec.ofNat 64 (readOpd s0 x .i64 f.opa.toNat l))[l]?.getD 0 = scatterPc f s0 x act l := by
    rw [getD_map_lanes _ _ (has_lt hl), scatterPc, if_pos hl]
  have hchecks : ((laneList act).map fun l => (l, checkTarget s0 x.core x.sheet.ctx x.leaf.priv
      ((lanes.map fun l => BitVec.ofNat 64 (readOpd s0 x .i64 f.opa.toNat l))[l]?.getD 0) tgt)) = (laneList act).map fun l => (l, check l) :=
    List.map_congr_left fun l hl => by rw [hpc ((mem_laneList act l).mp hl).2]
  have hfind : ((laneList act).map fun l => (l, check l)).find? (fun c => c.2.1 != 0) = none := by
    refine List.find?_eq_none.mpr fun c hmem => ?_
    obtain ⟨l, hl, rfl⟩ := List.mem_map.mp hmem
    simp [check, hc l ((mem_laneList act l).mp hl).2]
  have hlater {l : Nat} (hl : act.has l = true) : ((laneList act).map fun l => (l, check l)).any (fun c => c.1 = l && c.2.2) = (check l).2 := by
    rw [Bool.eq_iff_iff, List.any_eq_true]
    constructor
    · rintro ⟨c, hmem, hcl⟩
      obtain ⟨j, -, rfl⟩ := List.mem_map.mp hmem
      simp only [Bool.and_eq_true, decide_eq_true_eq] at hcl
      obtain ⟨rfl, hcl⟩ := hcl
      exact hcl
    · exact fun h => ⟨(l, check l), List.mem_map_of_mem ((mem_laneList act l).mpr ⟨has_lt hl, hl⟩), by simpa using h⟩
  dsimp only
  rw [hchecks, hfind]
  refine congrArg (fun dest => Host.Outcome.next (scatter s0 x f.h (groups x.leaf.mask act dest))) (funext fun l => ?_)
  unfold scatterTo
  cases hl : act.has l with
  | true =>
    rw [if_pos rfl, hpc hl, getD_map_lanes _ _ (has_lt hl), hlater hl]
    rfl
  | false => simp [scatterPc, hl]

/-- Settles O17: the lanes divide into the groups of their targets, and every group finds its entry. -/
theorem scatterResults : Obligations.ScatterResults := by
  intro f i tgt hi s x act r at' chk hc hlen
  have hpc : scatterPc f (consumeSrc s x (sigScatterOp f).uses act) x act = at' := by
    funext l
    rw [scatterPc, readOpd_consumeSrc]
  have hexec : exec i s = scatterOp f tgt s := by
    rcases hi with ⟨rfl, rfl⟩ | ⟨rfl, rfl⟩
    · rfl
    · rfl
  have hto : scatterTo f tgt (consumeSrc s x (sigScatterOp f).uses act) x act = fun l => (at' l, act.has l && (chk l).2) := by
    funext l
    rw [scatterTo, hpc]
    rfl
  refine ⟨_, hexec.trans (scatterOp_runs tgt r (hpc ▸ hc)), ?_⟩
  obtain ⟨hlanes, m, pc, ⟨k, hk, -, rfl, -, -⟩, hlow⟩ := scattered_of_groups (h := f.h)
    ((leafOf_consumeSrc ..).trans (issuer_some r.issues).1) (hto ▸ (poolFree_consumeSrc ..).symm ▸ hlen)
  refine ⟨fun l hl => ?_, k, hk, hlow⟩
  obtain ⟨e, m, ⟨k, hk, hslot, rfl, hkpc, -⟩, hml, hall⟩ := hlanes l hl
  refine ⟨e, k, hk, hslot, hml, ?_, ?_⟩
  · rw [hkpc, hto]
  · simpa only [hto] using hall

end Sys2Proof.Machine
end

section
/-!
SUPPORT. The leaves of a core and the sheets that stand, which gatherings leave alone (14 R357, R358, 15 R386).
-/
namespace Sys2Proof.Machine

/-- Reading a table whose values were changed at their keys. -/
theorem tfind_map {α β : Type} (q : Nat × α → β) (k : Nat) : ∀ t : Tab α,
    tfind (t.map fun e => (e.1, q e)) k = (tfind t k).map fun v => q (k, v)
  | [] => rfl
  | (i, v) :: t => by
    by_cases h : i = k
    · subst h; simp [tfind]
    · simp [tfind, h, tfind_map q k t]

/-- The leaves of each core, and which sheets stand. (A function of its own, so that `simp` compares states.) -/
def State.residents (s : State) : (Nat → Tab Leaf) × (Nat → Nat → Bool) := (fun c => (coreOf s c).leaves, fun c i => (sheetOf s c i).isSome)

theorem leafOf_of_residents {s t : State} (h : t.residents = s.residents) (c e : Nat) : leafOf t c e = leafOf s c e :=
  congrArg (tfind · e) (congrFun (congrArg Prod.fst h) c)

theorem sheetOf_isSome_of_residents {s t : State} (h : t.residents = s.residents) (c i : Nat) :
    (sheetOf t c i).isSome = (sheetOf s c i).isSome := congrFun (congrFun (congrArg Prod.snd h) c) i

theorem residents_of_cores {s t : State} (h : t.cores = s.cores) : t.residents = s.residents := by
  simp only [State.residents, sheetOf, coreOf, h]

/-- A change of every core that keeps its leaves and its sheets in place. -/
theorem residents_of_map {s t : State} (q : Nat × Core → Core) (h : t.cores = s.cores.map fun c => (c.1, q c))
    (hleaves : ∀ c k, (q (c, k)).leaves = k.leaves) (hsheets : ∀ c k i, (tfind (q (c, k)).sheets i).isSome = (tfind k.sheets i).isSome) :
    t.residents = s.residents := by
  have hcore (c : Nat) : coreOf t c = coreOf s c ∨ coreOf t c = q (c, coreOf s c) := by
    simp only [coreOf, tget, h, tfind_map]
    cases tfind s.cores c with
    | none => exact .inl rfl
    | some k => exact .inr rfl
  refine Prod.ext (funext fun c => ?_) (funext fun c => funext fun i => ?_)
  · rcases hcore c with hc | hc
    · exact congrArg Core.leaves hc
    · exact (congrArg Core.leaves hc).trans (hleaves ..)
  · rcases hcore c with hc | hc
    · exact congrArg (fun k : Core => (tfind k.sheets i).isSome) hc
    · exact (congrArg (fun k : Core => (tfind k.sheets i).isSome) hc).trans (hsheets ..)

@[simp] theorem residents_ite (p : Prop) [Decidable p] (a b : State) :
    (if p then a else b).residents = if p then a.residents else b.residents := apply_ite State.residents p a b

/-- A fold whose step keeps them keeps them. -/
@[simp] theorem residents_foldl {β : Type} {f : State → β → State} (l : List β) (s : State)
    (h : ∀ s b, (f s b).residents = s.residents) : (l.foldl f s).residents = s.residents := by
  induction l generalizing s with
  | nil => rfl
  | cons b l ih => exact (ih _).trans (h s b)

@[simp] theorem residents_emit (s : State) (m : EmsenOut) : (emit s m).residents = s.residents := residents_of_cores rfl
@[simp] theorem residents_setG (s : State) (i : Nat) (g : GEntry) : (setG s i g).residents = s.residents := residents_of_cores rfl
@[simp] theorem residents_mapSlots (s : State) (w : Word) (f : Member → Member) : (mapSlots s w f).residents = s.residents := by
  refine residents_of_map _ rfl (fun _ _ => rfl) fun _ k i => ?_
  exact (congrArg Option.isSome (tfind_map _ i k.sheets)).trans Option.isSome_map
@[simp] theorem residents_endTags (s : State) (w : Word) (ph st : Nat) (v : Word) : (endTags s w ph st v).residents = s.residents :=
  residents_of_map _ rfl (fun _ _ => rfl) fun _ _ _ => rfl

/-- Writing a sheet that stands. -/
theorem residents_setSheet {s : State} {c i : Nat} (hs : (sheetOf s c i).isSome = true) (h : Sheet) :
    (setSheet s c i h).residents = s.residents := by
  refine Prod.ext (funext fun d => ?_) (funext fun d => funext fun j => ?_)
  · by_cases hd : d = c
    · subst hd
      simp [State.residents]
    · simp [State.residents, coreOf_setSheet_ne s c i d h hd]
  · by_cases hj : d = c ∧ j = i
    · obtain ⟨rfl, rfl⟩ := hj
      simp [State.residents, hs]
    · simp [State.residents, sheetOf_setSheet_ne h hj]

@[simp] theorem residents_modSheet (s : State) (c slot : Nat) (f : Sheet → Sheet) : (modSheet s c slot f).residents = s.residents := by
  unfold modSheet
  split
  case h_1 h hs => exact residents_setSheet (by rw [hs]; rfl) _
  case h_2 => rfl

@[simp] theorem residents_abortHere (s : State) (i status : Nat) : (abortHere s i status).residents = s.residents := by simp [abortHere]
@[simp] theorem residents_abortG (s : State) (i status : Nat) : (abortG s i status).residents = s.residents := by simp [abortG]
@[simp] theorem residents_repause (s : State) (i : Nat) : (repause s i).residents = s.residents := by
  unfold repause
  dsimp only
  split <;> simp
@[simp] theorem residents_settle (s : State) (i : Nat) : (settle s i).residents = s.residents := by
  simp [settle, tellHome, tryComplete, finishPhase]
@[simp] theorem residents_departSlot (s : State) (c slot k : Nat) (m : Mask) (killed : Bool) :
    (departSlot s c slot k m killed).residents = s.residents := by
  unfold departSlot
  split
  case h_1 => rfl
  case h_2 h hs =>
    have hkeeps (h' : Sheet) : (setSheet s c slot h').residents = s.residents := residents_setSheet (by rw [hs]; rfl) h'
    dsimp only
    split <;> simp [reportCount, hkeeps]
@[simp] theorem residents_departAll (s : State) (c slot : Nat) (m : Mask) (killed : Bool) :
    (departAll s c slot m killed).residents = s.residents := by simp [departAll]

end Sys2Proof.Machine
end

section
/-!
PROOF. JOIN, YIELD, NOP and EXIT (11 R293 to R296, 06 R152, R153).
-/
namespace Sys2Proof.Machine

/-! ### A leaf that goes on -/

/-- `retireAt_stands` for a leaf that stands otherwise than it issued. -/
theorem standsAt_retireAt {s : State} {x : Iss} {m : Mask} {pc : DWord} (hs : StandsAt s x m pc) (h : Hdr) (ends : Bool) (pc' : DWord) :
    StandsAt (retireAt s x.core x.entry h ends pc') x m pc' := by
  obtain ⟨k, hk, -, hmask, hslot, hpriv, hhandler⟩ := hs
  rw [retireAt, hk]
  exact ⟨_, leafOf_setLeaf .., rfl, hmask, hslot, hpriv, hhandler⟩

/-- An instruction that ends the run leaves its leaf out of it. -/
theorem inRun_retireAt {s : State} {c e : Nat} {l k : Leaf} {h : Hdr} {pc : DWord} (hl : leafOf s c e = some l)
    (hk : leafOf (retireAt s c e h true pc) c e = some k) : k.inRun = false := by
  rw [retireAt, hl] at hk
  cases (leafOf_setLeaf ..).symm.trans hk
  rfl

theorem now_retireAt (s : State) (c e : Nat) (h : Hdr) (ends : Bool) (pc : DWord) : now (retireAt s c e h ends pc) c = now s c := by
  unfold retireAt
  split
  · rfl
  · simp [now]

/-- The lanes of an instruction that runs are lanes of its leaf. -/
theorem Runs.act_of_leaf {s : State} {x : Iss} {h : Hdr} {g : Sig} {act : Mask} (r : Runs s x h g act) : act &&& x.leaf.mask = act := by
  have hact : act = x.leaf.mask &&& guardMask s x h := by
    have hp := r.passes
    unfold vet at hp
    dsimp only at hp
    repeat' split at hp
    all_goals cases hp
    · exact absurd rfl r.some_lane
    · rfl
  rw [hact, BitVec.and_comm, ← BitVec.and_assoc, BitVec.and_self]

/-! ### JOIN -/

theorem join_runs {f : FmtB} {s : State} {x : Iss} {act : Mask} (r : Runs s x f.h (sigJoin f) act) :
    exec (.join f) s = .next (if x.leaf.pc < directTarget x.leaf.pc f then sheetTrap s x cIllegal 0
      else if directTarget x.leaf.pc f = x.leaf.pc then retireAt s x.core x.entry f.h true (nextPc x.leaf.pc)
      else if x.leaf.joined then
        retireAt (setLeaf s x.core x.entry { x.leaf with joined := false }) x.core x.entry f.h true (nextPc x.leaf.pc)
      else setLeaf s x.core x.entry { x.leaf with
        st := .joining (directTarget x.leaf.pc f), inRun := false, runLen := 0,
        nextIssue := max x.leaf.nextIssue (now s x.core + 1 + f.h.stall.toNat) }) := by
  have hrun := (show exec (.join f) s = execJoin f s from rfl).trans (issueOp_runs r _)
  rw [consumeSrc_of_no_source (by simp [sigJoin])] at hrun
  simpa only [r.some_lane, false_or] using hrun

theorem join_waits {f : FmtB} {s : State} {x : Iss} {act : Mask} (r : Runs s x f.h (sigJoin f) act)
    (hlow : (directTarget x.leaf.pc f).toNat < x.leaf.pc.toNat) (hjoined : x.leaf.joined = false) :
    ∃ t l, exec (.join f) s = .next t ∧ leafOf t x.core x.entry = some l ∧ l.st = .joining (directTarget x.leaf.pc f) ∧
      l.pc = x.leaf.pc ∧ l.mask = x.leaf.mask ∧ l.inRun = false := by
  have hne : directTarget x.leaf.pc f ≠ x.leaf.pc := fun h => absurd hlow (by rw [h]; exact Nat.lt_irrefl _)
  have hrun := join_runs r
  rw [if_neg (by rw [BitVec.lt_def]; omega), if_neg hne, hjoined, if_neg Bool.false_ne_true] at hrun
  exact ⟨_, _, hrun, leafOf_setLeaf .., rfl, rfl, rfl, rfl⟩

theorem join_goes_on {f : FmtB} {s : State} {x : Iss} {act : Mask} (r : Runs s x f.h (sigJoin f) act)
    (hlow : directTarget x.leaf.pc f = x.leaf.pc ∨ (directTarget x.leaf.pc f).toNat < x.leaf.pc.toNat ∧ x.leaf.joined = true) :
    ∃ t, exec (.join f) s = .next t ∧ GoneOn t x := by
  have hrun := join_runs r
  rcases hlow with hlow | ⟨hlow, hjoined⟩
  · rw [hlow, if_neg (BitVec.lt_irrefl _), if_pos rfl] at hrun
    exact ⟨_, hrun, retireAt_stands (issuer_some r.issues).1 ..⟩
  · have hne : directTarget x.leaf.pc f ≠ x.leaf.pc := fun h => absurd hlow (by rw [h]; exact Nat.lt_irrefl _)
    rw [if_neg (by rw [BitVec.lt_def]; omega), if_neg hne, if_pos hjoined] at hrun
    exact ⟨_, hrun, standsAt_retireAt ⟨{ x.leaf with joined := false }, leafOf_setLeaf .., rfl, rfl, rfl, rfl, rfl⟩ ..⟩

theorem join_above {f : FmtB} {s : State} {x : Iss} {act : Mask} (r : Runs s x f.h (sigJoin f) act)
    (hlow : x.leaf.pc.toNat < (directTarget x.leaf.pc f).toNat) : exec (.join f) s = .next (sheetTrap s x cIllegal 0) := by
  rw [join_runs r, if_pos (BitVec.lt_def.mpr hlow)]

/-! ### NOP and YIELD -/

theorem nop_goes_on {f : FmtR} {s : State} {x : Iss} {act : Mask} (r : Runs s x f.h (sigNop f) act) :
    ∃ t, exec (.nop f) s = .next t ∧ GoneOn t x :=
  ⟨_, (show exec (.nop f) s = execNop f s from rfl).trans (plainOp_runs r _), doneOp_gone ((leafOf_consumeSrc ..).trans (issuer_some r.issues).1) _⟩

theorem yield_runs {f : FmtR} {s : State} {x : Iss} {act : Mask} (r : Runs s x f.h (sigYield f) act) :
    exec (.yield f) s = .next (if x.leaf.priv && x.leaf.handler == cPreempt then
        blockLeaf (setCore s x.core (thaw (coreOf s x.core) (· == (x.sheet.ctx, x.sheet.launch, x.sheet.task)))) x.core x.entry .yielded
      else
        let s := retireAt s x.core x.entry f.h true (nextPc x.leaf.pc)
        match leafOf s x.core x.entry with
        | some l => setLeaf s x.core x.entry { l with age := now s x.core }
        | none => s) := by
  have hrun := (show exec (.yield f) s = execYield f s from rfl).trans (issueOp_runs r _)
  rwa [consumeSrc_of_no_source (by simp [sigYield, usesR])] at hrun

theorem yield_goes_on {f : FmtR} {s : State} {x : Iss} {act : Mask} (r : Runs s x f.h (sigYield f) act)
    (hpreempt : ¬ (x.leaf.priv = true ∧ x.leaf.handler = cPreempt)) :
    ∃ t l, exec (.yield f) s = .next t ∧ GoneOn t x ∧ leafOf t x.core x.entry = some l ∧ l.age = now s x.core ∧ l.inRun = false := by
  have hleaf := (issuer_some r.issues).1
  have hrun := yield_runs r
  obtain ⟨k, hk, hpc, hmask, hslot, hpriv, hhandler⟩ := retireAt_stands hleaf f.h true (nextPc x.leaf.pc)
  rw [if_neg (by simpa using hpreempt)] at hrun
  simp only [hk, now_retireAt] at hrun
  have hrun' : k.inRun = false := inRun_retireAt hleaf hk
  exact ⟨_, _, hrun, ⟨_, leafOf_setLeaf .., hpc, hmask, hslot, hpriv, hhandler⟩, leafOf_setLeaf .., rfl, hrun'⟩

theorem yield_blocks {f : FmtR} {s : State} {x : Iss} {act : Mask} (r : Runs s x f.h (sigYield f) act) (hpriv : x.leaf.priv = true)
    (hhandler : x.leaf.handler = cPreempt) :
    ∃ t l, exec (.yield f) s = .next t ∧ leafOf t x.core x.entry = some l ∧ l.st = .blocked .yielded ∧ l.pc = x.leaf.pc := by
  have hrun := yield_runs r
  rw [if_pos (by simp [hpriv, hhandler])] at hrun
  have hleaf : leafOf (setCore s x.core (thaw (coreOf s x.core) (· == (x.sheet.ctx, x.sheet.launch, x.sheet.task)))) x.core x.entry =
      some x.leaf := by
    rw [leafOf, coreOf_setCore]
    exact (issuer_some r.issues).1
  exact ⟨_, _, hrun, leafOf_blockLeaf hleaf _, rfl, rfl⟩

/-! ### EXIT -/

theorem sheetOf_moveEntry (s : State) (c a b i : Nat) : sheetOf (moveEntry s c a b) c i = sheetOf s c i := by
  unfold moveEntry
  dsimp only
  split
  · rfl
  · change tfind (coreOf (setCore s c _) c).sheets i = _
    rw [coreOf_setCore]
    rfl

/-- A leaf that moves to an entry takes no other. -/
theorem leafOf_moveEntry_none {s : State} {c e : Nat} (he : leafOf s c e = none) (a : Nat) {b : Nat} (hb : e ≠ b) :
    leafOf (moveEntry s c a b) c e = none := by
  unfold moveEntry
  dsimp only
  split
  · exact he
  · change tfind (coreOf (setCore s c _) c).leaves e = _
    rw [coreOf_setCore]
    dsimp only
    rw [tfind_tput_ne _ _ _ _ hb]
    by_cases ha : e = a
    · rw [ha, tfind_tdel_same]
    · rw [tfind_tdel_ne _ _ _ ha]
      exact he

theorem sheetOf_promote (s : State) (c slot i : Nat) : sheetOf (promote s c slot) c i = sheetOf s c i := by
  unfold promote
  dsimp only
  split
  · rfl
  · split
    · exact sheetOf_moveEntry ..
    · rfl

theorem leafOf_promote_none {s : State} {c e slot : Nat} (he : leafOf s c e = none) (hslot : e ≠ slot) :
    leafOf (promote s c slot) c e = none := by
  unfold promote
  dsimp only
  split
  · exact he
  · split
    · exact leafOf_moveEntry_none he _ hslot
    · exact he

theorem coreOf_wakeStalled (s : State) (c d : Nat) : coreOf (wakeStalled s c) d = coreOf s d := by
  unfold coreOf
  rw [cores_wakeStalled]

theorem sheetOf_freeLeaf (s : State) (c e i : Nat) : sheetOf (freeLeaf s c e) c i = sheetOf s c i := by
  unfold freeLeaf
  split
  · rfl
  · dsimp only
    rw [sheetOf, coreOf_wakeStalled]
    refine (sheetOf_promote ..).trans ?_
    rw [sheetOf, coreOf_setCore]
    rfl

theorem leafOf_freeLeaf {s : State} {c e : Nat} {l : Leaf} (hl : leafOf s c e = some l) (hslot : e ≠ l.slot) :
    leafOf (freeLeaf s c e) c e = none := by
  rw [freeLeaf, hl]
  dsimp only
  rw [leafOf, coreOf_wakeStalled]
  refine leafOf_promote_none ?_ hslot
  rw [leafOf, coreOf_setCore]
  exact tfind_tdel_same ..

/-- Lanes that leave: the sheet notes them gone, and the leaf keeps the others or ends. -/
theorem leaveLanes_spec {s : State} {c e : Nat} {l : Leaf} (hl : leafOf s c e = some l) (hs : (sheetOf s c l.slot).isSome = true) {m : Mask}
    (hm : m &&& l.mask = m) (killed : Bool) :
    ∃ u, (∃ h, sheetOf u c l.slot = some h ∧ ∀ j, m.has j = true → h.gone.has j = true) ∧
      leaveLanes s c e m killed = if l.mask &&& ~~~m = 0 then freeLeaf (setLeaf u c e { l with mask := 0 }) c e
        else setLeaf u c e { l with mask := l.mask &&& ~~~m } := by
  have hdepart : (departAll s c l.slot m killed).residents = s.residents := residents_departAll ..
  obtain ⟨h, hh⟩ := Option.isSome_iff_exists.mp ((sheetOf_isSome_of_residents hdepart c l.slot).trans hs)
  refine ⟨modSheet (departAll s c l.slot m killed) c l.slot fun h => { h with gone := h.gone ||| m }, ⟨{ h with gone := h.gone ||| m }, ?_, ?_⟩, ?_⟩
  · rw [sheetOf_modSheet_same, hh]
    rfl
  · intro j hj
    simp only [Mask.has] at hj ⊢
    rw [BitVec.getLsbD_or, hj, Bool.or_true]
  · have hleaf := (leafOf_of_residents ((residents_modSheet (departAll s c l.slot m killed) c l.slot fun h => { h with gone := h.gone ||| m }).trans
      hdepart) c e).trans hl
    simp only [leaveLanes, hl, hm, hleaf]

theorem exit_runs {f : FmtR} {s : State} {x : Iss} {act : Mask} (r : Runs s x f.h (sigExit f) act) :
    exec (.exitL f) s = .next (leaveLanes (retireAt s x.core x.entry f.h true (nextPc x.leaf.pc)) x.core x.entry act false) := by
  have hrun := (show exec (.exitL f) s = execExit f s from rfl).trans (issueOp_runs r _)
  rwa [consumeSrc_of_no_source (by simp [sigExit, usesR]), if_neg r.some_lane] at hrun

theorem sheetOf_retireAt (s : State) (c e : Nat) (h : Hdr) (ends : Bool) (pc : DWord) (i : Nat) :
    sheetOf (retireAt s c e h ends pc) c i = sheetOf s c i := by
  unfold retireAt
  split
  · rfl
  · exact sheetOf_setLeaf ..

/-- Lanes of a leaf that leave no other are all its lanes. -/
theorem eq_of_none_left {act m : Mask} (hact : act &&& m = act) (hnone : m &&& ~~~act = 0) : act = m := by
  refine BitVec.eq_of_getLsbD_eq fun i hi => ?_
  have h1 := congrArg (fun b : Mask => b.getLsbD i) hact
  have h2 := congrArg (fun b : Mask => b.getLsbD i) hnone
  simp only [BitVec.getLsbD_and, BitVec.getLsbD_not, hi, decide_true, Bool.true_and] at h1 h2
  cases ha : act.getLsbD i <;> cases hm : m.getLsbD i <;> simp_all

theorem exit_leaves {f : FmtR} {s : State} {x : Iss} {act : Mask} (r : Runs s x f.h (sigExit f) act) :
    ∃ t h, exec (.exitL f) s = .next t ∧ sheetOf t x.core x.leaf.slot = some h ∧
      (∀ l, act.has l = true → h.gone.has l = true) ∧
      (act ≠ x.leaf.mask → StandsAt t x (x.leaf.mask &&& ~~~act) (nextPc x.leaf.pc)) ∧
      (act = x.leaf.mask → x.entry ≠ x.leaf.slot → leafOf t x.core x.entry = none) := by
  obtain ⟨hleaf, hsheet⟩ := issuer_some r.issues
  obtain ⟨k, hk, hpc, hmask, hslot, hpriv, hhandler⟩ := retireAt_stands hleaf f.h true (nextPc x.leaf.pc)
  obtain ⟨u, ⟨h, hh, hgone⟩, hleave⟩ := leaveLanes_spec hk (by rw [hslot, sheetOf_retireAt, hsheet]; rfl)
    (by rw [hmask]; exact r.act_of_leaf) false
  have hexec := exit_runs r
  rw [hslot] at hh
  rw [hleave] at hexec
  rw [hmask] at hexec
  by_cases hall : act = x.leaf.mask
  · rw [if_pos (by rw [hall, BitVec.and_not_self])] at hexec
    refine ⟨_, h, hexec, ?_, hgone, fun hne => absurd hall hne, fun _ hentry => ?_⟩
    · rw [sheetOf_freeLeaf, sheetOf_setLeaf, hh]
    · exact leafOf_freeLeaf (leafOf_setLeaf ..) (by rwa [hslot])
  · rw [if_neg fun hnone => hall (eq_of_none_left r.act_of_leaf hnone)] at hexec
    refine ⟨_, h, hexec, ?_, hgone, fun _ => ?_, fun heq => absurd heq hall⟩
    · rw [sheetOf_setLeaf, hh]
    · exact ⟨_, leafOf_setLeaf .., hpc, rfl, hslot, hpriv, hhandler⟩

/-- Settles O18: each instruction by what it does to its leaf. -/
theorem leafControlResults : Obligations.LeafControlResults := by
  refine ⟨fun f s x act r => ?_, fun f s x act => ⟨nop_goes_on, yield_goes_on, yield_blocks, exit_leaves⟩⟩
  rw [← directTarget_eq]
  exact ⟨join_waits r, join_goes_on r, join_above r⟩

end Sys2Proof.Machine
end

section
/-!
SUPPORT. What conversions change besides their results: the generators of lanes (07 R172, R173) and the counted events (07 R184).
-/
namespace Sys2Proof.Machine

/-! ### Generators (07 R172, R173) -/

/-- The generators of the sheet of `x`. -/
def gens (s : State) (x : Iss) : Option (Tab Word) := (sheetOf s x.core x.leaf.slot).map (·.gen)

theorem gens_modSheet (s : State) (x : Iss) {f : Sheet → Sheet} (hf : ∀ h, (f h).gen = h.gen) :
    gens (modSheet s x.core x.leaf.slot f) x = gens s x := by
  unfold gens
  rw [sheetOf_modSheet_same, Option.map_map]
  exact congrArg (Option.map · _) (funext hf)

theorem gens_setCore (s : State) (x : Iss) {k : Core} (hk : k.sheets = (coreOf s x.core).sheets) : gens (setCore s x.core k) x = gens s x := by
  rw [gens, sheetOf, coreOf_setCore, hk]
  rfl

theorem gens_putElem (s : State) (x : Iss) (c : Nat) (m : Mask) (v : Nat → Nat) : gens (putElem s x c m v) x = gens s x := by
  unfold putElem
  split
  case h_1 => rfl
  case h_2 low _ =>
    by_cases hv : isV c = true
    · rw [if_pos hv, putPhys]
      split
      · exact gens_setCore s x rfl
      · split
        · rfl
        · exact gens_setCore s x rfl
    rw [if_neg hv]
    by_cases hs : isS c = true
    · rw [if_pos hs, putSReg]
      split
      · exact gens_setCore s x rfl
      · exact gens_modSheet s x fun _ => rfl
    rw [if_neg hs]
    by_cases hh : isH c = true
    · rw [if_pos hh]
      exact gens_modSheet s x fun _ => rfl
    rw [if_neg hh]
    dsimp only
    split
    · exact gens_modSheet s x fun _ => rfl
    · split
      · exact gens_modSheet s x fun _ => rfl
      · rfl

theorem gens_writeElem (s : State) (x : Iss) (c : Nat) (m : Mask) (lat : Nat) (v : Nat → Nat) : gens (writeElem s x c m lat v) x = gens s x := by
  unfold writeElem
  split
  · rfl
  · rw [gens_putElem]
    exact gens_modSheet s x fun _ => rfl

theorem gens_writeOpd (s : State) (x : Iss) (m : Mask) (c : Nat) (w64 sx : Bool) (lat : Nat) (v : Nat → Nat) :
    gens (writeOpd s x m c w64 sx lat v) x = gens s x := by
  unfold writeOpd
  dsimp only
  split
  · split
    · rw [gens_writeElem, gens_writeElem]
    · exact gens_writeElem ..
  · split
    · exact gens_writeElem ..
    · split
      · exact gens_writeElem ..
      · rfl

theorem gens_markRaise (s : State) (x : Iss) (m k : Mask) : gens (markRaise s x m k) x = gens s x := by
  unfold markRaise
  split
  · rfl
  · exact gens_modSheet s x fun _ => rfl

theorem gens_raiseFlags (s : State) (x : Iss) (m : Mask) (lat : Nat) (f : Nat → Flags) : gens (raiseFlags s x m lat f) x = gens s x := by
  unfold raiseFlags
  generalize List.range 5 = is
  induction is generalizing s with
  | nil => rfl
  | cons i is ih =>
    rw [List.foldl_cons, ih]
    dsimp only
    rw [gens_markRaise, gens_writeElem]

/-- Advancing some lanes of a list, each once. -/
theorem tget_foldl_advance (q : Nat → Bool) (l : Nat) : ∀ (ls : List Nat) (g : Tab Word), ls.Nodup →
    tget 0 (ls.foldl (fun g l => if q l then tset 0 g l (xorshift (tget 0 g l)) else g) g) l =
      if l ∈ ls ∧ q l = true then xorshift (tget 0 g l) else tget 0 g l := by
  intro ls
  induction ls with
  | nil => simp
  | cons a ls ih =>
    intro g hnodup
    obtain ⟨ha, hls⟩ := List.nodup_cons.mp hnodup
    rw [List.foldl_cons, ih _ hls]
    by_cases hla : l = a
    · subst hla
      cases hq : q l <;> simp [ha]
    · cases hq : q a <;> simp [hla, tget_tset]

/-- The generators after an advance of the lanes `q`. -/
theorem gens_advanceGen {s : State} {x : Iss} {h : Sheet} (hs : sheetOf s x.core x.leaf.slot = some h) (q : Nat → Bool) :
    ∃ g, gens (advanceGen s x.core x.leaf.slot q) x = some g ∧
      ∀ l, l < 32 → tget 0 g l = if q l then xorshift (tget 0 h.gen l) else tget 0 h.gen l := by
  refine ⟨lanes.foldl (fun g l => if q l then tset 0 g l (xorshift (tget 0 g l)) else g) h.gen, ?_, fun l hl => ?_⟩
  · rw [gens, advanceGen, sheetOf_modSheet_same, hs]
    rfl
  · refine (tget_foldl_advance q l lanes h.gen List.nodup_range).trans ?_
    simp only [mem_lanes, hl, true_and]

theorem regsOnly_advanceGen (s : State) (x : Iss) (q : Nat → Bool) : RegsOnly s (advanceGen s x.core x.leaf.slot q) x :=
  regsOnly_modSheet s x _ fun _ => rfl

theorem sameRegs_advanceGen {s : State} {x : Iss} {h : Sheet} (hs : sheetOf s x.core x.leaf.slot = some h) (q : Nat → Bool) :
    SameRegs s (advanceGen s x.core x.leaf.slot q) x := by
  refine ⟨fun c l => ?_⟩
  rw [advanceGen, modSheet, hs]
  exact rawElem_congr c l (by simp) (by simp) ⟨h, _, hs, sheetOf_setSheet .., rfl, rfl, rfl, rfl, rfl⟩

theorem writable_advanceGen (s : State) (x : Iss) (q : Nat → Bool) (m : Mask) (c : Nat) :
    Writable (advanceGen s x.core x.leaf.slot q) x m c ↔ Writable s x m c := by
  refine writable_congr ?_ m c
  unfold advanceGen modSheet
  split
  · simp
  · rfl

/-! ### Events -/

theorem cores_postRecord (s : State) (r : EventRec) : (postRecord s r).cores = s.cores := by
  have hsignal (t : State) (fn vec : Nat) : (signalVec t fn vec).cores = t.cores := by
    unfold signalVec
    dsimp only
    split
    · rfl
    · split <;> rfl
  have hstore (a : Nat) (bs : List Byte) : (storeMem s a bs).cores = s.cores := by rw [storeMem_rest]
  obtain h | ⟨v, h⟩ | ⟨a, bs, v, f, vec, h⟩ := postRecord_cases s r
  · rw [h]
  · rw [h]
    rfl
  · rw [h, hsignal]
    exact hstore ..

theorem cores_checkThreshold (s : State) (b i ctx launch : Nat) : (checkThreshold s b i ctx launch).cores = s.cores := by
  unfold checkThreshold
  dsimp only
  split
  · rw [cores_postRecord, setReg_cores]
  · rfl

theorem cores_countOne (ctx launch : Nat) (s : State) (i : Nat) : (countOne ctx launch s i).cores = s.cores :=
  (cores_checkThreshold ..).trans (setReg_cores ..)

theorem cores_countEvents (ctx launch : Nat) (es : List Event) (s : State) : (countEvents s ctx launch es).cores = s.cores := by
  unfold countEvents
  induction es generalizing s with
  | nil => rfl
  | cons e es ih => rw [List.foldl_cons, ih, cores_countOne]

theorem SameRegs.of_cores {s t : State} {x : Iss} (h : t.cores = s.cores) : SameRegs s t x := by
  constructor
  simp only [rawElem, physReg, sReg, sheetOf, coreOf, h, implies_true]

theorem leafOf_of_cores {s t : State} (h : t.cores = s.cores) (c e : Nat) : leafOf t c e = leafOf s c e := by
  simp only [leafOf, coreOf, h]

theorem sheetOf_of_cores {s t : State} (h : t.cores = s.cores) (c i : Nat) : sheetOf t c i = sheetOf s c i := by
  simp only [sheetOf, coreOf, h]

/-! ### Results and flags where the registers are the same -/

theorem SameRegs.holds {s t : State} {x : Iss} {act : Mask} {c : Nat} {w64 sx : Bool} {v : Nat → Nat} (h : SameRegs s t x)
    (hs : Holds s x act c w64 sx v) : Holds t x act c w64 sx v := by
  unfold Holds Holds64 Holds32 at *
  simpa only [h.rawElem_eq] using hs

theorem SameRegs.flagBit {s t : State} {x : Iss} (h : SameRegs s t x) (i l : Nat) : flagBit t x i l = flagBit s x i l := by
  unfold Machine.flagBit
  rw [h.rawElem_eq]

/-- A result is a matter of its values in the active lanes. -/
theorem Holds.congr {t : State} {x : Iss} {act : Mask} {c : Nat} {w64 sx : Bool} {v w : Nat → Nat} (hs : Holds t x act c w64 sx v)
    (hvw : ∀ l, act.has l = true → v l = w l) : Holds t x act c w64 sx w := by
  cases w64 with
  | false =>
    obtain ⟨h1, h2, h3⟩ := hs
    refine ⟨fun hv l hl => ?_, fun hs low hl => ?_, fun hh low hl => ?_⟩
    · rw [← hvw l hl, h1 hv l hl]
    · rw [← hvw low (lowLane_has hl), h2 hs low hl]
    · rw [← hvw low (lowLane_has hl), h3 hh low hl]
  | true =>
    obtain ⟨h1, h2, h3⟩ := hs
    refine ⟨fun hv l hl => ?_, fun hs low hl => ?_, fun hh low hl => ?_⟩
    · rw [← hvw l hl]
      exact h1 hv l hl
    · rw [← hvw low (lowLane_has hl), h2 hs low hl]
    · rw [← hvw low (lowLane_has hl), h3 hh low hl]

end Sys2Proof.Machine
end

section
/-!
PROOF. CVT (11 R276 to R278, 07 R172, R181, R182).
-/
namespace Sys2Proof.Machine

/-! ### The destination of CVT -/

theorem isE_of_legal_dst {h : Sheet} {b : Bool} {c : Nat} (hl : opdLegal h (.dst b) c = true) : isE c = false := by
  simp only [opdLegal, Bool.or_eq_true, Bool.and_eq_true, beq_iff_eq] at hl
  rcases hl with (⟨⟨h, -⟩, -⟩ | h) | h
  · exact isV_not_isE h
  · simp [isS, isE] at *; omega
  · rw [h]; decide

theorem cvt_legal_dst {f : FmtR} {dt : CvtTy} (hdt : cvtTy f.h.cls.toNat f.tw.toNat = some dt) {s : State} {x : Iss} {act : Mask}
    (r : Runs s x f.h (sigCvt f) act) : opdLegal x.sheet (.dst (cvtW dt = 64)) f.dst.toNat = true := by
  have hlegal : opdLegal x.sheet (if cvtW dt < 32 then .dstMerge else .dst (cvtW dt = 64)) f.dst.toNat = true :=
    r.legal.2 (f.dst, _) (by simp only [sigCvt, hdt, Option.getD_some]; exact List.mem_cons_self)
  split at hlegal
  case isTrue hlt =>
    have h64 : decide (cvtW dt = 64) = false := by simp; omega
    rw [h64]
    exact hlegal
  case isFalse => exact hlegal

/-! ### The end of an instruction that counts events -/

theorem sheetOf_consumeSrc (s : State) (x : Iss) (u : List (Opd × Role)) (act : Mask) (c i : Nat) :
    sheetOf (consumeSrc s x u act) c i = sheetOf s c i := by
  unfold sheetOf
  rw [core_sheets_consumeSrc]

theorem doneOp_countEvents {u : State} {x : Iss} (hleaf : leafOf u x.core x.entry = some x.leaf) (h : Hdr) (ctx launch : Nat) (es : List Event) :
    let t := doneOp (countEvents u ctx launch es) x h
    GoneOn t x ∧ SameRegs u t x ∧ gens t x = gens u x := by
  have hcores := cores_countEvents ctx launch es u
  refine ⟨doneOp_gone ((leafOf_of_cores hcores ..).trans hleaf) h, (SameRegs.of_cores hcores).trans (sameRegs_retireAt ..), ?_⟩
  unfold gens doneOp
  rw [sheetOf_retireAt, sheetOf_of_cores hcores]

/-! ### CVT without adaptive scale -/

theorem counted_gives {i : Instr} {h : Hdr} {g : Sig} {dst : Opd} {w64 sx : Bool} {lat : Nat} {q : State → Iss → Mask → Nat → Bool}
    {v : State → Iss → Mask → Nat → Nat} {fl : State → Iss → Mask → Nat → Flags} {es : State → Iss → Mask → List Event}
    (hexec : ∀ s, exec i s = plainOp s h g fun s x act => countEvents
      (raiseFlags (writeOpd (advanceGen s x.core x.leaf.slot (q s x act)) x act dst.toNat w64 sx lat (v s x act)) x act lat (fl s x act))
      x.sheet.ctx x.sheet.launch (es s x act))
    {s : State} {x : Iss} {act : Mask} (r : Runs s x h g act) (hlegal : opdLegal x.sheet (.dst w64) dst.toNat = true)
    (hw : WritableTo s x act dst.toNat w64) :
    let s0 := consumeSrc s x g.uses act
    ∃ t k, exec i s = .next t ∧ GoneOn t x ∧ sheetOf t x.core x.leaf.slot = some k ∧ Holds t x act dst.toNat w64 sx (v s0 x act) ∧
      FlagsRaised s t x act (fl s0 x act) ∧
      ∀ l, l < 32 → tget 0 k.gen l = if q s0 x act l then xorshift (tget 0 x.sheet.gen l) else tget 0 x.sheet.gen l := by
  intro s0
  have hsheet : sheetOf s0 x.core x.leaf.slot = some x.sheet := (sheetOf_consumeSrc ..).trans (issuer_some r.issues).2
  have hleaf : leafOf s0 x.core x.entry = some x.leaf := (leafOf_consumeSrc ..).trans (issuer_some r.issues).1
  have hpair : w64 = true → isV dst.toNat = true → isV (dst.toNat + 1) = true := fun h64 hv => pair_isV (h := x.sheet) (h64 ▸ hlegal) hv
  have hw0 : WritableTo (advanceGen s0 x.core x.leaf.slot (q s0 x act)) x act dst.toNat w64 := fun hv => by
    simp only [writable_advanceGen, s0, writable_consumeSrc]
    exact hw hv
  have hadvance := regsOnly_advanceGen s0 x (q s0 x act)
  obtain ⟨hregs, hholds, hflags⟩ := writeWithFlags_spec (rounds := True) (sx := sx) (lat := lat) (v s0 x act) (fl s0 x act) r.some_lane
    (hadvance.home r.home) hw0 (isE_of_legal_dst hlegal) hpair
  have hleaf' := ((hregs.leaf x.core x.entry).trans (hadvance.leaf ..)).trans hleaf
  rw [writeWithFlags, if_pos trivial] at hregs hholds hflags hleaf'
  obtain ⟨hgone, hsame, hgens⟩ := doneOp_countEvents hleaf' h x.sheet.ctx x.sheet.launch (es s0 x act)
  rw [gens_raiseFlags, gens_writeOpd] at hgens
  obtain ⟨gen, hgen, hadv⟩ := gens_advanceGen hsheet (q s0 x act)
  obtain ⟨k, hk, rfl⟩ := Option.map_eq_some_iff.mp (hgens.trans hgen)
  refine ⟨_, k, (hexec s).trans (plainOp_runs r _), hgone, hk, hsame.holds hholds, fun l hl i hi => ?_, hadv⟩
  rw [hsame.flagBit, hflags l hl i hi, (sameRegs_advanceGen hsheet _).flagBit, flagBit_consumeSrc]
  simp only [if_true]

/-- The signedness of a conversion's result. -/
def cvtSigned : CvtTy → Bool
  | .int _ g => g
  | _ => false

theorem cvt_gives {f : FmtR} {st dt : CvtTy} (hst : cvtTy (f.sty.toNat / 4) (f.sty.toNat % 4) = some st)
    (hdt : cvtTy f.h.cls.toNat f.tw.toNat = some dt) (hasc : f.asc = false) {s : State} {x : Iss} {act : Mask} (r : Runs s x f.h (sigCvt f) act)
    (hw : WritableTo s x act f.dst.toNat (cvtW dt = 64)) :
    let src (l : Nat) := elemAt st (f.sub.toNat / 8 % 8) (readOpd s x (cvtRd st) f.opa.toNat l)
    ∃ t k, exec (.cvt f) s = .next t ∧ GoneOn t x ∧ sheetOf t x.core x.leaf.slot = some k ∧
      Holds t x act f.dst.toNat (cvtW dt = 64) (cvtSigned dt)
        (fun l => cvtMerge dt (f.sub.toNat % 8) (readOpd s x .i32 f.dst.toNat l) (cvtLane s x f st dt l).code) ∧
      FlagsRaised s t x act (fun l => (cvtLane s x f st dt l).flags) ∧
      ∀ l, act.has l = true → tget 0 k.gen l =
        if f.sr && advances x.sheet.ftz st (src l) then xorshift (tget 0 x.sheet.gen l) else tget 0 x.sheet.gen l := by
  intro src
  have hexec (s : State) : exec (.cvt f) s = execCvt f s := rfl
  simp only [execCvt, hst, hdt, hasc, Option.getD_some, Bool.false_eq_true, if_false] at hexec
  obtain ⟨t, k, hrun, hgone, hk, hholds, hflags, hgen⟩ := counted_gives hexec r (cvt_legal_dst hdt r) hw
  have hlane (l : Nat) : cvtLane (consumeSrc s x (sigCvt f).uses act) x f st dt l = cvtLane s x f st dt l := by
    simp only [cvtLane, readOpd_consumeSrc, sheetOf_consumeSrc]
  have hlanes {l : Nat} (hl : act.has l = true) : ((lanes.map fun l => if act.has l then
      cvtLane (consumeSrc s x (sigCvt f).uses act) x f st dt l else { code := 0 })[l]?).getD { code := 0 } = cvtLane s x f st dt l := by
    rw [getD_map_lanes _ _ (has_lt hl), if_pos hl, hlane]
  refine ⟨t, k, hrun, hgone, hk, ?_, fun l hl i hi => ?_, fun l hl => ?_⟩
  · refine Holds.congr hholds fun l hl => ?_
    rw [hlanes hl, getD_map_lanes _ _ (has_lt hl), readOpd_consumeSrc]
  · rw [hflags l hl i hi]
    dsimp only
    rw [hlanes hl]
  · rw [hgen l (has_lt hl), getD_map_lanes _ _ (has_lt hl), readOpd_consumeSrc, hl, Bool.and_true]

/-! ### CVT with adaptive scale: the blocks (11 R278) -/

theorem has_quarterMask : ∀ q < 4, ∀ l < 32, (quarterMask q).has l = decide (l / 8 = q) := by decide

theorem has_quarter {act : Mask} {q l : Nat} (hq : q < 4) : (act &&& quarterMask q).has l = true ↔ act.has l = true ∧ l / 8 = q := by
  rw [Mask.has, BitVec.getLsbD_and, Bool.and_eq_true]
  refine and_congr_right fun hl => ?_
  rw [← Mask.has, has_quarterMask q hq l (has_lt hl), decide_eq_true_eq]

/-- The blocks of the quarters that have an active lane, as CVT makes them. -/
def cvtBlocks (s : State) (x : Iss) (f : FmtR) (st : CvtTy) (fm : Fmt) (act : Mask) : List (Mask × List (Nat × Out × Bool) × Nat × List Event) :=
  (((List.range 4).map fun q => act &&& quarterMask q).filter (· ≠ 0)).map fun q => (q, cvtBlock s x f st fm q)

section
variable {s : State} {x : Iss} {f : FmtR} {st : CvtTy} {fm : Fmt} {act : Mask}

theorem cvtBlock_lanes (q : Mask) : (cvtBlock s x f st fm q).1.map Prod.fst = laneList q := by
  unfold cvtBlock
  dsimp only
  split_ifs <;> simp [Function.comp_def]

theorem mem_cvtBlocks {b : Mask × List (Nat × Out × Bool) × Nat × List Event} (hb : b ∈ cvtBlocks s x f st fm act) :
    ∃ q < 4, b = (act &&& quarterMask q, cvtBlock s x f st fm (act &&& quarterMask q)) := by
  obtain ⟨m, hm, rfl⟩ := List.mem_map.mp hb
  obtain ⟨q, hq, rfl⟩ := List.mem_map.mp (List.mem_filter.mp hm).1
  exact ⟨q, List.mem_range.mp hq, rfl⟩

/-- The block of an active lane's quarter. -/
theorem quarter_mem_cvtBlocks {l : Nat} (hl : act.has l = true) :
    (act &&& quarterMask (l / 8), cvtBlock s x f st fm (act &&& quarterMask (l / 8))) ∈ cvtBlocks s x f st fm act := by
  have hq : l / 8 < 4 := by have := has_lt hl; omega
  have hne : act &&& quarterMask (l / 8) ≠ 0 := fun h => (mask_eq_zero_iff _).mp h l ((has_quarter hq).mpr ⟨hl, rfl⟩)
  exact List.mem_map_of_mem (List.mem_filter.mpr ⟨List.mem_map_of_mem (List.mem_range.mpr hq), by simpa using hne⟩)

theorem find_cvtBlocks {l : Nat} (hl : act.has l = true) : (cvtBlocks s x f st fm act).find? (fun b => b.1.has l) =
    some (act &&& quarterMask (l / 8), cvtBlock s x f st fm (act &&& quarterMask (l / 8))) := by
  have hq : l / 8 < 4 := by have := has_lt hl; omega
  obtain ⟨b, hb⟩ : ∃ b, (cvtBlocks s x f st fm act).find? (fun b => b.1.has l) = some b :=
    Option.isSome_iff_exists.mp (List.find?_isSome.mpr ⟨_, quarter_mem_cvtBlocks hl, (has_quarter hq).mpr ⟨hl, rfl⟩⟩)
  obtain ⟨q, hq, rfl⟩ := mem_cvtBlocks (List.mem_of_find?_eq_some hb)
  have hhas := List.find?_some hb
  obtain ⟨-, rfl⟩ := (has_quarter hq).mp hhas
  exact hb

/-- The outcome that CVT finds for an active lane is one that the block of its quarter gives. -/
theorem find_cvtBlocks_outcome {l : Nat} (hl : act.has l = true) :
    ∃ o adv, (((cvtBlocks s x f st fm act).map fun b => b.2.1).flatten).find? (fun o => o.1 = l) = some (l, o, adv) ∧
      (l, o, adv) ∈ (cvtBlock s x f st fm (act &&& quarterMask (l / 8))).1 := by
  have hlane (q : Mask) (j : Nat) : (∃ e ∈ (cvtBlock s x f st fm q).1, e.1 = j) ↔ q.has j = true := by
    rw [← List.mem_map (f := Prod.fst), cvtBlock_lanes, mem_laneList]
    exact and_iff_right_of_imp has_lt
  have hq : l / 8 < 4 := by have := has_lt hl; omega
  obtain ⟨e, he, hel⟩ := (hlane _ l).mpr ((has_quarter hq).mpr ⟨hl, rfl⟩)
  have hmem : e ∈ ((cvtBlocks s x f st fm act).map fun b => b.2.1).flatten :=
    List.mem_flatten_of_mem (List.mem_map_of_mem (quarter_mem_cvtBlocks hl)) he
  obtain ⟨⟨j, o, adv⟩, hfind⟩ : ∃ e, (((cvtBlocks s x f st fm act).map fun b => b.2.1).flatten).find? (fun o => o.1 = l) = some e :=
    Option.isSome_iff_exists.mp (List.find?_isSome.mpr ⟨e, hmem, decide_eq_true hel⟩)
  obtain rfl : j = l := of_decide_eq_true (List.find?_some (p := fun o : Nat × Out × Bool => decide (o.1 = l)) hfind)
  refine ⟨o, adv, hfind, ?_⟩
  obtain ⟨es, hes, hin⟩ := List.mem_flatten.mp (List.mem_of_find?_eq_some hfind)
  obtain ⟨b, hb, rfl⟩ := List.mem_map.mp hes
  obtain ⟨q, hq, rfl⟩ := mem_cvtBlocks hb
  obtain ⟨-, rfl⟩ := (has_quarter hq).mp ((hlane _ j).mp ⟨_, hin, rfl⟩)
  exact hin

end

theorem cvtBlock_consumeSrc (s : State) (x : Iss) (u : List (Opd × Role)) (act : Mask) (f : FmtR) (st : CvtTy) (fm : Fmt) (q : Mask) :
    cvtBlock (consumeSrc s x u act) x f st fm q = cvtBlock s x f st fm q := by
  simp only [cvtBlock, readOpd_consumeSrc, sheetOf_consumeSrc]

/-! ### CVT with adaptive scale: the results -/

theorem writable_writeOpd32 {s : State} {x : Iss} {m : Mask} {c : Nat} {sx : Bool} {lat : Nat} {v : Nat → Nat} {d : Nat} (hw : Writable s x m d) :
    Writable (writeOpd s x m c false sx lat v) x m d := by
  unfold writeOpd
  simp only [Bool.false_eq_true, if_false]
  split
  · exact writable_writeElem _ _ _ _ _ _ _ hw
  · split
    · exact writable_writeElem _ _ _ _ _ _ _ hw
    · split
      · exact writable_writeElem _ _ _ _ _ _ _ hw
      · exact hw

/-- Two results of 32 bits, one after the other. -/
theorem writeTwo_spec {s : State} {x : Iss} {act : Mask} {c d : Nat} {sx sx' : Bool} {lat : Nat} (v w : Nat → Nat) (hany : act ≠ 0)
    (hhome : Home s x) (hc : WritableTo s x act c false) (hd : WritableTo s x act d false) :
    let t := writeOpd (writeOpd s x act c false sx lat v) x act d false sx' lat w
    RegsOnly s t x ∧ (c ≠ d → Holds32 t x act c sx v) ∧ Holds32 t x act d sx' w := by
  intro t
  have hregs := regsOnly_writeOpd s x act c false sx lat v
  have hfirst := holds_writeOpd32 s x act c sx lat v hany hhome fun hv => (hc hv).1
  have hd' : isV d = true → Writable (writeOpd s x act c false sx lat v) x act d := fun hv => writable_writeOpd32 (hd hv).1
  refine ⟨hregs.trans (regsOnly_writeOpd ..), fun hne => ?_, holds_writeOpd32 _ x act d sx' lat w hany (hregs.home hhome) hd'⟩
  have hkept {l : Nat} (hl : l < 32) : rawElem t x c l = rawElem (writeOpd s x act c false sx lat v) x c l :=
    rawElem_writeOpd_other _ x act d false sx' lat w hany (hregs.home hhome) (fun hv => ⟨hd' hv, fun h => absurd h Bool.false_ne_true⟩) c l
      (by simp [resultCodes, hne]) hl
  obtain ⟨h1, h2, h3⟩ := hfirst
  exact ⟨fun hv l hl => (hkept (has_lt hl)).trans (h1 hv l hl), fun hs low hl => (hkept (by decide)).trans (h2 hs low hl),
    fun hh low hl => (hkept (by decide)).trans (h3 hh low hl)⟩

theorem countedTwo_gives {i : Instr} {h : Hdr} {g : Sig} {dst dst2 : Opd} {sx sx' : Bool} {lat : Nat} {q : State → Iss → Mask → Nat → Bool}
    {v w : State → Iss → Mask → Nat → Nat} {fl : State → Iss → Mask → Nat → Flags} {es : State → Iss → Mask → List Event}
    (hexec : ∀ s, exec i s = plainOp s h g fun s x act => countEvents
      (raiseFlags (writeOpd (writeOpd (advanceGen s x.core x.leaf.slot (q s x act)) x act dst.toNat false sx lat (v s x act)) x act dst2.toNat
        false sx' lat (w s x act)) x act lat (fl s x act)) x.sheet.ctx x.sheet.launch (es s x act))
    {s : State} {x : Iss} {act : Mask} (r : Runs s x h g act)
    (hw : WritableTo s x act dst.toNat false) (hw2 : WritableTo s x act dst2.toNat false) :
    let s0 := consumeSrc s x g.uses act
    ∃ t, exec i s = .next t ∧ GoneOn t x ∧ (dst ≠ dst2 → Holds t x act dst.toNat false sx (v s0 x act)) ∧
      Holds t x act dst2.toNat false sx' (w s0 x act) := by
  intro s0
  have hleaf : leafOf s0 x.core x.entry = some x.leaf := (leafOf_consumeSrc ..).trans (issuer_some r.issues).1
  have hadvance := regsOnly_advanceGen s0 x (q s0 x act)
  have hw0 {c : Nat} (hc : WritableTo s x act c false) : WritableTo (advanceGen s0 x.core x.leaf.slot (q s0 x act)) x act c false := fun hv => by
    simp only [writable_advanceGen, s0, writable_consumeSrc]
    exact hc hv
  obtain ⟨hregs, hfirst, hsecond⟩ := writeTwo_spec (sx := sx) (sx' := sx') (lat := lat) (v s0 x act) (w s0 x act) r.some_lane
    (hadvance.home r.home) (hw0 hw) (hw0 hw2)
  obtain ⟨hregs', hkept, -⟩ := raiseFlags_spec _ x act lat (fl s0 x act) r.some_lane (hregs.home (hadvance.home r.home))
  obtain ⟨hgone, hsame, -⟩ := doneOp_countEvents (((hregs'.leaf _ _).trans (hregs.leaf _ _)).trans ((hadvance.leaf ..).trans hleaf)) h
    x.sheet.ctx x.sheet.launch (es s0 x act)
  have hnarrow : (false = true) → ∀ {c : Nat}, isV c = true → isV (c + 1) = true := fun h => absurd h Bool.false_ne_true
  refine ⟨_, (hexec s).trans (plainOp_runs r _), hgone, fun hne => hsame.holds (holds_noE hkept (fun h => hnarrow h) ?_),
    hsame.holds (holds_noE hkept (fun h => hnarrow h) hsecond)⟩
  exact hfirst fun heq => hne (BitVec.eq_of_toNat_eq heq)

theorem cvtAsc_gives {f : FmtR} {st : CvtTy} {fm : Fmt} (hst : cvtTy (f.sty.toNat / 4) (f.sty.toNat % 4) = some st)
    (hdt : cvtTy f.h.cls.toNat f.tw.toNat = some (.flt fm)) (hasc : f.asc = true) {s : State} {x : Iss} {act : Mask}
    (r : Runs s x f.h (sigCvt f) act) (hw : WritableTo s x act f.dst.toNat false) (hw2 : WritableTo s x act f.dst2.toNat false) :
    let block (q : Nat) := cvtBlock s x f st fm (act &&& quarterMask q)
    let first (l : Nat) := (lowLane (act &&& quarterMask (l / 8))).getD l
    ∃ t v w, exec (.cvt f) s = .next t ∧ GoneOn t x ∧ (f.dst ≠ f.dst2 → Holds32 t x act f.dst.toNat false v) ∧
      Holds32 t x act f.dst2.toNat false w ∧
      ∀ l, act.has l = true → w l = (block (l / 8)).2.1 ∧
        ∃ o adv, (l, o, adv) ∈ (block (l / 8)).1 ∧
          v l = cvtMerge (.flt fm) (f.sub.toNat % 8) (readOpd s x .i32 f.dst.toNat (first l)) o.code := by
  intro block first
  have hexec (s : State) : exec (.cvt f) s = execCvt f s := rfl
  simp only [execCvt, hst, hdt, hasc, Option.getD_some, if_true] at hexec
  obtain ⟨t, hrun, hgone, hfirst, hsecond⟩ := countedTwo_gives hexec r hw hw2
  refine ⟨t, _, _, hrun, hgone, hfirst, hsecond, fun l hl => ?_⟩
  have hblocks : cvtBlocks (consumeSrc s x (sigCvt f).uses act) x f st fm act = cvtBlocks s x f st fm act := by
    simp only [cvtBlocks, cvtBlock_consumeSrc]
  obtain ⟨o, adv, hfind, hin⟩ := find_cvtBlocks_outcome (s := s) (x := x) (f := f) (st := st) (fm := fm) hl
  have hsig := find_cvtBlocks (s := s) (x := x) (f := f) (st := st) (fm := fm) hl
  rw [← hblocks] at hfind hsig
  refine ⟨congrArg (fun b => (b.map fun b => b.2.2.1).getD 0) hsig, o, adv, hin, ?_⟩
  rw [getD_map_lanes _ _ (has_lt hl), readOpd_consumeSrc]
  exact congrArg (fun e : Option (Nat × Out × Bool) => cvtMerge (.flt fm) (f.sub.toNat % 8) (readOpd s x .i32 f.dst.toNat (first l))
    ((e.map fun e : Nat × Out × Bool => e.2.1).getD ({ code := 0 } : Out)).code) hfind

/-- Settles O12: without adaptive scale lane by lane, with it by the blocks of the quarters. -/
theorem conversionResults : Obligations.ConversionResults := by
  refine ⟨fun f st dt hst hdt hasc s x act r hw => ?_, fun f st fm hst hdt hasc s x act r hw hw2 => cvtAsc_gives hst hdt hasc r hw hw2⟩
  have hlane (l : Nat) : cvtLane s x f st dt l = convElem x.sheet.ftz st dt
      (if f.sr then .sr (xorshift (tget 0 x.sheet.gen l)).toNat else rmode f.rnd) f.sat
      (elemAt st (f.sub.toNat / 8 % 8) (readOpd s x (cvtRd st) f.opa.toNat l)) := by
    rw [cvtLane, (issuer_some r.issues).2]
    rfl
  simp only [← hlane]
  exact cvt_gives hst hdt hasc r hw

end Sys2Proof.Machine
end
